-- ==== Sys2Proof/Word.lean ====
section
/-! DEFINITION. The word types of the model: bytes, 32-bit register words, and sparse tables kept as sorted lists.
Bytes and register words are bit vectors because the manual numbers their bits (R7, R407); counts, indices and
decoded fields are natural numbers, and grid values are integers. -/

namespace Sys2Proof

/-- One byte of memory (R7). -/
abbrev Byte := BitVec 8

/-- One aligned 32-bit word of a register access (R407). -/
abbrev Word := BitVec 32

/-- A sparse table: (key, value) pairs in ascending key order; a key that is not listed has the table's default. -/
abbrev SMap (α : Type) := List (Nat × α)

end Sys2Proof
end

