-- ==== Sys2Proof/Syntax.lean ====
section
/-! DEFINITION. The commands of the T7: one constructor of Instr per row of spec/opcode_table.json, with the operands
that the row's rule gives it. A register write carries its requester and the written word; a macro-operation carries its
array (its descriptor is read from the array's schedule, R148, R149); a physical event carries the event's own data. -/

namespace Sys2Proof

/-- The ten requesters of R356 and R407: the physical function, the steward, and virtual function v. -/
inductive View where
  | pf
  | steward
  | vf (v : Nat)
deriving DecidableEq, Repr

/-- Physical happenings during one macro-operation: residue mismatches met at each output tile's compare, as
(tile, number of mismatches) pairs (R84, R86), an uncorrectable word read at a tile, as (tile, word) (R252), and the number
of words corrected in the access (R249). slice names the cistern slice whose words those are, where they are not the array's own;
a word of a slice is counted from the slice's start (R211). -/
structure MopEnv where
  mism : List (Nat × Nat)
  ue : Option (Nat × Nat)
  corr : Nat
  slice : Option Nat := none
deriving DecidableEq, Repr

/-- What the crossbar or the well answers for one 64-byte line of a DMA transfer (R194, R249, R252). -/
inductive LineEvent where
  | corrected        -- single-symbol error corrected in the access (R249)
  | retried (n : Nat) -- link-ECC detections: after at most 2 the read succeeds, and a third one loses the line (R241, R242)
  | lost             -- failed symbol correction, or an SRAM word with more wrong bits (R252)
  | tagFailed        -- the line's tag fails (R347)
deriving DecidableEq, Repr

/-- The error found in a packet header by its ECC (R255). -/
inductive HdrErr where
  | clean
  | corrected
  | uncorrectable
deriving DecidableEq, Repr

/-- A CSI-2 long packet (R254, R256). -/
structure LongPkt where
  port : Nat
  vc : Nat
  dt : Nat
  hdr : HdrErr
  crcOk : Bool
  payload : List Byte
deriving DecidableEq, Repr

/-- The outcome of the lockstep compare of a closed block (R250): the two copies agree, or one of them loses. -/
inductive CopyResult where
  | agree
  | copy0Loses
  | copy1Loses
deriving DecidableEq, Repr

/-- A physical defect met by self-test: Table 14.3's UNIT, INSTANCE, KIND and DATA, and whether a retrain passes (R366). -/
structure Defect where
  unit : Nat
  inst : Nat
  kind : Nat
  data : Nat
  retrainPasses : Bool
deriving DecidableEq, Repr

/-- What the power-up sequence meets: defects in the order found, the fuse-sense outcome of step 1, installed LPDDR
capacity in GiB, and the time from PORST_N rising to the verdict in microseconds (R362, R374, Table 14.4). -/
structure SelfTest where
  fuseOk : Bool
  defects : List Defect
  installedGib : Nat
  bootUs : Nat
deriving DecidableEq, Repr

/-- An inbound TLP as R342 and R221 see it: the function it concerns (0 physical function, v + 1 for VF v), the IDE stream
it travelled on, if any, whether it is a request, and its payload bytes. -/
structure Tlp where
  fn : Nat
  stream : Option Nat
  request : Bool
  payload : Nat
deriving DecidableEq, Repr

/-- The vendor-defined IDE_KM messages (R342): program a stream's keys, with the functions that the stream's RID association
ranges name at that moment, or refresh keys by K_SET_GO. Stream 0 is the link stream, 1 to 4 the selective streams. -/
inductive IdeKm where
  | keyProg (stream : Nat) (key : Nat) (rids : List Nat)
  | kSetGo (stream : Nat)
deriving DecidableEq, Repr

/-- A flash command of the XSPI page (R382): program bytes or erase a range; unlock says that it carries the unlock sequence. -/
inductive XspiOp where
  | program (addr : Nat) (data : List Byte) (unlock : Bool)
  | erase (addr len : Nat) (unlock : Bool)
deriving DecidableEq, Repr

/-- A UART frame as received (R384). -/
inductive UartFrame where
  | char (c : Nat)
  | framingError
  | brk
deriving DecidableEq, Repr

/-- One ADC current frame of the gauge (R391 to R393): the sampled code, or a frame lost to its CRC. -/
inductive CurrentFrame where
  | code (c : Int)
  | lost
deriving DecidableEq, Repr

/-- The rails the board restores (R418). -/
inductive Rail where
  | vddMa
  | lpddr
deriving DecidableEq, Repr

/-- The JTAG instructions of R357 and R384. -/
inductive Jtag where
  | bypass
  | idcode
  | extest
  | stewardDm
  | aon
  | busRead (addr : Nat)
  | busWrite (addr : Nat) (data : Byte)
deriving DecidableEq, Repr

/-- The commands: one constructor per row of spec/opcode_table.json, in the table's order. -/
inductive Instr where
  | matmul (a : Nat) (env : MopEnv)
  | conv (a : Nat) (env : MopEnv)
  | pool (a : Nat) (env : MopEnv)
  | eltwise (a : Nat) (env : MopEnv)
  | moveConvert (a : Nat) (env : MopEnv)
  | pair (a : Nat) (env : MopEnv)
  | pairBwd (a : Nat) (env : MopEnv)
  | expand (a : Nat) (env : MopEnv)
  | decode (a : Nat) (env : MopEnv)
  | recur (a : Nat) (env : MopEnv)
  | tallySignalOp (a : Nat)
  | tallyWaitOp (a : Nat)
  | lift (a : Nat)
  | sealOp (a : Nat)
  | doze (a : Nat)
  | weightRefetch (a : Nat) (repaired : Bool)
  | macroOpComplete (a : Nat)
  | gangBarrierStart (leader : Nat)
  | cmplRd (v : View) (a : Nat) (w : Word)
  | arbiterChoice (a : Nat)
  | epochBoundary
  | weirWindowStart
  | tallySignal (idx : Nat) (incs : List Nat)
  | sigInc (v : View) (w : Word)
  | initThresh (v : View) (w : Word)
  | tallyAllocate (v : View) (w : Word)
  | tallyFree (v : View) (w : Word)
  | load (part : Nat) (image : List Byte)
  | ottAlloc (v : View) (w : Word)
  | ottRelease (v : View) (w : Word)
  | ottReleaseResume
  | ottSet (v : View) (w : Word)
  | ottMove (v : View) (w : Word)
  | pageMoveComplete (page : Nat)
  | frameZeroing (frame : Nat)
  | dmaCopy (a ctx : Nat) (ev : List (Nat × LineEvent))
  | dmaFill (a ctx : Nat) (ev : List (Nat × LineEvent))
  | dmaComplete (a ctx : Nat)
  | t1Quota (v : View) (w : Word)
  | partEnable (v : View) (w : Word)
  | partDisable (v : View) (w : Word)
  | partitionTeardown (p : Nat)
  | vfFlr (p : Nat)
  | assignRelease (v : View) (w : Word)
  | assignOwn (v : View) (w : Word)
  | shareAdd (v : View) (w : Word)
  | shareRemove (v : View) (w : Word)
  | ownerProg (v : View) (w : Word)
  | lcAdvance (v : View) (w : Word)
  | rollbackAdv (v : View) (w : Word)
  | dbgChallenge (v : View) (w : Word)
  | dbgResponse (v : View) (w : Word)
  | wellRekey (v : View) (w : Word)
  | getVersion
  | getCapabilities
  | negotiateAlgorithms
  | getDigests
  | getCertificate (slot offset len : Nat)
  | challenge (slot : Nat) (nonce : List Byte)
  | getMeasurements (index : Nat) (sign : Bool) (nonce : List Byte)
  | keyExchange (pub : List Byte)
  | finish (mac : List Byte)
  | heartbeat
  | keyUpdate
  | endSession
  | ideKm (m : IdeKm)
  | ideIntegrityFailure (stream : Nat)
  | tlpReceived (t : Tlp)
  | trngDataRead (v : View)
  | trngSeeded
  | healthFail
  | drbgReseed
  | pwrReq (v : View) (addr : Nat) (w : Word)
  | domainEntry (d : Nat)
  | domainWake (d : Nat)
  | domainReady (d : Nat)
  | seqGo (v : View) (w : Word)
  | seqTimeout
  | liftRaise
  | liftProceed (i : Nat)
  | pcmSample (bits : List (List Bool))
  | blockClose (r : CopyResult)
  | vadStart
  | vadEnd
  | glass
  | alarmT3
  | alarmCont
  | audioStreamStart (v : View) (st : Nat) (w : Word)
  | audioStreamStop (v : View) (st : Nat) (w : Word)
  | audioBlockDelivery (st : Nat)
  | hqStart (v : View) (w : Word)
  | hqStop (v : View) (w : Word)
  | calLoad (v : View) (w : Word)
  | channelUnderrun (c : Nat)
  | channelResume (c : Nat)
  | muteAssert
  | muteRelease
  | aoutEnable (v : View) (port : Nat) (w : Word)
  | aoutFrame (port : Nat)
  | aoutPeriodSignal (port : Nat)
  | frameStart (port vc : Nat) (hdr : HdrErr)
  | frameEnd (port vc : Nat) (hdr : HdrErr)
  | longPacket (p : LongPkt)
  | lineShortPacket (port vc : Nat) (hdr : HdrErr)
  | deskewReceived (port : Nat)
  | shadowCommit (v : View) (c : Nat) (w : Word)
  | cisRes (v : View) (p : Nat) (w : Word)
  | workItem (p : Nat)
  | deadlineSkip (c : Nat)
  | groupAbsent (g c : Nat)
  | hostDmaTail (v : View) (w : Word)
  | hostDmaDescriptor (fn : Nat) (desc : List Byte) (data : List Byte) (hostErr : Bool)
  | perstNRise
  | perstNFall
  | hostD3cold
  | pcieLinkRecovery
  | msixUnmask (fn k : Nat)
  | xspiCommand (op : XspiOp)
  | i3cIbi (target : Nat) (payload : List Byte)
  | i3cHotJoin (target : Nat)
  | i3cPrivateRead (n : Nat)
  | uartReceive (f : UartFrame)
  | uartQuery
  | aspWord (d : BitVec 64)
  | drainGo (v : View) (w : Word)
  | aspDrainEnd
  | gaugeCurrentSample (f : CurrentFrame)
  | gaugeVoltageSample (mv ntc : Nat) (ntcFault : Bool)
  | gaugeRangeChange
  | gaugeEmptySet
  | gaugeEmptyClear
  | gaugeReanchor
  | qLoad (v : View) (w : Word)
  | panelGo (v : View) (w : Word)
  | panelPumpsReady
  | panelPhaseEnd
  | hvSupplyFail (mv : Nat)
  | porstNRise (t : SelfTest)
  | porstNFall
  | aonPowerOnReset
  | selfTestVerdict
  | restart (v : View) (w : Word)
  | thermalTrip (sensor : Nat) (tq : Int)
  | thermalTripRelease (tq : List Int)
  | throttleStepDown (a : Nat) (stallAc : Nat)
  | throttleStepUp (a : Nat) (stallAc : Nat)
  | headroomLow (a mv : Nat) (stallAc : Nat)
  | vddMaCollapse (mv : Nat)
  | oppReq (v : View) (a : Nat) (w : Word)
  | oppSettled (a : Nat)
  | rtcFallback
  | retrain (v : View) (w : Word) (ok : Nat)
  | ackN (v : View) (w : Word)
  | run (v : View) (addr : Nat) (w : Word)
  | stopReq (v : View) (addr : Nat) (w : Word)
  | pageStopped (addr ctx : Nat)
  | cfgOpen (v : View) (addr : Nat) (w : Word)
  | errClr (v : View) (addr : Nat) (w : Word)
  | irqClr (v : View) (addr : Nat) (w : Word)
  | irqForce (v : View) (addr : Nat) (w : Word)
  | irqMask (v : View) (addr : Nat) (w : Word)
  | cntClr (v : View) (addr : Nat) (w : Word)
  | resClr (v : View) (a : Nat) (w : Word)
  | seqClr (v : View) (a : Nat) (w : Word)
  | latchedRead (v : View) (addr : Nat)
  | registerWrite (v : View) (addr size : Nat) (w : Word)
  | telemWindowEnd (meanMw : Nat)
  | pcieTlpReplay
  | pcieLinkUp
  | completionTimeout (fn : Nat)
  | imageUnload (part : Nat) (imageId : Nat)
  | supplyRailRestored (r : Rail) (mv : Nat)
  | lpddrHot (ch : Nat) (hot : Bool)
  | jtagAccess (j : Jtag)
deriving DecidableEq, Repr

end Sys2Proof
end

