-- ==== Sys2Proof/Decode.lean ====
section
/-! DEFINITION. Decoding of table words. spec/opcode_table.json gives none of its rows any bits: the T7 takes commands from
outside (register writes, macro-operations of a schedule, events), and none is spelled by a word of its own. So no word
decodes to a command (log 6). The descriptors that schedules hold in memory are decoded where they are read. -/

namespace Sys2Proof

/-- The command that a word spells by the table's bits: none, since no row gives bits. -/
def decodeTableWord (_nbits _w : Nat) : Option Instr := none

end Sys2Proof
end

