-- ==== Sys2Proof/Config.lean ====
section
/-! DEFINITION. What an implementation fixes or the manual leaves open: free values and uninterpreted functions. None of
them has a body, so no proof can see a value; a claim about one holds whatever it is. The log entry of each is named. -/

namespace Sys2Proof

/-- A fresh free value: State.free counts them (log 2). -/
opaque Config.freeNat : Nat → Nat

/-- A fresh free byte string of the given length (log 2). -/
opaque Config.freeBytes : Nat → Nat → List Byte

/-- Fused voltage in mV of array island a at operating point i, bounded by R417's line where it is used (log 16). -/
opaque Config.fuseMv : Nat → Nat → Nat

/-- ECDSA P-384 verification (FIPS 186-5): public point, SHA-384 digest, signature r and s (log 22). -/
opaque Config.ecdsaOk : List Byte → List Byte → List Byte → Bool

/-- The Grenari public key, and the hash of the Grenari debug key, as the boot ROM holds them (log 22). -/
opaque Config.grenariPub : List Byte
opaque Config.grenariDebugHash : List Byte

/-- The Grenari firmware key hash in the boot ROM, the SHA-256 of the boot ROM, and the public key that the leaf of a certificate chain
holds (log 22). -/
opaque Config.grenariFwHash : List Byte
opaque Config.bootRomDigest : List Byte
opaque Config.leafKey : List Byte → List Byte

/-- How the failure record's STEP and CAUSE spell step 5a (0) to 5f (5), which the spec does not say (log 33). -/
opaque Config.stepCode : Nat → Nat

/-- Whether a FINISH message's HMAC verifies in the session of the given key generation (log 22). -/
opaque Config.finishOk : Nat → List Byte → Bool

/-- The content key of R340: ECDH with the ephemeral point, HKDF-SHA-384 with salt and info, AES key unwrap of the wrapped key; none
where the integrity check fails (log 22). -/
opaque Config.unwrapKey : Nat → List Byte → List Byte → List Byte → List Byte → Option Nat

/-- AES-256-GCM decryption: key, IV, ciphertext with its tag; none where the tag fails (log 22). -/
opaque Config.gcmOpen : Nat → List Byte → List Byte → Option (List Byte)

/-- Output of the DRBG as a number of 384 bits, from its state (log 22). -/
opaque Config.drbgOut : Nat → Nat

/-- Next state of the DRBG (log 22). -/
opaque Config.drbgNext : Nat → Nat

/-- A PREFETCH section, whose layout the spec does not give: for each list its logical array, LOOP_START, REPEAT and its 32-byte
descriptors (log 23). -/
opaque Config.prefetch : List Byte → List (Nat × Nat × Nat × List (List Byte))

/-- The resident tables of a POSTTAB section, whose layout the spec does not give: logical array, table, X0, step, entries (log 23). -/
opaque Config.postTables : List Byte → List (Nat × Nat × Int × Nat × List Int)

/-- A CSUM array: its parameter tensor, its weight tensor, whether that is read transposed, entries of BIAS and of ZW, and B_K (R92); and how a
gang divides its columns: the columns of a block, and for a CONV the channels of a group and the groups packed into a block (R114, R430). -/
structure Config.CsumItem where
  param : Nat
  weight : Nat
  trans : Bool
  nb : Nat
  nz : Nat
  bk : Nat
  lim : Nat
  ng : Nat
  pack : Nat
deriving DecidableEq, Repr, Inhabited

/-- The CSUM arrays that a POSTTAB section names (log 23). -/
opaque Config.csums : List Byte → List Config.CsumItem

/-- The fixed decimation filters and delay interpolators of R287, whose coefficients the spec does not give (log 28): next state of a
channel's path from its bits, and its output on the 24-bit scale at a DELAY; the high-quality path gives three samples. -/
opaque Config.lpNext : Nat → List Bool → Nat
opaque Config.lpOut : Nat → Int → Int
opaque Config.hqNext : Nat → List Bool → Nat
opaque Config.hqOut : Nat → Int → Nat → Int

/-- The factor of the reserved pre-gain code 3 (log 29). -/
opaque Config.reservedGain : Nat

/-- The fixed functions of the image pipeline (R269), whose arithmetic the spec does not give (log 31). The first argument holds the
active bank, the second the context's geometry: mosaic channel at a column and row of a 4 × 4 pattern; the raw front after white
balance; noise reduction with REF; colour reconstruction, which gives the planes R, G, B (or what stands for them) and IR; the
IR plane of RGBI on the 16-bit scale; and the whole of T5's processing to Y, U, V (R276). -/
opaque Config.mosaic4 : Nat → Nat → Nat → Nat
opaque Config.rawFront : SMap Nat → List Nat → List (List Nat) → List (List Nat)
opaque Config.rawClean : SMap Nat → List Nat → List (List Nat) → List (List Nat) → List (List Nat)
opaque Config.recon : SMap Nat → List Nat → List (List Nat) → List (List (List Nat))
opaque Config.irPlane : Nat → Nat
opaque Config.t5Yuv : SMap Nat → List Nat → List (List Nat) → List (List (List Nat))

/-- A padded YUV422 pixel (R279 names none, log 31). -/
opaque Config.yuvPad : Nat

end Sys2Proof
end

