-- ==== Sys2Proof/Machine/Bits.lean ====
section
/-! DEFINITION. Bit fields, byte order, sparse tables, rounding and saturation: the plain operations that every chapter's
meaning uses. Numbers are exact (Nat, Int, Rat); narrowing is explicit. -/

namespace Sys2Proof.Machine

/-! ### Sparse tables -/

/-- The value at key k of a table whose unlisted keys read d. -/
def SMap.get {α : Type} (d : α) : SMap α → Nat → α
  | [], _ => d
  | (k', v) :: t, k => if k' = k then v else SMap.get d t k

/-- A table without key k. -/
def SMap.without {α : Type} (k : Nat) : SMap α → SMap α
  | [] => []
  | (k', v) :: t => if k' = k then SMap.without k t else (k', v) :: SMap.without k t

/-- List v at key k, before the first greater key. -/
def SMap.ins {α : Type} (k : Nat) (v : α) : SMap α → SMap α
  | [] => [(k, v)]
  | (k', v') :: t => if k < k' then (k, v) :: (k', v') :: t else (k', v') :: SMap.ins k v t

/-- Write v at key k, keeping the ascending order and listing no default. -/
def SMap.set {α : Type} [DecidableEq α] (d : α) (m : SMap α) (k : Nat) (v : α) : SMap α :=
  if v = d then SMap.without k m else SMap.ins k v (SMap.without k m)

/-- Every listed key is above lo, the keys rise, and no default value is listed. -/
def SMap.wfFrom {α : Type} [DecidableEq α] (d : α) : Option Nat → SMap α → Bool
  | _, [] => true
  | lo, (k, v) :: t =>
    (match lo with
      | none => true
      | some l => decide (l < k)) && !decide (v = d) && SMap.wfFrom d (some k) t

/-- The canonical form of a sparse table. -/
def SMap.wf {α : Type} [DecidableEq α] (d : α) (m : SMap α) : Bool := SMap.wfFrom d none m

/-- Forget the keys that p picks. -/
def SMap.erase {α : Type} (p : Nat → Bool) (m : SMap α) : SMap α := m.filter fun e => !p e.1

/-! ### Bits -/

/-- Field of width bits at lsb of word w. -/
def field (w lsb width : Nat) : Nat := w / 2 ^ lsb % 2 ^ width

/-- Bit i of w. -/
def bitAt (w i : Nat) : Bool := w / 2 ^ i % 2 == 1

/-- w with its field replaced by v. -/
def setField (w lsb width v : Nat) : Nat :=
  w - field w lsb width * 2 ^ lsb + v % 2 ^ width * 2 ^ lsb

/-- Bitwise operations on naturals of at most 32 bits, through bit vectors. -/
def and32 (a b : Nat) : Nat := (BitVec.ofNat 32 a &&& BitVec.ofNat 32 b).toNat
def or32 (a b : Nat) : Nat := (BitVec.ofNat 32 a ||| BitVec.ofNat 32 b).toNat
/-- a with the bits of b cleared. -/
def clr32 (a b : Nat) : Nat := (BitVec.ofNat 32 a &&& ~~~ (BitVec.ofNat 32 b)).toNat

/-- Indices of the set bits of w below n, ascending. -/
def setBits (w n : Nat) : List Nat := (List.range n).filter fun i => bitAt w i

/-- The word whose set bits are the members of l below 32. -/
def maskOf (l : List Nat) : Nat := (List.range 32).foldl (fun m i => if l.contains i then m + 2 ^ i else m) 0

/-- 1 or 0. -/
def b2n (b : Bool) : Nat := if b then 1 else 0

/-- The two's-complement value of the low w bits of n. -/
def toInt (w n : Nat) : Int :=
  let m := n % 2 ^ w
  if m < 2 ^ (w - 1) then (m : Int) else (m : Int) - (2 ^ w : Nat)

/-- The low w bits of x in two's complement. -/
def ofInt (w : Nat) (x : Int) : Nat := (x % ((2 ^ w : Nat) : Int)).toNat

/-- ceil (a / b). -/
def ceilDiv (a b : Nat) : Nat := (a + b - 1) / b

/-- ceil (log2 n), 0 for n = 0 and n = 1. -/
def clog2 (n : Nat) : Nat := (List.range 64).foldl (fun r i => if 2 ^ i < n then i + 1 else r) 0

/-! ### Bytes -/

/-- The n low bytes of v, least significant first (R7). -/
def leBytes : Nat → Nat → List Byte
  | 0, _ => []
  | n + 1, v => BitVec.ofNat 8 v :: leBytes n (v / 256)

/-- The n low bytes of v, most significant first. -/
def beBytes (n v : Nat) : List Byte := (leBytes n v).reverse

/-- The number that bytes spell, least significant first (R7). -/
def leNat : List Byte → Nat
  | [] => 0
  | b :: t => b.toNat + 256 * leNat t

/-- The number that bytes spell, most significant first. -/
def beNat (l : List Byte) : Nat := leNat l.reverse

/-- n bytes of l from offset o; bytes past the end read 0. -/
def sliceBytes (l : List Byte) (o n : Nat) : List Byte :=
  let t := (l.drop o).take n
  t ++ List.replicate (n - t.length) 0

/-- Unsigned field of n bytes at offset o of l, little-endian. -/
def leAt (l : List Byte) (o n : Nat) : Nat := leNat (sliceBytes l o n)

/-- Replace the bytes of l at offset o by d. -/
def patchBytes (l : List Byte) (o : Nat) (d : List Byte) : List Byte :=
  l.take o ++ d ++ l.drop (o + d.length)

/-! ### Exact arithmetic -/

/-- 2 to the power e, as a rational. -/
def pow2 (e : Int) : Rat := if e < 0 then 1 / ((2 ^ e.natAbs : Nat) : Rat) else ((2 ^ e.toNat : Nat) : Rat)

/-- n / d rounded to the nearest integer, a tie to the even one (R43). -/
def rheDiv (n : Int) (d : Nat) : Int :=
  let q := n / (d : Int)
  let r := n % (d : Int)
  if 2 * r < d then q else if (d : Int) < 2 * r then q + 1 else if q % 2 = 0 then q else q + 1

/-- x rounded to the nearest integer, a tie to the even one (R43). -/
def rhe (x : Rat) : Int := rheDiv x.num x.den

/-- x held within lo and hi. -/
def clampInt (lo hi x : Int) : Int := if x < lo then lo else if hi < x then hi else x

/-- Whether x lies outside lo and hi. -/
def outside (lo hi x : Int) : Bool := decide (x < lo) || decide (hi < x)

/-- Saturation to w bits, two's complement. -/
def satInt (w : Nat) (x : Int) : Int := clampInt (-(2 ^ (w - 1) : Nat)) ((2 ^ (w - 1) : Nat) - 1) x

/-- Whether saturation to w bits changes x. -/
def satHits (w : Nat) (x : Int) : Bool := satInt w x != x

/-- A counter of 31 bits: its value after n more counts, and whether it has passed its end (R53, R414). -/
def count31 (c n : Nat) : Nat × Bool := if c + n < 2 ^ 31 then (c + n, false) else (2 ^ 31 - 1, true)

/-- Sum of a list of integers. -/
def sumInt (l : List Int) : Int := l.foldl (· + ·) 0

/-- Sum of a list of naturals. -/
def sumNat (l : List Nat) : Nat := l.foldl (· + ·) 0

/-- Element i of a list, or a default. -/
def nth {α : Type} (d : α) (l : List α) (i : Nat) : α := (l[i]?).getD d

/-- Without repeats, ascending. -/
def insAsc (x : Nat) : List Nat → List Nat
  | [] => [x]
  | y :: t => if x < y then x :: y :: t else if x = y then y :: t else y :: insAsc x t

/-- One step of CRC-32C over one byte (Castagnoli, reflected polynomial 0x82F63B78). -/
def crc32cByte (c : BitVec 32) (b : Byte) : BitVec 32 :=
  (List.range 8).foldl (fun c _ => if c.getLsbD 0 then (c >>> 1) ^^^ 0x82F63B78#32 else c >>> 1)
    (c ^^^ b.setWidth 32)

/-- CRC-32C of a byte string (initial value and final complement all ones). -/
def crc32c (l : List Byte) : Nat := (~~~ (l.foldl crc32cByte 0xFFFFFFFF#32)).toNat

/-- The bytes of an ASCII text given as code points. -/
def ascii (s : List Nat) : List Byte := s.map (BitVec.ofNat 8)

end Sys2Proof.Machine
end

