-- ==== Sys2Proof/Machine/Regs.lean ====
section
/-! DEFINITION. Every register field that the tables of spec/ give the control window: offset in its page, lowest bit,
width, reset value, and how a bus write treats it. Fields that the spec derives from other state are marked dv: their
value is computed where they are read (Machine/Pages.lean). Log 1 names the reset values that the spec leaves open. -/

namespace Sys2Proof.Machine

/-- How a bus write treats a field: ro ignores it, rw takes it, cfg takes it under R408, w1c clears written ones, w1s is a
command bit that reads 0, dv is read-only and computed, rws is read and write and keeps its value through every reset but the power-on
reset of its domain. -/
inductive Acc where
  | ro
  | rw
  | cfg
  | w1c
  | w1s
  | dv
  | rws
deriving DecidableEq, Repr

/-- One field of a page. -/
structure Fld where
  off : Nat
  lsb : Nat
  width : Nat
  reset : Nat
  acc : Acc
deriving DecidableEq, Repr

/-- Reset of the RGB-to-YUV matrix: ITU-R BT.709, full range, in S4.12 (Table 10.11; PRESUMED coefficients, log 3). -/
def cscReset (i : Nat) : Nat :=
  nth 0 [871, 2929, 296, ofInt 16 (-469), ofInt 16 (-1579), 2048, 2048, ofInt 16 (-1860), ofInt 16 (-188)] i

/-- Reset of the colour matrix: identity in S4.12 (Table 10.11). -/
def ccmReset (i : Nat) : Nat := if i % 4 = 0 then 0x1000 else 0

/-- Reset of the YUV offsets (Table 10.11). -/
def cscoReset (i : Nat) : Nat := if i = 0 then 0 else 0x8000

/-- Reset of tone table entry i: linear on the 16-bit scale (Table 10.11; log 3). -/
def toneReset (i : Nat) : Nat := min 65535 (256 * i)

/-! MAn control and SENTRY pages (Tables 2.9, 3.5, 4.5b, 5.6, 6.5, 18.4) -/
abbrev Reg.Ma.NAN_IN : Fld := ⟨0x180, 0, 31, 0, .ro⟩
abbrev Reg.Ma.NAN_IN_SAT : Fld := ⟨0x180, 31, 1, 0, .w1c⟩
abbrev Reg.Ma.INF_IN : Fld := ⟨0x184, 0, 31, 0, .ro⟩
abbrev Reg.Ma.INF_IN_SAT : Fld := ⟨0x184, 31, 1, 0, .w1c⟩
abbrev Reg.Ma.ESC_ORPHAN : Fld := ⟨0x188, 0, 31, 0, .ro⟩
abbrev Reg.Ma.ESC_ORPHAN_SAT : Fld := ⟨0x188, 31, 1, 0, .w1c⟩
abbrev Reg.Ma.SCALE_BAD : Fld := ⟨0x18C, 0, 31, 0, .ro⟩
abbrev Reg.Ma.SCALE_BAD_SAT : Fld := ⟨0x18C, 31, 1, 0, .w1c⟩
abbrev Reg.Ma.CNT_CLR : Fld := ⟨0x190, 0, 1, 0, .w1s⟩
abbrev Reg.Ma.SAT_CNT : Fld := ⟨0x1A0, 0, 32, 0, .ro⟩
abbrev Reg.Ma.FLUSH_CNT : Fld := ⟨0x1A4, 0, 32, 0, .ro⟩
abbrev Reg.Ma.MISS_FRAC : Fld := ⟨0x1A8, 0, 16, 0x0040, .rw⟩
abbrev Reg.Ma.SCALE_MISS : Fld := ⟨0x1AC, 0, 1, 0, .w1c⟩
abbrev Reg.Ma.BY_SAT : Fld := ⟨0x1AC, 1, 1, 0, .ro⟩
abbrev Reg.Ma.BY_FLUSH : Fld := ⟨0x1AC, 2, 1, 0, .ro⟩
abbrev Reg.Ma.RES_MISMATCH : Fld := ⟨0x1B0, 0, 31, 0, .ro⟩
abbrev Reg.Ma.RES_MISMATCH_SAT : Fld := ⟨0x1B0, 31, 1, 0, .w1c⟩
abbrev Reg.Ma.REPLAY_AC : Fld := ⟨0x1B4, 0, 31, 0, .ro⟩
abbrev Reg.Ma.REPLAY_AC_SAT : Fld := ⟨0x1B4, 31, 1, 0, .w1c⟩
abbrev Reg.Ma.RES_CLR : Fld := ⟨0x1B8, 0, 1, 0, .w1s⟩
abbrev Reg.Ma.CMPL_BASE : Fld := ⟨0x1C0, 5, 27, 0, .cfg⟩
abbrev Reg.Ma.CMPL_LEN : Fld := ⟨0x1C4, 0, 12, 0x040, .cfg⟩
abbrev Reg.Ma.CMPL_WR : Fld := ⟨0x1C8, 0, 12, 0, .ro⟩
abbrev Reg.Ma.CMPL_RD : Fld := ⟨0x1CC, 0, 12, 0, .rw⟩
abbrev Reg.Ma.EMPTY_ROWS : Fld := ⟨0x1D0, 0, 31, 0, .ro⟩
abbrev Reg.Ma.EMPTY_ROWS_SAT : Fld := ⟨0x1D0, 31, 1, 0, .w1c⟩
abbrev Reg.Ma.STATE_SAT : Fld := ⟨0x1D4, 0, 31, 0, .ro⟩
abbrev Reg.Ma.STATE_SAT_SAT : Fld := ⟨0x1D4, 31, 1, 0, .w1c⟩
abbrev Reg.Ma.RECUR_ID : Fld := ⟨0x1D8, 0, 16, 0, .ro⟩
abbrev Reg.Ma.RECUR_VALID : Fld := ⟨0x1D8, 16, 1, 0, .ro⟩
abbrev Reg.Ma.SEQ_CLR : Fld := ⟨0x1DC, 0, 1, 0, .w1s⟩
abbrev Reg.Ma.SCHED_BASE : Fld := ⟨0x1E0, 6, 26, 0, .cfg⟩
abbrev Reg.Ma.SCHED_LEN : Fld := ⟨0x1E4, 0, 16, 0, .cfg⟩
abbrev Reg.Ma.LOOP_START : Fld := ⟨0x1E4, 16, 16, 0, .cfg⟩
abbrev Reg.Ma.REPEAT : Fld := ⟨0x1E8, 0, 32, 0, .cfg⟩
abbrev Reg.Ma.PC : Fld := ⟨0x1EC, 0, 16, 0, .ro⟩
abbrev Reg.Ma.PASSES : Fld := ⟨0x1F0, 0, 32, 0, .ro⟩
abbrev Reg.Ma.TALLY_BASE : Fld := ⟨0x1F4, 0, 13, 0, .cfg⟩
abbrev Reg.Ma.TALLY_LEN : Fld := ⟨0x1F4, 16, 14, 0, .cfg⟩
abbrev Reg.Ma.WAIT_PHYS : Fld := ⟨0x1F8, 0, 13, 0, .ro⟩
abbrev Reg.Ma.WAITING : Fld := ⟨0x1F8, 16, 1, 0, .ro⟩
abbrev Reg.Ma.WAIT_AC : Fld := ⟨0x1FC, 0, 31, 0, .ro⟩
abbrev Reg.Ma.WAIT_AC_SAT : Fld := ⟨0x1FC, 31, 1, 0, .w1c⟩
abbrev Reg.Ma.OPP_REQ : Fld := ⟨0x100, 0, 5, 0x1C, .rw⟩
abbrev Reg.Ma.OPP_ACT : Fld := ⟨0x104, 0, 5, 0x1C, .ro⟩
abbrev Reg.Ma.V_ACT : Fld := ⟨0x104, 16, 10, 0, .dv⟩
abbrev Reg.Ma.PENDING : Fld := ⟨0x104, 28, 1, 0, .ro⟩
abbrev Reg.Ma.THROTTLED : Fld := ⟨0x104, 29, 1, 0, .ro⟩
abbrev Reg.Ma.HEADROOM_LOW : Fld := ⟨0x104, 30, 1, 0, .ro⟩
abbrev Reg.Ma.THROT_STEPS : Fld := ⟨0x108, 0, 31, 0, .ro⟩
abbrev Reg.Ma.THROT_STEPS_SAT : Fld := ⟨0x108, 31, 1, 0, .w1c⟩
/-- Every field of the MAn control and SENTRY pages (Tables 2.9, 3.5, 4.5b, 5.6, 6.5, 18.4). -/
def Reg.Ma.all : List Fld :=
  [Reg.Ma.NAN_IN, Reg.Ma.NAN_IN_SAT, Reg.Ma.INF_IN, Reg.Ma.INF_IN_SAT, Reg.Ma.ESC_ORPHAN, Reg.Ma.ESC_ORPHAN_SAT,
    Reg.Ma.SCALE_BAD, Reg.Ma.SCALE_BAD_SAT, Reg.Ma.CNT_CLR, Reg.Ma.SAT_CNT, Reg.Ma.FLUSH_CNT, Reg.Ma.MISS_FRAC,
    Reg.Ma.SCALE_MISS, Reg.Ma.BY_SAT, Reg.Ma.BY_FLUSH, Reg.Ma.RES_MISMATCH, Reg.Ma.RES_MISMATCH_SAT, Reg.Ma.REPLAY_AC,
    Reg.Ma.REPLAY_AC_SAT, Reg.Ma.RES_CLR, Reg.Ma.CMPL_BASE, Reg.Ma.CMPL_LEN, Reg.Ma.CMPL_WR, Reg.Ma.CMPL_RD,
    Reg.Ma.EMPTY_ROWS, Reg.Ma.EMPTY_ROWS_SAT, Reg.Ma.STATE_SAT, Reg.Ma.STATE_SAT_SAT, Reg.Ma.RECUR_ID,
    Reg.Ma.RECUR_VALID] ++
  [Reg.Ma.SEQ_CLR, Reg.Ma.SCHED_BASE, Reg.Ma.SCHED_LEN, Reg.Ma.LOOP_START, Reg.Ma.REPEAT, Reg.Ma.PC, Reg.Ma.PASSES,
    Reg.Ma.TALLY_BASE, Reg.Ma.TALLY_LEN, Reg.Ma.WAIT_PHYS, Reg.Ma.WAITING, Reg.Ma.WAIT_AC, Reg.Ma.WAIT_AC_SAT,
    Reg.Ma.OPP_REQ, Reg.Ma.OPP_ACT, Reg.Ma.V_ACT, Reg.Ma.PENDING, Reg.Ma.THROTTLED, Reg.Ma.HEADROOM_LOW,
    Reg.Ma.THROT_STEPS, Reg.Ma.THROT_STEPS_SAT]

/-! TALLY pages (Table 6.7) -/
abbrev Reg.Tally.TSEL : Fld := ⟨0x100, 0, 13, 0, .rw⟩
abbrev Reg.Tally.COUNT : Fld := ⟨0x104, 0, 16, 0, .dv⟩
abbrev Reg.Tally.THRESH : Fld := ⟨0x104, 16, 16, 0x0001, .dv⟩
abbrev Reg.Tally.ALLOC : Fld := ⟨0x108, 0, 1, 0, .dv⟩
abbrev Reg.Tally.MODE : Fld := ⟨0x108, 1, 1, 0, .dv⟩
abbrev Reg.Tally.OWNER : Fld := ⟨0x108, 2, 3, 0, .dv⟩
abbrev Reg.Tally.OVF : Fld := ⟨0x108, 5, 1, 0, .w1c⟩
abbrev Reg.Tally.WAITING : Fld := ⟨0x108, 6, 1, 0, .dv⟩
abbrev Reg.Tally.WAITERS : Fld := ⟨0x108, 16, 9, 0, .dv⟩
abbrev Reg.Tally.SIG_IDX : Fld := ⟨0x10C, 0, 13, 0, .rw⟩
abbrev Reg.Tally.SIG_INC : Fld := ⟨0x10C, 16, 16, 0, .rw⟩
abbrev Reg.Tally.INIT_COUNT : Fld := ⟨0x110, 0, 16, 0, .rw⟩
abbrev Reg.Tally.INIT_THRESH : Fld := ⟨0x110, 16, 16, 0, .rw⟩
abbrev Reg.Tally.INIT_MODE : Fld := ⟨0x114, 0, 1, 0, .rw⟩
abbrev Reg.Tally.ALLOCATED : Fld := ⟨0x118, 0, 14, 0, .dv⟩
abbrev Reg.Tally.FREE_RUN : Fld := ⟨0x11C, 0, 14, 0x2000, .dv⟩
abbrev Reg.Tally.A_BASE : Fld := ⟨0x120, 0, 13, 0, .rw⟩
abbrev Reg.Tally.A_PART : Fld := ⟨0x120, 13, 3, 0, .rw⟩
abbrev Reg.Tally.A_LEN : Fld := ⟨0x120, 16, 14, 0, .rw⟩
abbrev Reg.Tally.A_FREE : Fld := ⟨0x120, 30, 1, 0, .rw⟩
abbrev Reg.Tally.A_GO : Fld := ⟨0x120, 31, 1, 0, .w1s⟩
/-- Every field of the TALLY pages (Table 6.7). -/
def Reg.Tally.all : List Fld :=
  [Reg.Tally.TSEL, Reg.Tally.COUNT, Reg.Tally.THRESH, Reg.Tally.ALLOC, Reg.Tally.MODE, Reg.Tally.OWNER, Reg.Tally.OVF,
    Reg.Tally.WAITING, Reg.Tally.WAITERS, Reg.Tally.SIG_IDX, Reg.Tally.SIG_INC, Reg.Tally.INIT_COUNT,
    Reg.Tally.INIT_THRESH, Reg.Tally.INIT_MODE, Reg.Tally.ALLOCATED, Reg.Tally.FREE_RUN, Reg.Tally.A_BASE,
    Reg.Tally.A_PART, Reg.Tally.A_LEN, Reg.Tally.A_FREE, Reg.Tally.A_GO]

/-! MAn DMA pages (Table 7.6) -/
abbrev Reg.Dma.LIST_BASE : Fld := ⟨0x100, 5, 27, 0, .cfg⟩
abbrev Reg.Dma.LIST_LEN : Fld := ⟨0x104, 0, 16, 0, .cfg⟩
abbrev Reg.Dma.LOOP_START : Fld := ⟨0x104, 16, 16, 0, .cfg⟩
abbrev Reg.Dma.REPEAT : Fld := ⟨0x108, 0, 32, 0, .cfg⟩
abbrev Reg.Dma.DPC : Fld := ⟨0x10C, 0, 16, 0, .ro⟩
abbrev Reg.Dma.INFLIGHT : Fld := ⟨0x110, 0, 15, 0, .ro⟩
abbrev Reg.Dma.STALL_NC : Fld := ⟨0x114, 0, 31, 0, .ro⟩
abbrev Reg.Dma.STALL_NC_SAT : Fld := ⟨0x114, 31, 1, 0, .w1c⟩
abbrev Reg.Dma.DMA_FAULT : Fld := ⟨0x118, 0, 8, 0, .ro⟩
abbrev Reg.Dma.FAULT_IDX : Fld := ⟨0x118, 8, 16, 0, .ro⟩
abbrev Reg.Dma.PASSES : Fld := ⟨0x11C, 0, 32, 0, .ro⟩
/-- Every field of the MAn DMA pages (Table 7.6). -/
def Reg.Dma.all : List Fld :=
  [Reg.Dma.LIST_BASE, Reg.Dma.LIST_LEN, Reg.Dma.LOOP_START, Reg.Dma.REPEAT, Reg.Dma.DPC, Reg.Dma.INFLIGHT,
    Reg.Dma.STALL_NC, Reg.Dma.STALL_NC_SAT, Reg.Dma.DMA_FAULT, Reg.Dma.FAULT_IDX, Reg.Dma.PASSES]

/-! OTT and migration page (Table 7.10) -/
abbrev Reg.Ott.OTT_IDX : Fld := ⟨0x100, 0, 20, 0, .rw⟩
abbrev Reg.Ott.ENTRY_LO : Fld := ⟨0x104, 0, 32, 0, .dv⟩
abbrev Reg.Ott.ENTRY_HI : Fld := ⟨0x108, 0, 32, 0, .dv⟩
abbrev Reg.Ott.OTT_FREE : Fld := ⟨0x10C, 0, 21, 0x100000, .dv⟩
abbrev Reg.Ott.OTT_FREE_RUN : Fld := ⟨0x110, 0, 21, 0x100000, .dv⟩
abbrev Reg.Ott.PSEL : Fld := ⟨0x114, 0, 3, 0, .rw⟩
abbrev Reg.Ott.T1_PINNED : Fld := ⟨0x118, 0, 11, 0, .dv⟩
abbrev Reg.Ott.T1_CACHED : Fld := ⟨0x118, 16, 11, 0, .dv⟩
abbrev Reg.Ott.T1_QUOTA : Fld := ⟨0x11C, 0, 11, 0, .dv⟩
abbrev Reg.Ott.OVER_QUOTA : Fld := ⟨0x11C, 16, 1, 0, .dv⟩
abbrev Reg.Ott.ALLOC_REFUSED : Fld := ⟨0x120, 0, 31, 0, .ro⟩
abbrev Reg.Ott.ALLOC_REFUSED_SAT : Fld := ⟨0x120, 31, 1, 0, .w1c⟩
abbrev Reg.Ott.EVICTIONS : Fld := ⟨0x124, 0, 31, 0, .ro⟩
abbrev Reg.Ott.EVICTIONS_SAT : Fld := ⟨0x124, 31, 1, 0, .w1c⟩
abbrev Reg.Ott.REFETCHES : Fld := ⟨0x128, 0, 31, 0, .ro⟩
abbrev Reg.Ott.REFETCHES_SAT : Fld := ⟨0x128, 31, 1, 0, .w1c⟩
abbrev Reg.Ott.CMD : Fld := ⟨0x12C, 0, 2, 0, .rw⟩
abbrev Reg.Ott.C_PART : Fld := ⟨0x12C, 2, 3, 0, .rw⟩
abbrev Reg.Ott.C_GO : Fld := ⟨0x12C, 31, 1, 0, .w1s⟩
abbrev Reg.Ott.C_IDX : Fld := ⟨0x130, 0, 20, 0, .rw⟩
abbrev Reg.Ott.C_LEN : Fld := ⟨0x134, 0, 21, 0, .rw⟩
abbrev Reg.Ott.C_DATA_LO : Fld := ⟨0x138, 0, 32, 0, .rw⟩
abbrev Reg.Ott.C_DATA_HI : Fld := ⟨0x13C, 0, 32, 0, .rw⟩
abbrev Reg.Ott.C_STATUS : Fld := ⟨0x140, 0, 3, 0, .ro⟩
/-- Every field of the OTT and migration page (Table 7.10). -/
def Reg.Ott.all : List Fld :=
  [Reg.Ott.OTT_IDX, Reg.Ott.ENTRY_LO, Reg.Ott.ENTRY_HI, Reg.Ott.OTT_FREE, Reg.Ott.OTT_FREE_RUN, Reg.Ott.PSEL,
    Reg.Ott.T1_PINNED, Reg.Ott.T1_CACHED, Reg.Ott.T1_QUOTA, Reg.Ott.OVER_QUOTA, Reg.Ott.ALLOC_REFUSED,
    Reg.Ott.ALLOC_REFUSED_SAT, Reg.Ott.EVICTIONS, Reg.Ott.EVICTIONS_SAT, Reg.Ott.REFETCHES, Reg.Ott.REFETCHES_SAT,
    Reg.Ott.CMD, Reg.Ott.C_PART, Reg.Ott.C_GO, Reg.Ott.C_IDX, Reg.Ott.C_LEN, Reg.Ott.C_DATA_LO, Reg.Ott.C_DATA_HI,
    Reg.Ott.C_STATUS]

/-! PART and WEIR page (Table 8.5) -/
abbrev Reg.Part.PSEL : Fld := ⟨0x100, 0, 3, 0, .rw⟩
abbrev Reg.Part.ASEL : Fld := ⟨0x100, 4, 4, 0, .rw⟩
abbrev Reg.Part.CTX_PSEL : Fld := ⟨0x100, 8, 3, 0, .rw⟩
abbrev Reg.Part.PART_EN : Fld := ⟨0x104, 0, 1, 0, .rw⟩
abbrev Reg.Part.T1_QUOTA : Fld := ⟨0x104, 16, 11, 0, .rw⟩
abbrev Reg.Part.LPDDR_BUDGET : Fld := ⟨0x108, 0, 16, 0xFFFF, .rw⟩
abbrev Reg.Part.LPDDR_EN : Fld := ⟨0x108, 16, 1, 0, .rw⟩
abbrev Reg.Part.CIS_BUDGET : Fld := ⟨0x10C, 0, 16, 0xFFFF, .rw⟩
abbrev Reg.Part.CIS_EN : Fld := ⟨0x10C, 16, 1, 0, .rw⟩
abbrev Reg.Part.PCIE_BUDGET : Fld := ⟨0x110, 0, 16, 0xFFFF, .rw⟩
abbrev Reg.Part.PCIE_EN : Fld := ⟨0x110, 16, 1, 0, .rw⟩
abbrev Reg.Part.LPDDR_STALL : Fld := ⟨0x114, 0, 31, 0, .ro⟩
abbrev Reg.Part.LPDDR_STALL_SAT : Fld := ⟨0x114, 31, 1, 0, .w1c⟩
abbrev Reg.Part.CIS_STALL : Fld := ⟨0x118, 0, 31, 0, .ro⟩
abbrev Reg.Part.CIS_STALL_SAT : Fld := ⟨0x118, 31, 1, 0, .w1c⟩
abbrev Reg.Part.PCIE_STALL : Fld := ⟨0x11C, 0, 31, 0, .ro⟩
abbrev Reg.Part.PCIE_STALL_SAT : Fld := ⟨0x11C, 31, 1, 0, .w1c⟩
abbrev Reg.Part.OWNS : Fld := ⟨0x120, 0, 9, 0, .dv⟩
abbrev Reg.Part.SHARES : Fld := ⟨0x120, 16, 8, 0, .dv⟩
abbrev Reg.Part.WEIR_WINDOWS : Fld := ⟨0x124, 0, 32, 0, .ro⟩
abbrev Reg.Part.SHARE_W : Fld := ⟨0x12C, 0, 10, 0, .rw⟩
abbrev Reg.Part.SHARE_W_ACT : Fld := ⟨0x12C, 16, 10, 0, .dv⟩
abbrev Reg.Part.ENGINE_AC_LO : Fld := ⟨0x130, 0, 32, 0, .dv⟩
abbrev Reg.Part.ENGINE_AC_HI : Fld := ⟨0x134, 0, 32, 0, .dv⟩
abbrev Reg.Part.A_OP : Fld := ⟨0x138, 0, 2, 0, .rw⟩
abbrev Reg.Part.A_ARRAY : Fld := ⟨0x138, 2, 4, 0, .rw⟩
abbrev Reg.Part.A_PART : Fld := ⟨0x138, 6, 3, 0, .rw⟩
abbrev Reg.Part.A_STATUS : Fld := ⟨0x138, 9, 3, 0, .ro⟩
abbrev Reg.Part.A_GO : Fld := ⟨0x138, 31, 1, 0, .w1s⟩
abbrev Reg.Part.ARR_MODE : Fld := ⟨0x13C, 0, 2, 0, .dv⟩
abbrev Reg.Part.ARR_OWNER : Fld := ⟨0x13C, 2, 3, 0, .dv⟩
abbrev Reg.Part.ARR_LAST : Fld := ⟨0x13C, 5, 3, 0, .dv⟩
abbrev Reg.Part.ARR_MEMBERS : Fld := ⟨0x13C, 8, 8, 0, .dv⟩
abbrev Reg.Part.SWITCHES : Fld := ⟨0x140, 0, 31, 0, .ro⟩
abbrev Reg.Part.SWITCHES_SAT : Fld := ⟨0x140, 31, 1, 0, .w1c⟩
abbrev Reg.Part.SCRUB_NC : Fld := ⟨0x144, 0, 31, 0, .ro⟩
abbrev Reg.Part.SCRUB_NC_SAT : Fld := ⟨0x144, 31, 1, 0, .w1c⟩
/-- Every field of the PART and WEIR page (Table 8.5). -/
def Reg.Part.all : List Fld :=
  [Reg.Part.PSEL, Reg.Part.ASEL, Reg.Part.CTX_PSEL, Reg.Part.PART_EN, Reg.Part.T1_QUOTA, Reg.Part.LPDDR_BUDGET,
    Reg.Part.LPDDR_EN, Reg.Part.CIS_BUDGET, Reg.Part.CIS_EN, Reg.Part.PCIE_BUDGET, Reg.Part.PCIE_EN,
    Reg.Part.LPDDR_STALL, Reg.Part.LPDDR_STALL_SAT, Reg.Part.CIS_STALL, Reg.Part.CIS_STALL_SAT, Reg.Part.PCIE_STALL,
    Reg.Part.PCIE_STALL_SAT, Reg.Part.OWNS, Reg.Part.SHARES, Reg.Part.WEIR_WINDOWS, Reg.Part.SHARE_W,
    Reg.Part.SHARE_W_ACT, Reg.Part.ENGINE_AC_LO, Reg.Part.ENGINE_AC_HI, Reg.Part.A_OP, Reg.Part.A_ARRAY,
    Reg.Part.A_PART, Reg.Part.A_STATUS, Reg.Part.A_GO, Reg.Part.ARR_MODE] ++
  [Reg.Part.ARR_OWNER, Reg.Part.ARR_LAST, Reg.Part.ARR_MEMBERS, Reg.Part.SWITCHES, Reg.Part.SWITCHES_SAT,
    Reg.Part.SCRUB_NC, Reg.Part.SCRUB_NC_SAT]

/-! SEAL page (Table 9.3) -/
abbrev Reg.Seal.HEAD : Fld := ⟨0x100, 0, 12, 0, .ro⟩
abbrev Reg.Seal.COUNT : Fld := ⟨0x104, 0, 13, 0, .dv⟩
abbrev Reg.Seal.ACK_N : Fld := ⟨0x108, 0, 13, 0, .rw⟩
abbrev Reg.Seal.SEQ_NEXT : Fld := ⟨0x10C, 0, 32, 0, .dv⟩
abbrev Reg.Seal.STALL_NC : Fld := ⟨0x110, 0, 31, 0, .ro⟩
abbrev Reg.Seal.STALL_NC_SAT : Fld := ⟨0x110, 31, 1, 0, .w1c⟩
abbrev Reg.Seal.STALLED_OPS : Fld := ⟨0x114, 0, 31, 0, .ro⟩
abbrev Reg.Seal.STALLED_OPS_SAT : Fld := ⟨0x114, 31, 1, 0, .w1c⟩
abbrev Reg.Seal.WAITERS : Fld := ⟨0x118, 0, 9, 0, .dv⟩
abbrev Reg.Seal.RECORD (i : Nat) : Fld := ⟨0x200 + 4 * i, 0, 32, 0, .dv⟩
/-- Every field of the SEAL page (Table 9.3). -/
def Reg.Seal.all : List Fld :=
  [Reg.Seal.HEAD, Reg.Seal.COUNT, Reg.Seal.ACK_N, Reg.Seal.SEQ_NEXT, Reg.Seal.STALL_NC, Reg.Seal.STALL_NC_SAT,
    Reg.Seal.STALLED_OPS, Reg.Seal.STALLED_OPS_SAT, Reg.Seal.WAITERS] ++
  (List.range 48).map Reg.Seal.RECORD

/-! CSI port pages (Table 10.2) -/
abbrev Reg.Csi.CPHY : Fld := ⟨0x100, 0, 1, 0, .cfg⟩
abbrev Reg.Csi.WIDTH : Fld := ⟨0x100, 1, 2, 0, .cfg⟩
abbrev Reg.Csi.SCRAMBLE : Fld := ⟨0x100, 3, 1, 0, .cfg⟩
abbrev Reg.Csi.RATE : Fld := ⟨0x100, 8, 13, 0, .cfg⟩
abbrev Reg.Csi.RX_READY : Fld := ⟨0x104, 0, 1, 0, .dv⟩
abbrev Reg.Csi.VC_EN : Fld := ⟨0x108, 0, 16, 0, .cfg⟩
abbrev Reg.Csi.CRC_VC (v : Nat) : Fld := ⟨0x140 + 4 * v, 0, 31, 0, .ro⟩
abbrev Reg.Csi.CRC_VC_SAT (v : Nat) : Fld := ⟨0x140 + 4 * v, 31, 1, 0, .w1c⟩
abbrev Reg.Csi.CNT_CLR : Fld := ⟨0x180, 0, 1, 0, .w1s⟩
/-- Every field of the CSI port pages (Table 10.2). -/
def Reg.Csi.all : List Fld :=
  [Reg.Csi.CPHY, Reg.Csi.WIDTH, Reg.Csi.SCRAMBLE, Reg.Csi.RATE, Reg.Csi.RX_READY, Reg.Csi.VC_EN, Reg.Csi.CNT_CLR]
    ++
(List.range 16).map Reg.Csi.CRC_VC ++
  (List.range 16).map Reg.Csi.CRC_VC_SAT

/-! ISP context half pages (Tables 10.4 and 10.11) -/
abbrev Reg.Ctx.BLACK (i : Nat) : Fld := ⟨0x400 + 4 * i, 0, 20, 0, .rw⟩
abbrev Reg.Ctx.WB (i : Nat) : Fld := ⟨0x410 + 4 * i, 0, 16, 0x1000, .rw⟩
abbrev Reg.Ctx.IRK (i : Nat) : Fld := ⟨0x420 + 4 * i, 0, 16, 0, .rw⟩
abbrev Reg.Ctx.CCM (i : Nat) : Fld := ⟨0x430 + 4 * i, 0, 16, ccmReset i, .rw⟩
abbrev Reg.Ctx.CSC (i : Nat) : Fld := ⟨0x460 + 4 * i, 0, 16, cscReset i, .rw⟩
abbrev Reg.Ctx.CSCO (i : Nat) : Fld := ⟨0x484 + 4 * i, 0, 16, cscoReset i, .rw⟩
abbrev Reg.Ctx.NR_S : Fld := ⟨0x490, 0, 8, 0, .rw⟩
abbrev Reg.Ctx.NR_T : Fld := ⟨0x490, 8, 8, 0, .rw⟩
abbrev Reg.Ctx.XTALK : Fld := ⟨0x494, 0, 8, 0, .rw⟩
abbrev Reg.Ctx.GREEN_TH : Fld := ⟨0x494, 8, 8, 0, .rw⟩
abbrev Reg.Ctx.EDGE : Fld := ⟨0x498, 0, 8, 0x80, .rw⟩
abbrev Reg.Ctx.TONE_LO (i : Nat) : Fld := ⟨0x500 + 4 * i, 0, 16, toneReset (2 * i), .rw⟩
abbrev Reg.Ctx.TONE_HI (i : Nat) : Fld := ⟨0x500 + 4 * i, 16, 16, toneReset (2 * i + 1), .rw⟩
abbrev Reg.Ctx.PORT : Fld := ⟨0x100, 0, 3, 0, .cfg⟩
abbrev Reg.Ctx.VC : Fld := ⟨0x100, 3, 4, 0, .cfg⟩
abbrev Reg.Ctx.DT : Fld := ⟨0x100, 7, 6, 0, .cfg⟩
abbrev Reg.Ctx.EMB : Fld := ⟨0x100, 13, 1, 0, .cfg⟩
abbrev Reg.Ctx.T5 : Fld := ⟨0x100, 14, 1, 0, .cfg⟩
abbrev Reg.Ctx.TNR : Fld := ⟨0x100, 15, 1, 0, .cfg⟩
abbrev Reg.Ctx.WIDTH_M1 : Fld := ⟨0x104, 0, 14, 0, .cfg⟩
abbrev Reg.Ctx.HEIGHT_M1 : Fld := ⟨0x104, 16, 14, 0, .cfg⟩
abbrev Reg.Ctx.MOSAIC : Fld := ⟨0x108, 0, 3, 0, .cfg⟩
abbrev Reg.Ctx.PHASE_X : Fld := ⟨0x108, 4, 2, 0, .cfg⟩
abbrev Reg.Ctx.PHASE_Y : Fld := ⟨0x108, 6, 2, 0, .cfg⟩
abbrev Reg.Ctx.FPS_MAX : Fld := ⟨0x108, 8, 8, 0, .cfg⟩
abbrev Reg.Ctx.DEADLINE : Fld := ⟨0x10C, 0, 24, 0, .cfg⟩
abbrev Reg.Ctx.OMODE : Fld := ⟨0x110, 0, 2, 0, .cfg⟩
abbrev Reg.Ctx.PLANES : Fld := ⟨0x110, 2, 2, 0, .cfg⟩
abbrev Reg.Ctx.OFMT : Fld := ⟨0x110, 4, 4, 0, .cfg⟩
abbrev Reg.Ctx.CMP : Fld := ⟨0x110, 8, 2, 0, .cfg⟩
abbrev Reg.Ctx.NBUF_M1 : Fld := ⟨0x110, 10, 4, 0, .cfg⟩
abbrev Reg.Ctx.SIG_STRIPE : Fld := ⟨0x110, 14, 1, 0, .cfg⟩
abbrev Reg.Ctx.SIG_EN : Fld := ⟨0x110, 15, 1, 0, .cfg⟩
abbrev Reg.Ctx.TALLY : Fld := ⟨0x110, 16, 13, 0, .cfg⟩
abbrev Reg.Ctx.OUT_LO : Fld := ⟨0x114, 0, 32, 0, .cfg⟩
abbrev Reg.Ctx.OUT_HI : Fld := ⟨0x118, 0, 8, 0, .cfg⟩
abbrev Reg.Ctx.ROW_PITCH : Fld := ⟨0x11C, 0, 24, 0, .cfg⟩
abbrev Reg.Ctx.PLANE_PITCH : Fld := ⟨0x120, 0, 32, 0, .cfg⟩
abbrev Reg.Ctx.BUF_PITCH : Fld := ⟨0x124, 0, 32, 0, .cfg⟩
abbrev Reg.Ctx.STAT_LO : Fld := ⟨0x128, 0, 32, 0, .cfg⟩
abbrev Reg.Ctx.STAT_HI : Fld := ⟨0x12C, 0, 8, 0, .cfg⟩
abbrev Reg.Ctx.STAT_LEN : Fld := ⟨0x130, 0, 12, 0x040, .cfg⟩
abbrev Reg.Ctx.STAT_WR : Fld := ⟨0x134, 0, 12, 0, .ro⟩
abbrev Reg.Ctx.STAT_RD : Fld := ⟨0x138, 0, 12, 0, .rw⟩
abbrev Reg.Ctx.EMB_LO : Fld := ⟨0x13C, 0, 32, 0, .cfg⟩
abbrev Reg.Ctx.EMB_HI : Fld := ⟨0x140, 0, 8, 0, .cfg⟩
abbrev Reg.Ctx.GAIN (i : Nat) : Fld := ⟨0x144 + 4 * i, 0, 16, 0, .cfg⟩
abbrev Reg.Ctx.OFFSET (i : Nat) : Fld := ⟨0x144 + 4 * i, 16, 16, 0, .cfg⟩
abbrev Reg.Ctx.COMMIT : Fld := ⟨0x154, 0, 1, 0, .w1s⟩
abbrev Reg.Ctx.PENDING : Fld := ⟨0x154, 1, 1, 0, .ro⟩
abbrev Reg.Ctx.FRAME_NUM : Fld := ⟨0x158, 0, 32, 0, .ro⟩
abbrev Reg.Ctx.EPOCH : Fld := ⟨0x15C, 0, 1, 0, .ro⟩
abbrev Reg.Ctx.CTX_ERR : Fld := ⟨0x15C, 8, 4, 0, .ro⟩
abbrev Reg.Ctx.LOAD : Fld := ⟨0x160, 0, 16, 0, .ro⟩
abbrev Reg.Ctx.NEED : Fld := ⟨0x160, 16, 11, 0, .ro⟩
abbrev Reg.Ctx.GROUP_DROP : Fld := ⟨0x164, 0, 31, 0, .ro⟩
abbrev Reg.Ctx.GROUP_DROP_SAT : Fld := ⟨0x164, 31, 1, 0, .w1c⟩
/-- Every field of the ISP context half pages (Tables 10.4 and 10.11). -/
def Reg.Ctx.all : List Fld :=
  [Reg.Ctx.NR_S, Reg.Ctx.NR_T, Reg.Ctx.XTALK, Reg.Ctx.GREEN_TH, Reg.Ctx.EDGE, Reg.Ctx.PORT, Reg.Ctx.VC, Reg.Ctx.DT,
    Reg.Ctx.EMB, Reg.Ctx.T5, Reg.Ctx.TNR, Reg.Ctx.WIDTH_M1, Reg.Ctx.HEIGHT_M1, Reg.Ctx.MOSAIC, Reg.Ctx.PHASE_X,
    Reg.Ctx.PHASE_Y, Reg.Ctx.FPS_MAX, Reg.Ctx.DEADLINE, Reg.Ctx.OMODE, Reg.Ctx.PLANES, Reg.Ctx.OFMT, Reg.Ctx.CMP,
    Reg.Ctx.NBUF_M1, Reg.Ctx.SIG_STRIPE, Reg.Ctx.SIG_EN, Reg.Ctx.TALLY, Reg.Ctx.OUT_LO, Reg.Ctx.OUT_HI,
    Reg.Ctx.ROW_PITCH, Reg.Ctx.PLANE_PITCH] ++
  [Reg.Ctx.BUF_PITCH, Reg.Ctx.STAT_LO, Reg.Ctx.STAT_HI, Reg.Ctx.STAT_LEN, Reg.Ctx.STAT_WR, Reg.Ctx.STAT_RD,
    Reg.Ctx.EMB_LO, Reg.Ctx.EMB_HI, Reg.Ctx.COMMIT, Reg.Ctx.PENDING, Reg.Ctx.FRAME_NUM, Reg.Ctx.EPOCH, Reg.Ctx.CTX_ERR,
    Reg.Ctx.LOAD, Reg.Ctx.NEED, Reg.Ctx.GROUP_DROP, Reg.Ctx.GROUP_DROP_SAT] ++
  (List.range 4).map Reg.Ctx.BLACK ++
  (List.range 4).map Reg.Ctx.WB ++
  (List.range 3).map Reg.Ctx.IRK ++
  (List.range 9).map Reg.Ctx.CCM ++
  (List.range 9).map Reg.Ctx.CSC ++
  (List.range 3).map Reg.Ctx.CSCO ++
  (List.range 129).map Reg.Ctx.TONE_LO ++
  (List.range 128).map Reg.Ctx.TONE_HI ++
  (List.range 4).map Reg.Ctx.GAIN ++
  (List.range 4).map Reg.Ctx.OFFSET

/-! ISP pages (Table 10.10) -/
abbrev Reg.Isp.LOAD_SUM : Fld := ⟨0x100, 0, 17, 0, .dv⟩
abbrev Reg.Isp.MUX : Fld := ⟨0x104, 0, 1, 0, .cfg⟩
abbrev Reg.Isp.CIS_RES : Fld := ⟨0x104, 16, 11, 0, .rw⟩
abbrev Reg.Isp.CIS_NEED : Fld := ⟨0x108, 0, 11, 0, .dv⟩
abbrev Reg.Isp.SWITCHES : Fld := ⟨0x10C, 0, 31, 0, .ro⟩
abbrev Reg.Isp.SWITCHES_SAT : Fld := ⟨0x10C, 31, 1, 0, .w1c⟩
abbrev Reg.Isp.ACTIVE_CTX : Fld := ⟨0x110, 0, 5, 0, .ro⟩
abbrev Reg.Isp.BUSY : Fld := ⟨0x110, 5, 1, 0, .dv⟩
abbrev Reg.Isp.T5_CTX : Fld := ⟨0x110, 6, 5, 0, .dv⟩
abbrev Reg.Isp.T5_ACTIVE : Fld := ⟨0x110, 11, 1, 0, .dv⟩
abbrev Reg.Isp.PERIOD (g : Nat) : Fld := ⟨0x140 + 16 * g, 0, 24, 0, .rw⟩
abbrev Reg.Isp.TOL (g : Nat) : Fld := ⟨0x144 + 16 * g, 0, 24, 0, .rw⟩
abbrev Reg.Isp.MEMBERS (g : Nat) : Fld := ⟨0x148 + 16 * g, 0, 32, 0, .rw⟩
abbrev Reg.Isp.G_TALLY (g : Nat) : Fld := ⟨0x14C + 16 * g, 0, 13, 0, .rw⟩
abbrev Reg.Isp.G_SIG_EN (g : Nat) : Fld := ⟨0x14C + 16 * g, 13, 1, 0, .rw⟩
abbrev Reg.Isp.BIN_EN : Fld := ⟨0x1C0, 0, 1, 0, .rw⟩
abbrev Reg.Isp.BIN_PORT : Fld := ⟨0x1C0, 1, 3, 0, .rw⟩
abbrev Reg.Isp.BIN_VC : Fld := ⟨0x1C0, 4, 4, 0, .rw⟩
abbrev Reg.Isp.BIN_DT : Fld := ⟨0x1C0, 8, 6, 0, .rw⟩
abbrev Reg.Isp.BIN_B : Fld := ⟨0x1C0, 14, 2, 0, .rw⟩
abbrev Reg.Isp.BIN_BLACK : Fld := ⟨0x1C4, 0, 20, 0, .rw⟩
abbrev Reg.Isp.BIN_GAIN : Fld := ⟨0x1C8, 0, 32, 0, .rw⟩
abbrev Reg.Isp.BIN_ADDR : Fld := ⟨0x1CC, 0, 20, 0, .rw⟩
abbrev Reg.Isp.BIN_W_M1 : Fld := ⟨0x1D0, 0, 14, 0, .rw⟩
abbrev Reg.Isp.BIN_H_M1 : Fld := ⟨0x1D0, 16, 14, 0, .rw⟩
abbrev Reg.Isp.BIN_TALLY : Fld := ⟨0x1D4, 0, 13, 0, .rw⟩
abbrev Reg.Isp.BIN_SIG_EN : Fld := ⟨0x1D4, 13, 1, 0, .rw⟩
abbrev Reg.Isp.BIN_FLAGS : Fld := ⟨0x1D8, 0, 4, 0, .ro⟩
/-- Every field of the ISP pages (Table 10.10). -/
def Reg.Isp.all : List Fld :=
  [Reg.Isp.LOAD_SUM, Reg.Isp.MUX, Reg.Isp.CIS_RES, Reg.Isp.CIS_NEED, Reg.Isp.SWITCHES, Reg.Isp.SWITCHES_SAT,
    Reg.Isp.ACTIVE_CTX, Reg.Isp.BUSY, Reg.Isp.T5_CTX, Reg.Isp.T5_ACTIVE, Reg.Isp.BIN_EN, Reg.Isp.BIN_PORT,
    Reg.Isp.BIN_VC, Reg.Isp.BIN_DT, Reg.Isp.BIN_B, Reg.Isp.BIN_BLACK, Reg.Isp.BIN_GAIN, Reg.Isp.BIN_ADDR,
    Reg.Isp.BIN_W_M1, Reg.Isp.BIN_H_M1, Reg.Isp.BIN_TALLY, Reg.Isp.BIN_SIG_EN, Reg.Isp.BIN_FLAGS] ++
  (List.range 8).map Reg.Isp.PERIOD ++
  (List.range 8).map Reg.Isp.TOL ++
  (List.range 8).map Reg.Isp.MEMBERS ++
  (List.range 8).map Reg.Isp.G_TALLY ++
  (List.range 8).map Reg.Isp.G_SIG_EN

/-! AUDIO page (Table 11.5) -/
abbrev Reg.Audio.CH_EN : Fld := ⟨0x100, 0, 8, 0, .rw⟩
abbrev Reg.Audio.HQ_CH_EN : Fld := ⟨0x100, 8, 8, 0, .rw⟩
abbrev Reg.Audio.HQ_EN : Fld := ⟨0x100, 16, 1, 0, .rw⟩
abbrev Reg.Audio.SUMP_WIPE : Fld := ⟨0x100, 17, 1, 0, .rw⟩
abbrev Reg.Audio.SETTLE : Fld := ⟨0x100, 24, 8, 0x20, .rw⟩
abbrev Reg.Audio.GAIN_REQ : Fld := ⟨0x104, 0, 16, 0, .rw⟩
abbrev Reg.Audio.GAIN_ACT : Fld := ⟨0x104, 16, 16, 0, .ro⟩
abbrev Reg.Audio.SIDX_LO : Fld := ⟨0x108, 0, 32, 0, .dv⟩
abbrev Reg.Audio.SIDX_HI : Fld := ⟨0x10C, 0, 32, 0, .dv⟩
abbrev Reg.Audio.MUTED : Fld := ⟨0x110, 0, 1, 0, .ro⟩
abbrev Reg.Audio.HQ_ACTIVE : Fld := ⟨0x110, 1, 1, 0, .ro⟩
abbrev Reg.Audio.AON_SIMPLEX : Fld := ⟨0x110, 2, 1, 0, .ro⟩
abbrev Reg.Audio.CAL_SRC : Fld := ⟨0x110, 3, 2, 0, .ro⟩
abbrev Reg.Audio.CAL_BAD : Fld := ⟨0x110, 5, 1, 0, .w1c⟩
abbrev Reg.Audio.UNDERRUN : Fld := ⟨0x110, 8, 8, 0, .ro⟩
abbrev Reg.Audio.UNMUTE_BLOCKS : Fld := ⟨0x114, 0, 8, 0x04, .rw⟩
abbrev Reg.Audio.SPLICE_LO : Fld := ⟨0x118, 0, 32, 0, .ro⟩
abbrev Reg.Audio.SPLICE_HI : Fld := ⟨0x11C, 0, 32, 0, .ro⟩
abbrev Reg.Audio.CAL_LO : Fld := ⟨0x120, 0, 32, 0, .rw⟩
abbrev Reg.Audio.CAL_HI : Fld := ⟨0x124, 0, 8, 0, .rw⟩
abbrev Reg.Audio.CAL_LOAD : Fld := ⟨0x124, 31, 1, 0, .w1s⟩
abbrev Reg.Audio.DET_EN : Fld := ⟨0x128, 0, 4, 0, .rw⟩
abbrev Reg.Audio.DET_MASK : Fld := ⟨0x128, 8, 8, 0xFF, .rw⟩
abbrev Reg.Audio.DET_EVT : Fld := ⟨0x12C, 0, 5, 0, .w1c⟩
abbrev Reg.Audio.DET_SIDX_LO : Fld := ⟨0x130, 0, 32, 0, .ro⟩
abbrev Reg.Audio.DET_SIDX_HI : Fld := ⟨0x134, 0, 32, 0, .ro⟩
abbrev Reg.Audio.PEAK_PLAIN (c : Nat) : Fld := ⟨0x140 + 4 * c, 0, 16, 0, .ro⟩
abbrev Reg.Audio.PEAK_GAINED (c : Nat) : Fld := ⟨0x140 + 4 * c, 16, 16, 0, .ro⟩
abbrev Reg.Audio.EN (s : Nat) : Fld := ⟨0x200 + 0x40 * s, 0, 1, 0, .rw⟩
abbrev Reg.Audio.SRC (s : Nat) : Fld := ⟨0x200 + 0x40 * s, 1, 1, 0, .rw⟩
abbrev Reg.Audio.VIEW (s : Nat) : Fld := ⟨0x200 + 0x40 * s, 2, 1, 0, .rw⟩
abbrev Reg.Audio.FORM (s : Nat) : Fld := ⟨0x200 + 0x40 * s, 3, 2, 0, .rw⟩
abbrev Reg.Audio.CH (s : Nat) : Fld := ⟨0x200 + 0x40 * s, 8, 8, 0, .rw⟩
abbrev Reg.Audio.BACK (s : Nat) : Fld := ⟨0x200 + 0x40 * s, 16, 8, 0, .rw⟩
abbrev Reg.Audio.DST_LO (s : Nat) : Fld := ⟨0x204 + 0x40 * s, 0, 32, 0, .rw⟩
abbrev Reg.Audio.DST_HI (s : Nat) : Fld := ⟨0x208 + 0x40 * s, 0, 8, 0, .rw⟩
abbrev Reg.Audio.SLOT_PITCH (s : Nat) : Fld := ⟨0x20C + 0x40 * s, 0, 24, 0, .rw⟩
abbrev Reg.Audio.NBUF_M1 (s : Nat) : Fld := ⟨0x210 + 0x40 * s, 0, 8, 0, .rw⟩
abbrev Reg.Audio.REC_LO (s : Nat) : Fld := ⟨0x214 + 0x40 * s, 0, 32, 0, .rw⟩
abbrev Reg.Audio.REC_HI (s : Nat) : Fld := ⟨0x218 + 0x40 * s, 0, 8, 0, .rw⟩
abbrev Reg.Audio.TALLY (s : Nat) : Fld := ⟨0x21C + 0x40 * s, 0, 13, 0, .rw⟩
abbrev Reg.Audio.SIG_EN (s : Nat) : Fld := ⟨0x21C + 0x40 * s, 13, 1, 0, .rw⟩
abbrev Reg.Audio.BLK_NUM (s : Nat) : Fld := ⟨0x220 + 0x40 * s, 0, 32, 0, .ro⟩
abbrev Reg.Audio.ACTIVE (s : Nat) : Fld := ⟨0x224 + 0x40 * s, 0, 1, 0, .ro⟩
abbrev Reg.Audio.CATCHUP (s : Nat) : Fld := ⟨0x224 + 0x40 * s, 1, 1, 0, .ro⟩
/-- Every field of the AUDIO page (Table 11.5). -/
def Reg.Audio.all : List Fld :=
  [Reg.Audio.CH_EN, Reg.Audio.HQ_CH_EN, Reg.Audio.HQ_EN, Reg.Audio.SUMP_WIPE, Reg.Audio.SETTLE, Reg.Audio.GAIN_REQ,
    Reg.Audio.GAIN_ACT, Reg.Audio.SIDX_LO, Reg.Audio.SIDX_HI, Reg.Audio.MUTED, Reg.Audio.HQ_ACTIVE,
    Reg.Audio.AON_SIMPLEX, Reg.Audio.CAL_SRC, Reg.Audio.CAL_BAD, Reg.Audio.UNDERRUN, Reg.Audio.UNMUTE_BLOCKS,
    Reg.Audio.SPLICE_LO, Reg.Audio.SPLICE_HI, Reg.Audio.CAL_LO, Reg.Audio.CAL_HI, Reg.Audio.CAL_LOAD, Reg.Audio.DET_EN,
    Reg.Audio.DET_MASK, Reg.Audio.DET_EVT, Reg.Audio.DET_SIDX_LO, Reg.Audio.DET_SIDX_HI] ++
  (List.range 8).map Reg.Audio.PEAK_PLAIN ++
  (List.range 8).map Reg.Audio.PEAK_GAINED ++
  (List.range 4).map Reg.Audio.EN ++
  (List.range 4).map Reg.Audio.SRC ++
  (List.range 4).map Reg.Audio.VIEW ++
  (List.range 4).map Reg.Audio.FORM ++
  (List.range 4).map Reg.Audio.CH ++
  (List.range 4).map Reg.Audio.BACK ++
  (List.range 4).map Reg.Audio.DST_LO ++
  (List.range 4).map Reg.Audio.DST_HI ++
  (List.range 4).map Reg.Audio.SLOT_PITCH ++
  (List.range 4).map Reg.Audio.NBUF_M1 ++
  (List.range 4).map Reg.Audio.REC_LO ++
  (List.range 4).map Reg.Audio.REC_HI ++
  (List.range 4).map Reg.Audio.TALLY ++
  (List.range 4).map Reg.Audio.SIG_EN ++
  (List.range 4).map Reg.Audio.BLK_NUM ++
  (List.range 4).map Reg.Audio.ACTIVE ++
  (List.range 4).map Reg.Audio.CATCHUP

/-! AOUT page (Table 11.6) -/
abbrev Reg.Aout.FMT (p : Nat) : Fld := ⟨0x100 + 0x40 * p, 0, 2, 0, .rw⟩
abbrev Reg.Aout.SLOTS_M1 (p : Nat) : Fld := ⟨0x100 + 0x40 * p, 2, 3, 0, .rw⟩
abbrev Reg.Aout.SLOT_W (p : Nat) : Fld := ⟨0x100 + 0x40 * p, 5, 2, 0, .rw⟩
abbrev Reg.Aout.DATA_W (p : Nat) : Fld := ⟨0x100 + 0x40 * p, 7, 1, 0, .rw⟩
abbrev Reg.Aout.RATE (p : Nat) : Fld := ⟨0x100 + 0x40 * p, 8, 2, 0, .rw⟩
abbrev Reg.Aout.EN (p : Nat) : Fld := ⟨0x100 + 0x40 * p, 10, 1, 0, .rw⟩
abbrev Reg.Aout.SRC_LO (p : Nat) : Fld := ⟨0x100 + 0x40 * p + 0x04, 0, 32, 0, .rw⟩
abbrev Reg.Aout.SRC_HI (p : Nat) : Fld := ⟨0x100 + 0x40 * p + 0x08, 0, 8, 0, .rw⟩
abbrev Reg.Aout.FRAMES (p : Nat) : Fld := ⟨0x100 + 0x40 * p + 0x0C, 0, 16, 0, .rw⟩
abbrev Reg.Aout.WR (p : Nat) : Fld := ⟨0x100 + 0x40 * p + 0x10, 0, 16, 0, .rw⟩
abbrev Reg.Aout.RD (p : Nat) : Fld := ⟨0x100 + 0x40 * p + 0x14, 0, 16, 0, .ro⟩
abbrev Reg.Aout.TALLY (p : Nat) : Fld := ⟨0x100 + 0x40 * p + 0x18, 0, 13, 0, .rw⟩
abbrev Reg.Aout.SIG_EN (p : Nat) : Fld := ⟨0x100 + 0x40 * p + 0x18, 13, 1, 0, .rw⟩
abbrev Reg.Aout.PERIOD (p : Nat) : Fld := ⟨0x100 + 0x40 * p + 0x18, 16, 16, 0, .rw⟩
abbrev Reg.Aout.UNDERFLOW (p : Nat) : Fld := ⟨0x100 + 0x40 * p + 0x1C, 0, 31, 0, .ro⟩
abbrev Reg.Aout.UNDERFLOW_SAT (p : Nat) : Fld := ⟨0x100 + 0x40 * p + 0x1C, 31, 1, 0, .w1c⟩
/-- Every field of the AOUT page (Table 11.6). -/
def Reg.Aout.all : List Fld :=
  (List.range 2).map Reg.Aout.FMT ++
  (List.range 2).map Reg.Aout.SLOTS_M1 ++
  (List.range 2).map Reg.Aout.SLOT_W ++
  (List.range 2).map Reg.Aout.DATA_W ++
  (List.range 2).map Reg.Aout.RATE ++
  (List.range 2).map Reg.Aout.EN ++
  (List.range 2).map Reg.Aout.SRC_LO ++
  (List.range 2).map Reg.Aout.SRC_HI ++
  (List.range 2).map Reg.Aout.FRAMES ++
  (List.range 2).map Reg.Aout.WR ++
  (List.range 2).map Reg.Aout.RD ++
  (List.range 2).map Reg.Aout.TALLY ++
  (List.range 2).map Reg.Aout.SIG_EN ++
  (List.range 2).map Reg.Aout.PERIOD ++
  (List.range 2).map Reg.Aout.UNDERFLOW ++
  (List.range 2).map Reg.Aout.UNDERFLOW_SAT

/-! POWER page (Table 12.10) -/
abbrev Reg.Power.SEQ_MASK : Fld := ⟨0x100, 0, 27, 0, .rw⟩
abbrev Reg.Power.SEQ_MODE : Fld := ⟨0x104, 0, 2, 0, .rw⟩
abbrev Reg.Power.SEQ_GO : Fld := ⟨0x104, 31, 1, 0, .w1s⟩
abbrev Reg.Power.SEQ_STATUS : Fld := ⟨0x108, 0, 2, 0, .ro⟩
abbrev Reg.Power.SEQ_HELD : Fld := ⟨0x108, 4, 5, 0, .ro⟩
abbrev Reg.Power.SEQ_REASON : Fld := ⟨0x108, 12, 4, 0, .ro⟩
abbrev Reg.Power.SEQ_TIMEOUT : Fld := ⟨0x10C, 0, 16, 0x0BB8, .rw⟩
abbrev Reg.Power.LAST_REFUSER : Fld := ⟨0x110, 0, 5, 0, .ro⟩
abbrev Reg.Power.LAST_REASON : Fld := ⟨0x110, 8, 4, 0, .ro⟩
abbrev Reg.Power.COLD_ALL : Fld := ⟨0x114, 0, 27, 0, .dv⟩
abbrev Reg.Power.STATE_LO : Fld := ⟨0x118, 0, 32, 0, .dv⟩
abbrev Reg.Power.STATE_HI : Fld := ⟨0x11C, 0, 22, 0, .dv⟩
abbrev Reg.Power.REF_STARTS : Fld := ⟨0x120, 0, 31, 0, .ro⟩
abbrev Reg.Power.REF_STARTS_SAT : Fld := ⟨0x120, 31, 1, 0, .w1c⟩
abbrev Reg.Power.REFUSALS (d : Nat) : Fld := ⟨0x200 + 8 * d, 0, 31, 0, .ro⟩
abbrev Reg.Power.REFUSALS_SAT (d : Nat) : Fld := ⟨0x200 + 8 * d, 31, 1, 0, .w1c⟩
abbrev Reg.Power.ABORTS (d : Nat) : Fld := ⟨0x204 + 8 * d, 0, 31, 0, .ro⟩
abbrev Reg.Power.ABORTS_SAT (d : Nat) : Fld := ⟨0x204 + 8 * d, 31, 1, 0, .w1c⟩
abbrev Reg.Power.WAKE_NC (d : Nat) : Fld := ⟨0x300 + 4 * d, 0, 32, 0, .ro⟩
abbrev Reg.Power.CNT_CLR : Fld := ⟨0x380, 0, 1, 0, .w1s⟩
/-- Every field of the POWER page (Table 12.10). -/
def Reg.Power.all : List Fld :=
  [Reg.Power.SEQ_MASK, Reg.Power.SEQ_MODE, Reg.Power.SEQ_GO, Reg.Power.SEQ_STATUS, Reg.Power.SEQ_HELD,
    Reg.Power.SEQ_REASON, Reg.Power.SEQ_TIMEOUT, Reg.Power.LAST_REFUSER, Reg.Power.LAST_REASON, Reg.Power.COLD_ALL,
    Reg.Power.STATE_LO, Reg.Power.STATE_HI, Reg.Power.REF_STARTS, Reg.Power.REF_STARTS_SAT, Reg.Power.CNT_CLR]
    ++
(List.range 27).map Reg.Power.REFUSALS ++
  (List.range 27).map Reg.Power.REFUSALS_SAT ++
  (List.range 27).map Reg.Power.ABORTS ++
  (List.range 27).map Reg.Power.ABORTS_SAT ++
  (List.range 27).map Reg.Power.WAKE_NC

/-! LIFT page (Table 12.11) -/
abbrev Reg.Lift.RECORD (e : Nat) : Fld := ⟨0x100 + 4 * e, 0, 5, 0, .rw⟩
abbrev Reg.Lift.EN (e : Nat) : Fld := ⟨0x100 + 4 * e, 5, 1, 0, .rw⟩
abbrev Reg.Lift.IN_PROGRESS : Fld := ⟨0x120, 0, 5, 0, .dv⟩
abbrev Reg.Lift.LIFT_HELD : Fld := ⟨0x120, 8, 5, 0, .dv⟩
abbrev Reg.Lift.LIFT_STALL : Fld := ⟨0x124, 0, 31, 0, .ro⟩
abbrev Reg.Lift.LIFT_STALL_SAT : Fld := ⟨0x124, 31, 1, 0, .w1c⟩
abbrev Reg.Lift.RAISED (r : Nat) : Fld := ⟨0x180 + 4 * r, 0, 32, 0, .ro⟩
abbrev Reg.Lift.THRESH (i : Nat) : Fld := ⟨0x400 + 8 * i, 0, 32, 0, .rw⟩
abbrev Reg.Lift.THR_RECORD (i : Nat) : Fld := ⟨0x404 + 8 * i, 0, 5, 0, .rw⟩
abbrev Reg.Lift.THR_EN (i : Nat) : Fld := ⟨0x404 + 8 * i, 5, 1, 0, .rw⟩
/-- Width of the words 0 to 15 of a lift record up to the highest bit that Table 12.6 names; the bits above are reserved and read 0 (R8). -/
def recBits (k : Nat) : Nat := nth 0 [27, 17, 32, 14, 32, 16, 32, 8, 16] k
abbrev Reg.Lift.REC_WORD (i : Nat) : Fld := ⟨0x800 + 4 * i, 0, recBits (i % 16), 0, .rw⟩
/-- Every field of the LIFT page (Table 12.11). -/
def Reg.Lift.all : List Fld :=
  [Reg.Lift.IN_PROGRESS, Reg.Lift.LIFT_HELD, Reg.Lift.LIFT_STALL, Reg.Lift.LIFT_STALL_SAT] ++
  (List.range 5).map Reg.Lift.RECORD ++
  (List.range 5).map Reg.Lift.EN ++
  (List.range 32).map Reg.Lift.RAISED ++
  (List.range 128).map Reg.Lift.THRESH ++
  (List.range 128).map Reg.Lift.THR_RECORD ++
  (List.range 128).map Reg.Lift.THR_EN ++
  (List.range 512).map Reg.Lift.REC_WORD

/-! TRNG page (Table 13.8) -/
abbrev Reg.Trng.DATA : Fld := ⟨0x100, 0, 32, 0, .ro⟩
abbrev Reg.Trng.VALID : Fld := ⟨0x104, 0, 1, 0, .dv⟩
abbrev Reg.Trng.SEEDED : Fld := ⟨0x104, 1, 1, 0, .ro⟩
abbrev Reg.Trng.HEALTH_FAIL : Fld := ⟨0x104, 2, 1, 0, .w1c⟩
abbrev Reg.Trng.RESEEDS : Fld := ⟨0x108, 0, 31, 0, .ro⟩
abbrev Reg.Trng.RESEEDS_SAT : Fld := ⟨0x108, 31, 1, 0, .w1c⟩
/-- Every field of the TRNG page (Table 13.8). -/
def Reg.Trng.all : List Fld :=
  [Reg.Trng.DATA, Reg.Trng.VALID, Reg.Trng.SEEDED, Reg.Trng.HEALTH_FAIL, Reg.Trng.RESEEDS, Reg.Trng.RESEEDS_SAT]

/-! SEC page (Table 13.9) -/
abbrev Reg.Sec.LC : Fld := ⟨0x100, 0, 2, 0, .dv⟩
abbrev Reg.Sec.LC_PENDING : Fld := ⟨0x100, 2, 1, 0, .dv⟩
abbrev Reg.Sec.DBG_SCOPE : Fld := ⟨0x100, 4, 4, 0, .dv⟩
abbrev Reg.Sec.DBG_LOCKOUT : Fld := ⟨0x100, 8, 1, 0, .ro⟩
abbrev Reg.Sec.IDE_REQ : Fld := ⟨0x100, 9, 1, 0, .rw⟩
abbrev Reg.Sec.OWNER_EN : Fld := ⟨0x104, 0, 4, 0, .dv⟩
abbrev Reg.Sec.OWNER_DBG : Fld := ⟨0x104, 4, 4, 0, .dv⟩
abbrev Reg.Sec.DEVICE_ID (i : Nat) : Fld := ⟨0x120 + 4 * i, 0, 32, 0, .dv⟩
abbrev Reg.Sec.CMD_LO : Fld := ⟨0x140, 0, 32, 0, .rw⟩
abbrev Reg.Sec.CMD_HI : Fld := ⟨0x144, 0, 8, 0, .rw⟩
abbrev Reg.Sec.CMD_GO : Fld := ⟨0x144, 31, 1, 0, .w1s⟩
abbrev Reg.Sec.CMD_STATUS : Fld := ⟨0x148, 0, 4, 0, .ro⟩
abbrev Reg.Sec.WELL_CTR_LO : Fld := ⟨0x150, 0, 32, 0, .dv⟩
abbrev Reg.Sec.WELL_CTR_HI : Fld := ⟨0x154, 0, 16, 0, .dv⟩
abbrev Reg.Sec.REKEY_DUE : Fld := ⟨0x154, 16, 1, 0, .ro⟩
abbrev Reg.Sec.ROLLBACK (i : Nat) : Fld := ⟨0x160 + 4 * i, 0, 32, 0, .dv⟩
/-- Every field of the SEC page (Table 13.9). -/
def Reg.Sec.all : List Fld :=
  [Reg.Sec.LC, Reg.Sec.LC_PENDING, Reg.Sec.DBG_SCOPE, Reg.Sec.DBG_LOCKOUT, Reg.Sec.IDE_REQ, Reg.Sec.OWNER_EN,
    Reg.Sec.OWNER_DBG, Reg.Sec.CMD_LO, Reg.Sec.CMD_HI, Reg.Sec.CMD_GO, Reg.Sec.CMD_STATUS, Reg.Sec.WELL_CTR_LO,
    Reg.Sec.WELL_CTR_HI, Reg.Sec.REKEY_DUE] ++
  (List.range 8).map Reg.Sec.DEVICE_ID ++
  (List.range 4).map Reg.Sec.ROLLBACK

/-! SYS page (Table 14.4) -/
abbrev Reg.Sys.STAGE : Fld := ⟨0x100, 0, 4, 0, .ro⟩
abbrev Reg.Sys.DEGRADED : Fld := ⟨0x100, 4, 1, 0, .ro⟩
abbrev Reg.Sys.BOOT_COPY : Fld := ⟨0x100, 5, 1, 0, .ro⟩
abbrev Reg.Sys.BOOT_US : Fld := ⟨0x104, 0, 32, 0, .ro⟩
abbrev Reg.Sys.RESTART : Fld := ⟨0x108, 0, 1, 0, .w1s⟩
abbrev Reg.Sys.REMOVALS : Fld := ⟨0x10C, 0, 8, 0, .ro⟩
/-- Every field of the SYS page (Table 14.4). -/
def Reg.Sys.all : List Fld :=
  [Reg.Sys.STAGE, Reg.Sys.DEGRADED, Reg.Sys.BOOT_COPY, Reg.Sys.BOOT_US, Reg.Sys.RESTART, Reg.Sys.REMOVALS]

/-! FLOOR page (Table 14.5) -/
abbrev Reg.Floor.ARR_PRESENT : Fld := ⟨0x100, 0, 9, 0, .ro⟩
abbrev Reg.Floor.ARR_REMOVED : Fld := ⟨0x100, 16, 9, 0, .ro⟩
abbrev Reg.Floor.LINK_PRESENT : Fld := ⟨0x104, 0, 10, 0, .ro⟩
abbrev Reg.Floor.LINK_FAILED : Fld := ⟨0x104, 16, 10, 0, .ro⟩
abbrev Reg.Floor.CIS_PRESENT : Fld := ⟨0x108, 0, 8, 0, .ro⟩
abbrev Reg.Floor.CIS_FAILED : Fld := ⟨0x108, 8, 8, 0, .ro⟩
abbrev Reg.Floor.CH_PRESENT : Fld := ⟨0x108, 16, 8, 0, .ro⟩
abbrev Reg.Floor.CH_FAILED : Fld := ⟨0x108, 24, 8, 0, .ro⟩
abbrev Reg.Floor.CSI_PRESENT : Fld := ⟨0x10C, 0, 6, 0, .ro⟩
abbrev Reg.Floor.CSI_FAILED : Fld := ⟨0x10C, 8, 6, 0, .ro⟩
abbrev Reg.Floor.ORDER : Fld := ⟨0x10C, 16, 2, 0, .dv⟩
abbrev Reg.Floor.WELL_FRAMES : Fld := ⟨0x110, 0, 21, 0, .ro⟩
abbrev Reg.Floor.FLOOR_GEN : Fld := ⟨0x114, 0, 32, 0, .ro⟩
abbrev Reg.Floor.X (n : Nat) : Fld := ⟨0x140 + 4 * n, 0, 2, 0, .ro⟩
abbrev Reg.Floor.Y (n : Nat) : Fld := ⟨0x140 + 4 * n, 2, 1, 0, .ro⟩
abbrev Reg.Floor.PRESENT (n : Nat) : Fld := ⟨0x140 + 4 * n, 3, 1, 0, .ro⟩
abbrev Reg.Floor.REMOVED (n : Nat) : Fld := ⟨0x140 + 4 * n, 4, 1, 0, .ro⟩
abbrev Reg.Floor.CAUSE (n : Nat) : Fld := ⟨0x140 + 4 * n, 5, 3, 0, .ro⟩
abbrev Reg.Floor.ON_MESH (n : Nat) : Fld := ⟨0x140 + 4 * n, 8, 1, 0, .ro⟩
/-- Every field of the FLOOR page (Table 14.5). -/
def Reg.Floor.all : List Fld :=
  [Reg.Floor.ARR_PRESENT, Reg.Floor.ARR_REMOVED, Reg.Floor.LINK_PRESENT, Reg.Floor.LINK_FAILED, Reg.Floor.CIS_PRESENT,
    Reg.Floor.CIS_FAILED, Reg.Floor.CH_PRESENT, Reg.Floor.CH_FAILED, Reg.Floor.CSI_PRESENT, Reg.Floor.CSI_FAILED,
    Reg.Floor.ORDER, Reg.Floor.WELL_FRAMES, Reg.Floor.FLOOR_GEN] ++
  (List.range 9).map Reg.Floor.X ++
  (List.range 9).map Reg.Floor.Y ++
  (List.range 9).map Reg.Floor.PRESENT ++
  (List.range 9).map Reg.Floor.REMOVED ++
  (List.range 9).map Reg.Floor.CAUSE ++
  (List.range 9).map Reg.Floor.ON_MESH

/-! FUSE page (Table 14.6) -/
abbrev Reg.Fuse.ORDER : Fld := ⟨0x100, 0, 2, 0, .ro⟩
abbrev Reg.Fuse.ARR_OFF : Fld := ⟨0x100, 8, 8, 0, .ro⟩
abbrev Reg.Fuse.CIS_OFF : Fld := ⟨0x100, 16, 8, 0, .ro⟩
abbrev Reg.Fuse.CH_OFF : Fld := ⟨0x100, 24, 8, 0, .ro⟩
abbrev Reg.Fuse.CSI_OFF : Fld := ⟨0x104, 0, 6, 0, .ro⟩
abbrev Reg.Fuse.WELL_MAX : Fld := ⟨0x104, 8, 8, 64, .ro⟩
abbrev Reg.Fuse.FUSE_OK : Fld := ⟨0x104, 16, 1, 0, .ro⟩
/-- Every field of the FUSE page (Table 14.6). -/
def Reg.Fuse.all : List Fld :=
  [Reg.Fuse.ORDER, Reg.Fuse.ARR_OFF, Reg.Fuse.CIS_OFF, Reg.Fuse.CH_OFF, Reg.Fuse.CSI_OFF, Reg.Fuse.WELL_MAX,
    Reg.Fuse.FUSE_OK]

/-! PCIE page (Table 15.3) -/
abbrev Reg.Pcie.RING_LO : Fld := ⟨0x100, 6, 26, 0, .cfg⟩
abbrev Reg.Pcie.RING_HI : Fld := ⟨0x104, 0, 32, 0, .cfg⟩
abbrev Reg.Pcie.RING_LEN : Fld := ⟨0x108, 0, 12, 0x040, .cfg⟩
abbrev Reg.Pcie.TAIL : Fld := ⟨0x10C, 0, 12, 0, .rw⟩
abbrev Reg.Pcie.HEAD : Fld := ⟨0x110, 0, 12, 0, .ro⟩
abbrev Reg.Pcie.HD_FAULT : Fld := ⟨0x114, 0, 8, 0, .ro⟩
abbrev Reg.Pcie.FAULT_IDX : Fld := ⟨0x114, 8, 12, 0, .ro⟩
abbrev Reg.Pcie.DIG_LO : Fld := ⟨0x118, 0, 32, 0, .cfg⟩
abbrev Reg.Pcie.DIG_HI : Fld := ⟨0x11C, 0, 8, 0, .cfg⟩
abbrev Reg.Pcie.XFERS : Fld := ⟨0x120, 0, 31, 0, .ro⟩
abbrev Reg.Pcie.XFERS_SAT : Fld := ⟨0x120, 31, 1, 0, .w1c⟩
/-- Every field of the PCIE page (Table 15.3). -/
def Reg.Pcie.all : List Fld :=
  [Reg.Pcie.RING_LO, Reg.Pcie.RING_HI, Reg.Pcie.RING_LEN, Reg.Pcie.TAIL, Reg.Pcie.HEAD, Reg.Pcie.HD_FAULT,
    Reg.Pcie.FAULT_IDX, Reg.Pcie.DIG_LO, Reg.Pcie.DIG_HI, Reg.Pcie.XFERS, Reg.Pcie.XFERS_SAT]

/-! ASP page (Table 15.4) -/
abbrev Reg.Asp.WM_EN : Fld := ⟨0x100, 0, 1, 1, .rw⟩
abbrev Reg.Asp.XOFF_SW : Fld := ⟨0x100, 1, 1, 0, .rw⟩
abbrev Reg.Asp.XOFF : Fld := ⟨0x100, 2, 1, 0, .dv⟩
abbrev Reg.Asp.RDY : Fld := ⟨0x100, 3, 1, 0, .dv⟩
abbrev Reg.Asp.HI_WM : Fld := ⟨0x104, 0, 14, 0x1800, .cfg⟩
abbrev Reg.Asp.LO_WM : Fld := ⟨0x104, 16, 14, 0x0800, .cfg⟩
abbrev Reg.Asp.COUNT : Fld := ⟨0x108, 0, 14, 0, .dv⟩
abbrev Reg.Asp.DRAIN_LEN : Fld := ⟨0x10C, 0, 14, 0, .rw⟩
abbrev Reg.Asp.DRAIN_GO : Fld := ⟨0x10C, 31, 1, 0, .w1s⟩
abbrev Reg.Asp.DST_LO : Fld := ⟨0x110, 0, 32, 0, .cfg⟩
abbrev Reg.Asp.DST_HI : Fld := ⟨0x114, 0, 8, 0, .cfg⟩
abbrev Reg.Asp.DST_LEN : Fld := ⟨0x118, 0, 24, 0, .cfg⟩
abbrev Reg.Asp.DST_OFF : Fld := ⟨0x11C, 0, 24, 0, .ro⟩
abbrev Reg.Asp.DIG_LO : Fld := ⟨0x120, 0, 32, 0, .cfg⟩
abbrev Reg.Asp.DIG_HI : Fld := ⟨0x124, 0, 8, 0, .cfg⟩
abbrev Reg.Asp.DIG_SLOTS_M1 : Fld := ⟨0x124, 8, 8, 0, .cfg⟩
abbrev Reg.Asp.ASP_PART : Fld := ⟨0x128, 0, 3, 0, .cfg⟩
abbrev Reg.Asp.XFER_NUM : Fld := ⟨0x12C, 0, 32, 0, .ro⟩
abbrev Reg.Asp.OVERRUN : Fld := ⟨0x130, 0, 1, 0, .w1c⟩
abbrev Reg.Asp.DROPPED : Fld := ⟨0x134, 0, 31, 0, .ro⟩
abbrev Reg.Asp.DROPPED_SAT : Fld := ⟨0x134, 31, 1, 0, .w1c⟩
/-- Every field of the ASP page (Table 15.4). -/
def Reg.Asp.all : List Fld :=
  [Reg.Asp.WM_EN, Reg.Asp.XOFF_SW, Reg.Asp.XOFF, Reg.Asp.RDY, Reg.Asp.HI_WM, Reg.Asp.LO_WM, Reg.Asp.COUNT,
    Reg.Asp.DRAIN_LEN, Reg.Asp.DRAIN_GO, Reg.Asp.DST_LO, Reg.Asp.DST_HI, Reg.Asp.DST_LEN, Reg.Asp.DST_OFF,
    Reg.Asp.DIG_LO, Reg.Asp.DIG_HI, Reg.Asp.DIG_SLOTS_M1, Reg.Asp.ASP_PART, Reg.Asp.XFER_NUM, Reg.Asp.OVERRUN,
    Reg.Asp.DROPPED, Reg.Asp.DROPPED_SAT]

/-! HV page (Table 16.4) -/
abbrev Reg.Hv.CELLS : Fld := ⟨0x100, 0, 4, 0, .rw⟩
abbrev Reg.Hv.NTC_EN : Fld := ⟨0x100, 4, 1, 0, .rw⟩
abbrev Reg.Hv.SHUNT_UOHM : Fld := ⟨0x104, 0, 16, 0, .rw⟩
abbrev Reg.Hv.RPACK_MOHM : Fld := ⟨0x104, 16, 16, 0, .rw⟩
abbrev Reg.Hv.RANGE : Fld := ⟨0x108, 0, 1, 0, .ro⟩
abbrev Reg.Hv.RESTING : Fld := ⟨0x108, 1, 1, 0, .ro⟩
abbrev Reg.Hv.TABLE_BAD : Fld := ⟨0x108, 2, 1, 0, .ro⟩
abbrev Reg.Hv.QSAT : Fld := ⟨0x108, 3, 1, 0, .w1c⟩
abbrev Reg.Hv.GAUGE_DISAGREE : Fld := ⟨0x108, 4, 1, 0, .ro⟩
abbrev Reg.Hv.EMPTY : Fld := ⟨0x108, 5, 1, 0, .ro⟩
abbrev Reg.Hv.I_CODE : Fld := ⟨0x10C, 0, 27, 0, .ro⟩
abbrev Reg.Hv.VPACK_MV : Fld := ⟨0x110, 0, 16, 0, .ro⟩
abbrev Reg.Hv.NTC_CODE : Fld := ⟨0x110, 16, 12, 0, .ro⟩
abbrev Reg.Hv.NTC_FAULT : Fld := ⟨0x110, 28, 1, 0, .ro⟩
abbrev Reg.Hv.QCNT_LO : Fld := ⟨0x114, 0, 32, 0, .dv⟩
abbrev Reg.Hv.QCNT_HI : Fld := ⟨0x118, 0, 16, 0, .dv⟩
abbrev Reg.Hv.QSET_LO : Fld := ⟨0x11C, 0, 32, 0, .rw⟩
abbrev Reg.Hv.QSET_HI : Fld := ⟨0x120, 0, 16, 0, .rw⟩
abbrev Reg.Hv.Q_LOAD : Fld := ⟨0x120, 31, 1, 0, .w1s⟩
abbrev Reg.Hv.CAP_LO : Fld := ⟨0x124, 0, 32, 0, .rw⟩
abbrev Reg.Hv.CAP_HI : Fld := ⟨0x128, 0, 16, 0, .rw⟩
abbrev Reg.Hv.SOC_Q : Fld := ⟨0x12C, 0, 16, 0, .ro⟩
abbrev Reg.Hv.SOC_V : Fld := ⟨0x12C, 16, 16, 0, .ro⟩
abbrev Reg.Hv.DIS_TH : Fld := ⟨0x130, 0, 16, 0x0CCD, .rw⟩
abbrev Reg.Hv.EMPTY_SOC : Fld := ⟨0x130, 16, 16, 0x051F, .rw⟩
abbrev Reg.Hv.CUTOFF_MV : Fld := ⟨0x134, 0, 16, 0, .rw⟩
abbrev Reg.Hv.REST_MA : Fld := ⟨0x134, 16, 16, 0x0064, .rw⟩
abbrev Reg.Hv.Q_UNC : Fld := ⟨0x138, 0, 31, 0, .ro⟩
abbrev Reg.Hv.Q_UNC_SAT : Fld := ⟨0x138, 31, 1, 0, .w1c⟩
abbrev Reg.Hv.ANCHORS : Fld := ⟨0x13C, 0, 31, 0, .ro⟩
abbrev Reg.Hv.ANCHORS_SAT : Fld := ⟨0x13C, 31, 1, 0, .w1c⟩
abbrev Reg.Hv.OCV_MV (i : Nat) : Fld := ⟨0x140 + 4 * i, 0, 16, 0, .rw⟩
abbrev Reg.Hv.OCV_SOC (i : Nat) : Fld := ⟨0x140 + 4 * i, 16, 16, 0, .rw⟩
abbrev Reg.Hv.OCV_N : Fld := ⟨0x180, 0, 5, 0, .rw⟩
abbrev Reg.Hv.IMAGE (i : Nat) : Fld := ⟨0x184 + 4 * i, 0, 32, 0, .ro⟩
abbrev Reg.Hv.CLEAN_REQ (i : Nat) : Fld := ⟨0x190 + 4 * i, 0, 32, 0xFFFFFFFF, .ro⟩
abbrev Reg.Hv.JRN_VALID : Fld := ⟨0x19C, 0, 1, 0, .ro⟩
abbrev Reg.Hv.JRN_SFAIL : Fld := ⟨0x19C, 1, 1, 0, .ro⟩
abbrev Reg.Hv.JRN_WAVE : Fld := ⟨0x19C, 2, 2, 0, .ro⟩
abbrev Reg.Hv.JRN_PHASE : Fld := ⟨0x19C, 4, 5, 0, .ro⟩
abbrev Reg.Hv.JRN_REGION (i : Nat) : Fld := ⟨0x1A0 + 4 * i, 0, 32, 0, .ro⟩
abbrev Reg.Hv.WAVE : Fld := ⟨0x200, 0, 2, 0, .rw⟩
abbrev Reg.Hv.GO : Fld := ⟨0x200, 31, 1, 0, .w1s⟩
abbrev Reg.Hv.BUSY : Fld := ⟨0x204, 0, 1, 0, .ro⟩
abbrev Reg.Hv.PHASE : Fld := ⟨0x204, 1, 5, 0, .ro⟩
abbrev Reg.Hv.P_ERR : Fld := ⟨0x204, 8, 3, 0, .ro⟩
abbrev Reg.Hv.REGION (i : Nat) : Fld := ⟨0x208 + 4 * i, 0, 32, 0, .rw⟩
abbrev Reg.Hv.TARGET (i : Nat) : Fld := ⟨0x214 + 4 * i, 0, 32, 0, .rw⟩
abbrev Reg.Hv.COM1_SEL (i : Nat) : Fld := ⟨0x220 + 4 * i, 0, 32, 0, .rw⟩
abbrev Reg.Hv.NPHASE (w : Nat) : Fld := ⟨0x240 + 4 * w, 0, 5, 0, .rw⟩
abbrev Reg.Hv.CLEAN (w : Nat) : Fld := ⟨0x240 + 4 * w, 8, 1, 0, .rw⟩
abbrev Reg.Hv.PHASE_ENTRY (i : Nat) : Fld := ⟨0x400 + 4 * i, 0, 32, 0, .rw⟩
/-- Every field of the HV page (Table 16.4). -/
def Reg.Hv.all : List Fld :=
  [Reg.Hv.CELLS, Reg.Hv.NTC_EN, Reg.Hv.SHUNT_UOHM, Reg.Hv.RPACK_MOHM, Reg.Hv.RANGE, Reg.Hv.RESTING, Reg.Hv.TABLE_BAD,
    Reg.Hv.QSAT, Reg.Hv.GAUGE_DISAGREE, Reg.Hv.EMPTY, Reg.Hv.I_CODE, Reg.Hv.VPACK_MV, Reg.Hv.NTC_CODE,
    Reg.Hv.NTC_FAULT, Reg.Hv.QCNT_LO, Reg.Hv.QCNT_HI, Reg.Hv.QSET_LO, Reg.Hv.QSET_HI, Reg.Hv.Q_LOAD, Reg.Hv.CAP_LO,
    Reg.Hv.CAP_HI, Reg.Hv.SOC_Q, Reg.Hv.SOC_V, Reg.Hv.DIS_TH, Reg.Hv.EMPTY_SOC, Reg.Hv.CUTOFF_MV, Reg.Hv.REST_MA,
    Reg.Hv.Q_UNC, Reg.Hv.Q_UNC_SAT, Reg.Hv.ANCHORS] ++
  [Reg.Hv.ANCHORS_SAT, Reg.Hv.OCV_N, Reg.Hv.JRN_VALID, Reg.Hv.JRN_SFAIL, Reg.Hv.JRN_WAVE, Reg.Hv.JRN_PHASE,
    Reg.Hv.WAVE, Reg.Hv.GO, Reg.Hv.BUSY, Reg.Hv.PHASE, Reg.Hv.P_ERR] ++
  (List.range 16).map Reg.Hv.OCV_MV ++
  (List.range 16).map Reg.Hv.OCV_SOC ++
  (List.range 3).map Reg.Hv.IMAGE ++
  (List.range 3).map Reg.Hv.CLEAN_REQ ++
  (List.range 3).map Reg.Hv.JRN_REGION ++
  (List.range 3).map Reg.Hv.REGION ++
  (List.range 3).map Reg.Hv.TARGET ++
  (List.range 3).map Reg.Hv.COM1_SEL ++
  (List.range 4).map Reg.Hv.NPHASE ++
  (List.range 4).map Reg.Hv.CLEAN ++
  (List.range 128).map Reg.Hv.PHASE_ENTRY

/-! common header (Table 17.1) -/
abbrev Reg.Hdr.TYPE : Fld := ⟨0x000, 0, 16, 0, .dv⟩
abbrev Reg.Hdr.INSTANCE : Fld := ⟨0x000, 16, 8, 0, .dv⟩
abbrev Reg.Hdr.VIEW : Fld := ⟨0x000, 24, 4, 0, .dv⟩
abbrev Reg.Hdr.MINOR : Fld := ⟨0x004, 0, 8, 0x00, .dv⟩
abbrev Reg.Hdr.MAJOR : Fld := ⟨0x004, 8, 8, 0x01, .dv⟩
abbrev Reg.Hdr.RUN : Fld := ⟨0x008, 0, 1, 0, .w1s⟩
abbrev Reg.Hdr.STOP_REQ : Fld := ⟨0x008, 1, 1, 0, .w1s⟩
abbrev Reg.Hdr.CFG_OPEN : Fld := ⟨0x008, 2, 1, 0, .rw⟩
abbrev Reg.Hdr.ERR_CLR : Fld := ⟨0x008, 3, 1, 0, .w1s⟩
abbrev Reg.Hdr.STATE : Fld := ⟨0x00C, 0, 2, 0, .ro⟩
abbrev Reg.Hdr.CFG_WHILE_RUN : Fld := ⟨0x00C, 8, 1, 0, .w1c⟩
abbrev Reg.Hdr.START_REFUSED : Fld := ⟨0x00C, 9, 1, 0, .w1c⟩
abbrev Reg.Hdr.IRQ_RAW : Fld := ⟨0x010, 0, 32, 0, .ro⟩
abbrev Reg.Hdr.IRQ_MASK : Fld := ⟨0x014, 0, 32, 0, .rw⟩
abbrev Reg.Hdr.IRQ_CLR : Fld := ⟨0x018, 0, 32, 0, .w1s⟩
abbrev Reg.Hdr.IRQ_FORCE : Fld := ⟨0x01C, 0, 32, 0, .w1s⟩
abbrev Reg.Hdr.ERR_CNT (i : Nat) : Fld := ⟨0x020 + 4 * i, 0, 31, 0, .ro⟩
abbrev Reg.Hdr.ERR_CNT_SAT (i : Nat) : Fld := ⟨0x020 + 4 * i, 31, 1, 0, .w1c⟩
abbrev Reg.Hdr.IRQ_MASK_S : Fld := ⟨0x030, 0, 32, 0, .rw⟩
/-- Every field of the common header (Table 17.1). -/
def Reg.Hdr.all : List Fld :=
  [Reg.Hdr.TYPE, Reg.Hdr.INSTANCE, Reg.Hdr.VIEW, Reg.Hdr.MINOR, Reg.Hdr.MAJOR, Reg.Hdr.RUN, Reg.Hdr.STOP_REQ,
    Reg.Hdr.CFG_OPEN, Reg.Hdr.ERR_CLR, Reg.Hdr.STATE, Reg.Hdr.CFG_WHILE_RUN, Reg.Hdr.START_REFUSED, Reg.Hdr.IRQ_RAW,
    Reg.Hdr.IRQ_MASK, Reg.Hdr.IRQ_CLR, Reg.Hdr.IRQ_FORCE, Reg.Hdr.IRQ_MASK_S] ++
  (List.range 4).map Reg.Hdr.ERR_CNT ++
  (List.range 4).map Reg.Hdr.ERR_CNT_SAT

/-! THERM and TELEM page (Table 18.6) -/
abbrev Reg.Therm.PWR_HALF_W : Fld := ⟨0x100, 0, 8, 0, .ro⟩
abbrev Reg.Therm.TJ_C : Fld := ⟨0x104, 0, 8, 0, .ro⟩
abbrev Reg.Therm.THROTTLE : Fld := ⟨0x104, 8, 1, 0, .ro⟩
abbrev Reg.Therm.WINDOW : Fld := ⟨0x108, 0, 32, 0, .ro⟩
abbrev Reg.Therm.PWR_MW : Fld := ⟨0x10C, 0, 20, 0, .ro⟩
abbrev Reg.Therm.ENERGY_J : Fld := ⟨0x110, 0, 32, 0, .ro⟩
abbrev Reg.Therm.THROT_C : Fld := ⟨0x114, 0, 7, 0x64, .rw⟩
abbrev Reg.Therm.TRIPPED : Fld := ⟨0x114, 16, 1, 0, .rws⟩
abbrev Reg.Therm.THROTTLED : Fld := ⟨0x118, 0, 9, 0, .dv⟩
abbrev Reg.Therm.TJ_Q (n : Nat) : Fld := ⟨0x120 + 4 * n, 0, 11, 0, .ro⟩
abbrev Reg.Therm.VMA_REQ_MV : Fld := ⟨0x150, 0, 10, 0, .dv⟩
abbrev Reg.Therm.VMA_MV : Fld := ⟨0x150, 16, 10, 0, .ro⟩
/-- Every field of the THERM and TELEM page (Table 18.6). -/
def Reg.Therm.all : List Fld :=
  [Reg.Therm.PWR_HALF_W, Reg.Therm.TJ_C, Reg.Therm.THROTTLE, Reg.Therm.WINDOW, Reg.Therm.PWR_MW, Reg.Therm.ENERGY_J,
    Reg.Therm.THROT_C, Reg.Therm.TRIPPED, Reg.Therm.THROTTLED, Reg.Therm.VMA_REQ_MV, Reg.Therm.VMA_MV] ++
  (List.range 11).map Reg.Therm.TJ_Q

/-! LPDDR page (Table 18.8) -/
abbrev Reg.Lpddr.RATE : Fld := ⟨0x100, 0, 14, 0x2155, .cfg⟩
abbrev Reg.Lpddr.CH_READY : Fld := ⟨0x104, 0, 8, 0, .ro⟩
abbrev Reg.Lpddr.SREF : Fld := ⟨0x104, 8, 8, 0, .ro⟩
abbrev Reg.Lpddr.HOT : Fld := ⟨0x104, 16, 8, 0, .ro⟩
abbrev Reg.Lpddr.INSTALLED_GIB : Fld := ⟨0x108, 0, 7, 0, .ro⟩
/-- Every field of the LPDDR page (Table 18.8). -/
def Reg.Lpddr.all : List Fld :=
  [Reg.Lpddr.RATE, Reg.Lpddr.CH_READY, Reg.Lpddr.SREF, Reg.Lpddr.HOT, Reg.Lpddr.INSTALLED_GIB]

/-! LPDDR PHY page (Table 18.9) -/
abbrev Reg.Phy.TRAIN_DONE : Fld := ⟨0x100, 0, 8, 0, .ro⟩
abbrev Reg.Phy.TRAIN_FAIL : Fld := ⟨0x100, 8, 8, 0, .ro⟩
abbrev Reg.Phy.RETRAIN : Fld := ⟨0x104, 0, 8, 0, .w1s⟩
abbrev Reg.Phy.RD_MV (c : Nat) : Fld := ⟨0x140 + 4 * c, 0, 8, 0, .ro⟩
abbrev Reg.Phy.WR_MV (c : Nat) : Fld := ⟨0x140 + 4 * c, 8, 8, 0, .ro⟩
abbrev Reg.Phy.RD_PS (c : Nat) : Fld := ⟨0x140 + 4 * c, 16, 8, 0, .ro⟩
abbrev Reg.Phy.WR_PS (c : Nat) : Fld := ⟨0x140 + 4 * c, 24, 8, 0, .ro⟩
/-- Every field of the LPDDR PHY page (Table 18.9). -/
def Reg.Phy.all : List Fld :=
  [Reg.Phy.TRAIN_DONE, Reg.Phy.TRAIN_FAIL, Reg.Phy.RETRAIN] ++
  (List.range 8).map Reg.Phy.RD_MV ++
  (List.range 8).map Reg.Phy.WR_MV ++
  (List.range 8).map Reg.Phy.RD_PS ++
  (List.range 8).map Reg.Phy.WR_PS

end Sys2Proof.Machine
end

