-- ==== Sys2Proof/Machine/State.lean ====
section
/-! DEFINITION. The state of the T7, as plain data: every register, memory, queue, counter, mode and pin that spec/ names,
and the queue of waiting commands. Registers of the control window are one sparse table (State.regs), keyed by page, bank
and field (Machine/Ops.lean gives the key); everything else stands in the structures below, one per chapter. -/

namespace Sys2Proof.Machine

/-- The reasons for which a step could stop with a fault. No command of the T7 does: every fault the manual describes is
recorded in registers or in a completion record, and the device goes on (safe: nothing is cut short). -/
inductive Fault where
  /-- Raised by nobody; it keeps the type inhabited. Safe. -/
  | unreachable
deriving DecidableEq, Repr

/-- The reasons for which a step could be refused. -/
inductive Refusal where
  /-- Raised by an arm of exec whose command has no meaning yet. Safe: nothing is claimed of the command. -/
  | notModelled (mnemonic : String)
deriving DecidableEq, Repr

/-- One tally (R151): COUNT, THRESH, MODE (level: MODE = 1), owner, allocation bit and the sticky OVF. -/
structure Tally where
  count : Nat := 0
  thresh : Nat := 1
  level : Bool := false
  owner : Nat := 0
  alloc : Bool := false
  ovf : Bool := false
deriving DecidableEq, Repr

/-- A waiter of a tally (R153): an array's sequencer (dma = false) or its DMA engine, in one context, since a timestamp. -/
structure Waiter where
  arr : Nat
  dma : Bool
  ctx : Nat
  tally : Nat
  since : Nat
deriving DecidableEq, Repr

/-- A tensor descriptor (Table 4.3), decoded; res says that a reserved field or encoding of it was not 0. Extents are true
extents (field plus 1); obj is the run-time object number, the OTT index of the object's first page (R181). -/
structure TD where
  obj : Nat := 0
  fmt : Nat := 0
  ndim : Nat := 1
  bsEnc : Nat := 0
  il : Bool := false
  cmp : Nat := 0
  res : Bool := false
  offset : Nat := 0
  d0 : Nat := 1
  d1 : Nat := 1
  d2 : Nat := 1
  d3 : Nat := 1
  s1 : Nat := 0
  s2 : Nat := 0
  s3 : Nat := 0
  bsRef : Nat := 0
  slRef : Nat := 0
deriving DecidableEq, Repr

/-- One object of a loaded image (Table 7.2), with the OTT index of its first page (R181). -/
structure Obj where
  ott : Nat := 0
  pages : Nat := 0
  place : Nat := 0
  wr : Bool := false
  wcmp : Bool := false
  sealedCopy : Bool := false
  ctab : Bool := false
  home : Nat := 0
  gangHead : Bool := false
  gangLen : Nat := 0
deriving DecidableEq, Repr

/-- A loaded image: what the loader commits (R168) and what seals and measurements report of it (R236, R353). -/
structure Image where
  part : Nat := 0
  imageId : Nat := 0
  variant : Nat := 0
  arrays : Nat := 0
  fpClass : Nat := 0
  bind : List Nat := []
  sentry : Bool := false
  gangs : List (List Nat) := []
  tensors : List TD := []
  objs : List Obj := []
  ottBase : Nat := 0
  ottLen : Nat := 0
  tallyBase : Nat := 0
  tallyLen : Nat := 0
  minClk : Nat := 0
  /-- Byte offset of the schedule in each bound array's local store: (array, offset). -/
  schedAt : List (Nat × Nat) := []
  /-- T0 frames that hold its schedules and prefetch lists: (array, frame). -/
  held : List (Nat × Nat) := []
  progDigest : List Byte := []
  weightDigest : List Byte := []
  hdrDigest : List Byte := []
  ownerDigest : List Byte := []
  contentKey : Option Nat := none
deriving DecidableEq, Repr

/-- A macro-operation that has run its walk and whose completion record is not yet written (R95, Table 4.5a). -/
structure Mop where
  ctx : Nat := 0
  opcode : Nat := 0
  tag : Nat := 0
  irqDone : Bool := false
  sig : Option Nat := none
  /-- TALLY SUBOP 0: the physical tally and INC that its completion signals (R156). -/
  opSig : Option (Nat × Nat) := none
  fault : Nat := 0
  operand : Nat := 15
  tile : Nat := 0
  ac : Nat := 0
  satCnt : Nat := 0
  flushCnt : Nat := 0
  nOut : Nat := 0
  /-- An output tensor before the last one missed its scale (R78). -/
  missed : Bool := false
  /-- The partition that runs it (R219). -/
  part : Option Nat := none
  replays : Nat := 0
  timingDev : Bool := false
  costAc : Nat := 0
  /-- The page whose compressed block or index failed its CRC, when one can be named (R205). -/
  crcPage : Option Nat := none
  /-- Lines of the refetch that the weirs have let pass (R221, R222). -/
  refetchLine : Nat := 0
  /-- The compared tiles' columns and replays are known only when every gang member has arrived: the member waits with what
  it meets physically (R113). -/
  gangWait : Bool := false
  env : MopEnv := ⟨[], none, 0, none⟩
  /-- The arrays of the gang that runs it, none for a macro-operation of one array (R114, R243). -/
  gang : List Nat := []
  /-- The DOZE whose step 1 completed stops its context (R316). -/
  dozeStop : Bool := false
deriving DecidableEq, Repr

/-- A resident table of the TABLE stage (R74). -/
structure Table where
  x0 : Int := 0
  step : Nat := 0
  t : List Int := []
deriving DecidableEq, Repr

/-- One entry of a local page map: the OTT index of the page, its partition's tag (R185, R215), the OTT index of the
sealed page that a COPY last wrote the frame from, and the context whose COPY has written the frame from its first byte on with no other
write since (R204). -/
structure LocalPage where
  ott : Option Nat := none
  part : Nat := 0
  src : Option Nat := none
  copying : Option Nat := none
deriving DecidableEq, Repr

/-- One accumulator word with its sticky clamp bit (R69). -/
structure AccWord where
  v : Int := 0
  clamp : Bool := false
deriving DecidableEq, Repr

/-- What one array holds beside its pages' registers. -/
structure ArrayS where
  mop : Option Mop := none
  /-- Contexts whose macro-operation at PC has been released by its tally (R153). -/
  released : List Nat := []
  /-- Contexts whose gang macro-operation at PC has passed its barrier (R113). -/
  gangGo : List Nat := []
  /-- The member that the arbiter chose for the next macro-operation (R216). -/
  turn : Option Nat := none
  /-- The member whose macro-operation ran last (ARR_LAST, R218). -/
  last : Option Nat := none
  /-- Accumulator file, key row · 256 + column (R69); RECUR's state stays here (R138). -/
  acc : SMap AccWord := []
  /-- STATS registers: running maximum and exact sum of each row (R75). -/
  stats : SMap (Int × Int) := []
  /-- Residue registers of the last compared tile: E(n), then O(n) (R82). -/
  residues : SMap (Nat × Nat) := []
  /-- Resident tables, key context · 8 + table (R74, R351). -/
  tables : SMap Table := []
  /-- Exponent code lengths of the expander, per context (R202, R351). -/
  ctab : SMap (List Nat) := []
  /-- Local page map by frame (R185). -/
  pageMap : SMap LocalPage := []
  /-- E_p: cycles charged to each partition in the epoch (R216). -/
  eP : SMap Nat := []
  /-- Active share weights (R217). -/
  wAct : SMap Nat := []
  /-- ENGINE_AC per partition (R219). -/
  engineAc : SMap Nat := []
  /-- Words at which a STORE_UE has occurred since power-on (R251). -/
  ueWords : List Nat := []
  /-- An operating-point change that waits for the boundary or for VDD_MA (R15, R417). -/
  oppWait : Option Nat := none
  /-- The new operating point has not settled (R15). -/
  oppSettling : Bool := false
deriving DecidableEq, Repr

/-- A DMA descriptor that is running (R191): its context, the lines issued so far, whether all of them are issued, and the page
of a FILL whose lines are being issued. -/
structure DmaRun where
  ctx : Nat := 0
  fill : Bool := false
  line : Nat := 0
  done : Bool := false
  page : Option Nat := none
  /-- Transactions in flight (R192, log 97). -/
  flight : Nat := 0
  /-- The timestamp since which the limit of R192 holds its issue. -/
  since : Option Nat := none
deriving DecidableEq, Repr

/-- What one DMA engine holds beside its page's registers: its descriptors in progress, the contexts whose tally has released them, and the
context that issued last (R220). -/
structure DmaS where
  runs : List DmaRun := []
  released : List Nat := []
  last : Option Nat := none
deriving DecidableEq, Repr

/-- A page copy in progress (R187): the page, the new frame, whether the page becomes a RES copy, and how many lines of such a fill its
weirs have let pass (R221, R222); a FILL descriptor issues its lines itself. -/
structure PageMove where
  page : Nat := 0
  frame : Nat := 0
  fill : Bool := false
  line : Nat := 0
deriving DecidableEq, Repr

/-- The tiers: the OTT (R183), stamps (R196), page moves and the frames that wait for zeroing (R187). -/
structure TierS where
  ott : SMap Nat := []
  stamp : SMap Nat := []
  stampCtr : SMap Nat := []
  refetched : List Nat := []
  moves : List PageMove := []
  /-- Allocated runs of entries, ascending: base, length, partition (R209). -/
  runs : List (Nat × Nat × Nat) := []
  /-- Released frames, by the key that Tiers.lean gives a frame, not yet zeroed. -/
  dirty : List Nat := []
  /-- A RELEASE that waits under R189: first entry and length. -/
  release : Option (Nat × Nat) := none
deriving DecidableEq, Repr

/-- Assignment of one array slot (R213). -/
inductive Assign where
  | unassigned
  | owned (p : Nat)
  | shared (members : List Nat)
deriving DecidableEq, Repr

/-- Partitions and weirs: assignment modes, teardown in progress (R225), tokens, active budgets and enables (R222, R223),
windows in which a line was held. Weir keys are partition · 3 + weir (0 LPDDR, 1 CIS, 2 PCIE). -/
structure PartS where
  assign : SMap Assign := []
  disabling : List Nat := []
  tokens : SMap Int := []
  budget : SMap Nat := []
  weirEn : SMap Bool := []
  /-- Weirs that hold a line in this window, and the timestamp since which they do. -/
  held : List (Nat × Nat) := []
deriving DecidableEq, Repr

/-- A SEAL that waits for a ledger entry (R237, R238): its array, the timestamps of its request and up to which its wait is counted, and
whether an entry has become free for it. -/
structure SealWait where
  arr : Nat
  at_ : Nat
  since : Nat
  got : Bool := false
deriving DecidableEq, Repr

/-- The seal engine (R236 to R238): the ledger's records, oldest first, and the arrays whose SEAL waits for an entry,
with what is known of each wait. -/
structure SealS where
  ledger : List (List Byte) := []
  waiters : List SealWait := []
  seq : Nat := 0
deriving DecidableEq, Repr

/-- The state of one power domain (R309, R318): entering holds the step 1 to 5 and the target (1 RETENTION, 2 OFF). -/
inductive DomSt where
  | on
  | retention
  | off
  | entering (step target : Nat)
  | waking (fromOff : Bool)
deriving DecidableEq, Repr

/-- One power domain: its state, REQ and COLD of Table 12.2, whether it has been removed by self-test (R367), whether a
wake event waits for the end of an entry (R318), and the timestamp at which its last wake began. -/
structure Dom where
  st : DomSt := .on
  req : Nat := 0
  cold : Bool := false
  removed : Bool := false
  wakeAfter : Bool := false
  wakeAt : Nat := 0
  /-- The context that a DOZE stopped, as long as its entry may still be abandoned (R316). -/
  dozed : Option Nat := none
deriving DecidableEq, Repr

/-- A sequenced drop that runs (R321): domains still to treat, in drop order, and the mode. -/
structure SeqRun where
  left : List Nat := []
  mode : Nat := 1
deriving DecidableEq, Repr

/-- A raise of a lift record (R327 to R332): the record, the detector events, score, index, origin, sample index, time. -/
structure Raise where
  record : Nat := 0
  events : Nat := 0
  score : Int := 0
  index : Nat := 0
  origin : Nat := 15
  sidx : Nat := 0
  ts : Nat := 0
  /-- It waits at the limit of 16 lifts in progress (R328). -/
  held : Bool := false
deriving DecidableEq, Repr

/-- A lift in progress (R330): its raise, its record's 16 words as read at the raise (R329), and the domains that this lift
found OFF (for COLD_MASK and the restore list). -/
structure LiftRun where
  raise : Raise := {}
  words : List Nat := []
  seqNo : Nat := 0
  fromOff : List Nat := []
deriving DecidableEq, Repr

/-- Power control and lifts. -/
structure PowerS where
  doms : SMap Dom := []
  seq : Option SeqRun := none
  /-- Domains of main arrays that wait for their turn of the OFF to ON ramp, in ascending index (R312). -/
  rampWait : List Nat := []
  /-- Raises that wait at the LIFT block, in the order of R328. -/
  raises : List Raise := []
  lifts : List LiftRun := []
deriving DecidableEq, Repr

/-- The audio block record (Table 11.3). -/
structure BlockRec where
  sidx : Nat := 0
  ts : Nat := 0
  gainOld : Nat := 0
  gainNew : Nat := 0
  underrun : Nat := 0
  ch : Nat := 0
  muted : Bool := false
  clkSwitch : Bool := false
  splice : Bool := false
  lost : Bool := false
  hq : Bool := false
  spliceOff : Nat := 0
  stream : Nat := 0
  blkNum : Nat := 0
deriving DecidableEq, Repr

/-- One slot of the sump (R292): its record and eight lanes of words (GAINED in [15:0], PLAIN in [31:16]). -/
structure SumpSlot where
  hdr : BlockRec := {}
  lanes : List (List Nat) := []
deriving DecidableEq, Repr

/-- The acoustic calibration in effect (Table 11.2). -/
structure Cal where
  trim : List Nat := List.replicate 8 0x4000
  delay : List Int := List.replicate 8 0
  bands : List (List Int) := []
  vadMin : Nat := 0
  impTh : Nat := 0
  shatTh : Nat := 0
  toneTh : Nat := 0
  vadSnr : Nat := 0
  vadOn : Nat := 0
  vadHang : Nat := 0
  shatFr : Nat := 0
  toneRatio : Nat := 0
  impRise : Nat := 0
  contFr : Nat := 0
deriving DecidableEq, Repr

/-- The wake detectors' state (R298 to R302), each detector with its own: biquad states (0 VAD, 1 IMPACT, 2 SHATTER, 3 and 4 TONE
and FULL of ALARM_T3, 5 and 6 those of ALARM_CONT), the VAD floor, speech and silence runs, the impact energy of the frame
before, ages in frames of the impacts still in their window, the shatter run, and the tonal runs. -/
structure DetS where
  biq : SMap (Int × Int) := []
  floor : Option Nat := none
  speechRun : Nat := 0
  quietRun : Nat := 0
  impPrev : Option Nat := none
  impAges : List Nat := []
  shatRun : Nat := 0
  toneOn : Bool := false
  toneLen : Nat := 0
  /-- The last ended runs, oldest first, at most five: kind and length. -/
  toneRuns : List (Bool × Nat) := []
  contLen : Nat := 0
deriving DecidableEq, Repr

/-- One microphone channel: filter states of the two paths (uninterpreted), underrun, and samples until it resumes. -/
structure ChanS where
  lp : Nat := 0
  hq : Nat := 0
  under : Bool := false
  resume : Option Nat := none
deriving DecidableEq, Repr

/-- A closed block as an audio stream delivers it. -/
structure Blk where
  hdr : BlockRec := {}
  lanes : List (List Int) := []
  /-- Low-power words GAINED and PLAIN, one lane per channel (R294). -/
  words : List (List Nat) := []
deriving DecidableEq, Repr

/-- An audio stream (R293): past blocks still to read (first sample indices), live blocks closed and not delivered, and the
number of blocks after whose delivery it stops. -/
structure StreamS where
  active : Bool := false
  past : List Nat := []
  live : List Blk := []
  stopAfter : Option Nat := none
deriving DecidableEq, Repr

/-- The acoustic front end: open block, sump, channels, calibration, detectors, mute, the high-quality path, streams. -/
structure AudioS where
  /-- SIDX: samples formed since the AON power-on reset (R288). -/
  sidx : Nat := 0
  openLanes : List (List Nat) := []
  /-- The detectors' mix of each sample of the open block, and whether that sample was muted (R298, R302). -/
  openMix : List (Int × Bool) := []
  openHq : List (List Int) := []
  openUnder : Nat := 0
  openClk : Bool := false
  gainOld : Nat := 0
  gainNew : Nat := 0
  chEn : Nat := 0
  sump : SMap SumpSlot := []
  /-- The PDM clock runs at 3.072 MHz (R285). -/
  fast : Bool := false
  /-- SIDX at which AUDHQ was ready for a high-quality start that waits for its boundary (R296). -/
  hqReady : Option Nat := none
  /-- The splice index S. -/
  splice : Option Nat := none
  chans : SMap ChanS := []
  cal : Cal := {}
  calNext : Option Cal := none
  det : DetS := {}
  /-- Events decided at a block close and not yet fired, in DET_EVT bits (R302), and the SIDX of the last closed block. -/
  due : Nat := 0
  dueSidx : Nat := 0
  muteLow : Bool := false
  unmuteLeft : Nat := 0
  /-- MUTE_N has risen and the PDM clock restarts at the next boundary (R303). -/
  unmuteWait : Bool := false
  /-- Timestamps of comparisons lost by copy 0 and by copy 1 (R250). -/
  loss0 : List Nat := []
  loss1 : List Nat := []
  /-- The copy that runs alone. -/
  simplex : Option Nat := none
  micPwr : Bool := true
  muteInd : Bool := false
  streams : SMap StreamS := []
  /-- Output ports' frames since their last tally signal (R306). -/
  aoutCount : SMap Nat := []
deriving DecidableEq, Repr

/-- A frame as a receiver fills it (R256, R264, R277 to R279): its lines as values on the 20-bit scale (YUV422: Y, U and V of a
pixel packed), counts and marks, and what the pipeline has done of it. -/
structure FrameS where
  tsFs : Nat := 0
  tsFe : Nat := 0
  lines : List (List Nat) := []
  /-- Pixel lines received, those discarded as beyond HEIGHT or by a full ring among them. -/
  received : Nat := 0
  crcLines : Nat := 0
  late : Bool := false
  short : Bool := false
  long : Bool := false
  overrun : Bool := false
  widthErr : Bool := false
  /-- Slot number in an aligned group. -/
  slot : Nat := 0
  /-- The active bank as taken at its FS (R265). -/
  bank : SMap Nat := []
  /-- REF is taken as the frame itself (R269). -/
  freshRef : Bool := false
  emb : List Byte := []
  ended : Bool := false
  /-- Arrival numbers of its stripes' first lines, and of its FS at the end (R263). -/
  arrivals : List Nat := []
  arrivedFs : Nat := 0
  /-- The pipeline has taken its present work item and follows it (R263). -/
  taken : Bool := false
  /-- Stripes already processed. -/
  stripes : Nat := 0
  /-- The output rows delivered so far, each with the number of its plane (R234, R271). -/
  sent : List (Nat × List Byte) := []
  /-- Rows of the raw clean stage so far, the next REF. -/
  clean : List (List Nat) := []
deriving DecidableEq, Repr

/-- A camera context beside its registers: frames that wait for the pipeline, oldest first (the last may still be open), whether
the open frame is discarded, the active bank, REF, deadline counting and rotation of buffers. -/
structure CamS where
  frames : List FrameS := []
  dropping : Bool := false
  active : SMap Nat := []
  ref : List (List Nat) := []
  freshRef : Bool := true
  tRef : Option Nat := none
  skipped : Bool := false
  delivered : Nat := 0
deriving DecidableEq, Repr

/-- An aligned group (R280, R281): the present slot and its centre, members met in it with their FS, members absent from it,
and the slots whose records are not all written, with the members still to write. -/
structure GroupS where
  started : Bool := false
  slot : Nat := 0
  centre : Option Nat := none
  present : List (Nat × Nat) := []
  absent : List Nat := []
  waiting : List (Nat × List Nat) := []
deriving DecidableEq, Repr

/-- Receivers, contexts, groups, pipelines and the binning unit. -/
structure CamerasS where
  /-- Open frames per port and virtual channel: key port · 16 + vc. -/
  opened : SMap Bool := []
  deskewed : SMap Bool := []
  ctx : SMap CamS := []
  groups : SMap GroupS := []
  /-- Context that each pipeline served last, plus 1. -/
  lastCtx : SMap Nat := []
  arrival : Nat := 0
  bin : Option FrameS := none
  binSeq : Nat := 0
deriving DecidableEq, Repr

/-- One owner slot (R337). -/
structure Owner where
  hash : List Byte := []
  en : Bool := false
  dbg : Bool := false
deriving DecidableEq, Repr

/-- One IDE stream (R342): secure or Insecure, its key, and the functions its RID association names. -/
structure IdeS where
  secure : Bool := false
  insecure : Bool := false
  key : Nat := 0
  nextKey : Option Nat := none
  rids : List Nat := []
deriving DecidableEq, Repr

/-- The SPDM responder (R352): what has been negotiated, and the secured session if one is open. -/
structure SpdmS where
  version : Bool := false
  caps : Bool := false
  algs : Bool := false
  /-- 0 no session, 1 KEY_EXCHANGE answered, 2 established. -/
  session : Nat := 0
  keyGen : Nat := 0
deriving DecidableEq, Repr

/-- Security: lifecycle fuses, keys, challenge, well key and counters, random numbers, SPDM and IDE. -/
structure SecS where
  lc : Nat := 0
  lcPending : Option Nat := none
  devPub : List Byte := []
  devPriv : Nat := 0
  owners : SMap Owner := []
  rollback : SMap Nat := []
  otp : SMap Byte := []
  dbgScope : Nat := 0xF
  challenge : Option (List Byte) := none
  dbgFails : Nat := 0
  /-- A DBG_RESPONSE that waits for the disabling of every partition (R359): the scope to open. -/
  dbgOpening : Option Nat := none
  wellKey : Nat := 0
  wellCtr : Nat := 0
  frameCtr : SMap Nat := []
  drbg : Nat := 0
  generates : Nat := 0
  valid : SMap Bool := []
  certChain : List Byte := []
  aonMeas : List Byte := []
  stwMeas : List Byte := []
  spdm : SpdmS := {}
  ide : SMap IdeS := []
deriving DecidableEq, Repr

/-- The PCIe link's state (R313, R363, R252). -/
inductive Link where
  | down
  | training
  | up
  | l12
  | recovery
  | d3cold
deriving DecidableEq, Repr

/-- One MSI-X vector of one function: its mask bit and Pending bit (R412). Masked after reset, as PCIe MSI-X has it
(PRESUMED, log 4). -/
structure Msix where
  masked : Bool := true
  pendingBit : Bool := false
deriving DecidableEq, Repr

/-- What leaves the device, in the order in which it leaves. -/
inductive Out where
  | readData (v : View) (addr : Nat) (w : Word)
  | msixMessage (fn k : Nat)
  | hostWrite (fn addr : Nat) (data : List Byte)
  | tlpDropped (fn : Nat)
  | tlpUnsupported (fn : Nat)
  | tlpAccepted (fn : Nat)
  | loadResult (part code variant : Nat) (record : List Byte)
  | spdmVersion
  | spdmCapabilities
  | spdmAlgorithms
  | spdmDigests (d : List Byte)
  | spdmCertificate (c : List Byte)
  | spdmChallengeAuth (certHash sig : List Byte)
  | spdmMeasurements (blocks : List (Nat × List Byte)) (sig : List Byte)
  | spdmKeyExchange (sig : List Byte)
  | spdmAck
  | spdmError
  | uartLine (chars : List Nat)
  | i3cData (bytes : List Byte)
  | i3cNack (target : Nat)
  | i3cIbiAck (target : Nat)
  | audioFrame (port : Nat) (slots : List Nat)
  | jtagData (d : Nat)
  | clkreq
deriving DecidableEq, Repr

/-- Host and service ports. -/
structure PortsS where
  link : Link := .down
  perstN : Bool := false
  /-- Step 5e has passed (R363). -/
  lanesOk : Bool := false
  msix : SMap Msix := []
  /-- Descriptors that each function's host DMA context has ended since its HEAD was 0, and lines of the present one issued (R380). -/
  hdXfer : SMap Nat := []
  hdLine : SMap Nat := []
  /-- The boot flash; an unlisted byte is erased. -/
  flash : SMap Byte := []
  /-- The in-band interrupt queue of the I3C controller: target and payload (R383). -/
  ibi : List (Nat × List Byte) := []
  uartRx : List Nat := []
  uartOverrun : Bool := false
  /-- The last characters received, for the string of R370. -/
  uartCmd : List Nat := []
  sluice : List (BitVec 64) := []
  /-- Nibbles of an incomplete word (R386). The table has no row for a nibble, so no command brings one: a state may hold them (log 95). -/
  nibbles : Nat := 0
  /-- Words of the drain in progress (R389). -/
  drain : Option Nat := none
  jtagBypass : Bool := false
  /-- Outbound TLPs of virtual functions that their PCIE weir holds, oldest first: function, lines, what leaves (R222). -/
  heldTlps : List (Nat × Nat × Out) := []
deriving DecidableEq, Repr

/-- The battery gauge beside its registers (R392 to R398): the 56-bit accumulator, consecutive out-of-range samples, settling samples
still to come and those that wait for the first valid one, the last e, the last ten, how long each EMPTY condition has held and
neither, and the rest count. -/
structure GaugeS where
  acc : Int := 0
  outRun : Nat := 0
  settle : Nat := 0
  unsettled : Nat := 0
  lastE : Int := 0
  es : List Int := []
  holdQ : Nat := 0
  holdV : Nat := 0
  clearHold : Nat := 0
  rest : Nat := 0
deriving DecidableEq, Repr

/-- The panel driver beside its registers: pumps, whether phases run, the level codes of the outputs and of the commons, and the
level of VDD_HV in mV. -/
structure PanelS where
  pumps : Bool := false
  phases : Bool := false
  segs : List Nat := List.replicate 96 0
  com : Nat := 0
  vddHv : Nat := 3300
deriving DecidableEq, Repr

/-- Bring-up (R361 to R376): the failure record of Table 14.3, self-test runs, what the tests of this part meet, the copy that booted with
its header, and the failure codes of R375 met at steps 4 and 5f (0 none). -/
structure BootS where
  record : List Byte := []
  runs : Nat := 0
  /-- Steps 5a to 5f run, and the verdict is due. -/
  running : Bool := false
  test : SelfTest := ⟨true, [], 0, 0⟩
  hdr : List Byte := []
  copyB : Bool := false
  code4 : Nat := 0
  code5 : Nat := 0
  faultN : Bool := false
  porstN : Bool := false
  /-- The thermal trip holds the device in its internal reset (R425). -/
  tripped : Bool := false
deriving DecidableEq, Repr

/-- Supplies and clocks beside the THERM registers: whether the board has removed a rail (R418), the RTC's source, and the energy since
power-on in tenths of a mJ. -/
structure SupplyS where
  vmaRemoved : Bool := false
  lpRemoved : Bool := false
  rtcInternal : Bool := false
  energy : Nat := 0
deriving DecidableEq, Repr

/-- An access to a register word that stalls until a domain is ready (R324): the word of a write, none for a read. -/
structure Stalled where
  dom : Nat
  view : View
  addr : Nat
  word : Option Nat
deriving DecidableEq, Repr

/-- A protected word of SRAM outside the arrays' own runs (R249): a 64-bit word of T0 or T1 by its direct address over 8, of a block held in
the sump, of the ledger entry of an index, or of the panel's journal. -/
inductive Cell64 where
  | word (w : Nat)
  | sump (block : Nat)
  | ledger (i : Nat)
  | journal
deriving DecidableEq, Repr

/-- The machine. -/
structure State where
  /-- Registers of the control window, by the key of Ops.lean; an unlisted field holds its reset value. -/
  regs : SMap Nat := []
  /-- Memory under direct addresses (Table 7.1), canonical: ascending, no zero byte listed. -/
  mem : List Host.Cell := []
  /-- The 1 GHz timestamp. -/
  now : Nat := 0
  /-- The model's own counter of free values (log 2). -/
  free : Nat := 0
  out : List Out := []
  stalled : List Stalled := []
  /-- High words latched by reads of low words, per requester and address (R407). -/
  latches : SMap Nat := []
  tallies : SMap Tally := []
  waiters : List Waiter := []
  arrays : SMap ArrayS := []
  dmas : SMap DmaS := []
  tier : TierS := {}
  parts : PartS := {}
  images : List Image := []
  seals : SealS := {}
  power : PowerS := {}
  audio : AudioS := {}
  cams : CamerasS := {}
  sec : SecS := {}
  ports : PortsS := {}
  gauge : GaugeS := {}
  panel : PanelS := {}
  boot : BootS := {}
  supply : SupplyS := {}
  /-- Words that a physical upset has struck and no access has met yet, with whether more than one bit is wrong (R249, R252). No command of the
  table brings one: a state may hold them (DESIGN CHOICE, log 95). -/
  upsets : List (Cell64 × Bool) := []
  /-- What the next read of a line of the well meets, by the line's number from the well's start (R241, R249, R252); brought by no command (log
  95). -/
  wellErrs : List (Nat × LineEvent) := []
  /-- Commands that wait, first in first out. -/
  pending : List Instr := []
deriving DecidableEq, Repr

/-- The machine right after the AON power-on reset, before PORST_N rises (R361, R420): every field at its reset value, no
command waiting. The values that the spec leaves open are those of log 1. -/
def State.reset : State := {}

end Sys2Proof.Machine
end

