-- ==== Sys2Proof/Machine/Ops.lean ====
section
/-! DEFINITION. The named operations on State: pages, register fields, memory under direct addresses, interrupts, counters,
free values. Every chapter's meaning goes through these. -/

namespace Sys2Proof.Machine

/-! ### Pages (Table 17.2) -/

/-- The pages of the control window; ma 8 is SENTRY, ctx c is the half page of ISP context c. -/
inductive Page where
  | sys
  | floor
  | fuse
  | test
  | ma (a : Nat)
  | dma (a : Nat)
  | cis (n : Nat)
  | ott
  | tallyPf
  | tallyVf (v : Nat)
  | part
  | isp (p : Nat)
  | csi (p : Nat)
  | ctx (c : Nat)
  | audio
  | aout
  | power
  | liftPage
  | sec
  | trng
  | attest
  | pcie
  | xspi
  | i3c
  | uart
  | asp
  | hv
  | lpddr
  | phy
  | sealPage
  | therm
deriving DecidableEq, Repr

/-- Base address of a page (Table 17.2). -/
def Page.base : Page → Nat
  | .sys => 0x000000
  | .floor => 0x001000
  | .fuse => 0x002000
  | .test => 0x003000
  | .ma a => 0x010000 + a * 0x1000
  | .dma a => 0x020000 + a * 0x1000
  | .cis n => 0x030000 + n * 0x1000
  | .ott => 0x038000
  | .tallyPf => 0x040000
  | .tallyVf v => 0x041000 + v * 0x1000
  | .part => 0x050000
  | .isp p => 0x060000 + p * 0x1000
  | .csi p => 0x068000 + p * 0x1000
  | .ctx c => 0x070000 + c % 16 * 0x1000 + c / 16 * 0x800
  | .audio => 0x080000
  | .aout => 0x084000
  | .power => 0x090000
  | .liftPage => 0x098000
  | .sec => 0x0A0000
  | .trng => 0x0A1000
  | .attest => 0x0A2000
  | .pcie => 0x0B0000
  | .xspi => 0x0B1000
  | .i3c => 0x0B2000
  | .uart => 0x0B3000
  | .asp => 0x0B4000
  | .hv => 0x0C0000
  | .lpddr => 0x0D0000
  | .phy => 0x0D8000
  | .sealPage => 0x0E0000
  | .therm => 0x0F0000

/-- Every page of Table 17.2. -/
def allPages : List Page :=
  List.flatten [[Page.sys, Page.floor, Page.fuse, Page.test], (List.range 9).map Page.ma, (List.range 8).map Page.dma,
    (List.range 8).map Page.cis, [Page.ott, Page.tallyPf], (List.range 8).map Page.tallyVf,
    [Page.part, Page.isp 0, Page.isp 1], (List.range 6).map Page.csi, (List.range 32).map Page.ctx,
    [Page.audio, Page.aout, Page.power, Page.liftPage, Page.sec, Page.trng, Page.attest, Page.pcie, Page.xspi],
    [Page.i3c, Page.uart, Page.asp, Page.hv, Page.lpddr, Page.phy, Page.sealPage, Page.therm]]

/-- The page and the offset in it of an address of the control window; none where no page lies (R406, R415). -/
def pageAt (addr : Nat) : Option (Page × Nat) :=
  let base := addr / 0x1000 * 0x1000
  let off := addr % 0x1000
  if 0x070000 ≤ base ∧ base < 0x080000 then
    some (.ctx (base / 0x1000 % 16 + off / 0x800 * 16), off % 0x800)
  else (allPages.find? fun p => p.base == base).map fun p => (p, off)

/-- TYPE of Table 17.2. -/
def Page.type : Page → Nat
  | .sys => 0x0001
  | .floor => 0x0002
  | .fuse => 0x0003
  | .test => 0x0004
  | .ma a => if a = 8 then 0x0011 else 0x0010
  | .dma _ => 0x0012
  | .cis _ => 0x0020
  | .ott => 0x0021
  | .tallyPf => 0x0028
  | .tallyVf _ => 0x0028
  | .part => 0x0030
  | .isp _ => 0x0040
  | .csi _ => 0x0041
  | .ctx _ => 0x0042
  | .audio => 0x0050
  | .aout => 0x0051
  | .power => 0x0058
  | .liftPage => 0x0059
  | .sec => 0x0060
  | .trng => 0x0061
  | .attest => 0x0062
  | .pcie => 0x0068
  | .xspi => 0x0069
  | .i3c => 0x006A
  | .uart => 0x006B
  | .asp => 0x006C
  | .hv => 0x0070
  | .lpddr => 0x0078
  | .phy => 0x0079
  | .sealPage => 0x0080
  | .therm => 0x0088

/-- INSTANCE of the header (Table 17.1). -/
def Page.inst : Page → Nat
  | .ma a => if a = 8 then 0 else a
  | .dma a => a
  | .cis n => n
  | .isp p => p
  | .csi p => p
  | .ctx c => c
  | .tallyVf v => v
  | _ => 0

/-- The pages that Table 17.2 marks Stopped from reset; every other page Runs (R411). -/
def Page.stops : Page → Bool
  | .ma _ => true
  | .dma _ => true
  | .cis _ => true
  | .isp _ => true
  | .csi _ => true
  | .ctx _ => true
  | .pcie => true
  | .i3c => true
  | .uart => true
  | .asp => true
  | .lpddr => true
  | _ => false

/-! ### Register fields -/

/-- The key of a field in State.regs: bank, page and offset, lowest bit. -/
def regKey (p : Page) (bank : Nat) (f : Fld) : Nat := (bank * 2 ^ 24 + p.base + f.off) * 32 + f.lsb

/-- Value of a stored field. -/
def State.rd (s : State) (p : Page) (bank : Nat) (f : Fld) : Nat := SMap.get f.reset s.regs (regKey p bank f)

/-- Write a stored field; the value is taken modulo the field's width. -/
def State.wr (s : State) (p : Page) (bank : Nat) (f : Fld) (v : Nat) : State :=
  { s with regs := SMap.set f.reset s.regs (regKey p bank f) (v % 2 ^ f.width) }

/-- Whether a one-bit field reads 1. -/
def State.rdB (s : State) (p : Page) (bank : Nat) (f : Fld) : Bool := s.rd p bank f != 0

/-- STATE of a page, whose reset value depends on the page (Table 17.2). -/
def stateFld (p : Page) : Fld := ⟨0x00C, 0, 2, if p.stops then 0 else 1, .ro⟩

/-- STATE: 0 STOPPED, 1 RUNNING, 2 STOPPING, 3 FAULT (Table 17.1). -/
def State.st (s : State) (p : Page) (bank : Nat) : Nat := s.rd p bank (stateFld p)

def State.setSt (s : State) (p : Page) (bank v : Nat) : State := s.wr p bank (stateFld p) v

/-- A pair of fields holding one 64-bit number, low word first. -/
def State.rd2 (s : State) (p : Page) (bank : Nat) (lo hi : Fld) : Nat := s.rd p bank lo + s.rd p bank hi * 2 ^ 32

def State.wr2 (s : State) (p : Page) (bank : Nat) (lo hi : Fld) (v : Nat) : State :=
  (s.wr p bank lo v).wr p bank hi (v / 2 ^ 32)

/-! ### Memory under direct addresses (R171, R172, Table 7.1) -/

/-- The byte at a direct address; an unlisted byte reads 0 (log 5). -/
def Memory.byte (m : List Host.Cell) (a : Nat) : Byte := SMap.get 0 m a

/-- Write one byte, keeping the canonical form. -/
def Memory.put (m : List Host.Cell) (a : Nat) (b : Byte) : List Host.Cell := SMap.set 0 m a b

/-- The canonical form: addresses strictly rising, no listed zero byte. -/
def Memory.wf (m : List Host.Cell) : Bool := SMap.wf (0 : Byte) m

/-- Write a byte string at consecutive addresses. -/
def Memory.puts (m : List Host.Cell) (a : Nat) : List Byte → List Host.Cell
  | [] => m
  | b :: t => Memory.puts (Memory.put m a b) (a + 1) t

/-- n bytes from consecutive addresses. -/
def Memory.bytes (m : List Host.Cell) (a : Nat) : Nat → List Byte
  | 0 => []
  | n + 1 => Memory.byte m a :: Memory.bytes m (a + 1) n

def State.byte (s : State) (a : Nat) : Byte := Memory.byte s.mem a

def State.bytes (s : State) (a n : Nat) : List Byte := Memory.bytes s.mem a n

/-- The little-endian number of n bytes at a. -/
def State.num (s : State) (a n : Nat) : Nat := leNat (s.bytes a n)

def State.store (s : State) (a : Nat) (d : List Byte) : State := { s with mem := Memory.puts s.mem a d }

/-- Zero a byte range. -/
def State.zero (s : State) (a n : Nat) : State := { s with mem := s.mem.filter fun c => decide (c.1 < a) || decide (a + n ≤ c.1) }

/-! ### Free values and output -/

/-- A fresh free value (log 2). -/
def State.takeFree (s : State) : Nat × State := (Config.freeNat s.free, { s with free := s.free + 1 })

/-- A fresh free byte string of n bytes (log 2). -/
def State.takeBytes (s : State) (n : Nat) : List Byte × State :=
  (sliceBytes (Config.freeBytes s.free n) 0 n, { s with free := s.free + 1 })

def State.emit (s : State) (o : Out) : State := { s with out := s.out ++ [o] }

/-! ### Weirs (R221, R222) -/

/-- Tokens of a weir: 0 LPDDR, 1 CIS, 2 PCIE. -/
def State.tokens (s : State) (p k : Nat) : Int := SMap.get 0xFFFF s.parts.tokens (p * 3 + k)

/-- Subtract lines from a weir. -/
def State.chargeWeir (s : State) (p : Option Nat) (k n : Nat) : State :=
  match p with
  | none => s
  | some p => { s with parts := { s.parts with tokens := SMap.set 0xFFFF s.parts.tokens (p * 3 + k) (s.tokens p k - n) } }

/-- Whether a weir holds a line of a partition: it is enabled and has no token (R222). -/
def State.weirHolds (s : State) (p k : Nat) : Bool :=
  SMap.get false s.parts.weirEn (p * 3 + k) && decide (s.tokens p k ≤ 0)

/-- Note that a weir holds a line (R222). -/
def State.holdWeir (s : State) (p k : Nat) : State :=
  if s.parts.held.any fun h => h.1 == p * 3 + k then s
  else { s with parts := { s.parts with held := s.parts.held ++ [(p * 3 + k, s.now)] } }

/-- Issue as many of n lines as the weirs that count them let pass now: one token of each per line, and a weir without tokens holds the rest
(R221, R222). The number that passed. -/
def State.issueLines (s : State) (p : Nat) (ks : List Nat) (n : Nat) : State × Nat :=
  let k := ks.foldl (fun m w => if SMap.get false s.parts.weirEn (p * 3 + w) then min m (s.tokens p w).toNat else m) n
  let s1 := ks.foldl (fun s w => s.chargeWeir (some p) w k) s
  (if k < n then (ks.filter (s1.weirHolds p)).foldl (fun s w => s.holdWeir p w) s1 else s1, k)

/-- An outbound TLP of function fn with a payload of some bytes: one of a virtual function counts in its PCIE weir, which may hold it and the
TLPs behind it (R221, R222). -/
def State.emitTlp (s : State) (fn bytes : Nat) (o : Out) : State :=
  let lines := ceilDiv bytes 64
  if fn = 0 then s.emit o
  else if (s.ports.heldTlps.any fun h => h.1 == fn) || s.weirHolds (fn - 1) 2 then
    { s.holdWeir (fn - 1) 2 with ports := { s.ports with heldTlps := s.ports.heldTlps ++ [(fn, lines, o)] } }
  else (s.chargeWeir (some (fn - 1)) 2 lines).emit o

/-- The held TLPs that their weirs now let pass leave in order; those of other functions go past the ones still held. -/
def State.releaseTlps (s : State) : State :=
  s.ports.heldTlps.foldl (fun s h => s.emitTlp h.1 (64 * h.2.1) h.2.2) { s with ports := { s.ports with heldTlps := [] } }

/-- Whether a TLP that the device sends for a function is dropped (R342, R343): its selective stream is Insecure, or IDE is required and
neither the selective stream that names the function nor, where none does, the link stream is secure. -/
def State.ideDrops (s : State) (fn : Nat) : Bool :=
  let req := s.rdB .sec 0 Reg.Sec.IDE_REQ || s.sec.lc == 2
  match ([1, 2, 3, 4].map fun k => SMap.get {} s.sec.ide k).find? fun x => x.rids.contains fn with
  | some x => x.insecure || (req && !x.secure)
  | none => req && !(SMap.get {} s.sec.ide 0).secure

/-- Send an MSI-X message of a function (R342, R412). -/
def State.sendMsix (s : State) (fn k : Nat) : State := if s.ideDrops fn then s else s.emitTlp fn 4 (.msixMessage fn k)

/-! ### Interrupts (R412, R413) -/

/-- Key of an MSI-X vector: function (0 physical, v + 1 for VF v) and vector. -/
def msixKey (fn k : Nat) : Nat := fn * 16 + k

/-- Whether the pages of vector k of function fn present an interrupt: (IRQ_RAW & IRQ_MASK) ≠ 0 in any page of the
64-KiB range k (R379, R412). -/
def State.vec (s : State) (fn k : Nat) : Bool :=
  allPages.any fun p => p.base / 0x10000 == k &&
    and32 (s.rd p fn Reg.Hdr.IRQ_RAW) (s.rd p fn Reg.Hdr.IRQ_MASK) != 0

/-- Act on a change of vector k: a rise sends the message or sets the Pending bit; a fall clears the Pending bit (R412). -/
def State.vecEdge (s : State) (fn k : Nat) (was : Bool) : State :=
  let m := SMap.get {} s.ports.msix (msixKey fn k)
  let isNow := s.vec fn k
  if !was && isNow then
    if m.masked then
      { s with ports := { s.ports with msix := SMap.set {} s.ports.msix (msixKey fn k) { m with pendingBit := true } } }
    else s.sendMsix fn k
  else if was && !isNow then
    { s with ports := { s.ports with msix := SMap.set {} s.ports.msix (msixKey fn k) { m with pendingBit := false } } }
  else s

/-- Replace IRQ_RAW of one view of a page. -/
def State.setRaw (s : State) (p : Page) (fn raw : Nat) : State :=
  let k := p.base / 0x10000
  let was := s.vec fn k
  (s.wr p fn Reg.Hdr.IRQ_RAW raw).vecEdge fn k was

/-- Replace IRQ_MASK of one view of a page. -/
def State.setMask (s : State) (p : Page) (fn mask : Nat) : State :=
  let k := p.base / 0x10000
  let was := s.vec fn k
  (s.wr p fn Reg.Hdr.IRQ_MASK mask).vecEdge fn k was

/-- The bits of a word that IRQ_RAW has: 0 to 23, 30 and 31; bits 24 to 29 are reserved (Table 17.1). -/
def irqBits (w : Nat) : Nat := field w 0 24 + field w 30 2 * 2 ^ 30

/-- Set bits of IRQ_RAW in one view. -/
def State.orRaw (s : State) (p : Page) (fn bits : Nat) : State :=
  s.setRaw p fn (or32 (s.rd p fn Reg.Hdr.IRQ_RAW) bits)

/-- An event of a page: its bit sets in the physical-function view, and in the VF view of the partition it concerns (R412). -/
def State.irq (s : State) (p : Page) (part : Option Nat) (bit : Nat) : State :=
  let s1 := s.orRaw p 0 (2 ^ bit)
  match part with
  | none => s1
  | some v => s1.orRaw p (v + 1) (2 ^ bit)

/-! ### Counters -/

/-- Add n to a 31-bit counter with a SAT bit (R53, R84). -/
def State.count (s : State) (p : Page) (bank : Nat) (f sat : Fld) (n : Nat) : State :=
  let r := count31 (s.rd p bank f) n
  let s1 := s.wr p bank f r.1
  if r.2 then s1.wr p bank sat 1 else s1

/-- Add n to ERR_CNTi of a page; past its end SAT and IRQ_RAW bit 30 set (R414). -/
def State.errCount (s : State) (p : Page) (bank i n : Nat) : State :=
  let r := count31 (s.rd p bank (Reg.Hdr.ERR_CNT i)) n
  let s1 := s.wr p bank (Reg.Hdr.ERR_CNT i) r.1
  if r.2 then (s1.wr p bank (Reg.Hdr.ERR_CNT_SAT i) 1).irq p none 30 else s1

/-- A well line whose tag fails counts on the SEC page (R347). -/
def State.tagFails (s : State) : State := (s.errCount .sec 0 2 1).irq .sec none 2

/-- Add n to a 32-bit counter that stays at its end. -/
def State.countSat32 (s : State) (p : Page) (bank : Nat) (f : Fld) (n : Nat) : State :=
  s.wr p bank f (min (s.rd p bank f + n) (2 ^ 32 - 1))

/-- Add n to a 32-bit counter that wraps. -/
def State.countWrap32 (s : State) (p : Page) (bank : Nat) (f : Fld) (n : Nat) : State :=
  s.wr p bank f ((s.rd p bank f + n) % 2 ^ 32)

/-! ### Pieces of State -/

def State.arr (s : State) (a : Nat) : ArrayS := SMap.get {} s.arrays a
def State.setArr (s : State) (a : Nat) (x : ArrayS) : State := { s with arrays := SMap.set {} s.arrays a x }
def State.modArr (s : State) (a : Nat) (f : ArrayS → ArrayS) : State := s.setArr a (f (s.arr a))

def State.dma (s : State) (a : Nat) : DmaS := SMap.get {} s.dmas a
def State.setDma (s : State) (a : Nat) (x : DmaS) : State := { s with dmas := SMap.set {} s.dmas a x }

def State.assignOf (s : State) (a : Nat) : Assign := SMap.get .unassigned s.parts.assign a

def State.dom (s : State) (d : Nat) : Dom := SMap.get {} s.power.doms d
def State.setDom (s : State) (d : Nat) (x : Dom) : State :=
  { s with power := { s.power with doms := SMap.set {} s.power.doms d x } }

/-- OPP_ACT of an island; the sentry's is 4 from reset (R423, Table 18.4). -/
def oppActFld (a : Nat) : Fld := if a = 8 then ⟨0x104, 0, 5, 4, .ro⟩ else Reg.Ma.OPP_ACT

/-- Operating point in effect on an array's island, throttling included. -/
def State.oppAct (s : State) (a : Nat) : Nat := s.rd (.ma a) 0 (oppActFld a)

/-- Frequency of an array's island in MHz (R423). -/
def State.acMhz (s : State) (a : Nat) : Nat := 300 + 25 * s.oppAct a

/-- The answer of a command that goes on: every command of this block does. -/
abbrev Ans := Host.Outcome State Fault Refusal

end Sys2Proof.Machine
end

