-- ==== Sys2Proof/Machine/Operands.lean ====
section
/-! DEFINITION. Operands: the number formats of "Number formats, scales and quantisation rules" (R25 to R56), translated
object access (R177, R184), tensors, block scales, side lists, feature-map compression (R115, R116) and compressed 16-bit
weights (R199 to R202). Values are exact: an element is a rational number. -/

namespace Sys2Proof.Machine

/-! ### Formats (Tables 2.1 to 2.3) -/

/-- Bits per element; 0 for a code that is no format (R26). -/
def fmtBits : Nat → Nat
  | 0x0 => 1
  | 0x1 => 2
  | 0x2 => 2
  | 0x3 => 2
  | 0x4 => 4
  | 0x5 => 4
  | 0x6 => 4
  | 0x7 => 8
  | 0x8 => 8
  | 0x9 => 8
  | 0xA => 8
  | 0xB => 16
  | 0xC => 16
  | 0xD => 32
  | 0xE => 32
  | _ => 0

/-- Floating-point codes. -/
def fmtFp (f : Nat) : Bool := [0x6, 0x9, 0xA, 0xB, 0xC, 0xD].contains f
/-- Integer codes. -/
def fmtInt (f : Nat) : Bool := [0x0, 0x1, 0x2, 0x3, 0x4, 0x5, 0x7, 0x8, 0xE].contains f
/-- Formats of array operands and of outputs through the post pipeline (Table 2.1). -/
def fmtOperand (f : Nat) : Bool := decide (f ≤ 0xC)
/-- Escape-capable formats (Table 2.1). -/
def fmtEscapes (f : Nat) : Bool := [0x1, 0x4, 0x7].contains f
/-- Formats that take a zero point (R41). -/
def fmtZp (f : Nat) : Bool := [0x2, 0x3, 0x4, 0x5, 0x7, 0x8].contains f
/-- Signed integer formats (Table 2.2). -/
def fmtSigned (f : Nat) : Bool := [0x0, 0x1, 0x2, 0x4, 0x7, 0xE].contains f

/-- Values read (Table 2.2), the range of a zero point (R41). -/
def fmtReadRange : Nat → Int × Int
  | 0x0 => (-1, 1)
  | 0x1 => (-1, 1)
  | 0x2 => (-2, 1)
  | 0x3 => (0, 3)
  | 0x4 => (-8, 7)
  | 0x5 => (0, 15)
  | 0x7 => (-128, 127)
  | 0x8 => (0, 255)
  | _ => (-2147483648, 2147483647)

/-- Values the T7 writes (Table 2.2). -/
def fmtWriteRange : Nat → Int × Int
  | 0x0 => (-1, 1)
  | 0x1 => (-1, 1)
  | 0x2 => (-2, 1)
  | 0x3 => (0, 3)
  | 0x4 => (-7, 7)
  | 0x5 => (0, 15)
  | 0x7 => (-127, 127)
  | 0x8 => (0, 255)
  | _ => (-2147483648, 2147483647)

/-- Exponent bits, mantissa bits and bias (Table 2.3). -/
def fpLayout : Nat → Nat × Nat × Nat
  | 0x6 => (2, 1, 1)
  | 0x9 => (4, 3, 7)
  | 0xA => (5, 2, 15)
  | 0xB => (8, 7, 127)
  | 0xC => (5, 10, 15)
  | _ => (8, 23, 127)

/-- What a stored code is: its value after the replacement of R34, and which counter it steps (Table 2.4, R30). -/
structure Code where
  v : Rat := 0
  nan : Bool := false
  inf : Bool := false
  orphan : Bool := false
deriving DecidableEq, Repr

/-- Largest finite value of a floating-point format (Table 2.3). -/
def fpMax (f : Nat) : Rat :=
  if f = 0x6 then 6 else if f = 0x9 then 448 else
    let (e, m, b) := fpLayout f
    (2 - pow2 (-(m : Int))) * pow2 ((2 ^ e : Nat) - 2 - (b : Int))

/-- Value of a floating-point code (R32 to R34). -/
def fpDecode (f c : Nat) : Code :=
  let (eb, mb, bias) := fpLayout f
  let m := field c 0 mb
  let e := field c mb eb
  let neg := bitAt c (eb + mb)
  let sg : Rat := if neg then -1 else 1
  let top := e == 2 ^ eb - 1
  if f == 0x9 && top && m == 7 then { nan := true }
  else if (f != 0x6 && f != 0x9) && top then
    if m == 0 then { v := sg * fpMax f, inf := true } else { nan := true }
  else if e == 0 then { v := sg * m * pow2 (1 - (bias : Int) - mb) }
  else { v := sg * ((2 ^ mb + m : Nat) : Rat) * pow2 ((e : Int) - bias - mb) }

/-- Value of an integer code without an escape (R29, R30). -/
def intDecode (f c : Nat) : Code :=
  match f with
  | 0x0 => { v := if c = 0 then 1 else -1 }
  | 0x1 => if c = 1 then { v := 1 } else if c = 3 then { v := -1 } else if c = 2 then { orphan := true } else {}
  | _ => if fmtSigned f then { v := toInt (fmtBits f) c } else { v := c }

/-- Value of a code of format f. -/
def decodeCode (f c : Nat) : Code := if fmtFp f then fpDecode f c else intDecode f c

/-- The escape code of an escape-capable format (Table 2.2). -/
def escCode : Nat → Nat
  | 0x1 => 2
  | 0x4 => 8
  | 0x7 => 0x80
  | _ => 2 ^ 40

/-- FP32 parameter (R34). -/
def fp32 (c : Nat) : Code := fpDecode 0xD c

/-! ### Narrowing (R43 to R45) -/

/-- A narrowed value: the code written, its value, and whether it was saturated or flushed. -/
structure Narrowed where
  code : Nat := 0
  v : Rat := 0
  sat : Bool := false
  flush : Bool := false
deriving DecidableEq, Repr

/-- floor (log2 x) for x > 0. -/
def floorLog2 (x : Rat) : Int :=
  let d : Int := (x.num.natAbs.log2 : Int) - (x.den.log2 : Int)
  if pow2 d ≤ x then d else d - 1

/-- Code of an integer value in an integer format. -/
def intEncode (f : Nat) (q : Int) : Nat := if f = 0 then (if 0 ≤ q then 0 else 1) else ofInt (fmtBits f) q

/-- Code of a value that lies on a floating-point format's finite grid; zero is +0 (R35). -/
def fpEncode (f : Nat) (v : Rat) : Nat :=
  let (eb, mb, bias) := fpLayout f
  if v = 0 then 0 else
    let a := if v < 0 then -v else v
    let e := max (floorLog2 a) (1 - (bias : Int))
    let k := (rhe (a / pow2 (e - mb))).toNat
    let sg := if v < 0 then 2 ^ (eb + mb) else 0
    sg + (if k < 2 ^ mb then k else ((e + bias).toNat) * 2 ^ mb + (k - 2 ^ mb))

/-- Rounding to the grid of a floating-point format, continued without bound (R43). -/
def fpRound (f : Nat) (x : Rat) : Rat :=
  let (_, mb, bias) := fpLayout f
  if x = 0 then 0 else
    let a := if x < 0 then -x else x
    let e := max (floorLog2 a) (1 - (bias : Int))
    let q := pow2 (e - mb)
    rhe (x / q) * q

/-- Narrowing of an exact value into a format (R43 to R45). -/
def narrow (f : Nat) (x : Rat) : Narrowed :=
  if f = 0 then
    let q : Int := if x < 0 then -1 else 1
    { code := intEncode 0 q, v := q }
  else if f = 1 then
    let u : Int := ((if x < 0 then -x else x) - 1 / 2).ceil
    let c := clampInt (-1) 1 (if x < 0 then -u else u)
    { code := intEncode 1 c, v := c, sat := decide (1 < u), flush := decide (c = 0 ∧ x ≠ 0) }
  else if fmtFp f then
    let r := fpRound f x
    let m := fpMax f
    let c := if m < r then m else if r < -m then -m else r
    { code := fpEncode f c, v := c, sat := decide (m < r ∨ r < -m), flush := decide (r = 0 ∧ x ≠ 0) }
  else
    let q := rhe x
    let (lo, hi) := fmtWriteRange f
    let c := clampInt lo hi q
    { code := intEncode f c, v := c, sat := outside lo hi q, flush := decide (q = 0 ∧ x ≠ 0) }

/-- Narrowing of an integer already rounded, with its zero point added (R76). -/
def narrowInt (f : Nat) (q : Int) : Narrowed :=
  let (lo, hi) := fmtWriteRange f
  let c := clampInt lo hi q
  { code := intEncode f c, v := c, sat := outside lo hi q }

/-! ### Translated access -/

/-- Fields of an OTT entry (Table 7.3). -/
def ottValid (e : Nat) : Bool := bitAt e 0
def ottPlace (e : Nat) : Nat := field e 1 2
def ottPart (e : Nat) : Nat := field e 3 3
def ottWr (e : Nat) : Bool := bitAt e 6
def ottHead (e : Nat) : Bool := bitAt e 7
def ottRes (e : Nat) : Bool := bitAt e 8
def ottMig (e : Nat) : Bool := bitAt e 9
def ottBad (e : Nat) : Bool := bitAt e 10
def ottHomeV (e : Nat) : Bool := bitAt e 11
def ottFrame (e : Nat) : Nat := field e 12 13
def ottHome (e : Nat) : Nat := field e 25 20
def ottRun (e : Nat) : Nat := field e 45 19
/-- Array and frame of a PIN_T0 entry. -/
def ottArr (e : Nat) : Nat := ottFrame e / 512
def ottT0Frame (e : Nat) : Nat := ottFrame e % 512

/-- An OTT entry; an entry never written is 0, so not VALID (R183). -/
def State.ott (s : State) (i : Nat) : Nat := SMap.get 0 s.tier.ott i

def State.setOtt (s : State) (i e : Nat) : State :=
  { s with tier := { s.tier with ott := SMap.set 0 s.tier.ott i (e % 2 ^ 64) } }

/-- Base of array a's T0 window; 8 is the sentry store (Table 7.1). -/
def t0Base (a : Nat) : Nat := if a = 8 then 0x10000000 else a * 0x2000000
/-- Frames of array a's local store (Table 7.1). -/
def t0Frames (a : Nat) : Nat := if a = 8 then 16 else 384
def cisBase : Nat := 0x20000000
def wellBase : Nat := 0x100000000
def transBase : Nat := 0x8000000000
def pageBytes : Nat := 0x10000

/-- Where an access through an entry goes: FRAME when PLACE is 0 or 1 or RES = 1, else the well frame HOME (R184). -/
def ottAddr (e : Nat) : Nat :=
  if ottPlace e = 0 then t0Base (ottArr e) + ottT0Frame e * pageBytes
  else if ottPlace e = 1 ∨ ottRes e then cisBase + ottFrame e % 1024 * pageBytes
  else wellBase + ottHome e * pageBytes

/-- Byte b of the object whose first page is OTT entry o (R177). -/
def State.objByte (s : State) (o b : Nat) : Byte :=
  s.byte (ottAddr (s.ott (o + b / pageBytes)) + b % pageBytes)

/-- n bytes of an object from offset b. -/
def State.objBytes (s : State) (o b n : Nat) : List Byte := (List.range n).map fun i => s.objByte o (b + i)

def State.objNum (s : State) (o b n : Nat) : Nat := leNat (s.objBytes o b n)

/-- Write bytes of an object from offset b. -/
def State.objStore (s : State) (o b : Nat) : List Byte → State
  | [] => s
  | d :: t =>
    State.objStore (s.store (ottAddr (s.ott (o + b / pageBytes)) + b % pageBytes) [d]) o (b + 1) t

/-! ### Tensors (R93) -/

/-- Extents as a list, dimension 0 first. -/
def TD.dims (t : TD) : List Nat := [t.d0, t.d1, t.d2, t.d3]
/-- Element count. -/
def TD.elems (t : TD) : Nat := t.d0 * t.d1 * t.d2 * t.d3
/-- Rows of the innermost dimension. -/
def TD.rows (t : TD) : Nat := t.d1 * t.d2 * t.d3
/-- Byte offset of the row (i1, i2, i3). -/
def TD.rowOff (t : TD) (i1 i2 i3 : Nat) : Nat := t.offset + i1 * t.s1 + i2 * t.s2 + i3 * t.s3
/-- Bytes of one compressed block (Table 4.7). -/
def TD.blockBytes (t : TD) : Nat := if t.cmp = 2 then 32 else if t.fmt = 7 ∨ t.fmt = 8 then 32 else 64
/-- Bytes of one stored row (R28, R115). -/
def TD.rowBytes (t : TD) : Nat :=
  if t.cmp = 0 then ceilDiv (t.d0 * fmtBits t.fmt) 8 else ceilDiv t.d0 64 * t.blockBytes
/-- Bytes of a tensor's rows. -/
def TD.bytes (t : TD) : Nat := t.rows * t.rowBytes
/-- Offset just past the last byte that the tensor reaches in its object. -/
def TD.reach (t : TD) : Nat := t.rowOff (t.d1 - 1) (t.d2 - 1) (t.d3 - 1) + t.rowBytes

/-- A stored element as fetched: its value, its replacement marks, whether its code is an escape code (R30), and the fault of the page or
compressed block that holds it, as code and OTT entry (R203, R208). -/
structure Cell where
  c : Code := {}
  esc : Bool := false
  flt : Option (Nat × Nat) := none
deriving DecidableEq, Repr

/-- A cell from a code. -/
def cellOf (t : TD) (code : Nat) : Cell :=
  if t.slRef ≠ 0 ∧ fmtEscapes t.fmt ∧ code = escCode t.fmt then { esc := true } else { c := decodeCode t.fmt code }

/-- Element width of a compressed block (Table 4.7). -/
def cmpWidth (t : TD) : Nat := if t.fmt = 7 ∨ t.fmt = 8 then 3 else if t.cmp = 1 then 7 else 3

/-- Decompress element k of a block held as a number (R116). -/
def cmpElem (t : TD) (blk k : Nat) : Rat :=
  let w := cmpWidth t
  let u := field blk (16 + w * k) w
  if t.fmt = 7 ∨ t.fmt = 8 then
    let base := if t.fmt = 7 then toInt 8 blk else (field blk 0 8 : Int)
    let (lo, hi) := fmtWriteRange t.fmt
    (clampInt lo hi (base + (u * 2 ^ field blk 8 4 : Nat)) : Int)
  else (toInt w u : Rat) * pow2 (toInt 9 blk)

/-- Elements of the stored row at byte offset ro of the tensor's object (uncompressed or fixed-rate compressed). -/
def State.rowCells (s : State) (t : TD) (o ro : Nat) : List Cell :=
  if t.cmp = 0 then
    let w := fmtBits t.fmt
    let v := s.objNum o ro t.rowBytes
    (List.range t.d0).map fun i => cellOf t (field v (i * w) w)
  else
    (List.range t.d0).map fun i =>
      { c := { v := cmpElem t (s.objNum o (ro + i / 64 * t.blockBytes) t.blockBytes) (i % 64) } }

/-! ### Compressed 16-bit weights (R199 to R202) -/

/-- Canonical code of symbol sym in a table of code lengths, as RFC 1951 assigns it: (length, code). -/
def huffCode (lens : List Nat) (sym : Nat) : Nat × Nat :=
  let l := nth 0 lens sym
  let cnt := fun b => (lens.filter fun x => x == b).length
  let first := (List.range l).foldl (fun c b => (c + (if b = 0 then 0 else cnt b)) * 2) 0
  (l, first + ((lens.take sym).filter fun x => x == l).length)

/-- The code as packed: most significant bit first (RFC 1951). -/
def huffBits (lens : List Nat) (sym : Nat) : List Bool :=
  let (l, c) := huffCode lens sym
  (List.range l).map fun i => bitAt c (l - 1 - i)

/-- Decode one symbol from a bit list. -/
def huffDecode (lens : List Nat) (bits : List Bool) : Nat × List Bool :=
  match (List.range lens.length).find? fun y => nth 0 lens y != 0 && (huffBits lens y).isPrefixOf bits with
  | some y => (y, bits.drop (nth 0 lens y))
  | none => (0, bits.drop 1)

/-- Whether a table of lengths is complete, or holds one symbol of length 1 (R202). -/
def huffComplete (lens : List Nat) : Bool :=
  let used := lens.filter fun x => x != 0
  (sumNat (used.map fun l => 2 ^ (15 - l)) == 2 ^ 15 || used == [1]) && lens.all fun l => decide (l ≤ 15)

/-- n symbols from a bit list. -/
def huffRun (lens : List Nat) : Nat → List Bool → List Nat
  | 0, _ => []
  | n + 1, bits =>
    let (y, r) := huffDecode lens bits
    y :: huffRun lens n r

/-- Bits of a byte string, least significant first. -/
def bitsOf (l : List Byte) : List Bool := l.flatMap fun b => (List.range 8).map fun i => b.getLsbD i

/-- The elements' codes of one compressed weight block (R201, R202). -/
def wcmpBlock (lensBf lensFp : List Nat) (fmt : Nat) (blk : List Byte) : List Nat :=
  let n := leAt blk 2 1 + 1
  let w := if fmt = 0xB then 8 else 11
  let smBytes := ceilDiv (n * w) 8
  let sm := leAt blk 8 smBytes
  let exps := huffRun (if fmt = 0xB then lensBf else lensFp) n (bitsOf (blk.drop (8 + smBytes)))
  (List.range n).map fun k =>
    let f := field sm (k * w) w
    let e := nth 0 exps k
    if fmt = 0xB then field f 7 1 * 2 ^ 15 + e * 2 ^ 7 + field f 0 7
    else field f 10 1 * 2 ^ 15 + e * 2 ^ 10 + field f 0 10

/-- A damage found in a compressed object: the page offset within the object at which it was found. -/
structure WcmpBlk where
  off : Nat := 0
  ok : Bool := true
  codes : List Nat := []
deriving DecidableEq, Repr

/-- Block j of a compressed object, with its CRC verdict (R200, R201). -/
def State.wcmpBlk (s : State) (t : TD) (o : Nat) (lensBf lensFp : List Nat) (j : Nat) : WcmpBlk :=
  let off := s.objNum o (0x40 + 4 * j) 4
  let n := max 8 (s.objNum o off 2)
  let blk := s.objBytes o off (min n 1024)
  let ok := crc32c (sliceBytes blk 0 4 ++ blk.drop 8) == leAt blk 4 4
  { off := off, ok := ok, codes := wcmpBlock lensBf lensFp t.fmt blk }

/-- Header agreement of R200. -/
def State.wcmpHeaderOk (s : State) (t : TD) (o : Nat) : Bool :=
  s.objNum o 0 4 % 16 == t.fmt && s.objNum o 4 4 == t.rows && s.objNum o 8 4 == t.d0 &&
  s.objNum o 0xC 4 == t.rows * ceilDiv t.d0 256

/-- Whether the index CRC matches (R200). -/
def State.wcmpIndexOk (s : State) (o : Nat) : Bool :=
  let n := s.objNum o 0xC 4
  crc32c (s.objBytes o 0x40 (4 * n)) == s.objNum o 0x10 4

/-- Pages from a byte range of an object that are marked BAD (R184). -/
def State.badPages (s : State) (o lo n : Nat) : List Nat :=
  (((List.range ((lo + max n 1 - 1) / pageBytes - lo / pageBytes + 1)).map fun i => o + lo / pageBytes + i)).filter fun i =>
    ottBad (s.ott i)

/-- What reading the header and index of a compressed object finds: a BAD page, or an index CRC that does not match (R203, R208). -/
def State.wcmpIndexFault (s : State) (o : Nat) : Option (Nat × Nat) :=
  match s.badPages o 0 (0x40 + 4 * s.objNum o 0xC 4) with
  | i :: _ => some (0x3B, i)
  | [] => if s.wcmpIndexOk o then none else some (0x3A, o)

/-- Elements of row r of a compressed 16-bit weight tensor, with the faults of the index, checked first, and of each block (R203). -/
def State.wcmpRow (s : State) (t : TD) (o : Nat) (lensBf lensFp : List Nat) (r : Nat) : List Cell :=
  let nb := ceilDiv t.d0 256
  let ix := s.wcmpIndexFault o
  (List.range nb).flatMap fun j =>
    let b := s.wcmpBlk t o lensBf lensFp (r * nb + j)
    let pg := o + b.off / pageBytes
    let f := if ix.isSome then ix else if ottBad (s.ott pg) then some (0x3B, pg) else if b.ok then none else some (0x3A, pg)
    (List.range (min 256 (t.d0 - 256 * j))).map fun k => { c := decodeCode t.fmt (nth 0 b.codes k), flt := f }

/-- Elements of an uncompressed stored row, marked where their bytes lie in a BAD page (R208). -/
def State.markedRow (s : State) (t : TD) (o ro : Nat) : List Cell :=
  let cells := s.rowCells t o ro
  if (s.badPages o ro t.rowBytes).isEmpty then cells
  else cells.zipIdx.map fun c =>
    let at0 := if t.cmp = 0 then ro + c.2 * fmtBits t.fmt / 8 else ro + c.2 / 64 * t.blockBytes
    { c.1 with flt := (s.badPages o at0 (if t.cmp = 0 then fmtBits t.fmt / 8 else t.blockBytes)).head?.map fun i => (0x3B, i) }

/-! ### Block scales (R36 to R39) -/

/-- Value of a block scale; none when invalid (Table 2.5). -/
def scaleVal (enc code : Nat) : Option Rat :=
  if enc = 1 then (if code = 0xFF then none else some (pow2 ((code : Int) - 127)))
  else
    let c := fpDecode 0xC code
    if c.nan || c.inf then none else some c.v

/-- Row pitch of a scale array (R39). -/
def scalePitch (enc kAxis : Nat) : Nat := 4 * ceilDiv (ceilDiv kAxis 32 * (if enc = 1 then 1 else 2)) 4

/-- Scales of row r, one per block of 32. bs is the tensor of BS_REF, o its object. -/
def State.scaleRow (s : State) (enc : Nat) (bs : TD) (o kAxis r : Nat) : List (Option Rat) :=
  let sz := if enc = 1 then 1 else 2
  (List.range (ceilDiv kAxis 32)).map fun j =>
    scaleVal enc (s.objNum o (bs.offset + r * scalePitch enc kAxis + j * sz) sz)

/-! ### Side lists (R46 to R49) -/

/-- An element as the operand port delivers it: value, escape mark. -/
structure Elem where
  v : Rat := 0
  esc : Bool := false
deriving DecidableEq, Repr

/-- Header of a side list: ENTRIES, ROWS, ELEM_FMT (Table 2.7). -/
def State.slHead (s : State) (sl : TD) (o : Nat) : Nat × Nat × Nat :=
  (s.objNum o sl.offset 4, s.objNum o (sl.offset + 4) 4, s.objNum o (sl.offset + 8) 4 % 16)

/-- First entry of row r; ENTRIES for the row past the last (R46). -/
def State.slDir (s : State) (sl : TD) (o rows r : Nat) : Nat :=
  if r < rows then s.objNum o (sl.offset + 32 + 4 * r) 4 else (s.slHead sl o).1

/-- POS and VALUE of entry e (Table 2.8). -/
def State.slEntry (s : State) (sl : TD) (o rows e : Nat) : Nat × Int :=
  let b := sl.offset + 32 + 4 * rows + 8 * e
  (s.objNum o b 4, toInt 16 (s.objNum o (b + 4) 2))

/-- Fault of the header check, made when the first row is read (R48). -/
def State.slHeadFault (s : State) (sl : TD) (o rows fmt : Nat) : Option Nat :=
  let (n, r, f) := s.slHead sl o
  if f ≠ fmt then some 0x23 else if n > 16777216 ∨ r ≠ rows then some 0x24 else none

/-- Fault of the directory check of row r (R48). -/
def State.slDirFault (s : State) (sl : TD) (o rows r : Nat) : Option Nat :=
  let n := (s.slHead sl o).1
  let d := s.slDir sl o rows r
  let e := s.slDir sl o rows (r + 1)
  if d > n ∨ d > e ∨ e - d > 4096 then some 0x24 else none

/-- Match a row's cells with its side-list entries: the elements, and the first fault as (index, code); index K stands for a
row that holds more entries than escapes. -/
def State.slRow (s : State) (sl : TD) (o rows r : Nat) (cells : List Cell) : List Elem × Option (Nat × Nat) :=
  let d := s.slDir sl o rows r
  let cnt := s.slDir sl o rows (r + 1) - d
  let step := fun (acc : List Elem × Nat × Nat × Option (Nat × Nat)) (c : Cell) =>
    let (es, k, n, f) := acc
    if c.esc then
      let (pos, v) := s.slEntry sl o rows (d + n)
      let bad := decide (cnt ≤ n) || pos != k
      ({ v := v, esc := true } :: es, k + 1, n + 1, if f.isNone && bad then some (k, 0x23) else f)
    else ({ v := c.c.v } :: es, k + 1, n, f)
  let (es, k, n, f) := cells.foldl step ([], 0, 0, none)
  (es.reverse, if f.isNone && n < cnt then some (k, 0x23) else f)

/-! ### Compression on write (R115, R116) -/

/-- Mantissas and exponent of one block of values (R61, with any number of values). -/
def alignBlock (x : List Rat) (w : Nat) (trunc : Bool) : Int × List Int :=
  let nz := (x.filter fun v => v ≠ 0).map fun v => floorLog2 (if v < 0 then -v else v)
  match nz with
  | [] => (0, x.map fun _ => 0)
  | t0 :: rest =>
    let t := rest.foldl max t0
    let xe := t - ((w : Int) - 2)
    let q := pow2 xe
    (xe, x.map fun v =>
      let u := (if v < 0 then -v else v) / q
      let r := if trunc then u.floor else rhe u
      let lim : Int := (2 ^ (w - 1) : Nat) - 1
      let m := if lim < r then lim else r
      if v < 0 then -m else m)

/-- A block of 64 values as a number of block bytes (Table 4.7). -/
def cmpEncode (t : TD) (vals : List Rat) : List Byte :=
  let w := cmpWidth t
  if t.fmt = 7 ∨ t.fmt = 8 then
    let qs : List Int := vals.map fun v => v.num
    let base : Int := qs.foldl (fun a b => min a b) (qs.headD 0)
    let top : Int := qs.foldl (fun a b => max a b) (qs.headD 0)
    let sh := ((List.range 9).find? fun s => decide (top - base ≤ 7 * (2 ^ s : Nat))).getD 8
    let us := qs.map fun q => (rheDiv (q - base) (2 ^ sh)).toNat
    let n := ofInt 8 base + sh * 2 ^ 8 +
      (us.zipIdx.foldl (fun acc p => acc + p.1 % 2 ^ w * 2 ^ (16 + w * p.2)) 0)
    leBytes t.blockBytes n
  else
    let (xe, ms) := alignBlock vals w false
    let n := ofInt 9 xe + (ms.zipIdx.foldl (fun acc p => acc + ofInt w p.1 * 2 ^ (16 + w * p.2)) 0)
    leBytes t.blockBytes n

/-- The bytes of one stored row from its narrowed elements; pad bits are 0, a short last block is completed with copies of its
last element (R27, R28, R115). -/
def rowEncode (t : TD) (els : List Narrowed) : List Byte :=
  if t.cmp = 0 then
    let w := fmtBits t.fmt
    leBytes t.rowBytes (els.zipIdx.foldl (fun acc p => acc + p.1.code * 2 ^ (p.2 * w)) 0)
  else
    let vals := els.map fun e => e.v
    (List.range (ceilDiv t.d0 64)).flatMap fun j =>
      let b := (vals.drop (64 * j)).take 64
      cmpEncode t (b ++ List.replicate (64 - b.length) (b.getLastD 0))

end Sys2Proof.Machine
end

