-- ==== Sys2Proof/Machine/Flags.lean ====
section
/-! DEFINITION. The counts and flags of the arrays: input-value counters (R53), scale miss (R78 to R80), residue counters
(R84), sequence counters (R142), and the rounding marks that R77 collects. -/

namespace Sys2Proof.Machine

/-- What reading operands and parameters adds to the input-value counters (Table 2.9). -/
structure Cnt where
  nan : Nat := 0
  inf : Nat := 0
  orphan : Nat := 0
  bad : Nat := 0
deriving DecidableEq, Repr

def Cnt.add (a b : Cnt) : Cnt := ⟨a.nan + b.nan, a.inf + b.inf, a.orphan + b.orphan, a.bad + b.bad⟩

def Cnt.ofCode (c : Code) : Cnt := ⟨b2n c.nan, b2n c.inf, b2n c.orphan, 0⟩

/-- Each element counts once (R34). -/
def Cnt.ofCells (l : List Cell) : Cnt := l.foldl (fun a c => a.add (Cnt.ofCode c.c)) {}

/-- Each block with an invalid scale counts once (R38). -/
def Cnt.ofScales (l : List (Option Rat)) : Cnt := { bad := (l.filter fun x => x.isNone).length }

/-- Add to the input-value counters of an array in a context's view (R53, R215). -/
def State.addCnt (s : State) (a bank : Nat) (c : Cnt) : State :=
  let p := Page.ma a
  let s := if c.nan = 0 then s else s.count p bank Reg.Ma.NAN_IN Reg.Ma.NAN_IN_SAT c.nan
  let s := if c.inf = 0 then s else s.count p bank Reg.Ma.INF_IN Reg.Ma.INF_IN_SAT c.inf
  let s := if c.orphan = 0 then s else s.count p bank Reg.Ma.ESC_ORPHAN Reg.Ma.ESC_ORPHAN_SAT c.orphan
  if c.bad = 0 then s else s.count p bank Reg.Ma.SCALE_BAD Reg.Ma.SCALE_BAD_SAT c.bad

/-- A value in the post pipeline with its saturated and flushed marks (R77). -/
structure Marked where
  v : Int := 0
  sat : Bool := false
  flush : Bool := false
deriving DecidableEq, Repr

/-- Limit of sat48 (R73). -/
def lim48 : Int := 2 ^ 47 - 1

/-- sat48 of an integer: the value, and whether it acted (R73). -/
def sat48 (x : Int) : Int × Bool := (clampInt (-lim48) lim48 x, outside (-lim48) lim48 x)

/-- One rounding of a stage 3 to 6: round half to even, then sat48; a non-zero exact value that becomes 0 is flushed. -/
def roundStage (m : Marked) (x : Rat) : Marked :=
  let r := rhe x
  let (v, hit) := sat48 r
  { v := v, sat := m.sat || hit, flush := m.flush || decide (r = 0 ∧ x ≠ 0) }

/-- BY_SAT and BY_FLUSH of a tensor (R78): either count above MISS_FRAC × N_out / 65,536. -/
def scaleMiss (frac sat flush nOut : Nat) : Bool × Bool :=
  (decide (frac * nOut < sat * 65536), decide (frac * nOut < flush * 65536))

/-- Scale-miss registers of the last completed output tensor (R78 to R80). -/
def State.noteTensor (s : State) (a bank sat flush nOut : Nat) (part : Option Nat) : State :=
  let p := Page.ma a
  let (bs, bf) := scaleMiss (s.rd p bank Reg.Ma.MISS_FRAC) sat flush nOut
  let s := (s.wr p bank Reg.Ma.SAT_CNT (min sat (2 ^ 32 - 1))).wr p bank Reg.Ma.FLUSH_CNT (min flush (2 ^ 32 - 1))
  let s := (s.wr p bank Reg.Ma.BY_SAT (b2n bs)).wr p bank Reg.Ma.BY_FLUSH (b2n bf)
  if bs || bf then (s.wr p bank Reg.Ma.SCALE_MISS 1).irq p part 8 else s

/-- Residue mismatches and replay cycles (R84). -/
def State.noteReplay (s : State) (a bank mism ac : Nat) (part : Option Nat) : State :=
  let p := Page.ma a
  if mism = 0 then s else
    ((s.count p bank Reg.Ma.RES_MISMATCH Reg.Ma.RES_MISMATCH_SAT mism).count p bank Reg.Ma.REPLAY_AC
      Reg.Ma.REPLAY_AC_SAT ac).irq p part 9

end Sys2Proof.Machine
end

