-- ==== Sys2Proof/Machine/Arith.lean ====
section
/-! DEFINITION. The arithmetic of one array (R57 to R77): operand rows, exact products, the block combine, the post pipeline,
and the cost of a tile (R102). The cells' slices and passes (R64, R65) add up to the exact product, so the product is
written as one sum; passes appear in the cost only. -/

namespace Sys2Proof.Machine

/-- One row or column of a product as the cells see it: codes, escape values or aligned mantissas (R58, R61), which of them
are escapes, the exponent of each block, and the block scales, empty where the tensor has none. es holds a scale for each element, in
place of s, where an operand is read across its rows (R133, log 12). -/
structure RowOp where
  q : List Int := []
  esc : List Bool := []
  x : List Int := []
  s : List (Option Rat) := []
  es : List (Option Rat) := []
deriving DecidableEq, Repr

/-- Chunks of n. -/
def chunks {α : Type} (n : Nat) (l : List α) : List (List α) :=
  (List.range (ceilDiv l.length n)).map fun j => (l.drop (n * j)).take n

/-- A row from its elements: a floating-point row is aligned block by block (R61). -/
def mkRow (fp : Bool) (w : Nat) (trunc : Bool) (els : List Elem) (sc : List (Option Rat)) : RowOp :=
  if fp then
    let bl := (chunks 32 (els.map fun e => e.v)).map fun b => alignBlock b w trunc
    { q := bl.flatMap fun b => b.2, esc := els.map fun _ => false, x := bl.map fun b => b.1, s := sc }
  else
    { q := els.map fun e => e.v.num, esc := els.map fun e => e.esc,
      x := (List.range (ceilDiv els.length 32)).map fun _ => 0, s := sc }

/-- Exact sum of products. -/
def dot : List Int → List Int → Int
  | x :: xs, y :: ys => x * y + dot xs ys
  | _, _ => 0

/-- Index of the 65th k at which both operands are escapes, if there is one (R67). -/
def overlapAt (a w : RowOp) : Option Nat :=
  let ks := ((List.range a.esc.length).filter fun k => nth false a.esc k && nth false w.esc k)
  ks[64]?

/-- An accumulator word that a product forms: value and clamp bit. -/
structure AccVal where
  v : Int := 0
  clamp : Bool := false
deriving DecidableEq, Repr

/-- The block combine of one block (R70): p the raw product, xs the two exponents, the two scales, L. -/
def blockCombine (p xa xw : Int) (sa sw : Option Rat) (l : Int) : AccVal :=
  match sa, sw with
  | some a, some w =>
    let c := rhe ((p : Rat) * pow2 (xa + xw) * a * w / pow2 l)
    let lim : Int := 2 ^ 28 - 1
    { v := clampInt (-lim) lim c, clamp := outside (-lim) lim c }
  | _, _ => {}

/-- The block combine of a block whose weights carry a scale each: every product enters at its own scale, one that is invalid as 0 (R38, R70;
log 12). -/
def crossCombine (a w : List Int) (es : List (Option Rat)) (x : Int) (sa : Option Rat) (l : Int) : AccVal :=
  match sa with
  | some k =>
    let v := ((a.zip w).zip es).foldl (fun acc p => acc + ((p.1.1 * p.1.2 : Int) : Rat) * p.2.getD 0) (0 : Rat)
    let c := rhe (v * pow2 x * k / pow2 l)
    let lim : Int := 2 ^ 28 - 1
    { v := clampInt (-lim) lim c, clamp := outside (-lim) lim c }
  | none => {}

/-- Zero-point terms of one block or of the whole of K (R51): za, zw, row sum, column sum, real indices. -/
def zpTerm (p za zw ra cw : Int) (k : Nat) : Int := p - zw * ra - za * cw + k * za * zw

/-- Accumulated product of a row and a column. scaled: per block with zero points (R70); cw b is the column sum of block b. -/
def product (scaled : Bool) (a w : RowOp) (za zw : Int) (cw : Nat → Int) (l : Int) : AccVal :=
  if scaled then
    let ac := chunks 32 a.q
    let wc := chunks 32 w.q
    (List.range ac.length).foldl (fun acc b =>
      let ab := nth [] ac b
      let p := zpTerm (dot ab (nth [] wc b)) za zw (sumInt ab) (cw b) ab.length
      let c := if w.es.isEmpty then
          blockCombine p (nth 0 a.x b) (nth 0 w.x b) (nth (some 1) a.s b) (nth (some 1) w.s b) l
        else crossCombine ab (nth [] wc b) ((w.es.drop (32 * b)).take 32) (nth 0 a.x b + nth 0 w.x b) (nth (some 1) a.s b) l
      { v := acc.v + c.v, clamp := acc.clamp || c.clamp }) {}
  else { v := dot a.q w.q }

/-! ### The post pipeline (R72 to R77) -/

/-- What the post stages of one macro-operation read. -/
structure Post where
  l : Int := 0
  g : Int := 0
  scale : Bool := false
  table : Bool := false
  gate : Bool := false
  stats : Bool := false
  rawExport : Bool := false
  tab : Table := {}
  sout : Rat := 1
  zo : Int := 0
  fmt : Nat := 7
deriving DecidableEq, Repr

/-- Stage 3 (R72): SCALE, or the value unchanged onto the post grid. -/
def postScale (p : Post) (m : Marked) (t : Int) (sn : Rat) : Marked :=
  if p.scale then roundStage m ((t : Rat) * pow2 p.l * sn / pow2 p.g)
  else
    let (v, hit) := sat48 t
    { m with v := v, sat := m.sat || hit }

/-- Table look-up with interpolation (R74): the exact value in units of 2^-16, and the rounded one. -/
def tableAt (t : Table) (v : Int) : Int × Int :=
  let d := v - t.x0
  let i := d / (2 ^ t.step : Nat)
  if i < 0 then (nth 0 t.t 0 * 65536, nth 0 t.t 0)
  else if 511 ≤ i then (nth 0 t.t 511 * 65536, nth 0 t.t 511)
  else
    let r := d - i * (2 ^ t.step : Nat)
    let f16 := if t.step ≤ 16 then r * (2 ^ (16 - t.step) : Nat) else r / (2 ^ (t.step - 16) : Nat)
    let a := nth 0 t.t i.toNat
    let e := f16 * (nth 0 t.t (i.toNat + 1) - a)
    (a * 65536 + e, a + rheDiv e 65536)

/-- Stage 5 (R74). -/
def postTable (p : Post) (m : Marked) : Marked :=
  if p.table then
    let (e, y) := tableAt p.tab m.v
    let (v, hit) := sat48 y
    { v := v, sat := m.sat || hit, flush := m.flush || decide (y = 0 ∧ e ≠ 0) }
  else m

/-- Stage 6 (R72): g is the decoded gate element. -/
def postGate (p : Post) (m : Marked) (g : Rat) : Marked :=
  if p.gate then roundStage m ((m.v : Rat) * g / pow2 p.g) else m

/-- Stage 8 (R76): REQUANT of v on grid G, with the marks of the stages before it. -/
def requant (p : Post) (m : Marked) : Narrowed :=
  let u := (m.v : Rat) * pow2 p.g * p.sout
  let n := if fmtZp p.fmt || p.fmt == 0xE then
      let q := rhe u
      { narrowInt p.fmt (q + p.zo) with flush := decide (q = 0 ∧ u ≠ 0) }
    else narrow p.fmt u
  let sat := m.sat || n.sat
  { n with sat := sat, flush := !sat && p.fmt != 0 && (m.flush || n.flush) }

/-- Raw INT32 export of an accumulator word (R76, R77). -/
def exportAcc (a : AccVal) : Narrowed :=
  let n := narrowInt 0xE a.v
  { n with sat := n.sat || a.clamp }

/-- Stages 5 to 8 of one element that stands on grid G after stage 3 or 4: the value that STATS sees, and the element. -/
def postTail (p : Post) (m : Marked) (g : Rat) : Int × Narrowed :=
  let m := postGate p (postTable p m) g
  (m.v, requant p m)

/-! ### Cells and costs (R63, R98 to R103) -/

/-- Cells per column block: 256, or 32 on the sentry (R103). -/
def colBlock (a : Nat) : Nat := if a = 8 then 32 else 256
/-- Rows of an M chunk (R98, R103). -/
def chunkRows (a : Nat) : Nat := if a = 8 then 512 else 2048
/-- First slice-tile load plus local-store access (R102, R103). -/
def leadAc (a : Nat) : Nat := if a = 8 then 11 else 67
/-- Slice-tile load (R99, R103). -/
def loadAc (a : Nat) (trans : Bool) : Nat :=
  if a = 8 then (if trans then 12 else 8) else (if trans then 96 else 64)

/-- Width that the cells see: element width, or W for an aligned operand (R64). -/
def cellBits (fmt w : Nat) : Nat := if fmtFp fmt then w else fmtBits fmt

/-- Products per cell per ac (Table 3.2). -/
def cellRate (fa fw : Nat) : Nat :=
  if fa = 0 ∧ fw = 0 then 4 else if fa ≤ 3 ∧ fw ≤ 3 then 2 else 1

/-- K_tile (Table 3.2, R103). -/
def kTile (a fa fw : Nat) : Nat := colBlock a * cellRate fa fw

/-- Slices of an operand (R64): 1 for 1- and 2-bit formats. -/
def slices (fmt w : Nat) : Nat := max 1 (ceilDiv (cellBits fmt w) 4)

/-- Escapes of a row within [lo, hi). -/
def escIn (r : RowOp) (lo hi : Nat) : Nat := (((r.esc.drop lo).take (hi - lo)).filter id).length

/-- Side-lane excess E(kt) of a tile (R102); rows gives the escapes of each row, ew the weight escapes of each gang member. -/
def excess (rows : List Nat) (ews : List Nat) : Nat :=
  let ew := (ews.map fun e => ceilDiv e 16).foldl max 0
  sumNat (rows.map fun ea => max 1 (max ea ew) - 1)

/-- T(kt, j) summed over the slices j of one weight tile (R102). -/
def tileT (rate na nw mc ex load : Nat) : Nat :=
  sumNat ((List.range nw).map fun j => max (4 * rate + na * mc + (if j = 0 then ex else 0)) load)

/-- K limit (Table 3.3). -/
def kLimit (scaled : Bool) : Nat := if scaled then 65536 else 1048576

end Sys2Proof.Machine
end

