-- ==== Sys2Proof/Machine/Descriptor.lean ====
section
/-! DEFINITION. Macro-operation descriptors (Table 4.1) and tensor descriptors (Table 4.3), the floor plan that the mesh
rules read (R16, R17, R372), and the descriptor checks made before any element is read (R56, R94, R143, R155, R160). -/

namespace Sys2Proof.Machine

/-- A macro-operation descriptor, decoded. ops is OPSPEC (bytes 0x28 to 0x37) as one number. -/
structure Desc where
  raw : Nat := 0
  op : Nat := 0
  sub : Nat := 0
  trunc : Bool := false
  wa : Nat := 4
  ww : Nat := 4
  transA : Bool := false
  transW : Bool := false
  gang : Nat := 0
  irqDone : Bool := false
  l : Int := 0
  g : Int := 0
  tag : Nat := 0
  tdA : Nat := 0
  tdW : Nat := 0
  tdOut : Nat := 0
  tdAux : Nat := 0
  waitTally : Nat := 0
  waitEn : Bool := false
  sigEn : Bool := false
  sigTally : Nat := 0
  bias : Bool := false
  scale : Bool := false
  recur : Bool := false
  table : Bool := false
  gate : Bool := false
  stats : Bool := false
  tableSel : Nat := 0
  scalePc : Bool := false
  zwPc : Bool := false
  rawExport : Bool := false
  za : Int := 0
  zw : Int := 0
  zo : Int := 0
  sn : Nat := 0
  sout : Nat := 0
  tdParam : Nat := 0
  tdGate : Nat := 0
  ops : Nat := 0
  cost : Nat := 0
deriving DecidableEq, Repr

/-- Decode the 64 bytes of a descriptor (Table 4.1). -/
def decodeDesc (b : List Byte) : Desc :=
  let w := leNat b
  let at4 := fun o => field w (8 * o) 32
  let w0 := at4 0x00
  let w14 := at4 0x14
  { raw := w, op := field w0 0 8, sub := field w0 8 4, trunc := bitAt w0 12,
    wa := 4 * (field w0 13 2 + 1), ww := 4 * (field w0 15 2 + 1), transA := bitAt w0 17, transW := bitAt w0 18,
    gang := field w0 19 2, irqDone := bitAt w0 21,
    l := toInt 8 (at4 0x04), g := toInt 8 (at4 0x04 / 256), tag := at4 0x04 / 65536,
    tdA := field (at4 0x08) 0 16, tdW := at4 0x08 / 65536, tdOut := field (at4 0x0C) 0 16, tdAux := at4 0x0C / 65536,
    waitTally := field (at4 0x10) 0 13, waitEn := bitAt (at4 0x10) 13, sigEn := bitAt (at4 0x10) 14,
    sigTally := field (at4 0x10) 16 13,
    bias := bitAt w14 0, scale := bitAt w14 1, recur := bitAt w14 2, table := bitAt w14 3, gate := bitAt w14 4,
    stats := bitAt w14 5, tableSel := field w14 8 3, scalePc := bitAt w14 11, zwPc := bitAt w14 12,
    rawExport := bitAt w14 13, za := toInt 16 (w14 / 65536),
    zw := toInt 16 (at4 0x18), zo := toInt 16 (at4 0x18 / 65536), sn := at4 0x1C, sout := at4 0x20,
    tdParam := field (at4 0x24) 0 16, tdGate := at4 0x24 / 65536, ops := field w (8 * 0x28) 128, cost := at4 0x38 }

/-- Decode the 32 bytes of a tensor descriptor (Table 4.3). -/
def decodeTd (b : List Byte) : TD :=
  let w := leNat b
  let at4 := fun o => field w (8 * o) 32
  let w0 := at4 0
  { obj := field w0 0 20, fmt := field w0 20 4, ndim := field w0 24 2 + 1, bsEnc := field w0 26 2, il := bitAt w0 28,
    cmp := field w0 29 2, res := bitAt w0 31 || field w0 26 2 == 3 || field w0 29 2 == 3,
    offset := at4 4, d0 := field (at4 8) 0 20 + 1, d3 := field (at4 8) 20 12 + 1,
    d1 := field (at4 0xC) 0 20 + 1, d2 := field (at4 0xC) 20 12 + 1,
    s1 := at4 0x10, s2 := at4 0x14, s3 := at4 0x18, bsRef := field (at4 0x1C) 0 16, slRef := at4 0x1C / 65536 }

/-- Field of OPSPEC: byte offset from 0x28 in words, lowest bit, width. -/
def Desc.os (d : Desc) (word lsb width : Nat) : Nat := field d.ops (32 * word + lsb) width

/-- Gang size g (Table 4.1). -/
def Desc.gangSize (d : Desc) : Nat := 2 ^ d.gang

/-! ### The floor plan -/

/-- Coordinates of a main array's slot, from the FLOOR page (R16). -/
def State.slotXY (s : State) (a : Nat) : Nat × Nat := (s.rd .floor 0 (Reg.Floor.X a), s.rd .floor 0 (Reg.Floor.Y a))

/-- Hop distance (R17). -/
def State.hops (s : State) (a b : Nat) : Nat :=
  let (x1, y1) := s.slotXY a
  let (x2, y2) := s.slotXY b
  (max x1 x2 - min x1 x2) + (max y1 y2 - min y1 y2)

/-- Index of the link between two slots at hop distance 1 (Table 14.5). -/
def linkIdx (x1 y1 x2 y2 : Nat) : Nat := if y1 = y2 then min x1 x2 + (if y1 = 0 then 0 else 3) else 6 + x1

/-- Main arrays joined by a present link (R17, R160). -/
def State.linked (s : State) (a b : Nat) : Bool :=
  let (x1, y1) := s.slotXY a
  let (x2, y2) := s.slotXY b
  decide (a < 8) && decide (b < 8) && s.hops a b == 1 &&
    bitAt (s.rd .floor 0 Reg.Floor.LINK_PRESENT) (linkIdx x1 y1 x2 y2)

/-- Chain orders of a gang (R112), by slot coordinates in GANG_POS order. -/
def chainOk (xy : List (Nat × Nat)) : Bool :=
  match xy with
  | [p, q] => decide ((max p.1 q.1 - min p.1 q.1) + (max p.2 q.2 - min p.2 q.2) = 1 ∧ p.1 + 4 * p.2 < q.1 + 4 * q.2)
  | [(x0, y0), p1, p2, p3] =>
    ([p1, p2, p3] == [(x0 + 1, y0), (x0 + 2, y0), (x0 + 3, y0)]) ||
      (y0 == 0 && [p1, p2, p3] == [(x0 + 1, 0), (x0 + 1, 1), (x0, 1)])
  | [_, _, _, _, _, _, _, _] => xy == [(0, 0), (1, 0), (2, 0), (3, 0), (3, 1), (2, 1), (1, 1), (0, 1)]
  | _ => false

/-! ### The macro-operation in its surroundings -/

/-- A macro-operation about to be checked: its array, context, descriptor, image, the gang chain it runs on ([a] alone), and the
references that PAIR_BWD's record holds, TD_DO and TD_O (Table 5.3). -/
structure MEnv where
  a : Nat := 0
  ctx : Nat := 0
  d : Desc := {}
  img : Image := {}
  chain : List Nat := []
  more : List Nat := []
deriving DecidableEq, Repr

/-- The image whose schedule the context runs on the array: the one that the loader placed at SCHED_BASE (log 8). -/
def State.imageOf (s : State) (a ctx : Nat) : Image :=
  let base := s.rd (.ma a) ctx Reg.Ma.SCHED_BASE * 64
  let mine := s.images.filter fun i => i.part == ctx && (i.bind.contains a || (a == 8 && i.sentry))
  ((mine.find? fun i => i.schedAt.contains (a, base)).getD (mine.headD {}))

/-- The tensor descriptor that a reference names; none for a null reference or one beyond the table (R91, R144). -/
def MEnv.td (m : MEnv) (r : Nat) : Option TD := if r = 0 then none else m.img.tensors[r]?

/-- The tensor that a reference names, or an empty one. -/
def MEnv.tdD (m : MEnv) (r : Nat) : TD := (m.td r).getD {}

/-- Operand codes of the completion record (Table 4.5a). -/
abbrev opA : Nat := 0
abbrev opW : Nat := 1
abbrev opOut : Nat := 2
abbrev opAux : Nat := 3
abbrev opParam : Nat := 4
abbrev opGate : Nat := 5
abbrev opNone : Nat := 15

/-- TD_W2 and TD_STAT of the sequence operators (Table 5.1). -/
def Desc.tdW2 (d : Desc) : Nat := d.os 0 0 16
def Desc.tdStat (d : Desc) : Nat := d.os 0 16 16

/-- Whether the macro-operation needs the CSUM array (R92). -/
def Desc.needsCsum (d : Desc) : Bool :=
  [0x01, 0x02, 0x10, 0x12, 0x14].contains d.op && d.za != 0 || (d.op == 0x10 && d.sub == 2)

/-- Whether any array of the parameter block is read (R92). An ELTWISE, and a POOL average, read S_n whatever POST_EN.SCALE holds (log 10);
a POOL maximum reads none. -/
def Desc.needsParam (d : Desc) : Bool :=
  match d.op with
  | 0x01 => d.bias || (d.scale && d.scalePc) || d.zwPc || d.needsCsum
  | 0x02 => d.bias || (d.scale && d.scalePc) || d.zwPc || d.needsCsum
  | 0x03 => d.scalePc && d.os 0 12 1 == 1
  | 0x04 => d.scalePc
  | 0x10 => d.bias || d.scalePc || d.zwPc || d.needsCsum
  | 0x11 => true
  | 0x12 => d.bias || (d.scale && d.scalePc) || d.zwPc || d.needsCsum
  | 0x13 => true
  | 0x14 => d.bias || (d.scale && d.scalePc) || d.zwPc || d.needsCsum
  | _ => false

/-- References of the macro-operation, in the order A, W, OUT, AUX, PARAM, GATE, W2, STAT: operand code, reference, and
whether a null one is a fault. aux says whether TD_AUX is needed: by a CONV of an interleaved input (R108), by an EXPAND
that has value columns (R134). -/
def Desc.refs (d : Desc) (aux : Bool) : List (Nat × Nat × Bool) :=
  let param := (opParam, (if d.needsParam then d.tdParam else 0), d.needsParam)
  let gate := (opGate, (if d.gate then d.tdGate else 0), d.gate)
  match d.op with
  | 0x01 => [(opA, d.tdA, true), (opW, d.tdW, true), (opOut, d.tdOut, true), param, gate]
  | 0x02 => [(opA, d.tdA, true), (opW, d.tdW, true), (opOut, d.tdOut, true), (opAux, d.tdAux, aux), param, gate]
  | 0x03 => [(opA, d.tdA, true), (opOut, d.tdOut, true), param, gate]
  | 0x04 => [(opA, d.tdA, true), (opW, (if d.sub = 5 then 0 else d.tdW), d.sub != 5), (opOut, d.tdOut, true), param, gate]
  | 0x05 => [(opA, d.tdA, true), (opOut, d.tdOut, true)]
  | 0x10 => [(opA, d.tdA, true), (opW, d.tdW, true), (opOut, d.tdOut, true), (opAux, d.tdAux, true), param,
      (opNone, d.tdW2, true), (opNone, (if d.sub = 0 then d.tdStat else 0), d.sub == 0)]
  | 0x11 => [(opA, d.tdA, true), (opW, d.tdW, true), (opOut, d.tdOut, true), (opAux, d.tdAux, true), param,
      (opNone, d.tdW2, true), (opNone, d.tdStat, true)]
  | 0x12 => [(opA, d.tdA, true), (opW, d.tdW, true), (opOut, d.tdOut, d.os 0 0 20 != 0), (opAux, d.tdAux, aux), param, gate]
  | 0x13 => [(opA, d.tdA, true), (opW, d.tdW, true), (opOut, d.tdOut, true), (opAux, d.tdAux, true), param,
      (opNone, d.tdW2, true)]
  | 0x14 => [(opA, d.tdA, true), (opW, d.tdW, true), (opOut, d.tdOut, false), (opAux, d.tdAux, true), param, gate]
  | 0x21 => [(opA, d.tdA, true)]
  | 0x22 => [(opA, d.tdA, false), (opAux, d.tdAux, false)]
  | _ => []

/-- Whether A is a channel-interleaved CONV input. -/
def MEnv.aIl (m : MEnv) : Bool := m.d.op == 0x02 && (m.tdD m.d.tdA).il

/-- Whether an EXPAND has value columns (R134). -/
def MEnv.hasValues (m : MEnv) : Bool :=
  m.d.op == 0x12 &&
    decide (m.d.os 0 0 20 < (if m.d.transW then (m.tdD m.d.tdW).d0 else (m.tdD m.d.tdW).d1))

/-- References of the macro-operation with those that PAIR_BWD's record holds. -/
def MEnv.refs (m : MEnv) : List (Nat × Nat × Bool) :=
  m.d.refs (m.aIl || m.hasValues) ++ m.more.map fun r => (opNone, r, true)

/-- The named tensors with their operand codes. -/
def MEnv.tensors (m : MEnv) : List (Nat × TD) := m.refs.filterMap fun r => (m.td r.2.1).map fun t => (r.1, t)

/-- The block-scale arrays and side lists of the named tensors, with the tensors' operand codes. -/
def MEnv.subTds (m : MEnv) : List (Nat × TD) :=
  m.tensors.flatMap fun p => ([p.2.bsRef, p.2.slRef].filterMap m.td).map fun u => (p.1, u)

/-- Every tensor descriptor that the macro-operation uses (R94). -/
def MEnv.allTds (m : MEnv) : List (Nat × TD) := m.tensors ++ m.subTds

/-! ### Table 4.4, in table order -/

/-- The scaled path (R57). -/
def scaledPath (a w : TD) : Bool := !(fmtInt a.fmt && fmtInt w.fmt && a.bsEnc == 0 && w.bsEnc == 0)

/-- Opcodes of Table 4.2. -/
def opValid (op : Nat) : Bool :=
  [0x01, 0x02, 0x03, 0x04, 0x05, 0x10, 0x11, 0x12, 0x13, 0x14, 0x20, 0x21, 0x22, 0x23].contains op

/-- OPSPEC bits that the opcode's layout uses (Tables 4.5, 4.6 and 5.1, R109, R156, R316, R327). -/
def opsMask (op : Nat) : Nat :=
  match op with
  | 0x02 => 0xFFFF + 0x3F3F3F3F * 2 ^ 32 + 0x1FFF * 2 ^ 64
  | 0x03 => 0x7FFF + 0x7777 * 2 ^ 32
  | 0x10 => 2 ^ 128 - 1 - 0xC0 * 2 ^ 32
  | 0x11 => 2 ^ 128 - 1 - 0xC0 * 2 ^ 32 - 0xFFFF0000 * 2 ^ 96
  | 0x12 => 0xFFFFF
  | 0x13 => 0xFFFF + 0xFFFF2F * 2 ^ 32 + 0xFFFFFFFF * 2 ^ 64 + 0xFFFF * 2 ^ 96
  | 0x14 => 0xFFFF0001
  | 0x20 => 0xFFFF1FFF
  | 0x21 => 0xFF
  | 0x23 => 0x3
  | _ => 0

/-- A set bit outside a mask. -/
def bitsOutside (v mask n : Nat) : Bool := (List.range n).any fun i => bitAt v i && !bitAt mask i

/-- Reserved fields of the descriptor itself, reserved SUBOP values, and TD_AUX of a planar CONV (R94, R108, R156). -/
def MEnv.reserved (m : MEnv) : Bool :=
  let d := m.d
  let w := fun o => field d.raw (8 * o) 32
  field (w 0x00) 22 10 != 0 || bitAt (w 0x10) 15 || field (w 0x10) 29 3 != 0 || field (w 0x14) 6 2 != 0 ||
  field (w 0x14) 14 2 != 0 || w 0x3C != 0 || bitsOutside d.ops (opsMask d.op) 128 ||
  (d.op == 0x04 && decide (5 < d.sub)) || (d.op == 0x20 && decide (1 < d.sub)) || (d.op == 0x22 && d.sub != 0) ||
  (d.op == 0x20 && d.sub == 1 && d.os 0 16 16 != 0) || (d.op == 0x23 && d.os 0 0 2 == 3) ||
  (d.op == 0x23 && [d.tdA, d.tdW, d.tdOut, d.tdAux, d.tdParam, d.tdGate].any fun r => r != 0)

/-- Reserved parts of the tensors, and a TD_AUX where the input is planar. -/
def MEnv.tdReserved (m : MEnv) : Option Nat :=
  if m.d.op == 0x02 && !m.aIl && m.d.tdAux != 0 then some opAux
  else (m.allTds.find? fun p => p.2.res).map fun p => p.1

/-- The reference fields of the descriptor, used or not (Tables 4.1, 5.1). -/
def Desc.fields (d : Desc) : List (Nat × Nat) :=
  if d.op = 0x20 ∨ d.op = 0x23 then []
  else [(opA, d.tdA), (opW, d.tdW), (opOut, d.tdOut), (opAux, d.tdAux), (opParam, d.tdParam), (opGate, d.tdGate)] ++
    (if [0x10, 0x11, 0x13].contains d.op then [(opNone, d.tdW2)] else []) ++
    (if [0x10, 0x11].contains d.op then [(opNone, d.tdStat)] else [])

/-- A required reference is null, or a reference, used or not, lies beyond the tensor table (Table 4.4). -/
def MEnv.tdIndex (m : MEnv) : Option Nat :=
  let n := m.img.tensors.length
  let bad := fun (r : Nat × Nat × Bool) =>
    if r.2.1 = 0 then r.2.2
    else decide (n ≤ r.2.1) ||
      (match m.td r.2.1 with
        | some t => decide (n ≤ t.bsRef ∧ t.bsRef ≠ 0) || decide (n ≤ t.slRef ∧ t.slRef ≠ 0) ||
            (t.bsEnc != 0 && t.bsRef == 0)
        | none => true)
  match m.refs.find? bad with
  | some r => some r.1
  | none => (m.d.fields.find? fun f => decide (n ≤ f.2)).map fun f => f.1

/-- Product extents of a matrix pair: K and M of A, N of W (R98), honouring the transposed layouts. -/
def Desc.mDim (d : Desc) (a : TD) : Nat := if d.transA then a.d0 else a.d1
def Desc.kDim (d : Desc) (a : TD) : Nat := if d.transA then a.d1 else a.d0
def Desc.nDim (d : Desc) (w : TD) : Nat := if d.transW then w.d0 else w.d1
def Desc.kDimW (d : Desc) (w : TD) : Nat := if d.transW then w.d1 else w.d0

/-- Geometry of CONV (Table 4.6). -/
structure Conv where
  kh : Nat := 1
  kw : Nat := 1
  sh : Nat := 1
  sw : Nat := 1
  dh : Nat := 1
  dw : Nat := 1
  pt : Nat := 0
  pb : Nat := 0
  pl : Nat := 0
  pr : Nat := 0
  groups : Nat := 1
  c : Nat := 1
  h : Nat := 1
  w : Nat := 1
  ho : Nat := 1
  wo : Nat := 1
deriving DecidableEq, Repr

/-- Output extent of one axis (R105). -/
def convOut (n p0 p1 dil k st : Nat) : Nat :=
  if n + p0 + p1 < dil * (k - 1) + 1 then 0 else (n + p0 + p1 - dil * (k - 1) - 1) / st + 1

/-- CONV's geometry from OPSPEC and the input's extents. -/
def Desc.conv (d : Desc) (a : TD) : Conv :=
  let o := d.os
  let kh := o 0 0 4 + 1
  let kw := o 0 4 4 + 1
  let sh := o 0 8 2 + 1
  let sw := o 0 10 2 + 1
  let dh := o 0 12 2 + 1
  let dw := o 0 14 2 + 1
  let (pt, pb, pl, pr) := (o 1 0 6, o 1 8 6, o 1 16 6, o 1 24 6)
  let (c, h, w) := if a.il then (a.d0, a.d2, a.d1) else (a.d2, a.d1, a.d0)
  { kh := kh, kw := kw, sh := sh, sw := sw, dh := dh, dw := dw, pt := pt, pb := pb, pl := pl, pr := pr,
    groups := o 2 0 13, c := c, h := h, w := w, ho := convOut h pt pb dh kh sh, wo := convOut w pl pr dw kw sw }

/-- Geometry of POOL (R109). -/
structure Pool where
  kh : Nat := 1
  kw : Nat := 1
  sh : Nat := 1
  sw : Nat := 1
  avg : Bool := false
  glob : Bool := false
  countPad : Bool := false
  pt : Nat := 0
  pb : Nat := 0
  pl : Nat := 0
  pr : Nat := 0
  ho : Nat := 1
  wo : Nat := 1
deriving DecidableEq, Repr

def Desc.pool (d : Desc) (a : TD) : Pool :=
  let o := d.os
  let glob := o 0 13 1 == 1
  if glob then { kh := a.d1, kw := a.d0, avg := o 0 12 1 == 1, glob := true, countPad := o 0 14 1 == 1 }
  else
    let (kh, kw, sh, sw) := (o 0 0 3 + 1, o 0 3 3 + 1, o 0 6 3 + 1, o 0 9 3 + 1)
    let (pt, pb, pl, pr) := (o 1 0 3, o 1 4 3, o 1 8 3, o 1 12 3)
    { kh := kh, kw := kw, sh := sh, sw := sw, avg := o 0 12 1 == 1, countPad := o 0 14 1 == 1,
      pt := pt, pb := pb, pl := pl, pr := pr, ho := convOut a.d1 pt pb 1 kh sh, wo := convOut a.d0 pl pr 1 kw sw }

/-- Shape agreement of the operands (Table 4.4, with the shape rules of each macro-operation). -/
def MEnv.shape (m : MEnv) : Option Nat :=
  let d := m.d
  let a := m.tdD d.tdA
  let w := m.tdD d.tdW
  let o := m.tdD d.tdOut
  let x := m.tdD d.tdAux
  let w2 := m.tdD d.tdW2
  let ndim := m.allTds.find? fun p =>
    let t := p.2
    (t.ndim < 2 && t.d1 != 1) || (t.ndim < 3 && t.d2 != 1) || (t.ndim < 4 && t.d3 != 1)
  let gateBad := fun (t : TD) => d.gate && (m.tdD d.tdGate).dims != t.dims
  let chk := fun (l : List (Bool × Nat)) => (l.find? fun p => p.1).map fun p => p.2
  let w2n1 := if d.os 1 5 1 = 1 then w2.d1 else w2.d0
  let w2n2 := if d.os 1 5 1 = 1 then w2.d0 else w2.d1
  match ndim with
  | some p => some p.1
  | none =>
    match d.op with
    | 0x01 => chk [(d.kDim a != d.kDimW w || a.d3 != 1, opW), (w.d2 != a.d2 && w.d2 != 1 || w.d3 != 1, opW),
        (o.d0 != d.nDim w || o.d1 != d.mDim a || o.d2 != a.d2 || o.d3 != 1, opOut), (gateBad o, opGate)]
    | 0x02 =>
      let g := d.conv a
      let kg := g.c / g.groups * g.kh * g.kw
      chk [(d.kDimW w != kg && g.groups != 0 && g.c % g.groups == 0, opW), (w.d2 != 1 || w.d3 != 1, opW),
        (o.d0 != g.wo || o.d1 != g.ho || o.d2 != d.nDim w || o.d3 != a.d3, opOut),
        (a.il && decide (x.rows * x.rowBytes < a.rows * a.rowBytes), opAux), (gateBad o, opGate)]
    | 0x03 =>
      let g := d.pool a
      chk [(o.d0 != g.wo || o.d1 != g.ho || o.d2 != a.d2 || o.d3 != a.d3, opOut), (gateBad o, opGate)]
    | 0x04 => chk [(d.sub != 5 && (w.dims.zip a.dims).any (fun p => p.1 != p.2 && p.1 != 1), opW),
        (o.dims != a.dims, opOut), (gateBad o, opGate)]
    | 0x05 => chk [(a.elems != o.elems, opOut)]
    | 0x10 =>
      let n1 := if d.sub = 3 then d.nDim w / 2 else d.nDim w
      chk [(d.kDim a != d.kDimW w || a.d3 != 1, opW), (w.d2 != a.d2 && w.d2 != 1 || w.d3 != 1, opW),
        (d.sub == 3 && d.nDim w % 2 != 0, opW), (w2n1 != n1 || (w2.d2 != a.d2 && w2.d2 != 1), opNone),
        (o.d0 != w2n2 || o.d1 != d.mDim a || o.d2 != a.d2, opOut)]
    | 0x11 =>
      let (mq, n1, n2, k1) := (d.mDim a, d.nDim w, w2n2, d.kDim a)
      chk [(k1 != d.kDimW w, opW), (w2n1 != n1, opNone),
        ((d.sub == 0 && (o.d1 != n1 || o.d0 != n2)) || (d.sub == 1 && (o.d1 != mq || o.d0 != k1)) ||
          (d.sub == 2 && (o.d1 != n1 || o.d0 != k1)), opOut),
        (m.more.any fun r => (m.tdD r).d0 != n2 || (m.tdD r).d1 != mq, opNone)]
    | 0x12 =>
      let nk := d.os 0 0 20
      let n := d.nDim w
      chk [(d.kDim a != d.kDimW w || a.d2 != 1, opW), (decide (n < nk), opW),
        (nk != 0 && (o.d0 != nk || o.d1 != d.mDim a), opOut),
        (nk != n && (x.d1 != n - nk || x.d0 != d.mDim a), opAux), (d.gate && ((m.tdD d.tdGate).d0 != n || (m.tdD d.tdGate).d1 != d.mDim a), opGate)]
    | 0x13 => chk [(d.kDim a != d.kDimW w, opW),
        (d.mDim a != (d.os 1 8 8 + 1) * (d.os 1 16 8 + 1), opA), (w2n1 != d.nDim w, opNone),
        (o.d0 != w2n2 || o.d1 != d.mDim a, opOut)]
    | 0x14 => chk [(a.d0 != w.d0 || a.d3 != 1, opW),
        (d.tdOut != 0 && (o.d0 != w.d1 || o.d1 != a.d1 || o.d2 != a.d2), opOut)]
    | _ => none

/-- Member and local index of global column n over a gang of g, with cb columns a block (R114). -/
def gangCol (cb g n : Nat) : Nat × Nat := (n / cb % g, n / (cb * g) * cb + n % cb)

/-- Groups packed in one weight tile: 0 where R107 does not pack. -/
def convPack (a kt ng kg : Nat) : Nat := if kg ≤ kt ∧ ng ≤ colBlock a then min (colBlock a / ng) (kt / kg) else 0

/-- Member and local index of output channel co in a ganged CONV (R430). -/
def convLocal (cb gsz p ng co : Nat) : Nat × Nat :=
  let gr := co / ng
  if p = 0 then
    let (r, l) := gangCol cb gsz (co % ng)
    (r, gr * (ceilDiv ng (cb * gsz) * cb) + l)
  else
    let q := gr / p
    (q % gsz, q / gsz * cb + gr % p * ng + co % ng)

/-- Channels that one array holds (Table 5.5). -/
def recurLim (a sub : Nat) : Nat := (if sub = 2 then 64 else 128) / (if a = 8 then 8 else 1)

/-- Member and local index of an output column (R114, R430); RECUR's columns are those of Table 5.5 (log 86). -/
def MEnv.colLoc (m : MEnv) (g n : Nat) : Nat × Nat :=
  let cb := colBlock m.a
  if m.d.op = 0x02 then
    let cg := m.d.conv (m.tdD m.d.tdA)
    let ng := m.d.nDim (m.tdD m.d.tdW) / cg.groups
    let kg := cg.c / cg.groups * cg.kh * cg.kw
    convLocal cb g (convPack m.a (kTile m.a (m.tdD m.d.tdA).fmt (m.tdD m.d.tdW).fmt) ng kg) ng n
  else if m.d.op = 0x14 then gangCol (recurLim m.a m.d.sub) g n
  else gangCol cb g n

/-- Largest local index plus one of N columns over a gang (R114, R430). -/
def MEnv.localExtent (m : MEnv) (n : Nat) : Nat :=
  ((List.range n).map fun c => (m.colLoc m.d.gangSize c).2 + 1).foldl max 1

/-- A tensor as a gang member's local object sees it (R114, R430): W counts columns in dimension 1, or in dimension 0 where TRANS_W stores
them there; OUT in dimension 0, a CONV's OUT in dimension 2. -/
def MEnv.localTd (m : MEnv) (code : Nat) (t : TD) : TD :=
  if m.d.gang = 0 then t
  else if code = opW then
    if m.d.transW && m.d.op != 0x14 then { t with d0 := m.localExtent t.d0 } else { t with d1 := m.localExtent t.d1 }
  else if code = opOut then
    if m.d.op = 0x02 then { t with d2 := m.localExtent t.d2 } else { t with d0 := m.localExtent t.d0 }
  else t

/-- The member object of a gang object (R180): object r of the run that the first entry heads. -/
def State.memberObj (s : State) (o r : Nat) : Nat := o + r * ottRun (s.ott o)

/-- A named tensor in every member's object (R114, R180). -/
def State.memberTds (s : State) (m : MEnv) (code : Nat) (t : TD) : List TD :=
  if m.d.gang = 0 ∨ ¬(code = opW ∨ code = opOut) then [t]
  else m.chain.zipIdx.map fun b => { m.localTd code t with obj := s.memberObj t.obj b.2 }

/-- First and last page of a tensor in the object range. -/
def TD.pages (t : TD) : List Nat :=
  let lo := t.offset / pageBytes
  let hi := (max t.reach (t.offset + 1) - 1) / pageBytes
  (List.range (hi - lo + 1)).map fun i => t.obj + lo + i

/-- Whether the object of a tensor holds compressed weights. -/
def MEnv.isWcmp (m : MEnv) (t : TD) : Bool := m.img.objs.any fun o => o.ott == t.obj && o.wcmp
def MEnv.isGangObj (m : MEnv) (t : TD) : Bool := m.img.objs.any fun o => o.ott == t.obj && o.gangHead

/-- A tensor reaches beyond its object, or a page that it touches is not VALID or not the partition's (R184). -/
def State.beyond (s : State) (m : MEnv) (t : TD) : Bool :=
  let run := ottRun (s.ott t.obj)
  let mine := fun i => ottValid (s.ott i) && ottPart (s.ott i) == m.ctx
  !mine t.obj ||
    (if m.isWcmp t then !((List.range run).all fun i => mine (t.obj + i))
     else decide (run * pageBytes < t.reach) || !(t.pages.all mine))

/-- BOUNDS, with the block-scale array and the side list of each tensor; none for a tensor of format 0xF (R94, R184). -/
def State.boundsBad (s : State) (m : MEnv) : Option Nat :=
  ((m.tensors.find? fun p => p.2.fmt != 0xF && (s.memberTds m p.1 p.2).any (s.beyond m)).or
    (m.subTds.find? fun p => p.2.fmt != 0xF && s.beyond m p.2)).map fun p => p.1

/-- Operands that the macro-operation writes: OUT, and TD_AUX where it is scratch or output. -/
def MEnv.outputs (m : MEnv) : List (Nat × TD) :=
  m.tensors.filter fun p =>
    (p.1 == opOut || (p.1 == opAux && [0x02, 0x10, 0x11, 0x12, 0x13].contains m.d.op)) && m.d.op != 0x22

/-- WELL_WRITE: an output resolves to a well page (Table 4.4). -/
def State.wellWrite (s : State) (m : MEnv) : Option Nat :=
  (m.outputs.find? fun p => (s.memberTds m p.1 p.2).any fun t => t.pages.any fun i =>
    let e := s.ott i
    decide (2 ≤ ottPlace e) && !ottRes e).map fun p => p.1

/-- CONV_GEOM (R104, R109). -/
def MEnv.geomBad (m : MEnv) : Bool :=
  let d := m.d
  let a := m.tdD d.tdA
  if d.op = 0x02 then
    let g := d.conv a
    decide (11 < g.kh ∨ 11 < g.kw ∨ g.groups = 0 ∨ 4096 < g.groups) ||
    decide (g.dh * (g.kh - 1) < g.pt ∨ g.dh * (g.kh - 1) < g.pb ∨ g.dw * (g.kw - 1) < g.pl ∨ g.dw * (g.kw - 1) < g.pr) ||
    g.c % g.groups != 0 || d.nDim (m.tdD d.tdW) % g.groups != 0 || g.ho == 0 || g.wo == 0
  else if d.op = 0x03 then
    let g := d.pool a
    if g.glob then decide (1048576 < a.d0 * a.d1) else g.ho == 0 || g.wo == 0
  else false

/-- CMP set where R115 excludes it. -/
def cmpBad (t : TD) : Bool :=
  t.cmp != 0 && (t.slRef != 0 || !(((t.fmt == 7 || t.fmt == 8) && t.cmp == 1) || t.fmt == 0xB || t.fmt == 0xC))

/-- Gang rules that one descriptor shows (R113, R120, R180). -/
def State.gangBad (s : State) (m : MEnv) : Bool :=
  let d := m.d
  d.gang != 0 &&
    (!([0x01, 0x02, 0x12, 0x14].contains d.op) || m.a == 8 || m.chain.length != d.gangSize ||
      !(m.isGangObj (m.tdD d.tdW)) || (d.tdOut != 0 && !(m.isGangObj (m.tdD d.tdOut))) ||
      (m.chain.any fun b => s.rd (.ma b) 0 Reg.Ma.OPP_ACT != s.rd (.ma m.a) 0 Reg.Ma.OPP_ACT))

/-- Post stages that the macro-operation forbids (R72, R109 to R111, R122, R131, R136, R139). -/
def MEnv.postSel (m : MEnv) : Bool :=
  let d := m.d
  let plain := !(scaledPath (m.tdD d.tdA) (m.tdD d.tdW))
  let anyPost := d.bias || d.scale || d.recur || d.table || d.gate || d.stats
  match d.op with
  | 0x01 => d.recur
  | 0x02 => d.recur
  | 0x03 => d.bias || d.recur || d.stats
  | 0x04 => d.bias || d.recur
  | 0x05 => anyPost || d.rawExport
  | 0x10 => d.recur || d.table || d.gate || d.stats
  | 0x11 => d.recur || d.table || d.gate || d.stats || d.bias || d.scalePc || d.tdGate != 0
  | 0x12 => d.recur
  | 0x13 => d.recur || d.table || d.gate || d.stats || d.bias || d.scalePc
  | 0x14 => !d.recur || (plain && (d.za != 0 || d.zw != 0 || d.zwPc))
  | _ => anyPost

/-- Arrays of the chain that write an output: for a gang's OUT the member whose object it is, for an EXPAND's value tensor the members that
hold value columns (R114, R134). -/
def State.writers (s : State) (m : MEnv) (code : Nat) (t : TD) : List (Nat × TD) :=
  if m.d.gang = 0 then [(m.a, t)]
  else if code = opOut then m.chain.zip (s.memberTds m code t)
  else (m.chain.zipIdx.filter fun b => (List.range (m.d.nDim (m.tdD m.d.tdW))).any fun n =>
    decide (m.d.os 0 0 20 ≤ n) && (m.colLoc m.d.gangSize n).1 == b.2).map fun b => (b.1, t)

/-- WRITE_PATH: an output in another array's T0 window that no present link reaches (R160). -/
def State.writePath (s : State) (m : MEnv) : Option Nat :=
  (m.outputs.find? fun p => (s.writers m p.1 p.2).any fun w => w.2.pages.any fun i =>
    let e := s.ott i
    ottPlace e == 0 && ottArr e != w.1 && !s.linked w.1 (ottArr e)).map fun p => p.1

/-- RO_TARGET: an output page with WR = 0 outside the well (R208). -/
def State.roTarget (s : State) (m : MEnv) : Option Nat :=
  (m.outputs.find? fun p => (s.memberTds m p.1 p.2).any fun t => t.pages.any fun i =>
    let e := s.ott i
    !ottWr e && (decide (ottPlace e < 2) || ottRes e)).map fun p => p.1

/-- SEAL_INPUT and LIFT_INPUT (R235, R327). -/
def MEnv.sysInput (m : MEnv) : Option (Nat × Nat) :=
  let t := m.tdD m.d.tdA
  if m.d.op = 0x22 then
    if m.d.tdA ≠ 0 ∧ ¬(t.fmt = 8 ∧ t.d0 = 48 ∧ t.d1 ≤ 64 ∧ t.d2 = 1 ∧ t.d3 = 1) then some (0x3E, opA) else none
  else if m.d.op = 0x21 then
    if (t.fmt = 7 ∨ t.fmt = 8 ∨ t.fmt = 0xE) ∧ t.d0 ≤ 64 ∧ t.d1 = 1 ∧ t.d2 = 1 ∧ t.d3 = 1 ∧ m.d.os 0 0 7 + t.d0 ≤ 128 then none
    else some (0x33, opA)
  else none

/-- One record of the DECODE sequence table (R136): LEN, K_OFF, V_OFF. -/
def State.seqEntry (s : State) (m : MEnv) (b : Nat) : Nat × Nat × Nat :=
  let p := m.tdD m.d.tdParam
  let o := p.offset + 16 * b
  (field (s.objNum p.obj o 4) 0 20, s.objNum p.obj (o + 4) 4, s.objNum p.obj (o + 8) 4)

/-- The keys and the values of one sequence: its length in the key dimension, which TRANS_W and T2 move (R136). -/
def Desc.keysOf (d : Desc) (k : TD) (len off : Nat) : TD :=
  if d.transW then { k with d0 := len, offset := k.offset + off } else { k with d1 := len, offset := k.offset + off }
def Desc.valuesOf (d : Desc) (v : TD) (len off : Nat) : TD :=
  if d.os 1 5 1 = 1 then { v with d1 := len, offset := v.offset + off } else { v with d0 := len, offset := v.offset + off }

/-- Whether a DECODE sequence entry reaches beyond an object or has LEN = 0 (R136). -/
def State.seqBad (s : State) (m : MEnv) (b : Nat) : Bool :=
  let d := m.d
  let (len, ko, vo) := s.seqEntry m b
  let k := m.tdD d.tdW
  let v := m.tdD d.tdW2
  len == 0 || s.beyond m (d.keysOf k len ko) || s.beyond m (d.valuesOf v len vo)

/-- Table 5.7 (R143). -/
def State.seqFault (s : State) (m : MEnv) : Option Nat :=
  let d := m.d
  let a := m.tdD d.tdA
  let w := m.tdD d.tdW
  let w2 := m.tdD d.tdW2
  let mid := d.os 1 0 4
  let n2 := if d.os 1 5 1 = 1 then w2.d0 else w2.d1
  let n1 := if d.sub = 3 then d.nDim w / 2 else d.nDim w
  let signed := mid == 7 || mid == 4
  let unsigned := mid == 8 || mid == 5
  let geom : Bool :=
    match d.op with
    | 0x10 => decide (4 < d.sub) || (if d.sub = 0 then !unsigned else !(signed || unsigned)) ||
        decide (colBlock m.a < n2) || decide (kLimit (!(fmtInt w2.fmt) || w2.bsRef != 0) < n1)
    | 0x11 => decide (2 < d.sub) || (if d.sub = 0 then !unsigned else !signed) || decide (65536 < d.mDim a) ||
        decide (colBlock m.a < n2)
    | 0x13 => !unsigned || decide ((if m.a = 8 then 256 else 1024) < (d.os 1 8 8 + 1) * (d.os 1 16 8 + 1)) ||
        decide (colBlock m.a < n2)
    | 0x14 =>
      decide (2 < d.sub) || decide (chunkRows m.a < a.d1) || decide (4096 < a.d0) ||
        decide (recurLim m.a d.sub * d.gangSize < w.d1)
    | _ => false
  if geom then some 0x30
  else if d.op == 0x13 && (List.range (d.os 1 16 8 + 1)).any (s.seqBad m) then some 0x31
  else if d.op == 0x14 && d.os 0 0 1 == 0 &&
      !(s.rdB (.ma m.a) m.ctx Reg.Ma.RECUR_VALID && s.rd (.ma m.a) m.ctx Reg.Ma.RECUR_ID == d.os 0 16 16) then some 0x32
  else none

/-- Formats where they appear (R25, R92, R109). -/
def MEnv.placement (m : MEnv) : Option Nat :=
  let d := m.d
  let a := m.tdD d.tdA
  let w := m.tdD d.tdW
  let o := m.tdD d.tdOut
  let w2 := m.tdD d.tdW2
  let usesW := [0x01, 0x02, 0x10, 0x11, 0x12, 0x13, 0x14].contains d.op || (d.op == 0x04 && d.sub != 5)
  let outBad := if d.rawExport then o.fmt != 0xE else !fmtOperand o.fmt
  if d.op = 0x05 then
    if d.za != 0 && !fmtZp a.fmt then some opA else if d.zo != 0 && !fmtZp o.fmt then some opOut else none
  else if [0x20, 0x21, 0x22, 0x23].contains d.op then none
  else if !fmtOperand a.fmt then some opA
  else if usesW && !fmtOperand w.fmt then some opW
  else if d.tdOut != 0 && outBad then some opOut
  else if m.hasValues && (if d.rawExport then (m.tdD d.tdAux).fmt != 0xE else !fmtOperand (m.tdD d.tdAux).fmt) then some opAux
  else if [0x10, 0x11, 0x13].contains d.op && !fmtOperand w2.fmt then some opNone
  else if m.more.any fun r => !fmtOperand (m.tdD r).fmt then some opNone
  else if d.op == 0x03 && decide (fmtBits a.fmt < fmtBits o.fmt) then some opOut
  else if d.za != 0 && !fmtZp a.fmt then some opA
  else if usesW && (d.zw != 0 || d.zwPc) && !fmtZp w.fmt then some opW
  else if d.tdOut != 0 && d.zo != 0 && !(fmtZp o.fmt) then some opOut
  else if m.hasValues && d.zo != 0 && !(fmtZp (m.tdD d.tdAux).fmt) then some opAux
  else none

/-- Zero points of the descriptor out of range (R41, R56). -/
def MEnv.zpRange (m : MEnv) : Option Nat :=
  let d := m.d
  let bad := fun (z : Int) (t : TD) => z != 0 && outside (fmtReadRange t.fmt).1 (fmtReadRange t.fmt).2 z
  let usesW := [0x01, 0x02, 0x10, 0x11, 0x12, 0x13, 0x14].contains d.op || (d.op == 0x04 && d.sub != 5)
  if [0x20, 0x21, 0x22, 0x23].contains d.op then none
  else if bad d.za (m.tdD d.tdA) then some opA
  else if usesW && bad d.zw (m.tdD d.tdW) then some opW
  else if d.tdOut != 0 && bad d.zo (m.tdD d.tdOut) then some opOut
  else if m.hasValues && bad d.zo (m.tdD d.tdAux) then some opAux
  else none

/-- K of the first product. -/
def MEnv.k1 (m : MEnv) : Nat :=
  let d := m.d
  let a := m.tdD d.tdA
  if d.op = 0x02 then (let g := d.conv a; g.c / g.groups * g.kh * g.kw) else d.kDim a

/-- K beyond Table 3.3 (R71). -/
def MEnv.kBad (m : MEnv) : Bool :=
  [0x01, 0x02, 0x10, 0x11, 0x12, 0x13, 0x14].contains m.d.op &&
    decide (kLimit (scaledPath (m.tdD m.d.tdA) (m.tdD m.d.tdW)) < m.k1)

/-- Header of a compressed-weight object, of every member in a gang, against its tensor (R199, R200). -/
def State.wcmpShape (s : State) (m : MEnv) : Option Nat :=
  (m.tensors.find? fun p =>
    let t := p.2
    m.isWcmp t && ((p.1 == opOut) || !(t.fmt == 0xB || t.fmt == 0xC) || t.offset != 0 || t.s1 != 2 * t.d0 ||
      t.s2 != t.s1 * t.d1 || t.s3 != t.s2 * t.d2 ||
      (s.memberTds m p.1 t).any fun u => !(s.wcmpHeaderOk t u.obj))).map fun p => p.1

/-- TALLY_RANGE (R155). -/
def State.tallyRange (s : State) (m : MEnv) : Bool :=
  let n := s.rd (.ma m.a) m.ctx Reg.Ma.TALLY_LEN
  (m.d.waitEn && decide (n ≤ m.d.waitTally)) || (m.d.sigEn && decide (n ≤ m.d.sigTally)) ||
    (m.d.op == 0x20 && decide (n ≤ m.d.os 0 0 13))

/-- First failing check made before any element is read: (fault code, operand code). -/
def State.checkDesc (s : State) (m : MEnv) : Option (Nat × Nat) :=
  let one := fun (c : Nat) (b : Bool) => if b then some (c, opNone) else none
  let opd := fun (c : Nat) (o : Option Nat) => o.map fun x => (c, x)
  let l : List (Option (Nat × Nat)) :=
    [one 0x38 (s.tallyRange m), one 0x01 (!opValid m.d.op), one 0x02 m.reserved, opd 0x02 m.tdReserved,
     opd 0x03 m.tdIndex, opd 0x04 m.shape, opd 0x04 (s.wcmpShape m), opd 0x05 (s.boundsBad m), opd 0x06 (s.wellWrite m),
     one 0x07 m.geomBad, opd 0x08 ((m.allTds.find? fun p => cmpBad p.2).map fun p => p.1), one 0x09 (s.gangBad m),
     one 0x0A m.postSel, opd 0x39 (s.writePath m), opd 0x3C (s.roTarget m), m.sysInput,
     (s.seqFault m).map fun c => (c, opNone),
     opd 0x21 ((m.allTds.find? fun p => p.2.fmt == 0xF).map fun p => p.1), opd 0x22 m.placement,
     opd 0x25 m.zpRange, one 0x26 m.kBad]
  if opValid m.d.op then (l.filterMap id).head? else ((l.take 2).filterMap id).head?

end Sys2Proof.Machine
end

