-- ==== Sys2Proof/Machine/Product.lean ====
section
/-! DEFINITION. The tile walk of the product-forming macro-operations (R98 to R108, R112 to R114, R134, R430, R431): operands
as the port delivers them, tiles in walk order with their cost and outputs, what is met while elements are read, and the walk's end. -/

namespace Sys2Proof.Machine

/-! ### Operands at the port -/

/-- Something met while a row is read: the row, the position (0 header or directory, k + 1 element k, past the row's end where entries are
left over), the fault code, or 0 where an element or block is only counted, the page that a memory fault names, and what the counters gain.
head marks the side list's header. -/
structure PortEvent where
  row : Nat
  pos : Nat
  code : Nat := 0
  page : Option Nat := none
  cnt : Cnt := {}
  head : Bool := false
deriving DecidableEq, Repr

/-- Elements of an operand, row by row, with what was met while they were read. -/
structure Port where
  els : List (List Elem) := []
  evs : List PortEvent := []
deriving DecidableEq, Repr

/-- The faults among what was met. -/
def Port.faults (p : Port) : List PortEvent := p.evs.filter fun e => e.code != 0
/-- What the input-value counters gain (R53). -/
def Port.cnt (p : Port) : Cnt := p.evs.foldl (fun c e => c.add e.cnt) {}

/-- What one element brings: the fault of its page or block, or its count (R34, R203, R208). -/
def cellEvent (r k : Nat) (c : Cell) : Option PortEvent :=
  match c.flt with
  | some (code, pg) => some { row := r, pos := k + 1, code := code, page := some pg }
  | none => if Cnt.ofCode c.c = {} then none else some { row := r, pos := k + 1, cnt := Cnt.ofCode c.c }

/-- The first BAD page of a byte range, as what reading it at (row, pos) meets (R208). -/
def State.badEvent (s : State) (o lo n row pos : Nat) : List PortEvent :=
  ((s.badPages o lo n).take 1).map fun i => { row := row, pos := pos, code := 0x3B, page := some i }

/-- Replace escapes by their values and check the side list (R47 to R49); rows are those of R46. -/
def State.port (s : State) (m : MEnv) (t : TD) (cells : List (List Cell)) : Port :=
  let own := cells.zipIdx.flatMap fun r => r.1.zipIdx.filterMap fun c => cellEvent r.2 c.2 c.1
  match m.td t.slRef with
  | none => { els := cells.map fun r => r.map fun c => { v := c.c.v }, evs := own }
  | some sl =>
    let n := cells.length
    let head := ((s.badEvent sl.obj sl.offset 32 0 0) ++ (match s.slHeadFault sl sl.obj n t.fmt with
      | some c => [({ row := 0, pos := 0, code := c } : PortEvent)]
      | none => [])).map fun e => ({ e with head := true } : PortEvent)
    let rows := cells.zipIdx.map fun p =>
      let (es, f) := s.slRow sl sl.obj n p.2 p.1
      let d := s.slDir sl sl.obj n p.2
      let pages := s.badEvent sl.obj (sl.offset + 32 + 4 * p.2) 8 p.2 0 ++
        s.badEvent sl.obj (sl.offset + 32 + 4 * n + 8 * d) (8 * (s.slDir sl sl.obj n (p.2 + 1) - d)) p.2 0
      let dir := match s.slDirFault sl sl.obj n p.2 with
        | some c => [({ row := p.2, pos := 0, code := c } : PortEvent)]
        | none => []
      (es, pages ++ dir ++ (match f with
        | some (k, c) => [({ row := p.2, pos := k + 1, code := c } : PortEvent)]
        | none => []))
    { els := rows.map fun r => r.1, evs := own ++ head ++ rows.flatMap fun r => r.2 }

/-- Block scales of row r of an operand; [] where it has none. -/
def State.scalesOf (s : State) (m : MEnv) (t : TD) (kAxis r : Nat) : List (Option Rat) :=
  if t.bsEnc = 0 then [] else
    match m.td t.bsRef with
    | some bs => s.scaleRow t.bsEnc bs bs.obj kAxis r
    | none => []

/-- What reading the block scales of n rows meets: each block with an invalid scale counts once (R38), a BAD page faults (R208). -/
def State.scaleEvents (s : State) (m : MEnv) (t : TD) (kAxis n : Nat) : List PortEvent :=
  if t.bsEnc = 0 then [] else
    let bs := m.tdD t.bsRef
    let pitch := scalePitch t.bsEnc kAxis
    (List.range n).flatMap fun r => s.badEvent bs.obj (bs.offset + r * pitch) pitch r 1 ++
      (s.scalesOf m t kAxis r).zipIdx.filterMap fun x =>
        if x.1.isNone then some { row := r, pos := 32 * x.2 + 1, cnt := { bad := 1 } } else none

/-- Exponent code lengths of the expander for a context (R202): BF16, then FP16. -/
def State.ctabLens (s : State) (a ctx : Nat) : List Nat × List Nat :=
  let l := SMap.get [] (s.arr a).ctab ctx
  (l.take 256, l.drop 256)

/-- Cells of the stored row (i1, i2, i3) of a tensor in object o. An array operand that lies outside the array's own window, for which R99
names neither a fault nor a cost, is read through the table at no further cost (log 87). -/
def State.cellsAt (s : State) (m : MEnv) (t : TD) (o i1 i2 i3 : Nat) : List Cell :=
  if m.isWcmp t then
    let (b, f) := s.ctabLens m.a m.ctx
    s.wcmpRow t o b f (i1 + t.d1 * (i2 + t.d2 * i3))
  else s.markedRow t o (t.rowOff i1 i2 i3)

/-- Rows of a list of equally long rows, transposed. -/
def transposeRows {α : Type} (n : Nat) (l : List (List α)) : List (List α) :=
  (List.range n).map fun i => l.filterMap fun r => r[i]?

/-- Logical rows of a matrix operand [B, R, K] (R46): batch outermost. -/
def State.matRows (s : State) (m : MEnv) (t : TD) (trans : Bool) : List (List Cell) :=
  (List.range t.d2).flatMap fun b =>
    let stored := (List.range t.d1).map fun r => s.cellsAt m t t.obj r b 0
    if trans then transposeRows t.d0 stored else stored

/-- Logical weight rows [B, N, K], from the member objects in a gang (R114). -/
def State.weightRows (s : State) (m : MEnv) (t : TD) (g : Nat) (loc : Nat → Nat × Nat) : List (List Cell) :=
  if g = 1 then s.matRows m t m.d.transW
  else (List.range t.d2).flatMap fun b => (List.range (m.d.nDim t)).map fun n =>
    let (r, l) := loc n
    let o := s.memberObj t.obj r
    if m.d.transW then
      (List.range t.d1).filterMap fun k => (s.cellsAt m t o k b 0)[l]?
    else s.cellsAt m t o l b 0

/-- An operand of a product: its rows as the cells see them, the elements and block scales behind them, and what was met while they were
read. -/
structure Opd where
  rows : List RowOp := []
  els : List (List Elem) := []
  sc : List (List (Option Rat)) := []
  evs : List PortEvent := []
deriving DecidableEq, Repr

/-- Read and align an operand whose rows run along an axis of kAxis elements; w is its mantissa width (R61). -/
def State.opd (s : State) (m : MEnv) (t : TD) (cells : List (List Cell)) (kAxis w : Nat) : Opd :=
  let p := s.port m t cells
  let sc := (List.range cells.length).map fun r => s.scalesOf m t kAxis r
  { rows := (p.els.zip sc).map fun e => mkRow (fmtFp t.fmt) w m.d.trunc e.1 e.2, els := p.els, sc := sc,
    evs := p.evs ++ s.scaleEvents m t kAxis cells.length }

/-- Real values of a tensor's stored rows (R40), side list and block scales applied, with zero point z. -/
def State.realRows (s : State) (m : MEnv) (t : TD) (z : Int) : List (List Rat) × List PortEvent :=
  let idx := (List.range t.d3).flatMap fun i3 => (List.range t.d2).flatMap fun i2 => (List.range t.d1).map fun i1 => (i1, i2, i3)
  let p := s.port m t (idx.map fun i => s.cellsAt m t t.obj i.1 i.2.1 i.2.2)
  (p.els.zipIdx.map fun r =>
      let sr := s.scalesOf m t t.d0 r.2
      r.1.zipIdx.map fun e => match nth (some 1) sr (e.2 / 32) with
        | some k => k * (e.1.v - z)
        | none => 0,
    p.evs ++ s.scaleEvents m t t.d0 idx.length)

/-- The gate tensor of a macro-operation that has one (R72). -/
def State.gateRows (s : State) (m : MEnv) : List (List Rat) × List PortEvent :=
  if m.d.gate then s.realRows m (m.tdD m.d.tdGate) 0 else ([], [])

/-- Gate element at the logical indices of OUT (R72). -/
def gateAt (t : TD) (rows : List (List Rat)) (i0 i1 i2 i3 : Nat) : Rat :=
  nth 0 (nth [] rows (i1 + t.d1 * (i2 + t.d2 * i3))) i0

/-! ### Parameters (R92) -/

def align64 (n : Nat) : Nat := ceilDiv n 64 * 64

/-- BIAS entry n. nb is the length of the BIAS and SCALE arrays, nz that of the ZW array. -/
def State.pBias (s : State) (p : TD) (n : Nat) : Int := toInt 32 (s.objNum p.obj (p.offset + 4 * n) 4)
def State.pScale (s : State) (p : TD) (nb n : Nat) : Code := fp32 (s.objNum p.obj (p.offset + align64 (4 * nb) + 4 * n) 4)
def State.pZw (s : State) (p : TD) (nb n : Nat) : Int :=
  toInt 16 (s.objNum p.obj (p.offset + 2 * align64 (4 * nb) + 2 * n) 2)
def State.pCsum (s : State) (p : TD) (nb nz bk n b : Nat) : Int :=
  toInt 32 (s.objNum p.obj (p.offset + 2 * align64 (4 * nb) + align64 (2 * nz) + 4 * (n * bk + b)) 4)

/-- What one output column reads. -/
structure Col where
  bias : Int := 0
  sn : Rat := 1
  zw : Int := 0
  cw : List Int := []
deriving DecidableEq, Repr

/-- Parameters of column n, with what reading the scale adds to the counters. bk is B_K (R92). -/
def State.colOf (s : State) (m : MEnv) (nAll bk n : Nat) : Col × Cnt :=
  let d := m.d
  let p := m.tdD d.tdParam
  let sc := if d.scalePc then s.pScale p nAll n else fp32 d.sn
  ({ bias := if d.bias then s.pBias p n else 0, sn := sc.v,
     zw := if d.zwPc then s.pZw p nAll n else d.zw,
     cw := if d.za = 0 then [] else (List.range bk).map fun b => s.pCsum p nAll nAll bk n b },
   if d.scale && d.scalePc && !d.rawExport then Cnt.ofCode sc else {})

/-- B_K of a product along K (R92). -/
def blocksK (scaled : Bool) (k : Nat) : Nat := if scaled then ceilDiv k 32 else 1

/-- Post-pipeline settings of a member of the chain, writing format f: the TABLE stage reads the member's own resident table (R74). -/
def State.postOf (s : State) (m : MEnv) (l : Int) (f mem : Nat) : Post :=
  let d := m.d
  { l := l, g := d.g, scale := d.scale, table := d.table, gate := d.gate, stats := d.stats, rawExport := d.rawExport,
    tab := SMap.get {} (s.arr (nth m.a m.chain mem)).tables (m.ctx * 8 + d.tableSel), sout := (fp32 d.sout).v, zo := d.zo, fmt := f }

/-- Counts of the FP32 parameters held in the descriptor that the macro-operation reads (R34); a raw export reads none (R76). -/
def Desc.cnt (d : Desc) : Cnt :=
  if d.rawExport then {}
  else (if d.scale && !d.scalePc then Cnt.ofCode (fp32 d.sn) else {}).add (Cnt.ofCode (fp32 d.sout))

/-! ### The walk -/

/-- A row of a tile: its logical index, its accumulator row (R69), its elements. -/
structure TRow where
  m : Nat := 0
  acc : Nat := 0
  op : RowOp := {}
deriving DecidableEq, Repr

/-- A column of a tile: its logical index, the member of the chain that holds it, its column in that array, its elements. -/
structure TCol where
  n : Nat := 0
  mem : Nat := 0
  col : Nat := 0
  op : RowOp := {}
deriving DecidableEq, Repr

/-- Rows and columns of one product inside a tile, of batch or step b. -/
structure TPart where
  b : Nat := 0
  rows : List TRow := []
  cols : List TCol := []
deriving DecidableEq, Repr

/-- An output element: object, logical indices, the extent of its row where that is not the descriptor's D0 (0 otherwise), element. -/
structure OutEl where
  obj : Nat
  i0 : Nat
  i1 : Nat
  i2 : Nat
  i3 : Nat
  ext : Nat := 0
  e : Narrowed := {}
deriving DecidableEq, Repr

/-- A value that passed the STATS stage (R75): the member that formed it, its logical row, its accumulator row, the maximum and the sum it
stands for. -/
structure StatEl where
  mem : Nat := 0
  key : Nat := 0
  row : Nat := 0
  top : Int := 0
  sum : Int := 0
deriving DecidableEq, Repr

/-- What an output tile leaves: elements of each tensor, accumulator rows that it zeroes (member, row) and words that it leaves (member,
key row · 256 + column) (R69), values for STATS, rows without a key (R125), and state words limited by sat40 for each member (R142). -/
structure TileOut where
  els : List (TD × List OutEl) := []
  clr : List (Nat × Nat) := []
  acc : List (Nat × Nat × AccVal) := []
  stats : List StatEl := []
  empties : Nat := 0
  limited : List Nat := []
deriving DecidableEq, Repr

/-- One output tile: its parts; its cost: the ac before its first weight tile, ΣT of each weight tile, the compare, what follows the compare
before the next tile begins, and the ac of its drain; what it is a product of (batch or step, chunk, block, product); and what it leaves. -/
structure WTile where
  parts : List TPart := []
  lead : Nat := 0
  ts : List Nat := []
  cmp : Nat := 8
  tail : Nat := 0
  drain : Nat := 0
  tag : Nat × Nat × Nat × Nat := (0, 0, 0, 0)
  out : TileOut := {}
deriving DecidableEq, Repr

/-- Cycles of one run of a tile's K loop with its compare, which a replay repeats (R84). -/
def WTile.run (t : WTile) : Nat := sumNat t.ts + 8
/-- Cycles that a tile takes in the walk; cmp is 0 where the compare runs beside the next loads (R137). -/
def WTile.ac (t : WTile) : Nat := t.lead + sumNat t.ts + t.cmp + t.tail

/-- Something met during the walk: its place in walk order (R87), the fault code, or 0 where it is only counted, the operand, the page that
a memory fault names, the member whose counters gain, and what they gain. -/
structure WEvent where
  key : Nat
  code : Nat := 0
  operand : Nat := opNone
  page : Option Nat := none
  mem : Nat := 0
  cnt : Cnt := {}
deriving DecidableEq, Repr

/-- Stages of a weight tile in walk order (R98): what precedes the walk, weight load, checksum rows, passes, compare, drain. -/
abbrev stPre : Nat := 0
abbrev stLoad : Nat := 1
abbrev stSum : Nat := 2
abbrev stPass : Nat := 3
abbrev stCmp : Nat := 4
abbrev stDrain : Nat := 5

/-- The weight-tile index under which a tile's compare and drain stand: past every weight tile. -/
abbrev ktEnd : Nat := 2 ^ 24 - 1

/-- A place in walk order (R87): tile, weight tile, stage, row, position. -/
def walkKey (tile kt stage row pos : Nat) : Nat := (((tile * 2 ^ 24 + kt) * 8 + stage) * 2 ^ 24 + row) * 2 ^ 24 + pos
/-- The tile, weight tile and stage of a place. -/
def keyTile (k : Nat) : Nat := k / 2 ^ 75
def keyKt (k : Nat) : Nat := k / 2 ^ 51 % 2 ^ 24
def keyStage (k : Nat) : Nat := k / 2 ^ 48 % 8

/-- The fault found first; faults at one place are ordered by code, as Tables 2.10 and 3.6 list them (R87). -/
def firstFault (l : List WEvent) : Option WEvent :=
  l.foldl (fun b f => if f.code = 0 then b else match b with
    | none => some f
    | some g => if f.key < g.key ∨ (f.key = g.key ∧ f.code < g.code) then some f else b) none

/-- Events of the port at the places and members that `at_` gives. A damaged compressed block names operand 1, or 0 of a MOVE/CONVERT (R205). -/
def walkEvents (op operand : Nat) (at_ : PortEvent → Option (Nat × Nat)) (l : List PortEvent) : List WEvent :=
  l.filterMap fun e => (at_ e).map fun p =>
    { key := p.1, code := e.code, operand := if e.code = 0x3A then (if op = 0x05 then opA else opW) else operand, page := e.page,
      mem := p.2, cnt := e.cnt }

/-- What the physical happenings of the run raise: STORE_UE at its tile, ARITH_PERSIST at the compare after a third mismatch (R86, R252). -/
def envEvents (env : MopEnv) (tiles : List WTile) : List WEvent :=
  (match env.ue with
    | some (t, _) => if t < tiles.length then [{ key := walkKey t 0 stLoad 0 0, code := 0x3D }] else []
    | none => []) ++
  (env.mism.filter fun p => decide (3 ≤ p.2) && decide (p.1 < tiles.length)).map fun p =>
    { key := walkKey p.1 ktEnd stCmp 0 0, code := 0x28 }

/-- The 65th double escape of some output element in each tile (R67). kt is the K range of a weight tile. -/
def overlapEvents (kt : Nat) (tiles : List WTile) : List WEvent :=
  tiles.zipIdx.flatMap fun p => p.1.parts.flatMap fun q => q.rows.flatMap fun r => q.cols.filterMap fun c =>
    (overlapAt r.op c.op).map fun k => { key := walkKey p.2 (k / kt) stPass r.m k, code := 0x27 }

/-- Per-channel zero points out of range, found when the column's parameter is first read (R41, R56): by the block combine on the scaled path,
by the drain on the plain one. first names the tile that first forms column n. -/
def zwEvents (m : MEnv) (scaled : Bool) (fmt nAll : Nat) (zw : Nat → Int) (first : Nat → Option Nat) : List WEvent :=
  if !m.d.zwPc then [] else
    (List.range nAll).filterMap fun n =>
      let (lo, hi) := fmtReadRange fmt
      if outside lo hi (zw n) then
        (first n).map fun t => { key := if scaled then walkKey t 0 stPass 0 n else walkKey t ktEnd stDrain 0 n, code := 0x25, operand := opParam }
      else none

/-- A BAD page of a tensor, the first of each (R208). -/
def State.badFaults (s : State) (m : MEnv) : List WEvent :=
  m.tensors.flatMap fun p => ((p.2.pages.filter fun i => ottBad (s.ott i)).take 1).map fun i =>
    { key := walkKey 0 0 stPre 0 0, code := 0x3B, operand := p.1, page := some i }

/-- A BAD page of a parameter block, a record or the row statistics, which are read as the macro-operation begins (R208, log 88). -/
def State.paramEvents (s : State) (m : MEnv) : List WEvent :=
  (m.tensors.filter fun p => p.1 == opParam || (m.d.op == 0x11 && p.2 == m.tdD m.d.tdStat)).flatMap fun p =>
    ((p.2.pages.filter fun i => ottBad (s.ott i)).take 1).map fun i =>
      { key := walkKey 0 0 stPre 0 0, code := 0x3B, operand := p.1, page := some i }

/-- Replays: mismatches seen at compares that precede the end of the walk, at most two replays and three mismatches a tile (R84, R86):
(mismatches, replays, cycles). -/
def replaysOf (env : MopEnv) (tiles : List WTile) (stop : Option Nat) : Nat × Nat × Nat :=
  (env.mism.filter fun p => decide (p.1 < tiles.length) && (match stop with
    | some k => decide (walkKey p.1 ktEnd stCmp 0 0 ≤ k)
    | none => true)).foldl (fun acc p =>
    let r := min p.2 2
    (acc.1 + min p.2 3, acc.2.1 + r, acc.2.2 + r * (nth {} tiles p.1).run)) (0, 0, 0)

/-- First and last cycle of the walk in which what stands at a place can be found (Table 4.5a): the compare is one cycle; a weight row is read
while the weight tile before its own runs, an element or a parameter while its own tile runs or drains. Which of those cycles it is the spec
does not say (log 9). -/
def walkCycles (tiles : List WTile) (key : Nat) : Nat × Nat :=
  let t := nth {} tiles (keyTile key)
  let pre := sumNat ((tiles.take (keyTile key)).map WTile.ac)
  let done := fun n => sumNat (t.ts.take n)
  let kt := keyKt key
  let from_ := pre + t.lead + done kt
  let last := pre + t.lead + sumNat t.ts + t.cmp
  match keyStage key with
  | 0 => (pre, pre + t.lead)
  | 1 => (if kt = 0 then pre - (nth {} tiles (keyTile key - 1)).run else pre + t.lead + done (kt - 1), pre + t.lead + done (kt + 1))
  | 4 => (last, last + (8 - t.cmp))
  | 5 => (last, last + t.drain + 24)
  | _ => (from_, pre + t.lead + done (kt + 1))

/-! ### Placing outputs -/

/-- Write one element of an uncompressed tensor; the last element of a row also writes the pad bits as 0 (R28). -/
def State.putEl (s : State) (t : TD) (x : OutEl) : State :=
  let w := fmtBits t.fmt
  let ro := t.rowOff x.i1 x.i2 x.i3
  if 8 ≤ w then s.objStore x.obj (ro + x.i0 * (w / 8)) (leBytes (w / 8) x.e.code)
  else
    let o := ro + x.i0 * w / 8
    let old := (s.objByte x.obj o).toNat
    let new := setField old (x.i0 * w % 8) w x.e.code
    let new := if x.i0 + 1 = (if x.ext = 0 then t.d0 else x.ext) then new % 2 ^ (x.i0 * w % 8 + w) else new
    s.objStore x.obj o [BitVec.ofNat 8 new]

/-- Write the elements of a tensor: one by one, or by whole blocks where the tensor is compressed, the short last block of a row among them
(R27, R115). -/
def State.putEls (s : State) (t : TD) (l : List OutEl) : State :=
  if t.cmp = 0 then l.foldl (fun s x => s.putEl t x) s
  else
    let rows := (l.map fun x => (x.obj, x.i1, x.i2, x.i3, if x.ext = 0 then t.d0 else x.ext)).eraseDups
    rows.foldl (fun s r =>
      let (o, i1, i2, i3, len) := r
      let mine := l.filter fun x => x.obj == o && x.i1 == i1 && x.i2 == i2 && x.i3 == i3
      (List.range (ceilDiv len 64)).foldl (fun s j =>
        let n := min 64 (len - 64 * j)
        let els := (List.range n).filterMap fun k => (mine.find? fun x => x.i0 == 64 * j + k).map fun x => x.e.v
        if els.length = n then
          s.objStore o (t.rowOff i1 i2 i3 + j * t.blockBytes) (cmpEncode t (els ++ List.replicate (64 - n) (els.getLastD 0)))
        else s) s) s

/-- Elements grouped by the tensor that they belong to, in the order of the tensors' first elements. -/
def groupEls (l : List (TD × List OutEl)) : List (TD × List OutEl) :=
  ((l.map fun x => x.1).eraseDups).map fun t => (t, (l.filter fun x => x.1 == t).flatMap fun x => x.2)

/-! ### The end of a walk -/

/-- What a macro-operation leaves for its completion. ac is its cycle count; on a fault in mid-walk it is the first cycle in which the fault
can be found, and acSpan says how many more there are (log 9). -/
structure MRes where
  fault : Nat := 0
  operand : Nat := opNone
  tile : Nat := 0
  ac : Nat := 0
  acSpan : Nat := 0
  sat : Nat := 0
  flush : Nat := 0
  nOut : Nat := 0
  /-- Output tensors completed before the last one: saturated, flushed, elements (R78). -/
  prev : List (Nat × Nat × Nat) := []
  mism : Nat := 0
  replays : Nat := 0
  replayAc : Nat := 0
  /-- What each member of the chain counts (R53). -/
  cnts : List (Nat × Cnt) := []
  /-- The page of a damaged compressed block or index (R205). -/
  crcPage : Option Nat := none
  /-- Free values taken (log 2). -/
  frees : Nat := 0
  out : List (TD × List OutEl) := []
  clr : List (Nat × Nat) := []
  acc : List (Nat × Nat × AccVal) := []
  stats : List StatEl := []
  residues : List (Nat × Nat × Nat × Nat) := []
  empties : Nat := 0
  limited : List Nat := []
deriving DecidableEq, Repr

/-- Expected and observed residues of the columns of a tile: member, column of the array, E(n), O(n) (R82). -/
def tileResidues (t : WTile) : List (Nat × Nat × Nat × Nat) :=
  t.parts.flatMap fun p => p.cols.map fun c =>
    let k := c.op.q.length
    let chk := (List.range k).map fun i => sumInt (p.rows.map fun r => nth 0 r.op.q i) % 65536
    let e := dot chk c.op.q % 65536
    let o := sumInt (p.rows.map fun r => dot r.op.q c.op.q) % 65536
    (c.mem, c.col, e.toNat, o.toNat)

/-- Row statistics of what passed the STATS stage (R75): maximum and exact sum of each accumulator row. Where an accumulator row serves a
second logical row, of a later M chunk, batch or RECUR step, its statistics begin anew (DESIGN CHOICE, log 89). -/
def statsOf (l : List StatEl) : List (Nat × (Int × Int)) :=
  (l.foldl (fun (t : SMap (Nat × Int × Int)) e =>
    let x := SMap.get (0, 0, 0) t e.row
    SMap.set (0, 0, 0) t e.row
      (if x.1 = e.key + 1 then (x.1, max x.2.1 e.top, x.2.2 + e.sum) else (e.key + 1, e.top, e.sum))) []).map fun x => (x.1, x.2.2)

/-- What each member counts of what was met up to the end of the walk. -/
def countsOf (evs : List WEvent) (stop : Option Nat) : List (Nat × Cnt) :=
  (evs.filter fun e => e.cnt != {} && (match stop with
    | some k => decide (e.key ≤ k)
    | none => true)).map fun e => (e.mem, e.cnt)

/-- Put the walk's end together (R55, R78, R82, R86, R95): what the tiles before the first fault leave, the counts of each output tensor of
`count` with its element count, the replays, the residues of the tile compared last, and the cycles. A fault leaves the tiles already written
in memory and writes no further one; without a fault TILE is 0 (log 101). pre holds what is left before the first tile, preAc the cycles of an
operator without one. -/
def endWalk (env : MopEnv) (evs : List WEvent) (tiles : List WTile) (pre : TileOut) (count : List (TD × Nat)) (preAc : Nat) : MRes :=
  let f := firstFault (evs ++ envEvents env tiles)
  let stop := f.map fun x => x.key
  let n := match stop with
    | some k => keyTile k
    | none => tiles.length
  let outs := pre :: (tiles.take n).map fun t => t.out
  let out := groupEls (outs.flatMap fun o => o.els)
  let tens := count.map fun c =>
    let els := (out.filter fun o => o.1 == c.1).flatMap fun o => o.2
    ((els.filter fun e => e.e.sat).length, (els.filter fun e => e.e.flush).length, c.2, els.length)
  let last := tens.getLastD (0, 0, 0, 0)
  let (mism, reps, rac) := replaysOf env tiles stop
  let compared := tiles.zipIdx.filter fun t => match stop with
    | some k => decide (walkKey t.2 ktEnd stCmp 0 0 ≤ k)
    | none => true
  let base : MRes :=
    { sat := last.1, flush := last.2.1, nOut := last.2.2.1,
      prev := (tens.dropLast.filter fun t => t.2.2.1 == t.2.2.2).map fun t => (t.1, t.2.1, t.2.2.1),
      mism := mism, replays := reps, replayAc := rac, cnts := countsOf evs stop, out := out,
      clr := outs.flatMap fun o => o.clr, acc := outs.flatMap fun o => o.acc, stats := outs.flatMap fun o => o.stats,
      residues := match compared.getLast? with
        | some t => tileResidues t.1
        | none => [],
      empties := sumNat (outs.map fun o => o.empties),
      limited := outs.foldl (fun l o => if l.isEmpty then o.limited else (l.zip o.limited).map fun x => x.1 + x.2) [] }
  match f with
  | none => { base with ac := preAc + sumNat (tiles.map WTile.ac) + rac }
  | some x =>
    let (lo, hi) := walkCycles tiles x.key
    { base with fault := x.code, operand := x.operand, tile := keyTile x.key, crcPage := x.page, ac := lo + rac, acSpan := hi - lo }

/-- Pace of the drain of array a onto a tensor (R101): 1 for the own window. -/
def State.paceOf (s : State) (a : Nat) (t : TD) : Nat :=
  let e := s.ott (t.pages.headD 0)
  let own := ottPlace e == 0 && ottArr e == a
  let fac := s.acMhz a
  let cb := colBlock a
  let bRow := if t.cmp = 0 then cb * fmtBits t.fmt / 8 else ceilDiv cb 64 * t.blockBytes
  let rate := if ottPlace e = 0 then 512 else if a = 8 then 64 else 256
  if own then 1 else max 1 (ceilDiv (bRow * fac) (rate * 1200))

/-- Pace of the drain onto an output: the slowest of the arrays that write it (R101, R114). -/
def State.drainPace (s : State) (m : MEnv) (code : Nat) (t : TD) : Nat :=
  ((s.writers m code t).map fun w => s.paceOf w.1 w.2).foldl max 1

/-- ΣT of each weight tile of a tile (R102). members gives each gang member's columns. -/
def tileTs (rate kt k na nw load : Nat) (rows : List RowOp) (members : List (List RowOp)) : List Nat :=
  (List.range (ceilDiv k kt)).map fun j =>
    let lo := kt * j
    let hi := min k (kt * (j + 1))
    let ex := excess (rows.map fun r => escIn r lo hi)
      (members.map fun cs => sumNat (cs.map fun c => escIn c lo hi))
    tileT rate na nw rows.length ex load

/-- Columns of each member of a chain of g. -/
def byMember (g : Nat) (cols : List TCol) : List (List RowOp) :=
  (List.range g).map fun r => (cols.filter fun c => c.mem == r).map fun c => c.op

/-- Drains and post latency after a tile (R100 to R102): the last tile of a MATMUL drains and leaves the pipeline; an earlier one delays the
walk at a pace above 1 only. -/
def drainTail (last : Bool) (pace rows : Nat) : Nat := if last then pace * rows + 24 else if 1 < pace then pace * rows else 0

/-- What a tile of a matrix product leaves (R69 to R77). post gives a member's settings, fmtOf the format that a column narrows to, place an
element's tensor and indices, key a row's identity for the statistics. -/
def matOut (post : Nat → Post) (fmtOf : Nat → Nat) (scaled : Bool) (za : Int) (col : Nat → Col) (gate : Nat → Nat → Nat → Rat)
    (key : Nat → Nat → Nat) (place : Nat → Nat → Nat → TD × OutEl) (parts : List TPart) : TileOut :=
  let vals := parts.flatMap fun p => p.rows.flatMap fun r => p.cols.map fun c =>
    let cc := col c.n
    let acc := product scaled r.op c.op za cc.zw (fun b => nth 0 cc.cw b) (post 0).l
    let (v, e) := if (post 0).rawExport then (acc.v, exportAcc acc)
      else
        let tz := if scaled then acc.v
          else zpTerm acc.v za cc.zw (sumInt r.op.q) (nth 0 cc.cw 0) r.op.q.length
        let mk := postScale (post c.mem) { sat := acc.clamp } (tz + cc.bias) cc.sn
        postTail { post c.mem with fmt := fmtOf c.n } mk (gate p.b r.m c.n)
    (p.b, r, c, acc, v, e)
  { els := groupEls (vals.map fun x =>
      let (t, o) := place x.1 x.2.1.m x.2.2.1.n
      (t, [{ o with e := x.2.2.2.2.2 }])),
    clr := (parts.flatMap fun p => p.rows.flatMap fun r => p.cols.map fun c => (c.mem, r.acc)).eraseDups,
    acc := vals.map fun x => (x.2.2.1.mem, x.2.1.acc * 256 + x.2.2.1.col, x.2.2.2.1),
    stats := if (post 0).stats && !(post 0).rawExport then vals.map fun x =>
        { mem := x.2.2.1.mem, key := key x.1 x.2.1.m, row := x.2.1.acc, top := x.2.2.2.2.1, sum := x.2.2.2.2.1 } else [] }

/-- What reading the parameters of n columns adds: the scale entries at the first drain of their columns, the descriptor's own factors at the
first drain of each of g members (R34). first names the tile that first forms a column. -/
def paramCounts (d : Desc) (g : Nat) (cols : List (Nat × Cnt)) (first : Nat → Option Nat) : List WEvent :=
  ((List.range g).map fun r => { key := walkKey 0 ktEnd stDrain 0 0, mem := r, cnt := d.cnt : WEvent }) ++
  (cols.zipIdx.filter fun c => c.1.2 != {}).filterMap fun c => (first c.2).map fun t =>
    { key := walkKey t ktEnd stDrain 0 c.2, mem := c.1.1, cnt := c.1.2 }

/-- Length of member r's rows of n columns, cb a block, over a gang of g (R114). -/
def localLen (cb g n r : Nat) : Nat := n / (cb * g) * cb + min cb (n % (cb * g) - r * cb)

/-! ### MATMUL and EXPAND -/

/-- Tiles of a matrix product over batches, M chunks and column blocks (R98, R114), without what they leave. tailOf gives what follows the
compare from whether the tile is the last, its row count and its columns. -/
def matTiles (a g rate kt k na nw load mAll nAll bAll wb lead : Nat) (tailOf : Bool → Nat → List TCol → Nat × Nat)
    (ra rw : List RowOp) : List WTile :=
  let cb := colBlock a * g
  let cr := chunkRows a
  let (mcs, nbs) := (ceilDiv mAll cr, ceilDiv nAll cb)
  (List.range bAll).flatMap fun b => (List.range mcs).flatMap fun mc => (List.range nbs).map fun nb =>
    let rows := (((List.range mAll).drop (cr * mc)).take cr).map fun r => { m := r, acc := r % cr, op := nth {} ra (b * mAll + r) : TRow }
    let cols := (((List.range nAll).drop (cb * nb)).take cb).map fun c =>
      { n := c, mem := c / colBlock a % g, col := c % colBlock a, op := nth {} rw ((if wb = 1 then 0 else b) * nAll + c) : TCol }
    let (tail, drain) := tailOf (b + 1 == bAll && mc + 1 == mcs && nb + 1 == nbs) rows.length cols
    { parts := [{ b := b, rows := rows, cols := cols }], lead := if b == 0 && mc == 0 && nb == 0 then lead else 0,
      ts := tileTs rate kt k na nw load (rows.map fun x => x.op) (byMember g cols), tail := tail, drain := drain,
      tag := (b, mc, nb, 0) }

/-- Places at which a matrix product reads what its operands' ports meet (R87, R98): A's rows with the first column block of their chunk, W's
rows with the first chunk of their column block; loc gives the member that holds a column. -/
def matEvents (op a g kt k mAll nAll wb : Nat) (loc : Nat → Nat) (ea ew : List PortEvent) : List WEvent :=
  let cb := colBlock a * g
  let cr := chunkRows a
  let mcs := ceilDiv mAll cr
  let nbs := ceilDiv nAll cb
  let ktOf := fun pos => if pos = 0 then 0 else min ((pos - 1) / kt) ((k - 1) / kt)
  walkEvents op opW (fun f =>
    let n := f.row % nAll
    some (walkKey ((if wb = 1 then 0 else f.row / nAll) * mcs * nbs + n / cb) (ktOf f.pos) stLoad n f.pos, loc n)) ew ++
  walkEvents op opA (fun f =>
    some (walkKey ((f.row / mAll * mcs + f.row % mAll / cr) * nbs) (ktOf f.pos) stSum (f.row % mAll) f.pos, 0)) ea

/-- MATMUL, and EXPAND, whose value columns are written transposed to TD_AUX (R98 to R103, R134). -/
def State.runMatmul (s : State) (m : MEnv) (env : MopEnv) : MRes :=
  let d := m.d
  let ta := m.tdD d.tdA
  let tw := m.tdD d.tdW
  let tout := m.tdD d.tdOut
  let tx := m.tdD d.tdAux
  let tg := m.tdD d.tdGate
  let g := m.chain.length
  let cb := colBlock m.a
  let cr := chunkRows m.a
  let (mAll, nAll, k) := (d.mDim ta, d.nDim tw, d.kDim ta)
  let scaled := scaledPath ta tw
  let kt := kTile m.a ta.fmt tw.fmt
  let loc := gangCol cb g
  let oa := s.opd m ta (s.matRows m ta d.transA) k d.wa
  let ow := s.opd m tw (s.weightRows m tw g loc) k d.ww
  let cols := (List.range nAll).map fun n => s.colOf m nAll (blocksK scaled k) n
  let colD := fun n => (nth ({}, {}) cols n).1
  let nk := if d.op = 0x12 then d.os 0 0 20 else nAll
  let (gr, ge) := s.gateRows m
  let paceK := if nk = 0 then 1 else s.drainPace m opOut tout
  let paceV := if nk < nAll then s.drainPace m opAux tx else 1
  let tailOf := fun (last : Bool) rows (cs : List TCol) =>
    let values := cs.any fun c => decide (nk ≤ c.n)
    let pace := max (if cs.any fun c => decide (c.n < nk) then paceK else 1) (if values then paceV else 1)
    ((if values then 32 else 0) + drainTail last pace rows, pace * rows)
  let l := if scaled then d.l else 0
  let place := fun b r n =>
    if n < nk then
      let (mb, i) := loc n
      (tout, { obj := s.memberObj tout.obj mb, i0 := i, i1 := r, i2 := b, i3 := 0, ext := if g = 1 then 0 else localLen cb g nk mb : OutEl })
    else (tx, { obj := tx.obj, i0 := r, i1 := n - nk, i2 := 0, i3 := 0 })
  let leave := matOut (fun r => s.postOf m l tout.fmt r) (fun n => if n < nk then tout.fmt else tx.fmt) scaled d.za colD
    (fun b r n => gateAt tg gr n r b 0) (fun b r => b * 2 ^ 24 + r) place
  let tiles := (matTiles m.a g (cellRate ta.fmt tw.fmt) kt k (slices ta.fmt d.wa) (slices tw.fmt d.ww) (loadAc m.a d.transW) mAll nAll ta.d2
    tw.d2 (leadAc m.a + 8 * (g - 1)) tailOf oa.rows ow.rows).map fun t => { t with out := leave t.parts }
  let (mcs, nbs) := (ceilDiv mAll cr, ceilDiv nAll (cb * g))
  let first := fun n => some (n / (cb * g))
  let evs := matEvents d.op m.a g kt k mAll nAll tw.d2 (fun n => (loc n).1) oa.evs ow.evs ++
    (if ta.slRef = 0 ∨ tw.slRef = 0 then [] else overlapEvents kt tiles) ++
    zwEvents m scaled tw.fmt nAll (fun n => (colD n).zw) first ++
    walkEvents d.op opGate (fun f =>
      let (r, b, n) := (f.row % tg.d1, f.row / tg.d1, f.pos - 1)
      some (walkKey ((b * mcs + r / cr) * nbs + n / (cb * g)) ktEnd stDrain r f.pos, (loc n).1)) ge ++
    s.paramEvents m ++ paramCounts d g (cols.zipIdx.map fun c => ((loc c.2).1, c.1.2)) first
  endWalk env evs tiles {} ((if nk = 0 then [] else [(tout, ta.d2 * mAll * nk)]) ++
    (if nk < nAll then [(tx, mAll * (nAll - nk))] else [])) 0

/-! ### CONV (R104 to R108, R430, R431) -/

/-- Stored position (row, index) of the input element that row mr at index k of group gr reads, or none in the padding. -/
def convPos (g : Conv) (il : Bool) (b gr mr k : Nat) : Option (Nat × Nat) :=
  let cg := g.c / g.groups
  let c := gr * cg + k / (g.kh * g.kw)
  let kh := k / g.kw % g.kh
  let kw := k % g.kw
  let y := mr / g.wo * g.sh + kh * g.dh
  let x := mr % g.wo * g.sw + kw * g.dw
  if g.pt ≤ y ∧ y - g.pt < g.h ∧ g.pl ≤ x ∧ x - g.pl < g.w then
    let (yy, xx) := (y - g.pt, x - g.pl)
    if il then some (xx + g.w * (yy + g.h * b), c) else some (yy + g.h * (c + g.c * b), xx)
  else none

/-- Tiles of a CONV: packed column blocks, or each group as its own MATMUL in ascending order (R107, R430). tag holds the batch, the first
group, the chunk and the column block. -/
def convTiles (a gsz rate kt kg na nw load mAll bAll groups ng p lead pace : Nat) (row : Nat → Nat → Nat → RowOp)
    (colw : Nat → RowOp) : List WTile :=
  let cb := colBlock a
  let cr := chunkRows a
  let mcs := ceilDiv mAll cr
  let chunkOf := fun mc => ((List.range mAll).drop (cr * mc)).take cr
  if p = 0 then
    let nbs := ceilDiv ng (cb * gsz)
    (List.range groups).flatMap fun gr => (List.range bAll).flatMap fun b =>
      (List.range mcs).flatMap fun mc => (List.range nbs).map fun nb =>
        let rows := (chunkOf mc).map fun r => { m := r, acc := r % cr, op := row b gr r : TRow }
        let cols := (((List.range ng).drop (cb * gsz * nb)).take (cb * gsz)).map fun n =>
          { n := gr * ng + n, mem := n / cb % gsz, col := n % cb, op := colw (gr * ng + n) : TCol }
        { parts := [{ b := b, rows := rows, cols := cols }], lead := if b == 0 && mc == 0 && nb == 0 then lead else 0,
          ts := tileTs rate kt kg na nw load (rows.map fun x => x.op) (byMember gsz cols),
          tail := drainTail (b + 1 == bAll && mc + 1 == mcs && nb + 1 == nbs) pace rows.length, drain := pace * rows.length,
          tag := (b, gr, mc, nb) }
  else
    let blocks := ceilDiv groups p
    let qbs := ceilDiv blocks gsz
    (List.range bAll).flatMap fun b => (List.range mcs).flatMap fun mc => (List.range qbs).map fun qb =>
      let qs := ((List.range blocks).drop (gsz * qb)).take gsz
      let rows := chunkOf mc
      let grsOf := fun q => ((List.range groups).drop (q * p)).take p
      let parts := qs.flatMap fun q => (grsOf q).map fun gr =>
        { b := b, rows := rows.map fun r => { m := r, acc := r % cr, op := row b gr r : TRow },
          cols := (List.range ng).map fun n =>
            { n := gr * ng + n, mem := q % gsz, col := gr % p * ng + n, op := colw (gr * ng + n) : TCol } : TPart }
      let ea := rows.map fun r => sumNat (qs.flatMap fun q => (grsOf q).map fun gr => escIn (row b gr r) 0 kg)
      let ews := qs.map fun q => sumNat ((grsOf q).flatMap fun gr => (List.range ng).map fun n => escIn (colw (gr * ng + n)) 0 kg)
      { parts := parts, lead := if b == 0 && mc == 0 && qb == 0 then lead else 0,
        ts := [tileT rate na nw rows.length (excess ea ews) load],
        tail := drainTail (b + 1 == bAll && mc + 1 == mcs && qb + 1 == qbs) pace rows.length, drain := pace * rows.length,
        tag := (b, gsz * qb * p, mc, qb) }

/-- The place at which the walk first reads a stored input element that satisfies a test (R431). -/
def convFirst (g : Conv) (ng kg kt p : Nat) (tiles : List WTile) (hit : Nat → Nat → Bool) : Option Nat :=
  (tiles.zipIdx.flatMap fun t => t.1.parts.flatMap fun q => q.rows.flatMap fun r => (List.range kg).filterMap fun k =>
    match convPos g false q.b ((q.cols.headD {}).n / ng) r.m k with
    | some (i, j) => if hit i j then some (walkKey t.2 (if p = 0 then k / kt else 0) stSum r.m k) else none
    | none => none).foldl (fun b k => match b with
      | none => some k
      | some x => some (min x k)) none

/-- The code that the planar copy of an interleaved input holds for an element: an escape stays one, a special value enters as its
replacement (R34, R35, R108). -/
def planarCode (t : TD) (c : Cell) : Narrowed :=
  if c.esc then { code := escCode t.fmt }
  else if fmtFp t.fmt then { code := fpEncode t.fmt c.c.v, v := c.c.v }
  else { code := intEncode t.fmt c.c.v.floor, v := c.c.v }

/-- The planar copy of an interleaved input (R108), dense from TD_AUX's OFFSET and as far as TD_AUX reaches (log 90). -/
def State.planarCopy (s : State) (m : MEnv) (ta tx : TD) (cg : Conv) : TD × List OutEl :=
  let rb := ceilDiv (cg.w * fmtBits ta.fmt) 8
  let planar : TD := { tx with fmt := ta.fmt, cmp := 0, d0 := cg.w, d1 := cg.h, d2 := cg.c, d3 := ta.d3, s1 := rb, s2 := cg.h * rb, s3 := cg.c * cg.h * rb }
  (planar, ((List.range ta.d3).flatMap fun b => (List.range cg.h).flatMap fun y => (List.range cg.w).flatMap fun x =>
    (s.cellsAt m ta ta.obj x y b).zipIdx.map fun c =>
      { obj := tx.obj, i0 := x, i1 := y, i2 := c.2, i3 := b, e := planarCode ta c.1 : OutEl }).filter fun e =>
        decide (planar.rowOff e.i1 e.i2 e.i3 + (e.i0 + 1) * fmtBits ta.fmt / 8 ≤ tx.reach))

/-- CONV. -/
def State.runConv (s : State) (m : MEnv) (env : MopEnv) : MRes :=
  let d := m.d
  let ta := m.tdD d.tdA
  let tw := m.tdD d.tdW
  let tout := m.tdD d.tdOut
  let tx := m.tdD d.tdAux
  let tg := m.tdD d.tdGate
  let gsz := m.chain.length
  let cb := colBlock m.a
  let cr := chunkRows m.a
  let cg := d.conv ta
  let kg := m.k1
  let mAll := cg.ho * cg.wo
  let co := d.nDim tw
  let ng := co / cg.groups
  let scaled := scaledPath ta tw
  let kt := kTile m.a ta.fmt tw.fmt
  let p := convPack m.a kt ng kg
  let loc := convLocal cb gsz p ng
  let idx := (List.range ta.d3).flatMap fun i3 => (List.range ta.d2).flatMap fun i2 => (List.range ta.d1).map fun i1 => (i1, i2, i3)
  let pin := s.port m ta (idx.map fun i => s.cellsAt m ta ta.obj i.1 i.2.1 i.2.2)
  let ow := s.opd m tw (s.weightRows m tw gsz loc) kg d.ww
  let zpad : Elem := { v := d.za }
  let gathered := (List.range ta.d3).map fun b => (List.range cg.groups).map fun gr => (List.range mAll).map fun r =>
    let els := (List.range kg).map fun k => match convPos cg ta.il b gr r k with
      | some (i, j) => nth {} (nth [] pin.els i) j
      | none => zpad
    mkRow (fmtFp ta.fmt) d.wa d.trunc els (s.scalesOf m ta kg (b * mAll + r))
  let row := fun b gr r => nth {} (nth [] (nth [] gathered b) gr) r
  let cols := (List.range co).map fun n => s.colOf m co (blocksK scaled kg) n
  let colD := fun n => (nth ({}, {}) cols n).1
  let (gr, ge) := s.gateRows m
  let ilAc := if ta.il then ceilDiv (ta.rows * ta.rowBytes) 128 else 0
  let place := fun b r n =>
    let (mb, i) := if gsz = 1 then (0, n) else loc n
    (tout, { obj := s.memberObj tout.obj mb, i0 := r % cg.wo, i1 := r / cg.wo, i2 := i, i3 := b : OutEl })
  let leave := matOut (fun r => s.postOf m (if scaled then d.l else 0) tout.fmt r) (fun _ => tout.fmt) scaled d.za colD
    (fun b r n => gateAt tg gr (r % cg.wo) (r / cg.wo) n b) (fun b r => b * 2 ^ 24 + r) place
  let tiles0 := convTiles m.a gsz (cellRate ta.fmt tw.fmt) kt kg (slices ta.fmt d.wa) (slices tw.fmt d.ww) (loadAc m.a d.transW) mAll ta.d3
    cg.groups ng p (leadAc m.a + 8 * (gsz - 1)) (s.drainPace m opOut tout) row (fun n => nth {} ow.rows n)
  let tiles := tiles0.zipIdx.map fun t => { t.1 with out := leave t.1.parts, lead := t.1.lead + (if t.2 = 0 then ilAc else 0) }
  -- tiles by what they read first: a column, and a row of a batch
  let tileOf := fun (hit : TPart → Bool) => (tiles.zipIdx.find? fun t => t.1.parts.any hit).map fun t => t.2
  let first := fun n => tileOf fun q => q.cols.any fun c => c.n == n
  let ktOf := fun pos => if pos = 0 ∨ p ≠ 0 then 0 else min ((pos - 1) / kt) ((kg - 1) / kt)
  -- an interleaved input is read in full before the walk; of a planar one, a row is checked in full when one of its elements is first read
  let evA := walkEvents d.op opA (fun f =>
    if ta.il then some (walkKey 0 0 stPre f.row f.pos, 0)
    else
      let rowCheck := f.code == 0x23 || f.code == 0x24
      (convFirst cg ng kg kt p tiles fun i j => f.head || (i == f.row && (rowCheck || f.pos == 0 || j + 1 == f.pos))).map fun k => (k, 0)) pin.evs
  let evS := walkEvents d.op opA (fun f =>
    (tileOf fun q => q.b == f.row / mAll && q.rows.any fun r => r.m == f.row % mAll).map fun t =>
      (walkKey t (ktOf f.pos) stSum (f.row % mAll) f.pos, 0)) (s.scaleEvents m ta kg (ta.d3 * mAll))
  let evW := walkEvents d.op opW (fun f => (first f.row).map fun t => (walkKey t (ktOf f.pos) stLoad f.row f.pos, (loc f.row).1)) ow.evs
  let evG := walkEvents d.op opGate (fun f =>
    let (y, n, b, x) := (f.row % tg.d1, f.row / tg.d1 % tg.d2, f.row / tg.d1 / tg.d2, f.pos - 1)
    let r := y * cg.wo + x
    (tileOf fun q => q.b == b && (q.rows.any fun a => a.m == r) && q.cols.any fun c => c.n == n).map fun t =>
      (walkKey t ktEnd stDrain (r % cr) f.pos, (loc n).1)) ge
  let evs := evA ++ evS ++ evW ++ evG ++ (if ta.slRef = 0 ∨ tw.slRef = 0 then [] else overlapEvents kt tiles) ++
    zwEvents m scaled tw.fmt co (fun n => (colD n).zw) first ++ s.paramEvents m ++
    paramCounts d gsz (cols.zipIdx.map fun c => ((loc c.2).1, c.1.2)) first
  let early := ta.il && !(pin.evs.any fun e => e.code != 0)
  endWalk env evs tiles (if early then { els := [s.planarCopy m ta tx cg] } else {}) [(tout, ta.d3 * mAll * co)] 0

end Sys2Proof.Machine
end

