-- ==== Sys2Proof/Machine/Elementwise.lean ====
section
/-! DEFINITION. POOL, ELTWISE and MOVE/CONVERT (R109 to R111): no walk of tiles; elements are read in the order of the outputs that they go into,
and a fault met while they are read leaves nothing written and names tile 0. -/

namespace Sys2Proof.Machine

/-- Indices of a tensor's elements, innermost first. -/
def TD.indices (t : TD) : List (Nat × Nat × Nat × Nat) :=
  (List.range t.d3).flatMap fun i3 => (List.range t.d2).flatMap fun i2 => (List.range t.d1).flatMap fun i1 =>
    (List.range t.d0).map fun i0 => (i0, i1, i2, i3)

/-- Element of a row table at logical indices. -/
def atIdx (t : TD) (rows : List (List Rat)) (i : Nat × Nat × Nat × Nat) : Rat :=
  gateAt t rows i.1 i.2.1 i.2.2.1 i.2.2.2

/-- Place in the order of an operation without tiles: the output element, then A, W, the gate and the parameters. -/
def flatKey (out part : Nat) : Nat := out * 4 + part

/-- Close an operation without tiles: the first fault, the counts of what was read before it, and the outputs where there is none. A fault is
found in some cycle of the run; which one the spec does not say (log 9). -/
def flatEnd (env : MopEnv) (evs : List WEvent) (cost : Nat) (tout : TD) (els : List OutEl) (stats : List StatEl) (frees : Nat) : MRes :=
  let ue := match env.ue with
    | some _ => [{ key := 0, code := 0x3D : WEvent }]
    | none => []
  match firstFault (evs ++ ue) with
  | some x =>
    { fault := x.code, operand := x.operand, acSpan := cost, cnts := countsOf evs (some x.key), nOut := tout.elems, crcPage := x.page }
  | none =>
    { ac := cost, cnts := countsOf evs none, out := [(tout, els)], nOut := tout.elems, frees := frees, stats := stats,
      sat := (els.filter fun e => e.e.sat).length, flush := (els.filter fun e => e.e.flush).length }

/-- S_n of channel n for POOL and ELTWISE, with its counts: per channel from the parameter block, or S_N, whatever POST_EN.SCALE holds
(log 10). -/
def State.chanScale (s : State) (m : MEnv) (nAll : Nat) : List Rat × List Cnt :=
  if m.d.scalePc then
    let l := (List.range nAll).map fun n => s.pScale (m.tdD m.d.tdParam) nAll n
    (l.map fun c => c.v, l.map Cnt.ofCode)
  else (List.replicate nAll (fp32 m.d.sn).v, [Cnt.ofCode (fp32 m.d.sn)])

/-- Counts of S_n and S_OUT (R34): entry n where output element `at_ n` is formed, S_OUT with the first element. -/
def flatParams (d : Desc) (sc : List Cnt) (at_ : Nat → Nat) : List WEvent :=
  { key := flatKey 0 3, cnt := Cnt.ofCode (fp32 d.sout) } ::
    (sc.zipIdx.filter fun c => c.1 != {}).map fun c => { key := flatKey (at_ c.2) 3, cnt := c.1 }

/-- Input positions of the window of output (y, x): those inside the input, as (row, column) (R109). -/
def poolWindow (g : Pool) (a : TD) (y x : Nat) : List (Nat × Nat) :=
  (List.range g.kh).flatMap fun i => (List.range g.kw).filterMap fun j =>
    let yy := y * g.sh + i
    let xx := x * g.sw + j
    if g.pt ≤ yy ∧ yy - g.pt < a.d1 ∧ g.pl ≤ xx ∧ xx - g.pl < a.d0 then some (yy - g.pt, xx - g.pl) else none

/-- The first output element of one channel whose window reads an input position that satisfies a test. -/
def poolFirst (g : Pool) (a : TD) (hit : Nat → Nat → Bool) : Option Nat :=
  ((List.range g.ho).flatMap fun y => (List.range g.wo).map fun x => (y, x)).findIdx? fun o => (poolWindow g a o.1 o.2).any fun q => hit q.1 q.2

/-- POOL (R109). A maximum that is written in A's own format and scale is the element's own value, narrowed, so that no escape code is written
(R31, log 80); an average always passes the SCALE stage (log 10). A window without any real position has no stated result, but for an average
over KH·KW: its element is a free value (log 2). -/
def State.runPool (s : State) (m : MEnv) (env : MopEnv) : MRes :=
  let d := m.d
  let ta := m.tdD d.tdA
  let tout := m.tdD d.tdOut
  let tg := m.tdD d.tdGate
  let g := d.pool ta
  let (real, ea) := s.realRows m ta d.za
  let (codes, _) := s.realRows m { ta with bsEnc := 0 } d.za
  let (gr, ge) := s.gateRows m
  let (sn, sc) := if g.avg then s.chanScale m ta.d2 else ([], [])
  let post := s.postOf m 0 tout.fmt 0
  let w := fmtBits tout.fmt
  let own := tout.fmt = ta.fmt ∧ ta.bsEnc = 0
  let els := tout.indices.zipIdx.map fun p =>
    let (x, y, c, b) := p.1
    let win := poolWindow g ta y x
    let rowOf := fun yy => yy + ta.d1 * (c + ta.d2 * b)
    let free := Config.freeNat (s.free + p.2)
    let e : Narrowed :=
      if win.isEmpty && !(g.avg && g.countPad) then { code := free % 2 ^ w, v := (decodeCode tout.fmt (free % 2 ^ w)).v }
      else if g.avg then
        let t : Rat := (win.map fun q =>
          if nth (some 1) (s.scalesOf m ta ta.d0 (rowOf q.1)) (q.2 / 32) = none then 0
          else nth 0 (nth [] codes (rowOf q.1)) q.2).foldl (· + ·) 0
        let n := if g.countPad then g.kh * g.kw else win.length
        let mk := roundStage {} (t * nth 1 sn c / (pow2 d.g * n))
        (postTail post mk (gateAt tg gr x y c b)).2
      else
        let vs := win.map fun q => nth 0 (nth [] real (rowOf q.1)) q.2
        let top := vs.tail.foldl (fun a b => if a < b then b else a) (vs.headD 0)
        narrow tout.fmt (if own then top + d.za else top)
    { obj := tout.obj, i0 := x, i1 := y, i2 := c, i3 := b, e := e : OutEl }
  let n := ta.d3 * ta.d2 * g.ho * g.wo * g.kh * g.kw
  let cost := leadAc m.a + s.drainPace m opOut tout * ceilDiv n (colBlock m.a) + 24
  let plane := g.ho * g.wo
  let evs := walkEvents d.op opA (fun f =>
      let rowCheck := f.code == 0x23 || f.code == 0x24
      (poolFirst g ta fun y x => f.head || (y == f.row % ta.d1 && (rowCheck || f.pos == 0 || x + 1 == f.pos))).map fun i =>
        (flatKey (f.row / ta.d1 * plane + i) 0, 0)) ea ++
    walkEvents d.op opGate (fun f => some (flatKey (f.row * tg.d0 + (f.pos - 1)) 2, 0)) ge ++ s.paramEvents m ++
    (if g.avg then flatParams d sc fun c => c * plane else [])
  flatEnd env evs cost tout els [] tout.elems

/-- The exact result of an ELTWISE operation (R110). -/
def eltOp (sub : Nat) (x y : Rat) : Rat :=
  match sub with
  | 0 => x + y
  | 1 => x - y
  | 2 => x * y
  | 3 => if x < y then y else x
  | 4 => if y < x then y else x
  | _ => x

/-- ELTWISE (R110). It always passes the SCALE stage (log 10); ZW stands for every channel, ZW_PC = 1 or not (log 91); and EXPORT = 1, without an
accumulator to export, leaves REQUANT into INT32 (log 92). -/
def State.runEltwise (s : State) (m : MEnv) (env : MopEnv) : MRes :=
  let d := m.d
  let ta := m.tdD d.tdA
  let tw := m.tdD d.tdW
  let tout := m.tdD d.tdOut
  let tg := m.tdD d.tdGate
  let (ra, ea) := s.realRows m ta d.za
  let (rw, ew) := if d.sub = 5 then ([], []) else s.realRows m tw d.zw
  let (gr, ge) := s.gateRows m
  let (sn, sc) := s.chanScale m ta.d0
  let post := s.postOf m 0 tout.fmt 0
  let wIdx := fun (i : Nat × Nat × Nat × Nat) =>
    ((if tw.d0 = 1 then 0 else i.1), (if tw.d1 = 1 then 0 else i.2.1), (if tw.d2 = 1 then 0 else i.2.2.1),
      (if tw.d3 = 1 then 0 else i.2.2.2))
  let vals := tout.indices.map fun i =>
    let r := eltOp d.sub (atIdx ta ra i) (if d.sub = 5 then 0 else atIdx tw rw (wIdx i))
    let mk := roundStage {} (r * nth 1 sn i.1 / pow2 d.g)
    let (v, n) := postTail post mk (if d.gate then atIdx tg gr i else 1)
    (i, v, n)
  let els := vals.map fun x =>
    { obj := tout.obj, i0 := x.1.1, i1 := x.1.2.1, i2 := x.1.2.2.1, i3 := x.1.2.2.2, e := x.2.2 : OutEl }
  let cost := leadAc m.a + s.drainPace m opOut tout * ceilDiv tout.elems (colBlock m.a) + 24
  let stats := if d.stats && !d.rawExport then vals.map fun x =>
      { key := x.1.2.1 + tout.d1 * (x.1.2.2.1 + tout.d2 * x.1.2.2.2), row := x.1.2.1 % chunkRows m.a, top := x.2.1, sum := x.2.1 : StatEl }
    else []
  -- the output element that first reads row (i1, i2, i3) of W at i0
  let wAt := fun (row i0 : Nat) =>
    i0 + tout.d0 * (row % tw.d1 + tout.d1 * (row / tw.d1 % tw.d2 + tout.d2 * (row / tw.d1 / tw.d2)))
  let evs := walkEvents d.op opA (fun f => some (flatKey (f.row * ta.d0 + (f.pos - 1)) 0, 0)) ea ++
    walkEvents d.op opW (fun f => some (flatKey (wAt f.row (f.pos - 1)) 1, 0)) ew ++
    walkEvents d.op opGate (fun f => some (flatKey (f.row * tg.d0 + (f.pos - 1)) 2, 0)) ge ++ s.paramEvents m ++
    flatParams d sc fun n => n
  flatEnd env evs cost tout els stats 0

/-- A side of MOVE/CONVERT in ac (R103, R111): own window, T1 through the crossbar port, or a neighbour's window. -/
def State.sideAc (s : State) (m : MEnv) (t : TD) (bytes : Nat) : Nat :=
  let e := s.ott (t.pages.headD 0)
  let fac := s.acMhz m.a
  if ottPlace e = 0 ∧ ottArr e = m.a then ceilDiv bytes (colBlock m.a)
  else
    let rate := if ottPlace e = 0 then 512 else if m.a = 8 then 64 else 256
    ceilDiv (ceilDiv bytes rate * fac) 1200

/-- Bytes of a side, compressed where it is compressed (R111). -/
def State.sideBytes (s : State) (m : MEnv) (t : TD) : Nat :=
  if m.isWcmp t then
    sumNat ((List.range (t.rows * ceilDiv t.d0 256)).map fun j => s.objNum t.obj (s.objNum t.obj (0x40 + 4 * j) 4) 2)
  else t.bytes

/-- MOVE/CONVERT (R50, R111): element by element in the order of the two descriptors. It copies element values: ZA and ZO, which R111 does not
mention, are checked as R92 and R41 say and change nothing (DESIGN CHOICE, log 48). -/
def State.runMove (s : State) (m : MEnv) (env : MopEnv) : MRes :=
  let d := m.d
  let ta := m.tdD d.tdA
  let tout := m.tdD d.tdOut
  let (ra, ea) := s.realRows m ta 0
  let vals := ra.flatten
  let els := tout.indices.zipIdx.map fun p =>
    { obj := tout.obj, i0 := p.1.1, i1 := p.1.2.1, i2 := p.1.2.2.1, i3 := p.1.2.2.2,
      e := narrow tout.fmt (nth 0 vals p.2) : OutEl }
  let cost := leadAc m.a + max (s.sideAc m ta (s.sideBytes m ta)) (s.sideAc m tout (s.sideBytes m tout)) + 24
  flatEnd env (walkEvents d.op opA (fun f => some (flatKey (f.row * ta.d0 + (f.pos - 1)) 0, 0)) ea) cost tout els [] 0

end Sys2Proof.Machine
end

