-- ==== Sys2Proof/Machine/SeqOps.lean ====
section
/-! DEFINITION. The sequence operators (R118 to R143): PAIR, PAIR_BWD, DECODE and RECUR. EXPAND is a MATMUL (Product.lean). Each product of a
key block, hidden block or step is a tile of the walk (R119); what it leaves, scratch and running state among it, stands with it. -/

namespace Sys2Proof.Machine

/-- Rows of an M chunk of PAIR, PAIR_BWD and DECODE (R118). -/
def seqChunk (a : Nat) : Nat := if a = 8 then 256 else 1024

/-- Part [lo, lo + n) of a row; lo is a multiple of 32. -/
def RowOp.slice (r : RowOp) (lo n : Nat) : RowOp :=
  { q := (r.q.drop lo).take n, esc := (r.esc.drop lo).take n, x := (r.x.drop (lo / 32)).take (ceilDiv n 32),
    s := (r.s.drop (lo / 32)).take (ceilDiv n 32), es := (r.es.drop lo).take n }

/-- A row of integer codes. -/
def codeRow (q : List Int) : RowOp :=
  { q := q, esc := q.map fun _ => false, x := (List.range (ceilDiv q.length 32)).map fun _ => 0 }

/-- sign(p) · sqrt(z) rounded to the nearest integer, a tie to even, for z ≥ 0 (R128). -/
def rheSqrt (neg : Bool) (z : Rat) : Int :=
  let f : Int := (Nat.sqrt z.floor.toNat : Nat)
  let h : Rat := (f : Rat) + 1 / 2
  let r := if h * h < z then f + 1 else if h * h = z then (if f % 2 = 0 then f else f + 1) else f
  if neg then -r else r

/-- Settings of a sequence operator beyond the descriptor's common fields (Table 5.1). -/
structure Seq where
  mid : Nat := 8
  causal : Bool := false
  t2 : Bool := false
  maskOff : Int := 0
  smid : Rat := 1
  l2 : Int := 0
  g2 : Int := 0
  eps : Rat := 0
deriving DecidableEq, Repr

def Desc.seq (d : Desc) : Seq :=
  { mid := d.os 1 0 4, causal := d.os 1 4 1 == 1, t2 := d.os 1 5 1 == 1, maskOff := toInt 24 (d.os 1 8 24),
    smid := (fp32 (d.os 2 0 32)).v, l2 := toInt 8 (d.os 3 0 8), g2 := toInt 8 (d.os 3 8 8),
    eps := (fpDecode 0xC (d.os 3 16 16)).v }

/-- Counts of the FP parameters that a sequence operator reads (R34); a raw export reads no S_OUT. -/
def Desc.seqCnt (d : Desc) (eps : Bool) : Cnt :=
  let c := (Cnt.ofCode (fp32 d.sn)).add ((if d.rawExport then {} else Cnt.ofCode (fp32 d.sout)).add (Cnt.ofCode (fp32 (d.os 2 0 32))))
  if eps then c.add (Cnt.ofCode (fpDecode 0xC (d.os 3 16 16))) else c

/-- First product through ZP and SCALE: v(m, n) on grid G (R123). -/
def score (scaled : Bool) (a w : RowOp) (za zw : Int) (cw : Nat → Int) (l g : Int) (sn : Rat) : Int :=
  let acc := product scaled a w za zw cw l
  let t := if scaled then acc.v else zpTerm acc.v za zw (sumInt a.q) (cw 0) a.q.length
  (roundStage {} ((t : Rat) * pow2 l * sn / pow2 g)).v

/-- The code p of R123 step 4 for a score relative to the maximum. P_max of a signed MID_FMT, which R132 does not give, is 255 (log 12). -/
def softCode (tab : Table) (q : Seq) (g : Int) (x : Int) : Int :=
  let y := (sat48 (tableAt tab x).2).1
  clampInt 0 (if q.mid = 5 then 15 else 255) (rhe ((y : Rat) * pow2 g * q.smid))

/-- Sum of two accumulator words; the clamp bit sticks (R69). -/
def AccVal.add (a b : AccVal) : AccVal := { v := a.v + b.v, clamp := a.clamp || b.clamp }

/-- Running state of a row of online softmax (R123): m_run, l, and O with its clamp bits. -/
structure SoftSt where
  mrun : Int := -lim48
  l : Int := 0
  o : List AccVal := []
deriving DecidableEq, Repr

/-- One block of a row as it has been taken: the state after it, its P codes, and the block product. -/
structure SoftBlk where
  st : SoftSt := {}
  p : List Int := []
  delta : List AccVal := []
deriving DecidableEq, Repr

/-- The words of a second product, which takes no zero point (R122). -/
def secondProduct (scaled2 : Bool) (l2 : Int) (p : List Int) (w2 : List RowOp) : List AccVal :=
  w2.map fun c => product scaled2 (codeRow p) c 0 0 (fun _ => 0) l2

/-- One key block of a row: scores (none where masked), the block's slice of each value column (R123). -/
def softBlock (tab : Table) (q : Seq) (g : Int) (scaled2 : Bool) (st : SoftSt) (sc : List (Option Int)) (w2 : List RowOp) : SoftBlk :=
  let mnew := sc.foldl (fun m v => match v with
    | some x => max m x
    | none => m) st.mrun
  let p := sc.map fun v => match v with
    | some x => softCode tab q g (x - mnew)
    | none => 0
  let rho := if mnew = st.mrun then 65536
    else clampInt 0 65536 (rhe (((sat48 (tableAt tab (st.mrun - mnew)).2).1 : Rat) * pow2 g * 65536))
  let delta := secondProduct scaled2 q.l2 p w2
  let o := (st.o.zip delta).map fun x => { x.1 with v := rheDiv (x.1.v * rho) 65536 }.add x.2
  { st := { mrun := mnew, l := rheDiv (st.l * rho) 65536 + sumInt p, o := o }, p := p, delta := delta }

/-- The key blocks of a row that its chunk does not skip, in ascending order (R123, R124). -/
def softRow (tab : Table) (q : Seq) (g : Int) (scaled2 : Bool) (cb : Nat) (sc : List (Option Int)) (w2 : List RowOp) (kbs : List Nat) :
    List SoftBlk :=
  (kbs.foldl (fun (acc : SoftSt × List SoftBlk) kb =>
    let blk := (sc.drop (cb * kb)).take cb
    let x := softBlock tab q g scaled2 acc.1 blk (w2.map fun c => c.slice (cb * kb) blk.length)
    (x.st, acc.2 ++ [x])) ({ o := w2.map fun _ => {} }, [])).2

/-- An empty row of a softmax (R125): the code ZO, or the word 0 exported. -/
def emptyElem (post : Post) : Narrowed :=
  if post.rawExport then exportAcc {} else if fmtZp post.fmt || post.fmt == 0xE then narrowInt post.fmt post.zo else narrow post.fmt 0

/-- Drain of a row of online softmax (R125): elements of OUT; an empty row is written with the code ZO. -/
def softDrain (post : Post) (q : Seq) (l2 : Int) (st : SoftSt) (bias : Nat → Int) (s2 : Nat → Rat) : List Narrowed :=
  st.o.zipIdx.map fun x =>
    if st.l = 0 then emptyElem post
    else if post.rawExport then exportAcc x.1
    else
      requant post (roundStage { sat := x.1.clamp }
        (((x.1.v + bias x.2 : Int) : Rat) * pow2 l2 * s2 x.2 / (pow2 q.g2 * st.l)))

/-- The SCALE stage of the norms (R128): num / sqrt(den), 0 where the argument is 0, then REQUANT; the word is the second product's. -/
def normElem (post : Post) (w : AccVal) (num den : Rat) : Narrowed :=
  if post.rawExport then exportAcc w
  else
    let v := if den ≤ 0 then 0 else rheSqrt (decide (num < 0)) (num * num / den)
    let (v48, hit) := sat48 v
    requant post { v := v48, sat := hit || w.clamp, flush := decide (v = 0 ∧ num ≠ 0 ∧ 0 < den) }

/-- Drain of a second product without normalisation: SCALE when it is selected, and REQUANT (R122, R127). -/
def plainElem (post : Post) (w : AccVal) (bias : Int) (s2 : Rat) : Narrowed :=
  if post.rawExport then exportAcc w else requant post (postScale post { sat := w.clamp } (w.v + bias) s2)

/-- Operand W2 as columns n over the reduction index N1 (R121). TD_W2 takes the weights' mantissa width (DESIGN CHOICE, log 93). -/
def State.w2Cols (s : State) (m : MEnv) (t : TD) (t2 : Bool) : Opd :=
  s.opd m t (s.matRows m t t2) (if t2 then t.d1 else t.d0) m.d.ww

/-- Narrowing into MID_FMT (R121): code of v × 2^G × S_MID. -/
def midCode (q : Seq) (g v : Int) : Int :=
  let (lo, hi) := fmtWriteRange q.mid
  clampInt lo hi (rhe ((v : Rat) * pow2 g * q.smid))

/-- Column sums of W over each block of K, for an operator whose parameter block holds none (log 11). -/
def rowSums (scaled : Bool) (w : RowOp) : List Int :=
  if scaled then (chunks 32 w.q).map sumInt else [sumInt w.q]

/-- Scratch elements inside the descriptor's extents. -/
def scratchEls (t : TD) (l : List (Nat × Nat × Nat × Int)) : List OutEl :=
  (l.filter fun x => decide (x.1 < t.d0 ∧ x.2.1 < t.d1 ∧ x.2.2.1 < t.d2)).map fun x =>
    { obj := t.obj, i0 := x.1, i1 := x.2.1, i2 := x.2.2.1, i3 := 0, e := { code := intEncode t.fmt x.2.2.2, v := x.2.2.2 } }

/-- Elements of rows of OUT: batch, and the elements of each row. -/
def outRows (t : TD) (b : Nat) (l : List (Nat × List Narrowed)) : List OutEl :=
  l.flatMap fun x => x.2.zipIdx.map fun e => { obj := t.obj, i0 := e.2, i1 := x.1, i2 := b, i3 := 0, e := e.1 : OutEl }

/-! ### Chunks of products -/

/-- Both of two things that tiles leave. -/
def TileOut.join (a b : TileOut) : TileOut :=
  { els := a.els ++ b.els, clr := a.clr ++ b.clr, acc := a.acc ++ b.acc, stats := a.stats ++ b.stats, empties := a.empties + b.empties,
    limited := a.limited ++ b.limited }

/-- A tile with what is drained after it, and the cycles that the drain adds. -/
def WTile.then (t : WTile) (o : TileOut) (ac : Nat) : WTile := { t with tail := t.tail + ac, drain := t.drain + ac, out := t.out.join o }

/-- The tiles of chunks in order, each with what its rows leave when they are drained and the cycles of that drain. A chunk without a tile, all
of whose key blocks are skipped (R124), drains after the tile before it, or before the first one. Answers the cycles and leavings of an
operator that has no tile, and the tiles. -/
def joinChunks (lead : Nat) (l : List (List WTile × TileOut × Nat)) : Nat × TileOut × List WTile :=
  let r := l.foldl (fun (acc : Nat × TileOut × List WTile) x =>
    let all := acc.2.2 ++ x.1
    match all.getLast? with
    | none => (acc.1 + x.2.2, acc.2.1.join x.2.1, [])
    | some t => (acc.1, acc.2.1, all.dropLast ++ [t.then x.2.1 x.2.2])) (lead, {}, [])
  match r.2.2 with
  | [] => r
  | t :: rest => (0, r.2.1, { t with lead := t.lead + r.1 } :: rest)

/-- The first tile whose tag (batch or sequence, chunk, block, product) satisfies a test. -/
def tileWhere (tiles : List WTile) (hit : Nat → Nat → Nat → Nat → Bool) : Option Nat :=
  tiles.findIdx? fun t => hit t.tag.1 t.tag.2.1 t.tag.2.2.1 t.tag.2.2.2

/-- Rows and columns of a product: accumulator rows from row `base` on, columns from column 0 on. -/
def seqPart (b : Nat) (rows : List (Nat × Nat × RowOp)) (cols : List (Nat × RowOp)) (cb : Nat) : TPart :=
  { b := b, rows := rows.map fun r => { m := r.1, acc := r.2.1, op := r.2.2 },
    cols := cols.map fun c => { n := c.1, col := c.1 % cb, op := c.2 } }

/-- Accumulator words of a region (R118): rows from row `base` on, each with its words from column 0 on. -/
def regionAcc (base : Nat) (rows : List (Nat × List AccVal)) : TileOut :=
  { clr := rows.map fun r => (0, base + r.1),
    acc := rows.flatMap fun r => r.2.zipIdx.map fun w => (0, (base + r.1) * 256 + w.2 % 256, w.1) }

/-! ### PAIR -/

/-- PAIR (R122 to R130). -/
def State.runPair (s : State) (m : MEnv) (env : MopEnv) : MRes × Nat :=
  let d := m.d
  let q0 := d.seq
  let ta := m.tdD d.tdA
  let tw := m.tdD d.tdW
  let t2 := m.tdD d.tdW2
  let tout := m.tdD d.tdOut
  let tx : TD := { m.tdD d.tdAux with fmt := q0.mid }
  let tp := m.tdD d.tdParam
  let ts := m.tdD d.tdStat
  let cb := colBlock m.a
  let cr := seqChunk m.a
  let (mAll, k1, nw1) := (d.mDim ta, d.kDim ta, d.nDim tw)
  let n1 := if d.sub = 3 then nw1 / 2 else nw1
  let n2 := if q0.t2 then t2.d0 else t2.d1
  let norm := d.sub = 1 ∨ d.sub = 2
  let scaled := scaledPath ta tw
  let scaled2 := !(fmtInt t2.fmt && t2.bsEnc == 0)
  let oa := s.opd m ta (s.matRows m ta d.transA) k1 d.wa
  let ow := s.opd m tw (s.matRows m tw d.transW) k1 d.ww
  let o2 := s.w2Cols m t2 q0.t2
  let tab := SMap.get {} (s.arr m.a).tables (m.ctx * 8 + d.tableSel)
  let l1 : Int := if scaled then d.l else 0
  let l2 : Int := if scaled2 then q0.l2 else 0
  let q := { q0 with l2 := l2 }
  let bk := blocksK scaled k1
  -- one N for the four arrays of the block, the larger of the two products' (log 81)
  let nn := max nw1 n2
  let zwOf := fun n => if d.zwPc then s.pZw tp nn n else d.zw
  let wb := fun b => if tw.d2 = 1 then 0 else b
  let wRow := fun b n => nth ({} : RowOp) ow.rows (wb b * nw1 + n)
  let cwOf := fun b n => if d.za = 0 then fun _ => 0
    else if d.sub = 2 then fun i => nth 0 (rowSums scaled (wRow b n)) i
    else fun i => s.pCsum tp nn nn bk n i
  let aRow := fun b r => nth ({} : RowOp) oa.rows (b * mAll + r)
  let sval := fun b r n => score scaled (aRow b r) (wRow b n) d.za (zwOf n) (cwOf b n) l1 d.g (fp32 d.sn).v
  let word1 := fun b r n => product scaled (aRow b r) (wRow b n) d.za (zwOf n) (cwOf b n) l1
  let w2Of := fun b => (List.range n2).map fun n => nth ({} : RowOp) o2.rows ((if t2.d2 = 1 then 0 else b) * n2 + n)
  let bias := fun n => if d.bias then s.pBias tp n else 0
  let s2 := fun n => if d.scalePc then (s.pScale tp nn n).v else 1
  let post : Post := { l := l2, g := q.g2, scale := d.scale, rawExport := d.rawExport, sout := (fp32 d.sout).v, zo := d.zo, fmt := tout.fmt }
  let masked := fun (r n : Nat) => q.causal && decide ((r : Int) + q.maskOff < (n : Int))
  -- chunks, blocks and costs
  let mcs := ceilDiv mAll cr
  let chunkList := (List.range ta.d2).flatMap fun b => (List.range mcs).map fun c => (b, c)
  let rowsOf := fun (c : Nat) => ((List.range mAll).drop (cr * c)).take cr
  let colsOf := fun (kb : Nat) => ((List.range n1).drop (cb * kb)).take cb
  let kt := kTile m.a ta.fmt tw.fmt
  let kt2 := kTile m.a q.mid t2.fmt
  let dd := s.drainPace m opOut tout
  let lead := leadAc m.a
  let mLast := (rowsOf (mcs - 1)).length
  let isLast := fun b c => b + 1 == ta.d2 && c + 1 == mcs
  let blocks := fun (c : Nat) => (List.range (ceilDiv n1 cb)).filter fun kb =>
    !(d.sub == 0 && (rowsOf c).all fun r => (colsOf kb).all fun n => masked r n)
  let ts1 := tileTs (cellRate ta.fmt tw.fmt) kt k1 (slices ta.fmt d.wa) (slices tw.fmt d.ww) (loadAc m.a d.transW)
  let ts2 := fun k => tileTs (cellRate q.mid t2.fmt) kt2 k (slices q.mid 8) (slices t2.fmt d.ww) (loadAc m.a q.t2)
  -- a tile of the first product over the columns from `off` on, and one of the second over part of the hidden axis
  let first := fun (b c kb off prod tail : Nat) (o : TileOut) =>
    let rows := (rowsOf c).map fun r => (r, r % cr, aRow b r)
    let cols := (colsOf kb).map fun n => (n - cb * kb, wRow b (off + n))
    { parts := [seqPart b rows cols cb], ts := ts1 (rows.map fun r => r.2.2) [cols.map fun x => x.2], tail := tail, drain := tail,
      tag := (b, c, kb, prod),
      out := (regionAcc 0 ((rowsOf c).map fun r => (r % cr, (colsOf kb).map fun n => word1 b r (off + n)))).join o : WTile }
  let second := fun (b c kb lo len lead tail : Nat) (codes : Nat → List Int) (o : TileOut) =>
    let rows := (rowsOf c).map fun r => (r, r % cr, codeRow (codes r))
    let cols := (w2Of b).zipIdx.map fun x => (x.2, x.1.slice lo len)
    { parts := [seqPart b rows cols cb], lead := lead, ts := ts2 len (rows.map fun r => r.2.2) [cols.map fun x => x.2], tail := tail,
      drain := tail, tag := (b, c, kb, 2), out := o : WTile }
  let chunk := fun (x : Nat × Nat) =>
    let (b, c) := x
    let rs := rowsOf c
    let mc := dd * rs.length
    let kbs := blocks c
    let endAc := if isLast b c then dd * mLast + 24 else if 1 < dd then mc else 0
    let scratch := fun (plane : Nat) (codes : Nat → List Int) =>
      (tx, scratchEls tx (rs.flatMap fun r => (codes r).zipIdx.map fun y => (y.2, r % cr, plane, y.1)))
    let close := fun (els : Nat → List Narrowed) => outRows tout b (rs.map fun r => (r, els r))
    match d.sub with
    | 0 =>
      let soft := rs.map fun r => (r, softRow tab q d.g scaled2 cb ((List.range n1).map fun n => if masked r n then none else some (sval b r n)) (w2Of b) kbs)
      let at_ := fun (r i : Nat) => nth ({} : SoftBlk) (((soft.find? fun x => x.1 == r).map fun x => x.2).getD []) i
      let fin := fun r => if kbs.isEmpty then { o := (w2Of b).map fun _ => {} } else (at_ r (kbs.length - 1)).st
      let recs := rs.flatMap fun r =>
        let st := fin r
        (leBytes 8 (ofInt 64 (if st.l = 0 then -lim48 else st.mrun)) ++ leBytes 8 (ofInt 64 st.l)).zipIdx.map fun y =>
          { obj := ts.obj, i0 := (b * mAll + r) * 16 + y.2, i1 := 0, i2 := 0, i3 := 0, e := { code := y.1.toNat } : OutEl }
      (kbs.zipIdx.flatMap fun kb =>
        let codes := fun r => (at_ r kb.2).p
        [first b c kb.1 0 1 24 { els := [scratch 0 codes] },
         second b c kb.1 (cb * kb.1) (colsOf kb.1).length 0 mc codes
           ((regionAcc 0 (rs.map fun r => (r % cr, (at_ r kb.2).delta))).join ((regionAcc cr (rs.map fun r => (r % cr, (at_ r kb.2).st.o))).join
             { stats := rs.map fun r => { key := (b * mAll + r) * 2 ^ 24 + kb.1, row := cr + r % cr, top := (at_ r kb.2).st.mrun,
                                          sum := (at_ r kb.2).st.l } }))],
        { els := [({ obj := ts.obj, fmt := 8, offset := ts.offset, d0 := 16 * mAll * ta.d2 }, recs),
            (tout, close fun r => softDrain post q l2 (fin r) bias s2)],
          empties := (rs.filter fun r => decide ((fin r).l = 0)).length }, endAc)
    | 1 =>
      let h := fun r => (List.range n1).map fun n => midCode q d.g (sval b r n)
      let words := fun r => secondProduct scaled2 l2 (h r) (w2Of b)
      let els := fun r => (words r).zipIdx.map fun w =>
        normElem post w.1 (((w.1.v + bias w.2 : Int) : Rat) * pow2 l2 * s2 w.2 / pow2 q.g2)
          ((((sumInt ((h r).map fun x => x * x)) : Rat) + n1 * q.eps * q.smid * q.smid) / n1)
      (((List.range (ceilDiv n1 cb)).map fun kb => first b c kb 0 1 (if isLast b c && kb + 1 == ceilDiv n1 cb then mLast + 24 else 0)
          { els := [(tx, scratchEls tx (rs.flatMap fun r => (colsOf kb).map fun n => (n, r, b, nth 0 (h r) n)))] }) ++
        [second b c 0 0 n1 (if b == 0 && c == 0 then lead else 0) 0 h (regionAcc cr (rs.map fun r => (r % cr, words r)))],
        { els := [(tout, close els)] }, endAc)
    | 2 =>
      let h := fun r => (List.range n1).map fun n => midCode q d.g (sval b r n)
      let words := fun r => secondProduct scaled2 l2 (h r) (w2Of b)
      let bk2 := blocksK scaled2 n1
      let els := fun r => (words r).zipIdx.map fun w =>
        let sh := sumInt (h r)
        let cw := sumInt ((List.range bk2).map fun i => s.pCsum tp nn nn bk2 w.2 i)
        normElem post w.1 (((n1 * (w.1.v + bias w.2) - sh * cw : Int) : Rat) * pow2 l2 * s2 w.2 / pow2 q.g2)
          ((n1 : Rat) * sumInt ((h r).map fun x => x * x) - (sh : Rat) * sh + (n1 : Rat) * n1 * q.eps * q.smid * q.smid)
      (((List.range (ceilDiv n1 cb)).map fun kb => first b c kb 0 1 (if isLast b c && kb + 1 == ceilDiv n1 cb then mLast + 24 else 0)
          { els := [(tx, scratchEls tx (rs.flatMap fun r => (colsOf kb).map fun n => (n, r, b, nth 0 (h r) n)))] }) ++
        [second b c 0 0 n1 (if b == 0 && c == 0 then lead else 0) 0 h (regionAcc cr (rs.map fun r => (r % cr, words r)))],
        { els := [(tout, close els)] }, endAc)
    | _ =>
      let gated := d.sub = 3
      let gate := fun r n => midCode q d.g (sat48 (tableAt tab (sval b r n)).2).1
      let hid := fun r n => if gated then midCode q d.g (roundStage {} ((sval b r (n1 + n) : Rat) * gate r n / pow2 d.g)).v else gate r n
      let words := fun (r kb : Nat) => secondProduct scaled2 l2 ((colsOf kb).map (hid r)) ((w2Of b).map fun w => w.slice (cb * kb) (colsOf kb).length)
      let upTo := fun (r k : Nat) => (kbs.take k).foldl (fun acc kb => (acc.zip (words r kb)).map fun x => x.1.add x.2) ((w2Of b).map fun _ => ({} : AccVal))
      (kbs.zipIdx.flatMap fun kb =>
        (if gated then [first b c kb.1 0 0 (24 + mc) { els := [scratch 0 fun r => (colsOf kb.1).map (gate r)] }] else []) ++
        [first b c kb.1 (if gated then n1 else 0) 1 24 { els := [scratch (if gated then 1 else 0) fun r => (colsOf kb.1).map (hid r)] },
         second b c kb.1 (cb * kb.1) (colsOf kb.1).length 0 mc (fun r => (colsOf kb.1).map (hid r))
           ((regionAcc 0 (rs.map fun r => (r % cr, words r kb.1))).join (regionAcc cr (rs.map fun r => (r % cr, upTo r (kb.2 + 1)))))],
        { els := [(tout, close fun r => (upTo r kbs.length).zipIdx.map fun w => plainElem post w.1 (bias w.2) (s2 w.2))] }, endAc)
  let (preAc, pre, tiles) := joinChunks lead (chunkList.map chunk)
  -- what is met at the first product that reads a row
  let n0 := fun n => if d.sub = 3 then (n % n1 / cb, if n < n1 then 0 else 1) else (n / cb, 1)
  let firstOf := fun n => tileWhere tiles fun _ _ kb p => kb == (n0 n).1 && p == (n0 n).2
  let evW := walkEvents d.op opW (fun f =>
    let n := f.row % nw1
    (tileWhere tiles fun b _ kb p => (tw.d2 == 1 || b == f.row / nw1) && kb == (n0 n).1 && p == (n0 n).2).map fun t =>
      (walkKey t ((f.pos - 1) / kt) stLoad n f.pos, 0)) ow.evs
  let evA := walkEvents d.op opA (fun f =>
    let r := f.row % mAll
    (tileWhere tiles fun b c _ p => b == f.row / mAll && c == r / cr && p < 2).map fun t =>
      (walkKey t ((f.pos - 1) / kt) stSum r f.pos, 0)) oa.evs
  let ev2 := walkEvents d.op opNone (fun f =>
    let k := f.pos - 1
    (tileWhere tiles fun b _ kb p => (t2.d2 == 1 || b == f.row / n2) && p == 2 && (decide norm || f.pos == 0 || kb == k / cb)).map fun t =>
      (walkKey t ((if norm then k else k % cb) / kt2) stLoad (f.row % n2) f.pos, 0)) o2.evs
  let drained := (tileWhere tiles fun b c _ _ => decide (0 < b ∨ 0 < c)).getD tiles.length - 1
  let pcnt := if d.scalePc && !d.rawExport then (List.range n2).map fun n =>
      { key := walkKey drained ktEnd stDrain 0 n, cnt := Cnt.ofCode (s.pScale tp nn n) : WEvent } else []
  let evs := evW ++ evA ++ ev2 ++ (if ta.slRef = 0 ∨ tw.slRef = 0 then [] else overlapEvents kt tiles) ++
    zwEvents m scaled tw.fmt nw1 zwOf firstOf ++ s.paramEvents m ++
    ({ key := walkKey 0 ktEnd stDrain 0 0, cnt := d.seqCnt (decide norm) : WEvent } :: pcnt)
  let r := endWalk env evs tiles pre [(tout, ta.d2 * mAll * n2)] preAc
  (r, r.empties)

/-! ### DECODE -/

/-- DECODE (R136, R137). ZW stands for every channel: its parameter block is the sequence table, which holds no ZW array (log 91). -/
def State.runDecode (s : State) (m : MEnv) (env : MopEnv) : MRes × Nat :=
  let d := m.d
  let q0 := { d.seq with causal := false }
  let ta := m.tdD d.tdA
  let tw := m.tdD d.tdW
  let t2 := m.tdD d.tdW2
  let tout := m.tdD d.tdOut
  let tx : TD := { m.tdD d.tdAux with fmt := q0.mid }
  let cb := colBlock m.a
  let cr := seqChunk m.a
  let h := d.os 1 8 8 + 1
  let bAll := d.os 1 16 8 + 1
  let k1 := d.kDim ta
  let n2 := if q0.t2 then t2.d0 else t2.d1
  let scaled := scaledPath ta tw
  let scaled2 := !(fmtInt t2.fmt && t2.bsEnc == 0)
  let tab := SMap.get {} (s.arr m.a).tables (m.ctx * 8 + d.tableSel)
  let l1 : Int := if scaled then d.l else 0
  let l2 : Int := if scaled2 then q0.l2 else 0
  let q := { q0 with l2 := l2 }
  let oa := s.opd m ta (s.matRows m ta d.transA) k1 d.wa
  let prep := (List.range bAll).map fun b =>
    let (len, ko, vo) := s.seqEntry m b
    let kt := d.keysOf tw len ko
    (len, s.opd m kt (s.matRows m kt d.transW) k1 d.ww, s.w2Cols m (d.valuesOf t2 len vo) q.t2)
  let seqOf := fun b => nth ((0, {}, {}) : Nat × Opd × Opd) prep b
  let post : Post := { l := l2, g := q.g2, rawExport := d.rawExport, sout := (fp32 d.sout).v, zo := d.zo, fmt := tout.fmt }
  let lenOf := fun b => (seqOf b).1
  let wRow := fun b n => nth ({} : RowOp) (seqOf b).2.1.rows n
  let aRow := fun b r => nth ({} : RowOp) oa.rows (b * h + r)
  let w2Of := fun b => (seqOf b).2.2.rows
  let soft := (List.range bAll).flatMap fun b => (List.range h).map fun r =>
    ((b, r), softRow tab q d.g scaled2 cb ((List.range (lenOf b)).map fun n =>
      some (score scaled (aRow b r) (wRow b n) d.za d.zw (fun i => nth 0 (rowSums scaled (wRow b n)) i) l1 d.g (fp32 d.sn).v))
      (w2Of b) (List.range (ceilDiv (lenOf b) cb)))
  let at_ := fun (b r i : Nat) => nth ({} : SoftBlk) (nth ((0, 0), []) soft (b * h + r)).2 i
  let fin := fun (b r : Nat) => (at_ b r (ceilDiv (lenOf b) cb - 1)).st
  let nkb := ceilDiv ((prep.map fun p => p.1).foldl max 0) cb
  let active := fun kb => (List.range bAll).filter fun b => decide (cb * kb < lenOf b)
  let kt := kTile m.a ta.fmt tw.fmt
  let kt2 := kTile m.a q.mid t2.fmt
  let dd := s.drainPace m opOut tout
  let rs := List.range h
  let tiles0 := (List.range nkb).flatMap fun kb => (active kb).flatMap fun b =>
    let keys := ((List.range (lenOf b)).drop (cb * kb)).take cb
    let rows := rs.map fun r => (b * h + r, b * h + r, aRow b r)
    let codes := rs.map fun r => (b * h + r, b * h + r, codeRow (at_ b r kb).p)
    let kcols := keys.map fun n => (n - cb * kb, wRow b n)
    let vcols := (w2Of b).zipIdx.map fun x => (x.2, x.1.slice (cb * kb) keys.length)
    let last := (active kb).getLast? == some b
    let zw := fun n => fun i => nth 0 (rowSums scaled (wRow b n)) i
    [{ parts := [seqPart b rows kcols cb], cmp := 0, tag := (b, 0, kb, 1),
       ts := tileTs (cellRate ta.fmt tw.fmt) kt k1 (slices ta.fmt d.wa) (slices tw.fmt d.ww) (loadAc m.a d.transW)
         (rows.map fun r => r.2.2) [kcols.map fun x => x.2],
       out := (regionAcc 0 (rs.map fun r => (b * h + r, keys.map fun n => product scaled (aRow b r) (wRow b n) d.za d.zw (zw n) l1))).join
         { els := [(tx, scratchEls tx (rs.flatMap fun r => (at_ b r kb).p.zipIdx.map fun y => (y.2, r, 0, y.1)))] } : WTile },
     { parts := [seqPart b codes vcols cb], cmp := 0, tail := dd * h + (if last then 40 else 0), drain := dd * h, tag := (b, 0, kb, 2),
       ts := tileTs (cellRate q.mid t2.fmt) kt2 keys.length (slices q.mid 8) (slices t2.fmt d.ww) (loadAc m.a q.t2)
         (codes.map fun r => r.2.2) [vcols.map fun x => x.2],
       out := (regionAcc 0 (rs.map fun r => (b * h + r, (at_ b r kb).delta))).join
         ((regionAcc cr (rs.map fun r => (b * h + r, (at_ b r kb).st.o))).join
           { stats := rs.map fun r => { key := (b * h + r) * 2 ^ 24 + kb, row := cr + b * h + r, top := (at_ b r kb).st.mrun,
                                        sum := (at_ b r kb).st.l } }) : WTile }]
  let all := (List.range bAll).flatMap fun b => rs.map fun r => (b, r)
  let (preAc, pre, tiles) := joinChunks (leadAc m.a) [(tiles0,
    { els := [(tout, outRows tout 0 (all.map fun x => (x.1 * h + x.2, softDrain post q l2 (fin x.1 x.2) (fun _ => 0) (fun _ => 1))))],
      empties := (all.filter fun x => decide ((fin x.1 x.2).l = 0)).length }, dd * (bAll * h) + 24)]
  let evs := (prep.zipIdx.flatMap fun p =>
      walkEvents d.op opW (fun f => (tileWhere tiles fun b _ kb pr => b == p.2 && kb == f.row / cb && pr == 1).map fun t =>
        (walkKey t ((f.pos - 1) / kt) stLoad f.row f.pos, 0)) p.1.2.1.evs ++
      walkEvents d.op opNone (fun f => (tileWhere tiles fun b _ kb pr => b == p.2 && pr == 2 && (f.pos == 0 || kb == (f.pos - 1) / cb)).map fun t =>
        (walkKey t ((f.pos - 1) % cb / kt2) stLoad f.row f.pos, 0)) p.1.2.2.evs) ++
    walkEvents d.op opA (fun f => (tileWhere tiles fun b _ _ pr => b == f.row / h && pr == 1).map fun t =>
      (walkKey t ((f.pos - 1) / kt) stSum f.row f.pos, 0)) oa.evs ++
    (if ta.slRef = 0 ∨ tw.slRef = 0 then [] else overlapEvents kt tiles) ++ s.paramEvents m ++
    [{ key := walkKey 0 ktEnd stDrain 0 0, cnt := d.seqCnt false }]
  let r := endWalk env evs tiles pre [(tout, bAll * h * n2)] preAc
  (r, r.empties)

/-! ### PAIR_BWD -/

/-- Columns of a product whose weight operand is a tensor read across its rows (R133): column j over the rows i, each element with the block
scale of its own row (log 12). -/
def crossCols (fp : Bool) (w : Nat) (trunc : Bool) (o : Opd) (n : Nat) : List RowOp :=
  let cols := transposeRows n o.els
  let scaled := o.sc.any fun r => !r.isEmpty
  cols.zipIdx.map fun c =>
    { mkRow fp w trunc c.1 [] with es := if scaled then o.sc.map fun r => nth (some 1) r (c.2 / 32) else [] }

/-- Real value of element k of row r of an operand without zero point (R40). -/
def Opd.real (o : Opd) (r k : Nat) : Rat :=
  match nth (some 1) (nth [] o.sc r) (k / 32) with
  | some x => x * (nth {} (nth [] o.els r) k).v
  | none => 0

/-- PAIR_BWD (R131 to R133). The block axis of Q and K is K1 and that of V, dO and O is N2 in all three forms; dO takes the activations' mantissa
width and V the weights' (DESIGN CHOICE, logs 12 and 93); ZW stands for every channel (log 91). -/
def State.runPairBwd (s : State) (m : MEnv) (env : MopEnv) : MRes :=
  let d := m.d
  let q := d.seq
  let tq := m.tdD d.tdA
  let tk := m.tdD d.tdW
  let tv := m.tdD d.tdW2
  let ts := m.tdD d.tdStat
  let tout := m.tdD d.tdOut
  let tx : TD := { m.tdD d.tdAux with fmt := q.mid }
  let tp := m.tdD d.tdParam
  let sds := fp32 (s.objNum tp.obj tp.offset 4)
  let fd := fp32 (s.objNum tp.obj (tp.offset + 4) 4)
  let tdo := m.tdD (s.objNum tp.obj (tp.offset + 8) 2)
  let tdO := m.tdD (s.objNum tp.obj (tp.offset + 10) 2)
  let cb := colBlock m.a
  let cr := seqChunk m.a
  let (mAll, n1, k1) := (d.mDim tq, d.nDim tk, d.kDim tq)
  let n2 := if q.t2 then tv.d0 else tv.d1
  let two := decide (d.sub ≠ 0)
  let oq := s.opd m tq (s.matRows m tq d.transA) k1 d.wa
  let ok := s.opd m tk (s.matRows m tk d.transW) k1 d.ww
  let ov := if two then s.opd m tv (s.matRows m tv (!q.t2)) n2 d.ww else {}
  let odo := s.opd m tdo (s.matRows m tdo false) n2 d.wa
  let oO := s.opd m tdO (s.matRows m tdO false) n2 d.wa
  let tab := SMap.get {} (s.arr m.a).tables (m.ctx * 8 + d.tableSel)
  let scaled := scaledPath tq tk
  let l1 : Int := if scaled then d.l else 0
  let scaledP := scaledPath tdo tv
  let lp : Int := if scaledP then d.l else 0
  let rowQ := fun i => nth ({} : RowOp) oq.rows i
  let rowK := fun i => nth ({} : RowOp) ok.rows i
  let rowV := fun i => nth ({} : RowOp) ov.rows i
  let rowO := fun i => nth ({} : RowOp) odo.rows i
  let stat := fun (r : Nat) =>
    (toInt 64 (s.objNum ts.obj (ts.offset + 16 * r) 8), toInt 64 (s.objNum ts.obj (ts.offset + 16 * r + 8) 8))
  let masked := fun (r n : Nat) => q.causal && decide ((r : Int) + q.maskOff < (n : Int))
  let sums := fun n => fun i => nth 0 (rowSums scaled (rowK n)) i
  let pOf := fun (r n : Nat) => if masked r n then 0 else
    softCode tab q d.g (score scaled (rowQ r) (rowK n) d.za d.zw (sums n) l1 d.g (fp32 d.sn).v - (stat r).1)
  let dm := fun (r : Nat) => ((List.range n2).map fun k => odo.real r k * oO.real r k).foldl (· + ·) 0
  let (lo, hi) := fmtWriteRange q.mid
  let midOf := fun (x : Rat) => clampInt lo hi (rhe x)
  let dP := fun (r n : Nat) => product scaledP (rowO r) (rowV n) 0 0 (fun _ => 0) lp
  let phat := fun (r n : Nat) => if (stat r).2 = 0 then 0 else midOf ((pOf r n : Rat) * sds.v / (stat r).2)
  let ds := fun (r n : Nat) => if (stat r).2 = 0 then 0 else
    midOf ((pOf r n : Rat) * (((dP r n).v : Rat) * pow2 lp - fd.v * dm r) * sds.v / (stat r).2)
  -- the second product's weight operand, its descriptor and width, whether its columns are stored across, and the output extents
  let (w2, tw2, ww2, across, rowsN, colsN, red) : List RowOp × TD × Nat × Bool × Nat × Nat × Nat :=
    match d.sub with
    | 0 => (crossCols (fmtFp tdo.fmt) d.wa d.trunc odo n2, tdo, d.wa, true, n1, n2, mAll)
    | 1 => (crossCols (fmtFp tk.fmt) d.ww d.trunc ok k1, tk, d.ww, !d.transW, mAll, k1, n1)
    | _ => (crossCols (fmtFp tq.fmt) d.wa d.trunc oq k1, tq, d.wa, !d.transA, n1, k1, mAll)
  let scaled2 := fmtFp tw2.fmt || tw2.bsEnc != 0
  let l2 : Int := if scaled2 then q.l2 else 0
  -- row i of the output and column j of its block as query and key
  let qk := fun (i j : Nat) => if d.sub = 1 then (i, j) else (j, i)
  let mid := fun (i j : Nat) => if two then ds (qk i j).1 (qk i j).2 else phat (qk i j).1 (qk i j).2
  let post : Post := { l := l2, g := q.g2, scale := d.scale, rawExport := d.rawExport, sout := (fp32 d.sout).v, zo := d.zo, fmt := tout.fmt }
  let mcs := ceilDiv rowsN cr
  let rowsOf := fun (c : Nat) => ((List.range rowsN).drop (cr * c)).take cr
  let colsOf := fun (kb : Nat) => ((List.range red).drop (cb * kb)).take cb
  let blocks := fun (c : Nat) => (List.range (ceilDiv red cb)).filter fun kb =>
    !((rowsOf c).all fun i => (colsOf kb).all fun j => masked (qk i j).1 (qk i j).2)
  let dd := s.drainPace m opOut tout
  let (fa1, fw1, wa1, ww1) := if d.sub = 1 then (tq.fmt, tk.fmt, d.wa, d.ww) else (tk.fmt, tq.fmt, d.ww, d.wa)
  let (faP, fwP, waP, wwP) := if d.sub = 1 then (tdo.fmt, tv.fmt, d.wa, d.ww) else (tv.fmt, tdo.fmt, d.ww, d.wa)
  let kt1 := kTile m.a fa1 fw1
  let ktP := kTile m.a faP fwP
  let kt2 := kTile m.a q.mid tw2.fmt
  let row1 := fun i => if d.sub = 1 then rowQ i else rowK i
  let col1 := fun j => if d.sub = 1 then rowK j else rowQ j
  let rowP := fun i => if d.sub = 1 then rowO i else rowV i
  let colP := fun j => if d.sub = 1 then rowV j else rowO j
  let ts1 := tileTs (cellRate fa1 fw1) kt1 k1 (slices fa1 wa1) (slices fw1 ww1) (loadAc m.a (if d.sub = 1 then d.transW else d.transA))
  let tsP := tileTs (cellRate faP fwP) ktP n2 (slices faP waP) (slices fwP wwP) (loadAc m.a (d.sub = 1 && !q.t2))
  let ts2 := fun k => tileTs (cellRate q.mid tw2.fmt) kt2 k (slices q.mid 8) (slices tw2.fmt ww2) (loadAc m.a across)
  let chunk := fun (c : Nat) =>
    let rs := rowsOf c
    let mc := dd * rs.length
    let kbs := blocks c
    let codes := fun (kb i : Nat) => (colsOf kb).map (mid i)
    let part := fun (kb i : Nat) => secondProduct scaled2 l2 (codes kb i) (w2.map fun w => w.slice (cb * kb) (colsOf kb).length)
    let upTo := fun (i k : Nat) => (kbs.take k).foldl (fun acc kb => (acc.zip (part kb i)).map fun x => x.1.add x.2) (w2.map fun _ => ({} : AccVal))
    (kbs.zipIdx.flatMap fun kb =>
      let cs := colsOf kb.1
      let scratch : TileOut := { els := [(tx, scratchEls tx (rs.flatMap fun i => (codes kb.1 i).zipIdx.map fun y => (y.2, i % cr, 0, y.1)))] }
      let rows1 := rs.map fun i => (i, i % cr, row1 i)
      let cols1 := cs.map fun j => (j - cb * kb.1, col1 j)
      let rowsP := rs.map fun i => (i, i % cr, rowP i)
      let colsP := cs.map fun j => (j - cb * kb.1, colP j)
      let rows2 := rs.map fun i => (i, i % cr, codeRow (codes kb.1 i))
      let cols2 := w2.zipIdx.map fun x => (x.2, x.1.slice (cb * kb.1) cs.length)
      [{ parts := [seqPart 0 rows1 cols1 cb], ts := ts1 (rows1.map fun r => r.2.2) [cols1.map fun x => x.2],
         tail := if two then 0 else 24, drain := rs.length, tag := (0, c, kb.1, 1), out := if two then {} else scratch : WTile }] ++
      (if two then [
        { parts := [seqPart 0 rowsP colsP cb], ts := tsP (rowsP.map fun r => r.2.2) [colsP.map fun x => x.2],
          tail := 24, drain := rs.length, tag := (0, c, kb.1, 3),
          out := (regionAcc 0 (rs.map fun i => (i % cr, cs.map fun j => dP (qk i j).1 (qk i j).2))).join scratch : WTile }] else []) ++
      [{ parts := [seqPart 0 rows2 cols2 cb], tag := (0, c, kb.1, 2), tail := mc, drain := mc,
         ts := (chunks cb cols2).flatMap fun blk => ts2 cs.length (rows2.map fun r => r.2.2) [blk.map fun x => x.2],
         out := (regionAcc 0 (rs.map fun i => (i % cr, part kb.1 i))).join (regionAcc cr (rs.map fun i => (i % cr, upTo i (kb.2 + 1)))) : WTile }],
      { els := [(tout, outRows tout 0 (rs.map fun i => (i, (upTo i kbs.length).map fun w => plainElem post w 0 1)))] },
      if c + 1 = mcs then mc + 24 else if 1 < dd then mc else 0)
  let (preAc, pre, tiles) := joinChunks (leadAc m.a + ceilDiv (mAll * n2) cb) ((List.range mcs).map chunk)
  -- what is met: dO and O in the D pass, then each row with the first product that reads it
  let byRow := fun (op prod kt : Nat) => walkEvents d.op op fun f => (tileWhere tiles fun _ c _ p => c == f.row / cr && p == prod).map fun t =>
    (walkKey t ((f.pos - 1) / kt) stSum f.row f.pos, 0)
  let byCol := fun (op prod kt : Nat) => walkEvents d.op op fun f => (tileWhere tiles fun _ _ kb p => kb == f.row / cb && p == prod).map fun t =>
    (walkKey t ((f.pos - 1) / kt) stLoad f.row f.pos, 0)
  let dPass := fun (k : Nat) => walkEvents d.op opNone fun f => some (walkKey 0 0 stPre f.row (2 * f.pos + k), 0)
  let evs := dPass 0 odo.evs ++ dPass 1 oO.evs ++
    (if d.sub = 1 then byRow opA 1 kt1 oq.evs ++ byCol opW 1 kt1 ok.evs ++ byCol opNone 3 ktP ov.evs
     else byRow opW 1 kt1 ok.evs ++ byCol opA 1 kt1 oq.evs ++ byRow opNone 3 ktP ov.evs) ++
    (if (tq.slRef = 0 ∨ tk.slRef = 0) ∧ (tdo.slRef = 0 ∨ tv.slRef = 0) then [] else overlapEvents (min kt1 ktP) tiles) ++ s.paramEvents m ++
    [{ key := walkKey 0 ktEnd stDrain 0 0,
       cnt := ((d.seqCnt false).add (Cnt.ofCode sds)).add (if two then Cnt.ofCode fd else {}) }]
  endWalk env evs tiles pre [(tout, rowsN * colsN)] preAc

/-! ### RECUR -/

/-- sat40 (R139): the limited value and whether it acted. -/
def sat40 (x : Int) : Int × Bool :=
  let lim : Int := 2 ^ 39 - 1
  (clampInt (-lim) lim x, outside (-lim) lim x)

/-- Coefficients of one channel (R139): bytes 0 to 19 as five INT32. -/
def State.coefs (s : State) (t : TD) (n : Nat) : List Int :=
  (List.range 5).map fun i => toInt 32 (s.objNum t.obj (t.offset + 32 * n + 4 * i) 4)

/-- State of one channel of one stream: two words (s1, s2 of BIQUAD; h alone otherwise), and how often sat40 acted. -/
structure RecSt where
  w1 : AccVal := {}
  w2 : AccVal := {}
  y : AccVal := {}
  sats : Nat := 0
deriving DecidableEq, Repr

/-- One step of the RECUR stage (R139): the new state and the drained word. -/
def recurStep (sub : Nat) (c : List Int) (st : RecSt) (x : Int) : RecSt × AccVal :=
  let k := fun i => nth 0 c i
  let q := 2 ^ 29
  let upd := fun (w : AccVal) (r : Int × Bool) => ({ v := r.1, clamp := w.clamp || r.2 } : AccVal)
  match sub with
  | 0 =>
    let r := sat40 (rheDiv (k 0 * st.w1.v) q + x)
    let h := upd st.w1 r
    ({ st with w1 := h, sats := st.sats + b2n r.2 }, h)
  | 1 =>
    let r := sat40 (st.w1.v + rheDiv (k 0 * (x - st.w1.v)) q)
    let h := upd st.w1 r
    ({ st with w1 := h, sats := st.sats + b2n r.2 }, h)
  | _ =>
    let ry := sat40 (rheDiv (k 0 * x) q + st.w1.v)
    let y := ry.1
    let r1 := sat40 (rheDiv (k 1 * x - k 3 * y) q + st.w2.v)
    let r2 := sat40 (rheDiv (k 2 * x - k 4 * y) q)
    let yw : AccVal := { v := y, clamp := ry.2 }
    ({ w1 := upd st.w1 r1, w2 := upd st.w2 r2, y := yw, sats := st.sats + b2n ry.2 + b2n r1.2 + b2n r2.2 }, yw)

/-- Array column of state word i (0 or 1, 2 for the product column) of channel c (Table 5.5). -/
def recurCol (a sub c i : Nat) : Nat :=
  let dv := if a = 8 then 8 else 1
  match i with
  | 0 => c
  | 1 => 64 / dv + c
  | _ => (if sub = 2 then 192 else 128) / dv + c

/-- Accumulator key of state word i of channel c in stream row r (R69). -/
def recurKey (a sub r c i : Nat) : Nat := r * 256 + recurCol a sub c i

/-- RECUR (R138 to R141): result, the words that the completed steps leave as (member, key, word), and how many words sat40 limited. -/
def State.runRecur (s : State) (m : MEnv) (env : MopEnv) : MRes × List (Nat × Nat × AccVal) × Nat :=
  let d := m.d
  let tx := m.tdD d.tdA
  let tw := m.tdD d.tdW
  let tc := m.tdD d.tdAux
  let tout := m.tdD d.tdOut
  let tg := m.tdD d.tdGate
  let g := m.chain.length
  let lim := recurLim m.a d.sub
  let (k, sAll, tAll, n) := (tx.d0, tx.d1, tx.d2, tw.d1)
  let scaled := scaledPath tx tw
  let l : Int := if scaled then d.l else 0
  let loc := gangCol lim g
  let oa := s.opd m tx (s.matRows m tx false) k d.wa
  let ow := s.opd m tw (s.weightRows { m with d := { d with transW := false } } tw g loc) k d.ww
  let cols := (List.range n).map fun c => s.colOf m n (blocksK scaled k) c
  let colD := fun c => (nth ({}, {}) cols c).1
  let co := (List.range n).map fun c => s.coefs tc c
  let init := d.os 0 0 1 == 1
  let word := fun (c r i : Nat) =>
    let (mb, lc) := loc c
    let w := SMap.get {} (s.arr (nth 0 m.chain mb)).acc (recurKey m.a d.sub r lc i)
    ({ v := w.v, clamp := w.clamp } : AccVal)
  let st0 := fun (c r : Nat) => if init then ({} : RecSt) else { w1 := word c r 0, w2 := if d.sub = 2 then word c r 1 else {} }
  let (gr, ge) := s.gateRows m
  -- the states of one stream and channel after each step, with the drained word and whether the block combine clamped it
  let run := fun (c r : Nat) => ((List.range tAll).foldl (fun (acc : RecSt × List (RecSt × AccVal × Bool)) t =>
    let p := product scaled (nth {} oa.rows (t * sAll + r)) (nth {} ow.rows c) d.za (colD c).zw (fun b => nth 0 (colD c).cw b) l
    let (st, y) := recurStep d.sub (nth [] co c) acc.1 (p.v + (colD c).bias)
    (st, acc.2 ++ [(st, y, p.clamp)])) (st0 c r, [])).2
  let all := (List.range sAll).map fun r => (List.range n).map fun c => run c r
  let after := fun (t r c : Nat) => nth (({} : RecSt), ({} : AccVal), false) (nth [] (nth [] all r) c) t
  let wordsOf := fun (st : Nat → Nat → RecSt) => (List.range sAll).flatMap fun r => (List.range n).flatMap fun c =>
    let (mb, lc) := loc c
    (mb, recurKey m.a d.sub r lc 0, (st r c).w1) ::
      (if d.sub = 2 then [(mb, recurKey m.a d.sub r lc 1, (st r c).w2), (mb, recurKey m.a d.sub r lc 2, (st r c).y)]
       else [(mb, recurKey m.a d.sub r lc 2, ({} : AccVal))])
  -- sat40 hits of step t on each member
  let satsOf := fun t => (List.range g).map fun mb => sumNat ((List.range sAll).flatMap fun r =>
    ((List.range n).filter fun c => (loc c).1 == mb).map fun c =>
      (after t r c).1.sats - (if t = 0 then 0 else (after (t - 1) r c).1.sats))
  let kt := kTile m.a tx.fmt tw.fmt
  let rate := cellRate tx.fmt tw.fmt
  let (na, nw) := (slices tx.fmt d.wa, slices tw.fmt d.ww)
  let one := nw * ceilDiv k kt = 1
  let dd := if d.tdOut = 0 then 1 else s.drainPace m opOut tout
  let lead := leadAc m.a + 8 * (g - 1) + ceilDiv n 16 + (if init then sAll else 0)
  let wcols := (List.range n).map fun c =>
    { n := c, mem := (loc c).1, col := recurCol m.a d.sub (loc c).2 2, op := nth {} ow.rows c : TCol }
  let members := byMember g wcols
  let tiles := (List.range tAll).map fun t =>
    let rows := (List.range sAll).map fun r => { m := r, acc := r, op := nth {} oa.rows (t * sAll + r) : TRow }
    let vals := if d.tdOut = 0 ∧ !d.stats then [] else (List.range sAll).flatMap fun r => (List.range n).map fun c =>
      let x := after t r c
      let (mb, lc) := loc c
      let post := s.postOf m l tout.fmt mb
      let (v, e) := if d.rawExport then (x.2.1.v, exportAcc x.2.1)
        else postTail post (postScale post { sat := x.2.2 } x.2.1.v (colD c).sn) (gateAt tg gr c r t 0)
      (r, mb, lc, v, e)
    { parts := [{ b := t, rows := rows, cols := wcols }], lead := if t = 0 then lead else 0,
      ts := if one then [4 * rate + na * sAll + excess (rows.map fun x => escIn x.op 0 k) (members.map fun cs => sumNat (cs.map fun c => escIn c 0 k))]
        else tileTs rate kt k na nw (loadAc m.a false) (rows.map fun x => x.op) members,
      tail := sAll + drainTail (t + 1 == tAll) dd sAll, drain := dd * sAll, tag := (t, 0, 0, 0),
      out := {
        els := if d.tdOut = 0 then [] else [(tout, vals.map fun x =>
          { obj := s.memberObj tout.obj x.2.1, i0 := x.2.2.1, i1 := x.1, i2 := t, i3 := 0, ext := if g = 1 then 0 else localLen lim g n x.2.1,
            e := x.2.2.2.2 : OutEl })],
        acc := wordsOf fun r c => (after t r c).1,
        stats := if d.stats && !d.rawExport then vals.map (fun x => { mem := x.2.1, key := t * 2 ^ 24 + x.1, row := x.1, top := x.2.2.2.1, sum := x.2.2.2.1 }) else [],
        limited := satsOf t } : WTile }
  let ktOf := fun pos => min ((pos - 1) / kt) ((k - 1) / kt)
  let evs := walkEvents d.op opW (fun f => some (walkKey 0 (ktOf f.pos) stLoad f.row f.pos, (loc f.row).1)) ow.evs ++
    walkEvents d.op opA (fun f => some (walkKey (f.row / sAll) (ktOf f.pos) stSum (f.row % sAll) f.pos, 0)) oa.evs ++
    (if tx.slRef = 0 ∨ tw.slRef = 0 then [] else overlapEvents kt tiles) ++
    zwEvents m scaled tw.fmt n (fun c => (colD c).zw) (fun _ => some 0) ++
    (if d.tdOut = 0 then [] else walkEvents d.op opGate (fun f =>
      some (walkKey (f.row / tg.d1) ktEnd stDrain (f.row % tg.d1) f.pos, (loc (f.pos - 1)).1)) ge) ++ s.paramEvents m ++
    (if d.tdOut = 0 then [] else paramCounts d g (cols.zipIdx.map fun c => ((loc c.2).1, c.1.2)) fun _ => some 0)
  let pre : TileOut := if init then { acc := wordsOf fun _ _ => {} } else {}
  let r := endWalk env evs tiles pre (if d.tdOut = 0 then [] else [(tout, tAll * sAll * n)]) 0
  (r, r.acc, sumNat r.limited)

end Sys2Proof.Machine
end

