-- ==== Sys2Proof/Machine/Tally.lean ====
section
/-! DEFINITION. The tally unit (R151 to R159): signals, waits and their release, INIT and allocation, and the contexts of the
arrays and DMA engines that wait (R153, R215). -/

namespace Sys2Proof.Machine

/-! ### Contexts of an array (R215) -/

/-- The context whose macro-operations run next on an array: an OWNED array has its owner's, a SHARED one that of the member
which the arbiter chose (R216), an UNASSIGNED one context 0 (log 13). -/
def State.runCtx (s : State) (a : Nat) : Option Nat :=
  match s.assignOf a with
  | .unassigned => some 0
  | .owned p => some p
  | .shared _ => (s.arr a).turn

/-- Contexts that an array holds. -/
def State.ctxs (s : State) (a : Nat) : List Nat :=
  match s.assignOf a with
  | .unassigned => [0]
  | .owned p => [p]
  | .shared l => l

/-- The partition that a context of an array belongs to. -/
def State.ctxPart (s : State) (a ctx : Nat) : Option Nat :=
  match s.assignOf a with
  | .unassigned => none
  | _ => some ctx

/-- NoC cycles in a number of nanoseconds at the nominal 1.20 GHz (R13). -/
def ncOf (ns : Nat) : Nat := ns * 6 / 5

/-! ### Tallies -/

def State.tally (s : State) (i : Nat) : Tally := SMap.get {} s.tallies i
def State.setTally (s : State) (i : Nat) (t : Tally) : State := { s with tallies := SMap.set {} s.tallies i t }

/-- An error of the tally unit: counted in the physical-function view, and in that of partition v (R159). -/
def State.tallyErr (s : State) (v : Option Nat) (i : Nat) : State :=
  match v with
  | none => s.errCount .tallyPf 0 i 1
  | some v =>
    let p := Page.tallyVf v
    let r := count31 (s.rd p 0 (Reg.Hdr.ERR_CNT i)) 1
    let s1 := s.wr p 0 (Reg.Hdr.ERR_CNT i) r.1
    if r.2 then (s1.wr p 0 (Reg.Hdr.ERR_CNT_SAT i) 1).orRaw p (v + 1) (2 ^ 30) else s1

/-- A waiter ends its wait: WAITING clears and WAIT_AC gains the array cycles it waited (R150). -/
def State.endWait (s : State) (w : Waiter) : State :=
  let s1 := { s with waiters := s.waiters.filter fun x => !(x == w) }
  if w.dma || decide (8 < w.arr) then s1
  else
    let p := Page.ma w.arr
    (s1.wr p w.ctx Reg.Ma.WAITING 0).count p w.ctx Reg.Ma.WAIT_AC Reg.Ma.WAIT_AC_SAT ((s.now - w.since) * s.acMhz w.arr / 1000)

/-- Release a waiter (R153): its macro-operation or descriptor may start. -/
def State.releaseWaiter (s : State) (w : Waiter) : State :=
  let s1 := s.endWait w
  if w.dma then s1.setDma w.arr { s1.dma w.arr with released := insAsc w.ctx (s1.dma w.arr).released }
  else s1.modArr w.arr fun x => { x with released := insAsc w.ctx x.released }

/-- How many waiters of a tally are due (R153): all in LEVEL mode, and in CONSUME mode as many, oldest first, as COUNT
covers. -/
def dueWaiters (t : Tally) (n : Nat) : Nat :=
  if t.level then (if t.thresh ≤ t.count then n else 0)
  else if t.thresh = 0 then n else min n (t.count / t.thresh)

/-- Evaluate release of a tally (R153, R154 step 3). -/
def State.evalRelease (s : State) (i : Nat) : State :=
  let t := s.tally i
  let ws := s.waiters.filter fun w => w.tally == i
  let n := dueWaiters t ws.length
  let s1 := if t.level then s else s.setTally i { t with count := t.count - n * t.thresh }
  (ws.take n).foldl State.releaseWaiter s1

/-- Signals of one nc added as one sum, then release (R152, R154). -/
def State.signalTally (s : State) (i inc : Nat) : State :=
  if 8192 ≤ i then s
  else
    let t := s.tally i
    let sum := t.count + inc
    let s1 :=
      if 0xFFFF < sum then
        let s2 := ((s.setTally i { t with count := 0xFFFF, ovf := true }).tallyErr none 0).irq .tallyPf none 0
        if t.alloc then (s2.tallyErr (some (t.owner % 8)) 0).orRaw (.tallyVf (t.owner % 8)) (t.owner % 8 + 1) 1 else s2
      else s.setTally i { t with count := sum }
    s1.evalRelease i

/-- Begin a wait (R153): the waiter joins at the end of the order; a release that is due happens at once. -/
def State.beginWait (s : State) (a : Nat) (dma : Bool) (ctx i : Nat) : State :=
  let s1 := { s with waiters := s.waiters ++ [Waiter.mk a dma ctx i s.now] }
  let s2 := if dma then s1 else
    (s1.wr (.ma a) ctx Reg.Ma.WAITING 1).wr (.ma a) ctx Reg.Ma.WAIT_PHYS i
  s2.evalRelease i

/-- Whether a tally has a waiter. -/
def State.hasWaiter (s : State) (i : Nat) : Bool := s.waiters.any fun w => w.tally == i

/-- Drop the waits of a context that stops (R149). -/
def State.dropWaits (s : State) (a : Nat) (dma : Bool) (ctx : Nat) : State :=
  (s.waiters.filter fun w => w.arr == a && w.dma == dma && w.ctx == ctx).foldl State.endWait s

/-! ### INIT and allocation (R158, R159) -/

/-- The TALLY page that a requester sees, and its partition. -/
def tallyView : View → Page × Option Nat
  | .vf v => (.tallyVf v, some v)
  | _ => (.tallyPf, none)

/-- Whether a view reaches a tally (R159). -/
def State.reaches (s : State) (v : Option Nat) (i : Nat) : Bool :=
  match v with
  | none => true
  | some p => (s.tally i).alloc && (s.tally i).owner == p

/-- An ignored write of a VF view (R159). -/
def State.tallyIgnored (s : State) (v : Option Nat) : State := s.tallyErr v 2

/-- INIT of tally TSEL, from the word written to 0x110 (R158). -/
def State.tallyInit (s : State) (page : Page) (v : Option Nat) (w : Nat) : State :=
  let s1 := (s.wr page 0 Reg.Tally.INIT_COUNT (field w 0 16)).wr page 0 Reg.Tally.INIT_THRESH (field w 16 16)
  let i := s.rd page 0 Reg.Tally.TSEL
  if !s.reaches v i then s.tallyIgnored v
  else if s.hasWaiter i || field w 16 16 == 0 || !(s.tally i).alloc then s1.tallyErr v 1
  else s1.setTally i { s.tally i with count := field w 0 16, thresh := field w 16 16, level := s.rdB page 0 Reg.Tally.INIT_MODE }

/-- Write to 0x10C: SIG_IDX is signalled by SIG_INC, 0 read as 1 (Table 6.7). -/
def State.tallySig (s : State) (page : Page) (v : Option Nat) (w : Nat) : State :=
  let i := field w 0 13
  if !s.reaches v i then s.tallyIgnored v
  else
    let s1 := (s.wr page 0 Reg.Tally.SIG_IDX i).wr page 0 Reg.Tally.SIG_INC (field w 16 16)
    s1.signalTally i (max 1 (field w 16 16))

/-- Tallies of a range. -/
def tallyRun (base len : Nat) : List Nat := (List.range len).map fun k => base + k

/-- Allocate a run of tallies to a partition, at their reset contents. -/
def State.allocTallies (s : State) (p base len : Nat) : State :=
  (tallyRun base len).foldl (fun s i => s.setTally i { owner := p, alloc := true }) s

/-- Release a run of tallies. -/
def State.freeTallies (s : State) (base len : Nat) : State :=
  (tallyRun base len).foldl (fun s i => s.setTally i {}) s

/-- The allocation command of 0x120 (R158). -/
def State.tallyCmd (s : State) (v : Option Nat) (w : Nat) : State :=
  match v with
  | some _ => s.tallyIgnored v
  | none =>
    let p := Page.tallyPf
    let (base, part, len, free, go) := (field w 0 13, field w 13 3, field w 16 14, bitAt w 30, bitAt w 31)
    let s1 := (((s.wr p 0 Reg.Tally.A_BASE base).wr p 0 Reg.Tally.A_PART part).wr p 0 Reg.Tally.A_LEN len).wr p 0
      Reg.Tally.A_FREE (b2n free)
    if !go then s1
    else if len == 0 || decide (8192 < base + len) then s1.tallyErr none 1
    else if free then
      if (tallyRun base len).any s.hasWaiter then s1.tallyErr none 1 else s1.freeTallies base len
    else if (tallyRun base len).any fun i => (s.tally i).alloc then s1.tallyErr none 1
    else s1.allocTallies part base len

/-- Longest run of consecutive free tallies, and its base: the first of the longest (Table 6.7). -/
def State.freeRun (s : State) : Nat × Nat :=
  let used := (s.tallies.filter fun e => e.2.alloc).map fun e => e.1
  let (best, bb, last) := used.foldl (fun (acc : Nat × Nat × Nat) i =>
    let n := i - acc.2.2
    (if acc.1 < n then n else acc.1, if acc.1 < n then acc.2.2 else acc.2.1, i + 1)) (0, 0, 0)
  if best < 8192 - last then (8192 - last, last) else (best, bb)

/-- First base at which len consecutive tallies are free (log 14). -/
def State.firstRun (s : State) (len : Nat) : Option Nat :=
  let used := (s.tallies.filter fun e => e.2.alloc).map fun e => e.1
  let (found, last) := used.foldl (fun (acc : Option Nat × Nat) i =>
    (if acc.1.isNone ∧ len ≤ i - acc.2 then some acc.2 else acc.1, i + 1)) (none, 0)
  match found with
  | some b => some b
  | none => if len ≤ 8192 - last then some last else none

end Sys2Proof.Machine
end

