-- ==== Sys2Proof/Machine/Control.lean ====
section
/-! DEFINITION. What every page has in common: its power domain (Table 1.1), the views that reach it (R415), stop requests
(R409, R410), the wake of a domain (R323), the stall of an access (R324), the register write of R407 and R408, and the
removal of an array slot (R251). -/

namespace Sys2Proof.Machine

/-! ### Domains (Table 12.1) -/

/-- Power domain of a page, as its PWR register reports it (Table 1.1, R314). -/
def Page.domain : Page → Nat
  | .ma a => if a = 8 then 1 else 2 + a
  | .dma a => 2 + a
  | .cis n => 10 + n
  | .isp p => 18 + p
  | .csi _ => 20
  | .ctx c => 18 + c / 16
  | .audio => 24
  | .aout => 24
  | .sec => 26
  | .trng => 26
  | .attest => 26
  | .sealPage => 26
  | .pcie => 22
  | .xspi => 23
  | .i3c => 23
  | .uart => 23
  | .asp => 23
  | .hv => 25
  | .lpddr => 21
  | .phy => 21
  | _ => 0

/-- Offsets of the group and binning registers, which the ISP0 page shows and CSIPHY holds (Tables 10.10 and 12.1, R275). -/
def csiphyOff (off : Nat) : Bool := decide (0x140 ≤ off) && decide (off < 0x1E0)

/-- The domain for which an access to a register waits (R10, R323, R324): none of AUDHQ for the AUDIO page, none for the HV page's
gauge and journal registers, which AON holds (R390), and CSIPHY for the group and binning registers (DEDUCED, log 96). -/
def Page.wakeDomain (p : Page) (off : Nat) : Nat :=
  match p with
  | .audio => 0
  | .hv => if off < 0x200 then 0 else 25
  | .isp 0 => if csiphyOff off then 20 else 18
  | _ => p.domain

/-- Domain of an array. -/
def arrDomain (a : Nat) : Nat := if a = 8 then 1 else 2 + a

/-- The array that a domain holds. -/
def domArray (d : Nat) : Option Nat := if d = 1 then some 8 else if 2 ≤ d ∧ d < 10 then some (d - 2) else none

/-- The domain that holds the memory at a direct address (Table 7.1). -/
def memDomain (addr : Nat) : Nat :=
  if addr < 0x10000000 then 2 + addr / 0x2000000
  else if addr < cisBase then 1
  else if addr < wellBase then 10 + (addr - cisBase) / 0x800000
  else 21

def State.domOn (s : State) (d : Nat) : Bool := d == 0 || (s.dom d).st == .on

/-- Whether some domain other than AON is ON, in entry or waking: the fabric group is then ON (R12). -/
def State.fabricOn (s : State) : Bool := (List.range 26).any fun i => match (s.dom (i + 1)).st with
  | .retention => false
  | .off => false
  | _ => true

/-- An abandoned entry (R318): the domain is ON again with REQ = 0 and ABORTS counts; the schedule of a DOZE that began it goes on
(R316); a sequenced drop ends with WOKEN. -/
def State.abandon (s : State) (d : Nat) : State :=
  let s0 := match domArray d, (s.dom d).dozed with
    | some a, some c => s.setSt (.ma a) c 1
    | _, _ => s
  let s1 := (s0.setDom d { s0.dom d with st := .on, req := 0, dozed := none }).count .power 0 (Reg.Power.ABORTS d) (Reg.Power.ABORTS_SAT d) 1
  match s1.power.seq with
  | some q =>
    if q.left.head? = some d then
      let s2 := ((s1.wr .power 0 Reg.Power.SEQ_STATUS 3).wr .power 0 Reg.Power.SEQ_HELD d).wr .power 0 Reg.Power.SEQ_REASON 7
      ({ s2 with power := { s2.power with seq := none } }).irq .power none 1
    else s1
  | none => s1

/-- Begin the exit of a domain (R311, R312, R324). -/
def State.beginWake (s : State) (d : Nat) (fromOff : Bool) : State :=
  let s1 := if s.fabricOn then s else s.count .power 0 Reg.Power.REF_STARTS Reg.Power.REF_STARTS_SAT 1
  let ramping := (List.range 8).any fun n => n + 2 != d && (s1.dom (n + 2)).st == .waking true
  let s2 := s1.setDom d { s1.dom d with st := .waking fromOff, wakeAt := s1.now, wakeAfter := false }
  let s3 := if fromOff && ramping && decide (2 ≤ d ∧ d < 10) then
      { s2 with power := { s2.power with rampWait := insAsc d s2.power.rampWait } }
    else s2
  if d = 22 then s3.emit .clkreq else s3

/-- A wake event for a domain (R323): it abandons an entry before step 4, and otherwise the exit follows. A unit removed by
self-test stays OFF (R367), and PCIE leaves OFF only by the host (R313). -/
def State.wake (s : State) (d : Nat) : State :=
  let x := s.dom d
  if d = 0 ∨ 26 < d ∨ x.removed then s
  else match x.st with
    | .on => s
    | .waking _ => s
    | .entering k _ => if k < 4 then s.abandon d else s.setDom d { x with wakeAfter := true }
    | .retention => s.beginWake d false
    | .off => if d = 22 then s else s.beginWake d true

/-- The wake event that an access to a register is (R323): for the domain that holds the register, and for the page's own. -/
def State.wakeFor (s : State) (p : Page) (off : Nat) : State :=
  let s1 := s.wake (p.wakeDomain off)
  match p with
  | .isp q => s1.wake (18 + q)
  | _ => s1

/-- Wake every domain of a list; whether all of them are ON then. -/
def State.wakeAll (s : State) (l : List Nat) : State × Bool :=
  let s1 := l.foldl State.wake s
  (s1, l.all s1.domOn)

/-! ### Views -/

/-- Function of a view: 0 physical function and steward, v + 1 for VF v. -/
def View.fn : View → Nat
  | .vf v => v + 1
  | _ => 0

/-- Number of a requester: 0 physical function, 1 steward, 2 + v for VF v (R407). -/
def View.num : View → Nat
  | .pf => 0
  | .steward => 1
  | .vf v => v + 2

/-- Whether a partition is enabled (R212). -/
def State.partOn (s : State) (p : Nat) : Bool := s.rdB .part p Reg.Part.PART_EN

/-- The context of an array that a view addresses (R215, R415). -/
def State.viewCtx (s : State) (v : View) (a : Nat) : Option Nat :=
  match v with
  | .vf p =>
    match s.assignOf a with
    | .unassigned => none
    | .owned q => if p = q then some p else none
    | .shared l => if l.contains p then some p else none
  | _ =>
    match s.assignOf a with
    | .unassigned => some 0
    | .owned q => some q
    | .shared _ => some (s.rd .part 0 Reg.Part.CTX_PSEL)

/-- The bank of a page's registers that a view reaches, or none where it has no access (Table 17.2, R212, R415). -/
def State.viewBank (s : State) (v : View) (p : Page) : Option Nat :=
  let reach := match v with
    | .vf q => s.partOn q
    | _ => true
  if !reach then none
  else match p with
    | .ma a => s.viewCtx v a
    | .dma a => s.viewCtx v a
    | .pcie => some (View.fn v)
    | .tallyVf q =>
      match v with
      | .vf r => if q = r then some 0 else none
      | _ => some 0
    | .floor => some 0
    | .fuse => some 0
    | .ott => some 0
    | .part => some 0
    | .trng => some 0
    | .therm => some 0
    | _ =>
      match v with
      | .vf _ => none
      | _ => some 0

/-- A page whose unit is fused off, or was removed by self-test; a slot removed in service keeps its page (R367, R406). -/
def State.pageAbsent (s : State) (p : Page) : Bool :=
  let arr := fun a => !(s.rdB .floor 0 (Reg.Floor.PRESENT a)) && decide (s.rd .floor 0 (Reg.Floor.CAUSE a) < 3)
  match p with
  | .ma a => arr a
  | .dma a => arr a
  | .cis n => !bitAt (s.rd .floor 0 Reg.Floor.CIS_PRESENT) n
  | .csi n => !bitAt (s.rd .floor 0 Reg.Floor.CSI_PRESENT) n
  | _ => false

/-- BAR0 serves the full page map from STAGE 6, and before that, as in standpipe, SYS, FLOOR, FUSE and TEST (R368, R376). -/
def State.served (s : State) (p : Page) : Bool :=
  s.rd .sys 0 Reg.Sys.STAGE == 6 || p == .sys || p == .floor || p == .fuse || p == .test

/-- An access to the control window by a view (R11, R324, R407): ignored where no page answers, stalled behind the wake of
the page's domain, or performed on the page, its bank and offset. -/
def State.viaBus (s : State) (v : View) (addr size w : Nat) (effect : State → Page → Nat → Nat → State) : State :=
  if size ≠ 4 ∨ addr % 4 ≠ 0 then s
  else match pageAt addr with
    | none => s
    | some (p, off) =>
      if !s.served p || s.pageAbsent p then s
      else match s.viewBank v p with
        | none => s
        | some bank =>
          let d := p.wakeDomain off
          let s1 := s.wakeFor p off
          if s1.domOn d then effect s1 p bank off
          else if (s1.dom d).st == .off then s1
          else { s1 with stalled := s1.stalled ++ [Stalled.mk d v addr (some w)] }

/-! ### Stop (R149, R409, R410) -/

/-- The waits of SEALs for a free entry count in STALL_NC, up to now (R237). -/
def State.settleSeals (s : State) : State :=
  let n := sumNat ((s.seals.waiters.filter fun w => !w.got).map fun w => ncOf s.now - ncOf w.since)
  let s1 := s.count .sealPage 0 Reg.Seal.STALL_NC Reg.Seal.STALL_NC_SAT n
  { s1 with seals := { s1.seals with waiters := s1.seals.waiters.map fun w => { w with since := s.now } } }

/-- The SEALs that wait take the free entries in the order of their requests (R237, R238). -/
def State.grantSeals (s : State) : State :=
  { s with seals := { s.seals with
      waiters := s.seals.waiters.zipIdx.map fun w => { w.1 with got := w.1.got || decide (w.2 + s.seals.ledger.length < 4096) } } }

/-- A SEAL that goes on, or whose context stops, waits no longer. -/
def State.unstallSeal (s : State) (a : Nat) : State :=
  if s.seals.waiters.any fun w => w.arr == a then
    let s1 := s.settleSeals
    { s1 with seals := { s1.seals with waiters := s1.seals.waiters.filter fun w => w.arr != a } }
  else s

/-- Work of a context of an array that ends when it stops: waits, releases, barrier passes, the arbiter's choice. -/
def State.clearCtx (s : State) (a ctx : Nat) : State :=
  let s1 := s.dropWaits a false ctx
  let s2 := s1.modArr a fun x =>
    { x with released := x.released.filter fun c => c % 8 != ctx, gangGo := x.gangGo.filter fun c => c != ctx,
             turn := if x.turn = some ctx then none else x.turn }
  if s.runCtx a = some ctx then (s2.unstallSeal a).grantSeals else s2

/-- Work of a DMA list that ends when it stops. -/
def State.clearDmaCtx (s : State) (a ctx : Nat) : State :=
  let s1 := s.dropWaits a true ctx
  s1.setDma a { s1.dma a with released := (s1.dma a).released.filter fun c => c != ctx }

/-- A page enters STOPPED: STOP_REQ clears (Table 17.1); an incomplete word of the ASP is discarded and counted (R386). -/
def State.enterStopped (s : State) (p : Page) (bank : Nat) : State :=
  let s1 := (s.setSt p bank 0).wr p bank Reg.Hdr.STOP_REQ 0
  match p with
  | .ma a => s1.clearCtx a bank
  | .dma a => s1.clearDmaCtx a bank
  | .asp => if s1.ports.nibbles = 0 then s1 else { s1.errCount .asp 0 2 1 with ports := { s1.ports with nibbles := 0 } }
  | _ => s1

/-- Whether an array, its DMA engine or host DMA stands at a boundary of a context: nothing of that context is in flight. -/
def State.atBoundary (s : State) (p : Page) (bank : Nat) : Bool :=
  match p with
  | .ma a =>
    match (s.arr a).mop with
    | some m => m.ctx != bank
    | none => true
  | .dma a =>
    (s.dma a).runs.all fun r => r.ctx != bank
  | .pcie => SMap.get 0 s.ports.hdLine bank == 0
  | _ => false

/-- STOP_REQ of a page that stops (Table 17.3): an array or DMA list at a boundary stops at once (R149). -/
def State.stopReq (s : State) (p : Page) (bank : Nat) : State :=
  match s.st p bank with
  | 1 => if s.atBoundary p bank then s.enterStopped p bank else (s.setSt p bank 2).wr p bank Reg.Hdr.STOP_REQ 1
  | 3 => s.enterStopped p bank
  | _ => s

/-- STOP_REQ on a context of an array, and on its DMA list. -/
def State.stopCtx (s : State) (a ctx : Nat) : State :=
  let s1 := s.stopReq (.ma a) ctx
  if a = 8 then s1 else s1.stopReq (.dma a) ctx

/-- The pages of a domain that stop, each with its banks (R321). -/
def State.domPages (s : State) (d : Nat) : List (Page × Nat) :=
  match domArray d with
  | some a => (s.ctxs a).flatMap fun c => if a = 8 then [(.ma a, c)] else [(.ma a, c), (.dma a, c)]
  | none =>
    if 10 ≤ d ∧ d < 18 then [(.cis (d - 10), 0)]
    else if d = 18 ∨ d = 19 then (.isp (d - 18), 0) :: (List.range 16).map fun c => (.ctx (c + 16 * (d - 18)), 0)
    else if d = 20 then (List.range 6).map fun p => (.csi p, 0)
    else if d = 21 then [(.lpddr, 0)]
    else if d = 23 then [(.i3c, 0), (.uart, 0), (.asp, 0)]
    else []

/-! ### Removal of a slot (R251) -/

/-- The links that end at a slot, as bits of LINK_PRESENT. -/
def State.slotLinks (s : State) (a : Nat) : Nat :=
  let (x, y) := s.slotXY a
  let near := [(x + 1, y), (x, 1 - y)] ++ (if 0 < x then [(x - 1, y)] else [])
  maskOf ((near.filter fun q => decide (q.1 < 4)).map fun q => linkIdx x y q.1 q.2)

/-- Remove an array slot (R251, R372): its contexts and those of every array bound with it stop, it becomes UNASSIGNED,
FLOOR and SYS report it. -/
def State.removeSlot (s : State) (a cause : Nat) : State :=
  let bound := s.images.filter fun i => i.bind.contains a || (a == 8 && i.sentry)
  let others := bound.flatMap fun i => (i.bind ++ (if i.sentry then [8] else [])).map fun b => (b, i.part)
  let mine := (s.ctxs a).map fun c => (a, c)
  let s1 := (mine ++ others).foldl (fun s x => s.stopCtx x.1 x.2) s
  let f := Page.floor
  let present := s1.rd f 0 Reg.Floor.ARR_PRESENT
  let s2 := (s1.wr f 0 Reg.Floor.ARR_PRESENT (clr32 present (2 ^ a))).wr f 0 Reg.Floor.ARR_REMOVED
    (or32 (s1.rd f 0 Reg.Floor.ARR_REMOVED) (2 ^ a))
  let s3 := ((s2.wr f 0 (Reg.Floor.PRESENT a) 0).wr f 0 (Reg.Floor.REMOVED a) 1).wr f 0 (Reg.Floor.CAUSE a) cause
  let s4 := if a = 8 then s3 else
    s3.wr f 0 Reg.Floor.LINK_PRESENT (clr32 (s3.rd f 0 Reg.Floor.LINK_PRESENT) (s3.slotLinks a))
  let s5 := (s4.countWrap32 f 0 Reg.Floor.FLOOR_GEN 1).wr .sys 0 Reg.Sys.REMOVALS (min 255 (s4.rd .sys 0 Reg.Sys.REMOVALS + 1))
  let s6 := (s5.wr .sys 0 Reg.Sys.DEGRADED 1).irq .sys none 0
  { s6 with parts := { s6.parts with assign := SMap.set .unassigned s6.parts.assign a .unassigned } }

/-- The partition whose context a bank of a page's registers belongs to (R412). -/
def State.pagePart (s : State) (p : Page) (bank : Nat) : Option Nat :=
  match p with
  | .ma a => s.ctxPart a bank
  | .dma a => s.ctxPart a bank
  | .pcie => if bank = 0 then none else some (bank - 1)
  | _ => none

/-- The generic write of a register word (R407, R408): plain fields take their bits, a written 1 clears a W1C field, a
configuration field takes its bits only while STATE = STOPPED and CFG_OPEN = 1. -/
def State.wrFields (s : State) (p : Page) (bank off w : Nat) (fields : List Fld) : State :=
  let mine := fields.filter fun f => f.off == off
  let open_ := s.st p bank == 0 && s.rdB p bank Reg.Hdr.CFG_OPEN
  let s1 := mine.foldl (fun s f =>
    let v := field w f.lsb f.width
    match f.acc with
    | .rw => s.wr p bank f v
    | .rws => s.wr p bank f v
    | .w1c => if v = 0 then s else s.wr p bank f (clr32 (s.rd p bank f) v)
    | .cfg => if open_ then s.wr p bank f v else s
    | _ => s) s
  if !open_ && mine.any fun f => f.acc == .cfg then
    (s1.wr p bank Reg.Hdr.CFG_WHILE_RUN 1).irq p (s1.pagePart p bank) 31
  else s1

end Sys2Proof.Machine
end

