-- ==== Sys2Proof/Machine/Sha.lean ====
section
/-! DEFINITION. SHA-256 and SHA-384 (FIPS 180-4), which the digests of R144, R147, R232 to R236, R289 and R352 are. -/

namespace Sys2Proof.Machine

/-- Round constants of SHA-256. -/
def sha256K : List Nat :=
  List.flatten [[0x428A2F98, 0x71374491, 0xB5C0FBCF, 0xE9B5DBA5, 0x3956C25B, 0x59F111F1, 0x923F82A4, 0xAB1C5ED5],
    [0xD807AA98, 0x12835B01, 0x243185BE, 0x550C7DC3, 0x72BE5D74, 0x80DEB1FE, 0x9BDC06A7, 0xC19BF174],
    [0xE49B69C1, 0xEFBE4786, 0x0FC19DC6, 0x240CA1CC, 0x2DE92C6F, 0x4A7484AA, 0x5CB0A9DC, 0x76F988DA],
    [0x983E5152, 0xA831C66D, 0xB00327C8, 0xBF597FC7, 0xC6E00BF3, 0xD5A79147, 0x06CA6351, 0x14292967],
    [0x27B70A85, 0x2E1B2138, 0x4D2C6DFC, 0x53380D13, 0x650A7354, 0x766A0ABB, 0x81C2C92E, 0x92722C85],
    [0xA2BFE8A1, 0xA81A664B, 0xC24B8B70, 0xC76C51A3, 0xD192E819, 0xD6990624, 0xF40E3585, 0x106AA070],
    [0x19A4C116, 0x1E376C08, 0x2748774C, 0x34B0BCB5, 0x391C0CB3, 0x4ED8AA4A, 0x5B9CCA4F, 0x682E6FF3],
    [0x748F82EE, 0x78A5636F, 0x84C87814, 0x8CC70208, 0x90BEFFFA, 0xA4506CEB, 0xBEF9A3F7, 0xC67178F2]]

/-- Initial hash value of SHA-256. -/
def sha256H : List Nat :=
  List.flatten [[0x6A09E667, 0xBB67AE85, 0x3C6EF372, 0xA54FF53A, 0x510E527F, 0x9B05688C, 0x1F83D9AB, 0x5BE0CD19]]

/-- Round constants of SHA-384. -/
def sha512K : List Nat :=
  List.flatten [[0x428A2F98D728AE22, 0x7137449123EF65CD, 0xB5C0FBCFEC4D3B2F, 0xE9B5DBA58189DBBC],
    [0x3956C25BF348B538, 0x59F111F1B605D019, 0x923F82A4AF194F9B, 0xAB1C5ED5DA6D8118],
    [0xD807AA98A3030242, 0x12835B0145706FBE, 0x243185BE4EE4B28C, 0x550C7DC3D5FFB4E2],
    [0x72BE5D74F27B896F, 0x80DEB1FE3B1696B1, 0x9BDC06A725C71235, 0xC19BF174CF692694],
    [0xE49B69C19EF14AD2, 0xEFBE4786384F25E3, 0x0FC19DC68B8CD5B5, 0x240CA1CC77AC9C65],
    [0x2DE92C6F592B0275, 0x4A7484AA6EA6E483, 0x5CB0A9DCBD41FBD4, 0x76F988DA831153B5],
    [0x983E5152EE66DFAB, 0xA831C66D2DB43210, 0xB00327C898FB213F, 0xBF597FC7BEEF0EE4],
    [0xC6E00BF33DA88FC2, 0xD5A79147930AA725, 0x06CA6351E003826F, 0x142929670A0E6E70],
    [0x27B70A8546D22FFC, 0x2E1B21385C26C926, 0x4D2C6DFC5AC42AED, 0x53380D139D95B3DF],
    [0x650A73548BAF63DE, 0x766A0ABB3C77B2A8, 0x81C2C92E47EDAEE6, 0x92722C851482353B],
    [0xA2BFE8A14CF10364, 0xA81A664BBC423001, 0xC24B8B70D0F89791, 0xC76C51A30654BE30],
    [0xD192E819D6EF5218, 0xD69906245565A910, 0xF40E35855771202A, 0x106AA07032BBD1B8],
    [0x19A4C116B8D2D0C8, 0x1E376C085141AB53, 0x2748774CDF8EEB99, 0x34B0BCB5E19B48A8],
    [0x391C0CB3C5C95A63, 0x4ED8AA4AE3418ACB, 0x5B9CCA4F7763E373, 0x682E6FF3D6B2B8A3],
    [0x748F82EE5DEFB2FC, 0x78A5636F43172F60, 0x84C87814A1F0AB72, 0x8CC702081A6439EC],
    [0x90BEFFFA23631E28, 0xA4506CEBDE82BDE9, 0xBEF9A3F7B2C67915, 0xC67178F2E372532B],
    [0xCA273ECEEA26619C, 0xD186B8C721C0C207, 0xEADA7DD6CDE0EB1E, 0xF57D4F7FEE6ED178],
    [0x06F067AA72176FBA, 0x0A637DC5A2C898A6, 0x113F9804BEF90DAE, 0x1B710B35131C471B],
    [0x28DB77F523047D84, 0x32CAAB7B40C72493, 0x3C9EBE0A15C9BEBC, 0x431D67C49C100D4C],
    [0x4CC5D4BECB3E42B6, 0x597F299CFC657E2A, 0x5FCB6FAB3AD6FAEC, 0x6C44198C4A475817]]

/-- Initial hash value of SHA-384. -/
def sha384H : List Nat :=
  List.flatten [[0xCBBB9D5DC1059ED8, 0x629A292A367CD507, 0x9159015A3070DD17, 0x152FECD8F70E5939],
    [0x67332667FFC00B31, 0x8EB44A8768581511, 0xDB0C2E0D64F98FA7, 0x47B5481DBEFA4FA4]]

/-- The functions of one of the two hash families: word width, rotation counts, words of a block. -/
structure ShaP where
  w : Nat
  big0 : Nat × Nat × Nat
  big1 : Nat × Nat × Nat
  sm0 : Nat × Nat × Nat
  sm1 : Nat × Nat × Nat
  k : List Nat
deriving DecidableEq, Repr

def shaP256 : ShaP :=
  { w := 32, big0 := (2, 13, 22), big1 := (6, 11, 25), sm0 := (7, 18, 3), sm1 := (17, 19, 10), k := sha256K }

def shaP384 : ShaP :=
  { w := 64, big0 := (28, 34, 39), big1 := (14, 18, 41), sm0 := (1, 8, 7), sm1 := (19, 61, 6), k := sha512K }

/-- Rotate, rotate and rotate, or rotate, rotate and shift where last is false. -/
def shaMix {w : Nat} (r : Nat × Nat × Nat) (rot3 : Bool) (x : BitVec w) : BitVec w :=
  x.rotateRight r.1 ^^^ x.rotateRight r.2.1 ^^^ (if rot3 then x.rotateRight r.2.2 else x >>> r.2.2)

/-- The message schedule: from 16 words, newest first, extended n times. -/
def shaExtend (p : ShaP) : Nat → List (BitVec p.w) → List (BitVec p.w)
  | 0, ws => ws
  | n + 1, ws =>
    let at' := fun i => nth 0 ws i
    shaExtend p n ((shaMix p.sm1 false (at' 1) + at' 6 + shaMix p.sm0 false (at' 14) + at' 15) :: ws)

/-- One round on (a, b, c, d, e, f, g, h). -/
def shaRound (p : ShaP) (h : List (BitVec p.w)) (kw : BitVec p.w) : List (BitVec p.w) :=
  match h with
  | [a, b, c, d, e, f, g, hh] =>
    let t1 := hh + shaMix p.big1 true e + ((e &&& f) ^^^ (~~~e &&& g)) + kw
    let t2 := shaMix p.big0 true a + ((a &&& b) ^^^ (a &&& c) ^^^ (b &&& c))
    [t1 + t2, a, b, c, d + t1, e, f, g]
  | _ => h

/-- Compress one block. -/
def shaBlock (p : ShaP) (h : List (BitVec p.w)) (block : List Byte) : List (BitVec p.w) :=
  let ws := ((chunks (p.w / 8) block).map fun b => BitVec.ofNat p.w (beNat b)).reverse
  let ext := (shaExtend p (p.k.length - 16) ws).reverse
  let r := (ext.zip p.k).foldl (fun h x => shaRound p h (x.1 + BitVec.ofNat p.w x.2)) h
  (h.zip r).map fun x => x.1 + x.2

/-- Padding: 1, zeros, and the bit length. -/
def shaPad (p : ShaP) (l : List Byte) : List Byte :=
  let blk := 2 * p.w
  let z := (2 * blk - (l.length + 1 + p.w / 4) % blk) % blk
  l ++ [0x80#8] ++ List.replicate z 0#8 ++ beBytes (p.w / 4) (8 * l.length)

/-- The hash of a byte string, as bytes. -/
def sha (p : ShaP) (iv : List Nat) (l : List Byte) : List Byte :=
  ((chunks (2 * p.w) (shaPad p l)).foldl (shaBlock p) (iv.map (BitVec.ofNat p.w))).flatMap fun x =>
    beBytes (p.w / 8) x.toNat

/-- SHA-256. -/
def sha256 (l : List Byte) : List Byte := sha shaP256 sha256H l

/-- SHA-384. -/
def sha384 (l : List Byte) : List Byte := (sha shaP384 sha384H l).take 48

/-- An ingest digest record (R234): source, unit, sequence number and the bytes as delivered. -/
def ingestRecord (source unit seq : Nat) (data : List Byte) : List Byte :=
  leBytes 4 (source % 16 + unit % 4096 * 16) ++ leBytes 4 0 ++ leBytes 8 seq ++ sha256 data

end Sys2Proof.Machine
end

