-- ==== Sys2Proof/Machine/Points.lean ====
section
/-! DEFINITION. Operating points of the array islands and VDD_MA (R15, R174, R417, R423). -/

namespace Sys2Proof.Machine

/-- V_i of an island at point i: the fused voltage, never above the line from 0.55 V to 0.80 V (R417; log 16). -/
def islandMv (a i : Nat) : Nat := min (Config.fuseMv a i) (550 + 250 * i / 28)

/-- MIN_CLK of the images bound to an array, as an operating point (R174). -/
def State.minPoint (s : State) (a : Nat) : Nat :=
  let clk := ((s.images.filter fun i => i.bind.contains a).map fun i => i.minClk).foldl max 300
  ceilDiv (clk - 300) 25

/-- VMA_REQ_MV: the maximum of V_i over the islands that are ON, plus 50 mV, rounded up to 5 mV (R417). -/
def State.vmaReq (s : State) : Nat :=
  let on := (List.range 9).filter fun a => s.domOn (arrDomain a)
  if on.isEmpty then 0
  else ceilDiv ((on.map fun a => islandMv a (s.oppAct a)).foldl max 0 + 50) 5 * 5

/-- Take up a waiting operating point at a macro-operation boundary (R15, R417): it stays PENDING while VDD_MA is short of
V_i + 50 mV; a lower point than MIN_CLK is raised to it; a throttled island goes no higher than it stands (R424). -/
def State.applyOpp (s : State) (a : Nat) : State :=
  let x := s.arr a
  match x.oppWait with
  | none => s
  | some i =>
    if x.mop.isSome then s
    else
      let p := Page.ma a
      let i1 := max i (s.minPoint a)
      let act := s.rd p 0 Reg.Ma.OPP_ACT
      let i2 := if s.rdB p 0 Reg.Ma.THROTTLED || s.rdB p 0 Reg.Ma.HEADROOM_LOW then min act i1 else i1
      if s.rd .therm 0 Reg.Therm.VMA_MV < islandMv a i2 + 50 then s.wr p 0 Reg.Ma.PENDING 1
      else
        let s1 := (s.wr p 0 Reg.Ma.PENDING 0).wr p 0 Reg.Ma.OPP_ACT i2
        s1.setArr a { x with oppWait := none, oppSettling := x.oppSettling || i2 != act }

end Sys2Proof.Machine
end

