-- ==== Sys2Proof/Machine/Tiers.lean ====
section
/-! DEFINITION. The tiers below the arrays (R181 to R189, R195 to R198, R204 to R211): the object translation table, cistern
frames, stamps and eviction, page moves and fills, refetch, and the OTT page's commands. -/

namespace Sys2Proof.Machine

/-! ### Frames -/

/-- A frame of any tier as one number: T0 frame f of array a is a · 512 + f, cistern frame f is 0x2000 + f, well frame f is
0x4000 + f. -/
def frameT0 (a f : Nat) : Nat := a * 512 + f
def frameT1 (f : Nat) : Nat := 0x2000 + f
def frameWell (f : Nat) : Nat := 0x4000 + f

/-- Direct address of a frame (Table 7.1). -/
def frameAddr (k : Nat) : Nat :=
  if k < 0x2000 then t0Base (k / 512) + k % 512 * pageBytes
  else if k < 0x4000 then cisBase + (k - 0x2000) * pageBytes
  else wellBase + (k - 0x4000) * pageBytes

/-- Frames that a VALID entry names (R183): FRAME of a pinned page or a RES copy, and HOME where it holds a well copy. -/
def ottFrames (e : Nat) : List Nat :=
  if !ottValid e then []
  else
    (if ottPlace e = 0 then [frameT0 (ottArr e) (ottT0Frame e)]
     else if ottPlace e = 1 ∨ ottRes e then [frameT1 (ottFrame e % 1024)] else []) ++
    (if ottPlace e = 2 ∨ ottHomeV e then [frameWell (ottHome e)] else [])

/-- Whether a VALID entry names a frame, or a page move in progress writes it. -/
def State.frameNamed (s : State) (k : Nat) : Bool :=
  (s.tier.ott.any fun e => (ottFrames e.2).contains k) || s.tier.moves.any fun m => frameT1 m.frame == k

/-- A released frame must read as zeros before an entry names it again (R187). -/
def State.dirtyFrame (s : State) (k : Nat) : State := { s with tier := { s.tier with dirty := insAsc k s.tier.dirty } }

/-- Zero a released frame (R187). -/
def State.zeroFrame (s : State) (k : Nat) : State :=
  let s1 := s.zero (frameAddr k) pageBytes
  { s1 with tier := { s1.tier with dirty := s1.tier.dirty.filter fun d => d != k } }

/-- Name or write a frame: a released one is zeroed first (R187). -/
def State.claim (s : State) (k : Nat) : State := if s.tier.dirty.contains k then s.zeroFrame k else s

/-- The frame, by its key, of a page of the direct windows, numbered from address 0. -/
def pageFrame (n : Nat) : Nat := if n < 0x10000 then n else n - 0xC000

/-- Pages of the direct windows that n bytes at a direct address touch. -/
def directPages (addr n : Nat) : List Nat :=
  if n = 0 then [] else (List.range ((addr + n - 1) / pageBytes - addr / pageBytes + 1)).map fun k => addr / pageBytes + k

/-- Whether a byte of a direct window is populated (Table 7.1): frames of arrays and slices that are present, and installed well frames. -/
def State.populated (s : State) (a : Nat) : Bool :=
  if a < 0x10000000 then s.rdB .floor 0 (Reg.Floor.PRESENT (a / 0x2000000)) && decide (a % 0x2000000 < 384 * pageBytes)
  else if a < cisBase then s.rdB .floor 0 (Reg.Floor.PRESENT 8) && decide (a < 0x10000000 + 16 * pageBytes)
  else if a < wellBase then bitAt (s.rd .floor 0 Reg.Floor.CIS_PRESENT) ((a - cisBase) / 0x800000) && decide (a < cisBase + 0x4000000)
  else decide ((a - wellBase) / pageBytes < s.rd .floor 0 Reg.Floor.WELL_FRAMES)

/-- Cistern frames of the slices present (Table 7.1). -/
def State.cisFrames (s : State) : List Nat :=
  (List.range 8).flatMap fun n =>
    if bitAt (s.rd .floor 0 Reg.Floor.CIS_PRESENT) n then (List.range 128).map fun f => 128 * n + f else []

/-- Frames held by the two ISP reservations (R261, R262): as many of the highest frames that no entry names (log 17). -/
def State.ispFrames (s : State) : List Nat :=
  let n := s.rd (.isp 0) 0 Reg.Isp.CIS_RES + s.rd (.isp 1) 0 Reg.Isp.CIS_RES
  (s.cisFrames.reverse.filter fun f => !s.frameNamed (frameT1 f)).take n

/-- The lowest free cistern frame (log 14). -/
def State.freeT1 (s : State) : Option Nat :=
  let isp := s.ispFrames
  s.cisFrames.find? fun f => !s.frameNamed (frameT1 f) && !isp.contains f

/-! ### Quotas, stamps and eviction (R195 to R198) -/

/-- Entries of a partition that hold a cistern frame: PIN_T1 pages. -/
def State.pinnedT1 (s : State) (p : Nat) : Nat :=
  (s.tier.ott.filter fun e => ottValid e.2 && ottPart e.2 == p && ottPlace e.2 == 1).length

/-- RES pages of a partition. -/
def State.resPages (s : State) (p : Nat) : List Nat :=
  (s.tier.ott.filter fun e => ottValid e.2 && ottPart e.2 == p && ottPlace e.2 == 2 && ottRes e.2).map fun e => e.1

/-- Fills of a partition in progress. -/
def State.filling (s : State) (p : Nat) : Nat := (s.tier.moves.filter fun m => m.fill && ottPart (s.ott m.page) == p).length

/-- A partition's use of the cistern pool (R195). -/
def State.useT1 (s : State) (p : Nat) : Nat := s.pinnedT1 p + (s.resPages p).length

def State.quota (s : State) (p : Nat) : Nat := s.rd .part p Reg.Part.T1_QUOTA

/-- OVER_QUOTA of a partition (R198). -/
def State.overQuota (s : State) (p : Nat) : Bool := decide (s.quota p < s.useT1 p)

/-- Stamp a page from its partition's counter (R196). -/
def State.stampPage (s : State) (i : Nat) : State :=
  let p := ottPart (s.ott i)
  let c := SMap.get 0 s.tier.stampCtr p
  { s with tier := { s.tier with stamp := SMap.set 0 s.tier.stamp i (c + 1),
                                 stampCtr := SMap.set 0 s.tier.stampCtr p ((c + 1) % 2 ^ 32) } }

/-- Stamp the RES pages among those touched, in ascending OTT index, each once (R196). -/
def State.stampAll (s : State) (l : List Nat) : State :=
  ((l.filter fun i => ottValid (s.ott i) && ottPlace (s.ott i) == 2 && ottRes (s.ott i)).foldl (fun acc i => insAsc i acc) []).foldl
    State.stampPage s

/-- Age of a page: the distance from the counter, modulo 2^32 (R196). -/
def State.age (s : State) (i : Nat) : Nat :=
  let p := ottPart (s.ott i)
  (SMap.get 0 s.tier.stampCtr p + 2 ^ 32 + 1 - SMap.get 0 s.tier.stamp i) % 2 ^ 32

/-- Drop the cistern copy of a RES page (R196). -/
def State.dropRes (s : State) (i : Nat) : State :=
  let e := s.ott i
  (s.dirtyFrame (frameT1 (ottFrame e % 1024))).setOtt i (setField e 8 1 0)

/-- Evict a RES page: its copy is dropped and EVICTIONS counts (R196). -/
def State.evict (s : State) (i : Nat) : State :=
  (s.dropRes i).count .ott (ottPart (s.ott i)) Reg.Ott.EVICTIONS Reg.Ott.EVICTIONS_SAT 1

/-- The RES page of a partition with the oldest stamp that is not filling. -/
def State.oldest (s : State) (p : Nat) : Option Nat :=
  ((s.resPages p).filter fun i => !ottMig (s.ott i)).foldl (fun b i => match b with
    | none => some i
    | some j => if s.age j < s.age i then some i else some j) none

/-- Evict, oldest first, until the use of a partition is at most n; the flag says whether it is. -/
def State.evictTo (s : State) (p n : Nat) : Nat → State × Bool
  | 0 => (s, decide (s.useT1 p ≤ n))
  | k + 1 =>
    if s.useT1 p ≤ n then (s, true)
    else match s.oldest p with
      | none => (s, false)
      | some i => State.evictTo (s.evict i) p n k

/-- Count a refused fill or allocation (R196, R198). -/
def State.allocRefused (s : State) (p : Nat) : State := s.count .ott p Reg.Ott.ALLOC_REFUSED Reg.Ott.ALLOC_REFUSED_SAT 1

/-- Room in the cistern for n more pages of a partition, after eviction (R196, R198); none where refused. The fills in progress will take
their pages of the quota as well. -/
def State.roomT1 (s : State) (p n : Nat) : Option State :=
  let need := n + s.filling p
  if s.overQuota p || decide (s.quota p < need) then none
  else
    let (s1, ok) := s.evictTo p (s.quota p - need) (s.resPages p).length
    if ok then some s1 else none

/-- A page migrates into a frame by a fill; line tells how many of its 1,024 lines the migration engine does not issue itself. -/
def State.startFill (s : State) (i f line : Nat) : State :=
  let s1 := s.setOtt i (setField (s.ott i) 9 1 1)
  { s1 with tier := { s1.tier with moves := s1.tier.moves ++ [{ page := i, frame := f, fill := true, line := line }] } }

/-- Begin a fill of a CACHED_T2 page into a free frame. -/
def State.beginFill (s : State) (i f line : Nat) : State := (s.claim (frameT1 f)).startFill i f line

/-- Fill one page for a FILL descriptor (R189, R191, R196): a RES page is stamped, a filling one left alone, and a page that
finds no frame is refused. -/
def State.fillPage (s : State) (i : Nat) : State :=
  let e := s.ott i
  if !ottValid e || ottPlace e != 2 then s
  else if ottRes e then s.stampPage i
  else if ottMig e then s
  else match s.roomT1 (ottPart e) 1 with
    | none => s.allocRefused (ottPart e)
    | some s1 => match s1.freeT1 with
      | none => s1.allocRefused (ottPart e)
      | some f => s1.beginFill i f 1024

/-- Cut a partition's quota (R198): RES pages go, oldest first; what is still over shows OVER_QUOTA. -/
def State.cutQuota (s : State) (p : Nat) : State :=
  let (s1, ok) := s.evictTo p (s.quota p) (s.resPages p).length
  if ok then s1 else s1.irq .ott (some p) 0

/-! ### Moves (R187) -/

/-- Copy a page of memory between direct addresses. -/
def State.copyPage (s : State) (src dst : Nat) : State :=
  let mine := (s.mem.filter fun c => decide (src ≤ c.1) && decide (c.1 < src + pageBytes)).map fun c => (c.1 - src + dst, c.2)
  mine.foldl (fun s c => s.store c.1 [c.2]) (s.zero dst pageBytes)

/-- End of an OTT command with a result. -/
def State.ottDone (s : State) (st : Nat) : State := (s.wr .ott 0 Reg.Ott.C_STATUS st).wr .ott 0 Reg.Ott.C_GO 0

/-- Page moves and fills that end without a copy: their pages are no longer migrating, and a MOVE command among them ends (R209) with
C_STATUS 6, as for a page that cannot be moved (DESIGN CHOICE, log 98). -/
def State.dropMoves (s : State) (gone : PageMove → Bool) : State :=
  let mine := s.tier.moves.filter gone
  let s1 := mine.foldl (fun s m => s.setOtt m.page (setField (s.ott m.page) 9 1 0))
    { s with tier := { s.tier with moves := s.tier.moves.filter fun m => !gone m } }
  if s1.rdB .ott 0 Reg.Ott.C_GO && s1.rd .ott 0 Reg.Ott.CMD == 3 && mine.any fun m => m.page == s1.rd .ott 0 Reg.Ott.C_IDX
  then s1.ottDone 6 else s1

/-! ### Allocation of entries (R181, R209) -/

/-- Whether a run of entries meets an allocated one. -/
def State.ottInUse (s : State) (base len : Nat) : Bool :=
  s.tier.runs.any fun r => decide (r.1 < base + len ∧ base < r.1 + r.2.1)

/-- Insert a run in ascending order. -/
def insRun (r : Nat × Nat × Nat) : List (Nat × Nat × Nat) → List (Nat × Nat × Nat)
  | [] => [r]
  | q :: t => if r.1 < q.1 then r :: q :: t else q :: insRun r t

def State.ottAlloc (s : State) (base len p : Nat) : State :=
  { s with tier := { s.tier with runs := insRun (base, len, p) s.tier.runs } }

/-- Longest run of free entries, its base, and the number of free entries. -/
def State.ottFreeRun (s : State) : Nat × Nat × Nat :=
  let all := s.tier.runs ++ [(2 ^ 20, 0, 0)]
  let r := all.foldl (fun (acc : Nat × Nat × Nat × Nat) q =>
    let gap := q.1 - acc.2.2.2
    (if acc.1 < gap then gap else acc.1, if acc.1 < gap then acc.2.2.2 else acc.2.1, acc.2.2.1 + gap, q.1 + q.2.1)) (0, 0, 0, 0)
  (r.1, r.2.1, r.2.2.1)

/-- First base at which len consecutive entries are free (log 14). -/
def State.ottFirst (s : State) (len : Nat) : Option Nat :=
  ((s.tier.runs ++ [(2 ^ 20, 0, 0)]).foldl (fun (acc : Option Nat × Nat) (q : Nat × Nat × Nat) =>
    (if acc.1.isNone ∧ len ≤ q.1 - acc.2 then some acc.2 else acc.1, q.1 + q.2.1)) (none, 0)).1

/-- Release a range of entries (R209): their frames wait for zeroing, their local page map entries go. -/
def State.ottFree (s : State) (base len : Nat) : State :=
  let inRange := fun i => decide (base ≤ i) && decide (i < base + len)
  let s0 := s.dropMoves fun m => inRange m.page
  let mine := s0.tier.ott.filter fun e => inRange e.1
  let s1 := (mine.flatMap fun e => ottFrames e.2).foldl State.dirtyFrame s0
  let s2 := (List.range 9).foldl (fun s a =>
    if (s.arr a).pageMap.any fun q => match q.2.ott with
      | some i => inRange i
      | none => false
    then s.modArr a fun x => { x with pageMap := x.pageMap.filter fun q => match q.2.ott with
      | some i => !inRange i
      | none => true }
    else s) s1
  let cut := s2.tier.runs.flatMap fun r =>
    if r.1 + r.2.1 ≤ base ∨ base + len ≤ r.1 then [r]
    else (if r.1 < base then [(r.1, base - r.1, r.2.2)] else []) ++
      (if base + len < r.1 + r.2.1 then [(base + len, r.1 + r.2.1 - (base + len), r.2.2)] else [])
  { s2 with tier := { s2.tier with ott := SMap.erase inRange s2.tier.ott, stamp := SMap.erase inRange s2.tier.stamp,
                                   refetched := s2.tier.refetched.filter fun i => !inRange i, runs := cut } }

/-- Whether every array bound to an image is STOPPED, and its DMA list with it (R189). -/
def State.imageQuiet (s : State) (i : Image) : Bool :=
  (i.bind ++ (if i.sentry then [8] else [])).all fun a => s.st (.ma a) i.part == 0 && (a == 8 || s.st (.dma a) i.part == 0)

/-- Whether every array of the images that hold entries of a range is STOPPED (R189). -/
def State.ottQuiet (s : State) (base len : Nat) : Bool :=
  (s.images.filter fun i => decide (i.ottBase < base + len ∧ base < i.ottBase + i.ottLen)).all s.imageQuiet

/-- SET (R210). -/
def State.ottSetCmd (s : State) (i v : Nat) : State :=
  let e := s.ott i
  let mapped := (List.range 9).any fun a => (s.arr a).pageMap.any fun q => q.2.ott == some i
  if mapped || (ottValid e && ottValid v && (ottPlace v == 2 || ottHomeV v)) then s.ottDone 1
  else (((ottFrames v).filter fun k => !(ottFrames e).contains k).foldl State.claim s |>.setOtt i v).ottDone 0

/-- Whether a partition owns or shares an array (R213). -/
def State.usesArr (s : State) (p a : Nat) : Bool :=
  match s.assignOf a with
  | .unassigned => false
  | .owned q => p == q
  | .shared l => l.contains p

/-- Whether an array bound to a partition is in STATE = RUNNING (R188): one that it owns or shares, or to which an image of it is bound; a
SHARED array reads RUNNING while any of its contexts is (R215). -/
def State.partRuns (s : State) (p : Nat) : Bool :=
  (List.range 9).any fun a =>
    (s.usesArr p a || s.images.any fun m => m.part == p && (m.bind.contains a || (a == 8 && m.sentry))) &&
      (s.ctxs a).any fun c => s.st (.ma a) c == 1

/-- MOVE (R188, R209). -/
def State.ottMoveCmd (s : State) (i f : Nat) : State :=
  let e := s.ott i
  let p := ottPart e
  let held := ottPlace e == 1 || ottRes e
  let start := fun (s : State) =>
    let s1 := (s.claim (frameT1 f)).setOtt i (setField (s.ott i) 9 1 1)
    { s1 with tier := { s1.tier with moves := s1.tier.moves ++ [PageMove.mk i f (!held) 0] } }
  if !ottValid e || ottPlace e == 0 || ottMig e || ottBad e then s.ottDone 6
  else if !s.cisFrames.contains f || s.frameNamed (frameT1 f) || s.ispFrames.contains f then s.ottDone 7
  else if ottWr e && s.partRuns p then s.ottDone 3
  else if held then start s
  else match s.roomT1 p 1 with
    | none => (s.allocRefused p).ottDone 2
    | some s1 => start s1

/-- The write of 0x12C with C_GO (R209). -/
def State.ottCmd (s : State) (w : Nat) : State :=
  if s.rdB .ott 0 Reg.Ott.C_GO then s.errCount .ott 0 0 1
  else
    let s1 := (s.wr .ott 0 Reg.Ott.CMD (field w 0 2)).wr .ott 0 Reg.Ott.C_PART (field w 2 3)
    if !bitAt w 31 then s1
    else
      let s2 := s1.wr .ott 0 Reg.Ott.C_GO 1
      let i := s2.rd .ott 0 Reg.Ott.C_IDX
      let len := s2.rd .ott 0 Reg.Ott.C_LEN
      let bad := len == 0 || decide (2 ^ 20 < i + len)
      match field w 0 2 with
      | 0 => if bad then s2.ottDone 5 else if s2.ottInUse i len then s2.ottDone 1 else (s2.ottAlloc i len (field w 2 3)).ottDone 0
      | 1 =>
        if bad then s2.ottDone 5
        else if s2.ottQuiet i len then (s2.ottFree i len).ottDone 0
        else { s2.wr .ott 0 Reg.Ott.C_STATUS 4 with tier := { s2.tier with release := some (i, len) } }
      | 2 => s2.ottSetCmd i (s2.rd2 .ott 0 Reg.Ott.C_DATA_LO Reg.Ott.C_DATA_HI)
      | _ => s2.ottMoveCmd i (s2.rd .ott 0 Reg.Ott.C_DATA_LO % 1024)

/-- A RELEASE that waits completes once every array of the image is STOPPED (R189). -/
def State.releaseResume (s : State) : State :=
  match s.tier.release with
  | none => s
  | some (i, len) =>
    if s.ottQuiet i len then ({ s.ottFree i len with tier := { (s.ottFree i len).tier with release := none } }).ottDone 0 else s

/-! ### Local page maps and refetch (R185, R204 to R207) -/

/-- The page whose well copy repairs a damaged page i (R205): itself, or the page that R204 records for its T0 frame. -/
def State.wellSource (s : State) (i : Nat) : Option Nat :=
  let e := s.ott i
  if ottHomeV e || ottPlace e == 2 then some i
  else if ottPlace e = 0 then
    match (SMap.get {} (s.arr (ottArr e)).pageMap (ottT0Frame e)).src with
    | some j => if ottHomeV (s.ott j) || ottPlace (s.ott j) == 2 then some j else none
    | none => none
  else none

/-- Record a whole-frame COPY into a T0 frame, or clear the record (R204). -/
def State.noteSrc (s : State) (a f : Nat) (src : Option Nat) : State :=
  s.modArr a fun x => { x with pageMap := SMap.set {} x.pageMap f { SMap.get {} x.pageMap f with src := src, copying := none } }

/-- A write of a frame of an array's local store clears what its local page map entry records of a COPY (R204). -/
def State.wroteFrame (s : State) (a f : Nat) : State :=
  let x := SMap.get {} (s.arr a).pageMap f
  if x.src.isSome || x.copying.isSome then s.noteSrc a f none else s

/-- Writes of pages by their OTT index: the T0 frames among them lose their record (R204). -/
def State.wroteT0 (s : State) (pages : List Nat) : State :=
  pages.foldl (fun s i => if ottPlace (s.ott i) = 0 then s.wroteFrame (ottArr (s.ott i)) (ottT0Frame (s.ott i)) else s) s

/-- Write bytes at a direct address: the T0 frames that they reach lose their record (R204), a frame that waits for zeroing is zeroed
first (R187), and a well frame that a VALID entry names is not written (R186). -/
def State.dstore (s : State) (addr : Nat) (d : List Byte) : State :=
  let pages := directPages addr d.length
  let s1 := pages.foldl (fun s k =>
    (if k < 0x1000 then s.wroteFrame (k / 0x200) (k % 0x200) else if k < 0x2000 then s.wroteFrame 8 (k - 0x1000) else s).claim (pageFrame k)) s
  if addr < wellBase then s1.store addr d
  else pages.foldl (fun s k =>
    let lo := max addr (k * pageBytes)
    if s.frameNamed (pageFrame k) then s
    else s.store lo ((d.drop (lo - addr)).take ((k + 1) * pageBytes - lo))) s1

/-- Whether n bytes at a direct address lie in one window of T0, the sentry store or T1 (Table 7.1). -/
def inT0T1 (addr n : Nat) : Bool :=
  if addr < 0x10000000 then decide (addr % 0x2000000 + n ≤ 384 * pageBytes)
  else if addr < cisBase then decide (addr + n ≤ 0x10000000 + 16 * pageBytes)
  else decide (addr + n ≤ cisBase + 0x4000000)

/-- Set BAD of a page (R207, R252). -/
def State.setBad (s : State) (i : Nat) : State := s.setOtt i (setField (s.ott i) 10 1 1)

/-- Rewrite a damaged page's frame, and the source page's cistern copy, from the sealed well copy (R205). -/
def State.refetch (s : State) (i j : Nat) : State :=
  let home := frameAddr (frameWell (ottHome (s.ott j)))
  let e := s.ott i
  let ej := s.ott j
  let s1 := if ottPlace e = 0 ∨ ottPlace e = 1 then s.copyPage home (ottAddr e) else s
  let s2 := if ottPlace ej = 2 ∧ ottRes ej then s1.copyPage home (ottAddr ej) else s1
  let s3 := { s2 with tier := { s2.tier with refetched := insAsc j s2.tier.refetched } }
  (s3.count .ott 0 Reg.Ott.REFETCHES Reg.Ott.REFETCHES_SAT 1).irq .ott (some (ottPart e)) 1

/-- Drop the RES copies that a cistern slice holds, as eviction does (R320). -/
def State.dropSlice (s : State) (n : Nat) : State :=
  ((s.tier.ott.filter fun e => ottValid e.2 && ottPlace e.2 == 2 && ottRes e.2 && ottFrame e.2 % 1024 / 128 == n).map
    fun e => e.1).foldl State.evict s

/-- Frames of a slice named by VALID entries, and those held as RES copies (R211). -/
def State.sliceUse (s : State) (n : Nat) : Nat × Nat :=
  let mine := s.tier.ott.filter fun e => ottValid e.2 && (ottPlace e.2 == 1 || ottRes e.2) && ottFrame e.2 % 1024 / 128 == n
  (mine.length, (mine.filter fun e => ottRes e.2).length)

/-! ### Storage errors (R249, R252) -/

/-- The block whose page counts a storage error at a direct address (R211, R249): an array, a cistern slice, or the well. -/
def errPage (addr : Nat) : Page :=
  if addr < 0x10000000 then .ma (addr / 0x2000000)
  else if addr < cisBase then .ma 8
  else if addr < wellBase then .cis ((addr - cisBase) / 0x800000 % 8)
  else .lpddr

/-- The upsets that an access to the direct bytes of some spans (start, end) meets. -/
def State.struck (s : State) (spans : List (Nat × Nat)) : List (Nat × Bool) :=
  s.upsets.filterMap fun u => match u.1 with
    | .word w => if spans.any fun x => decide (x.1 < 8 * w + 8) && decide (8 * w < x.2) then some (w, u.2) else none
    | _ => none

/-- An access meets the words of some spans (R249, R252): each single-bit error is corrected, written back and counted in ERR_CNT0 of its
block; the words with more wrong bits are handed on, and are upset no longer. -/
def State.meetWords (s : State) (spans : List (Nat × Nat)) : State × List Nat :=
  let hit := s.struck spans
  let s1 := { s with upsets := s.upsets.filter fun u => match u.1 with
    | .word w => !(hit.any fun h => h.1 == w)
    | _ => true }
  ((hit.filter fun h => !h.2).foldl (fun s h => s.errCount (errPage (8 * h.1)) 0 0 1) s1, (hit.filter fun h => h.2).map fun h => h.1)

/-- A lost word of a RES copy (R252): the copy is dropped, without counting as an eviction, and refilled from the well in its own frame. -/
def State.refill (s : State) (i : Nat) : State :=
  (s.setOtt i (setField (s.ott i) 8 1 0)).startFill i (ottFrame (s.ott i) % 1024) 0

/-- A read of another protected SRAM word meets an upset (R249): one wrong bit is corrected and counted in ERR_CNT0 of the block's page; the flag
says that more are wrong, and the word is then a free value (log 95). -/
def State.meetCell (s : State) (c : Cell64) (p : Page) : State × Bool :=
  match s.upsets.find? fun u => u.1 == c with
  | none => (s, false)
  | some u =>
    let s1 := { s with upsets := s.upsets.filter fun x => x.1 != c }
    if u.2 then (s1, true) else (s1.errCount p 0 0 1, false)

/-- The same as meetWords for an agent that does not fault on SRAM (R252): a RES copy is dropped and refilled, any other word counts in ERR_CNT1 of its block
and reads as a free value (log 95); the frame of a copy in T1 is found among the OTT's entries. -/
def State.meetData (s : State) (addr n : Nat) : State × List Byte :=
  let (s1, bad) := s.meetWords [(addr, addr + n)]
  bad.foldl (fun (acc : State × List Byte) w =>
    let s := acc.1.errCount (errPage (8 * w)) 0 1 1
    let page := (s.tier.ott.find? fun e => ottValid e.2 && ottPlace e.2 == 2 && ottRes e.2 &&
      frameAddr (frameT1 (ottFrame e.2 % 1024)) / pageBytes == 8 * w / pageBytes).map fun e => e.1
    match page with
    | some i => (s.refill i, acc.2)
    | none =>
      let (d, s2) := s.takeBytes 8
      (s2, acc.2.zipIdx.map fun b => if 8 * w ≤ addr + b.2 ∧ addr + b.2 < 8 * w + 8 then nth 0 d (addr + b.2 - 8 * w) else b.1))
    (s1, s.bytes addr n)

/-! ### Lines of the well (R241, R242, R249, R252, R347) -/

/-- What the read of one line of the well meets: a symbol corrected, link-ECC detections, or the loss of the line; the flag says it is lost. -/
def State.wellEvent (s : State) : LineEvent → State × Bool
  | .corrected => (s.errCount .lpddr 0 2 1, false)
  | .retried n => if n < 3 then (s.errCount .lpddr 0 0 n, false) else ((s.errCount .lpddr 0 0 2).errCount .lpddr 0 1 1, true)
  | .lost => (s.errCount .lpddr 0 1 1, true)
  | .tagFailed => (s.tagFails.errCount .lpddr 0 1 1, true)

/-- The read of line n of the well, with an event of the command's own if it names one: whether the line is lost. -/
def State.meetLine (s : State) (n : Nat) (ev : Option LineEvent) : State × Bool :=
  let e := match ev with
    | some e => some e
    | none => (s.wellErrs.find? fun x => x.1 == n).map fun x => x.2
  match e with
  | none => (s, false)
  | some e => State.wellEvent { s with wellErrs := s.wellErrs.filter fun x => x.1 != n } e

/-- The reads of all lines of a well frame: whether one of them is lost. -/
def State.meetFrame (s : State) (f : Nat) : State × Bool :=
  (s.wellErrs.filter fun x => x.1 / 1024 == f).foldl (fun (acc : State × Bool) x =>
    let (t, lost) := acc.1.meetLine x.1 none
    (t, acc.2 || lost)) (s, false)

/-- A lost line of the well sets its page BAD (R252); a fill of the page ends. -/
def State.loseLine (s : State) (i : Nat) : State := (s.dropMoves fun m => m.page == i && m.fill).setBad i

/-! ### End of a page copy (R187) -/

/-- Issue the lines of a fill that the migration engine moves, as far as the weirs let them pass; whether all have passed (R221, R222). -/
def State.issueMove (s : State) (m : PageMove) : State × Bool :=
  if !m.fill || decide (1024 ≤ m.line) then (s, true)
  else
    let (s1, k) := s.issueLines (ottPart (s.ott m.page)) [0, 1] (1024 - m.line)
    ({ s1 with tier := { s1.tier with moves := s1.tier.moves.map fun x => if x.page = m.page then { x with line := m.line + k } else x } },
      decide (1024 ≤ m.line + k))

/-- What the reads of a page copy's source meet: for a fill the lines of the well frame, else the words of the old frame; the words that
cannot be corrected, and whether a line of the well is lost. -/
def State.meetMove (s : State) (m : PageMove) (src : Nat) : State × List Nat × Bool :=
  if m.fill then
    let (s1, lost) := if 1024 ≤ m.line then (s, false) else s.meetFrame ((src - wellBase) / pageBytes)
    (s1, [], lost)
  else
    let (s1, bad) := s.meetWords [(src, src + pageBytes)]
    (bad.foldl (fun s w => s.errCount (errPage (8 * w)) 0 1 1) s1, bad, false)

/-- End of a page copy (R187): the new frame holds the page, FRAME or RES is rewritten, a moved page's old frame is released,
a filled page is stamped. It waits for the domains of both ends and for the weirs. Lost words of a RES copy are taken from the well, those
of a pinned page are free values (R252, log 95). -/
def State.completeMove (s : State) (i : Nat) : State :=
  match s.tier.moves.find? fun m => m.page == i with
  | none => s
  | some m =>
    if (List.range 8).any fun a => (s.dma a).runs.any fun r => r.page == some i then s
    else
    let e := s.ott i
    let src := if m.fill then frameAddr (frameWell (ottHome e)) else ottAddr e
    let dst := frameAddr (frameT1 m.frame)
    let (s0, on) := s.wakeAll [memDomain src, memDomain dst]
    if !on then s0
    else
      let (s1, go) := s0.issueMove m
      if !go then s1
      else
        let (s2, bad, lost) := s1.meetMove m src
        if lost then s2.loseLine i
        else
          let fromWell := !bad.isEmpty && ottPlace e == 2
          let s3 := s2.copyPage (if fromWell then frameAddr (frameWell (ottHome e)) else src) dst
          let s4 := if fromWell then s3 else bad.foldl (fun s w =>
            let (d, t) := s.takeBytes 8
            t.store (dst + 8 * w - src) d) s3
          let s5 := { s4 with tier := { s4.tier with moves := s4.tier.moves.filter fun x => x.page != i } }
          let e1 := setField (setField e 9 1 0) 12 13 m.frame
          let s6 := if m.fill then (s5.setOtt i (setField e1 8 1 1)).stampPage i
            else (s5.dirtyFrame (frameT1 (ottFrame e % 1024))).setOtt i e1
          if s6.rdB .ott 0 Reg.Ott.C_GO && s6.rd .ott 0 Reg.Ott.CMD == 3 && s6.rd .ott 0 Reg.Ott.C_IDX == i then s6.ottDone 0 else s6

/-! ### Reads of agents other than a macro-operation -/

/-- The direct address behind an object address (R177). -/
def State.transAddr (s : State) (x : Nat) : Nat := ottAddr (s.ott ((x - transBase) / pageBytes)) + x % pageBytes

/-- The direct address behind any address of Table 7.1. -/
def State.addrOf (s : State) (x : Nat) : Nat := if x < transBase then x else s.transAddr x

/-- The pieces of n bytes at an address that lie in one page each: direct address and length (R177). -/
def State.pieces (s : State) (x n : Nat) : List (Nat × Nat) :=
  let cut := min n (pageBytes - x % pageBytes)
  if cut = n then [(s.addrOf x, n)] else [(s.addrOf x, cut), (s.addrOf (x + cut), n - cut)]

/-- The page with its cistern copy, or with its well frame, behind a direct address. -/
def State.pageOf (s : State) (addr : Nat) : Option Nat :=
  if addr < cisBase then none
  else (s.tier.ott.find? fun e => (ottFrames e.2).contains (pageFrame (addr / pageBytes))).map fun e => e.1

/-- Read n bytes at an address, at most a page of them: every read of a cistern copy is stamped (R196), and words that an upset has struck
are met (R249, R252). -/
def State.readAt (s : State) (x n : Nat) : State × List Byte :=
  (s.pieces x n).foldl (fun (acc : State × List Byte) q =>
    let (t, d) := acc.1.meetData q.1 q.2
    (t, acc.2 ++ d)) (s.stampAll ((s.pieces x n).filterMap fun q => if wellBase ≤ q.1 then none else s.pageOf q.1), [])

/-- What a line's read meets (R194, R241, R249, R252): the state, the fault if any, and the data. A lost line of the well sets its
page BAD; a lost line of a RES copy drops the copy, refills it, and is served from the well; a lost line of another SRAM page
counts, and its data is a free value. -/
def State.readLine (s : State) (x : Nat) (ev : Option LineEvent) : State × Option Nat × List Byte :=
  let addr := s.addrOf x
  if wellBase ≤ addr then
    let (s1, lost) := s.meetLine ((addr - wellBase) / 64) ev
    if lost then (match s1.pageOf addr with
      | some i => s1.loseLine i
      | none => s1, some 7, [])
    else
      let (s2, d) := s1.readAt x 64
      (s2, none, d)
  else
    let (s1, d) := s.readAt x 64
    match ev with
    | none => (s1, none, d)
    | some .corrected => (s1.errCount (errPage addr) 0 0 1, none, d)
    | some (.retried _) => (s1, none, d)
    | some _ =>
      let s2 := s1.errCount (errPage addr) 0 1 1
      match s2.pageOf addr with
      | some i => if ottPlace (s2.ott i) = 2 then (s2.refill i, none, d) else
        let (f, s3) := s2.takeBytes 64
        (s3, none, f)
      | none =>
        let (f, s3) := s2.takeBytes 64
        (s3, none, f)

/-! ### DMA descriptors (R190, R191, Table 7.5) -/

/-- A DMA descriptor (Table 7.5). -/
structure DmaDesc where
  src : Nat := 0
  dst : Nat := 0
  rowBytes : Nat := 0
  mode : Nat := 0
  rows : Nat := 1
  srcPitch : Nat := 0
  dstPitch : Nat := 0
  waitTally : Nat := 0
  waitEn : Bool := false
  sigEn : Bool := false
  sigTally : Nat := 0
  bad : Bool := false
deriving DecidableEq, Repr

/-- Decode the 32 bytes of a descriptor; bad says DESC_BAD of Table 7.7. -/
def decodeDma (b : List Byte) : DmaDesc :=
  let w := fun o => leAt b o 4
  let src := leAt b 0 8
  let dst := leAt b 8 8
  { src := field src 0 40, dst := field dst 0 40, rowBytes := field (w 0x10) 0 24, mode := field (w 0x10) 24 2,
    rows := field (w 0x14) 0 16 + 1, srcPitch := 64 * field (w 0x18) 0 16, dstPitch := 64 * field (w 0x18) 16 16,
    waitTally := field (w 0x1C) 0 13, waitEn := bitAt (w 0x1C) 13, sigEn := bitAt (w 0x1C) 14, sigTally := field (w 0x1C) 16 13,
    bad := field src 40 24 != 0 || field dst 40 24 != 0 || field (w 0x10) 26 6 != 0 || field (w 0x14) 16 16 != 0 ||
      bitAt (w 0x1C) 15 || field (w 0x1C) 29 3 != 0 || decide (1 < field (w 0x10) 24 2) ||
      field (w 0x10) 0 24 % 64 != 0 || field (w 0x10) 0 24 == 0 }

/-- The descriptor at DPC (R191), or none where its bytes do not all lie within the populated local store. -/
def State.dmaDesc (s : State) (a ctx : Nat) : Option DmaDesc :=
  let p := Page.dma a
  let off := 32 * s.rd p ctx Reg.Dma.LIST_BASE + 32 * s.rd p ctx Reg.Dma.DPC
  if off + 32 ≤ t0Frames a * pageBytes then some (decodeDma (s.bytes (t0Base a + off) 32)) else none

/-- Source and destination addresses of line n of a COPY. -/
def DmaDesc.line (d : DmaDesc) (n : Nat) : Nat × Nat :=
  let per := d.rowBytes / 64
  (d.src + n / per * d.srcPitch + n % per * 64, d.dst + n / per * d.dstPitch + n % per * 64)

/-- Whether a domain holds memory that a DMA transaction in flight, or a page copy in progress, reads or writes (R319). -/
def State.trafficTo (s : State) (d : Nat) : Bool :=
  let at_ := fun (x : Nat) => memDomain (s.transAddr x) == d
  ((List.range 8).any fun a => (s.dma a).runs.any fun r => !r.fill && match s.dmaDesc a r.ctx with
    | some q => (List.range r.flight).any fun k => at_ (q.line (r.line - 1 - k)).1 || at_ (q.line (r.line - 1 - k)).2
    | none => false) ||
  s.tier.moves.any fun m => m.frame / 128 + 10 == d || at_ (transBase + m.page * pageBytes)

end Sys2Proof.Machine
end

