-- ==== Sys2Proof/Machine/MacroOps.lean ====
section
/-! DEFINITION. The sequencer (R88 to R97, R113, R149, R153, R205 to R208, R251): when a macro-operation starts, what its run
leaves, and its completion record; and the ten tensor macro-operations as commands. -/

namespace Sys2Proof.Machine

/-! ### Start -/

/-- The descriptor at PC of a context: in the array's own T0 window (R148, Table 6.5). -/
def State.descAt (s : State) (a ctx : Nat) : Desc :=
  let p := Page.ma a
  decodeDesc (s.bytes (t0Base a + 64 * s.rd p ctx Reg.Ma.SCHED_BASE + 64 * s.rd p ctx Reg.Ma.PC) 64)

/-- The completion ring is full (R96). -/
def State.ringFull (s : State) (a ctx : Nat) : Bool :=
  let p := Page.ma a
  (s.rd p ctx Reg.Ma.CMPL_WR + 1) % s.rd p ctx Reg.Ma.CMPL_LEN == s.rd p ctx Reg.Ma.CMPL_RD

/-- The context whose macro-operation the sequencer may start now (R15, R88, R95, R96): it is RUNNING, nothing of the array is
in flight, its completion ring has room, the operating point has settled, and the array's domain is ON. -/
def State.atStart (s : State) (a : Nat) : Option Nat :=
  match s.runCtx a with
  | none => none
  | some ctx =>
    if s.st (.ma a) ctx == 1 && (s.arr a).mop.isNone && !(s.arr a).oppSettling && !s.ringFull a ctx && s.domOn (arrDomain a)
    then some ctx else none

/-- Physical tally of an image-relative index (R155). -/
def State.physTally (s : State) (a ctx t : Nat) : Nat := s.rd (.ma a) ctx Reg.Ma.TALLY_BASE + t

/-- Mark of a context in `released`: ctx once its tally has released it, ctx + 8 once that gate is passed. -/
def State.markPassed (s : State) (a ctx : Nat) : State :=
  s.modArr a fun x => { x with released := insAsc (ctx + 8) (x.released.filter fun c => c != ctx) }

/-- The wait of WAIT_EN (R89, R153): it begins once, and the gate opens when the tally releases it. -/
def State.waitGate (s : State) (a ctx : Nat) (d : Desc) : State × Bool :=
  let marks := fun (s : State) => (s.arr a).released
  if !d.waitEn || (marks s).contains (ctx + 8) then (s, true)
  else if (marks s).contains ctx then (s.markPassed a ctx, true)
  else if s.waiters.any fun w => w.arr == a && !w.dma && w.ctx == ctx then (s, false)
  else
    let s1 := s.beginWait a false ctx (s.physTally a ctx d.waitTally)
    if (marks s1).contains ctx then (s1.markPassed a ctx, true) else (s1, false)

/-- The gang that an image binds an array to, leader first; [a] for an array in none (R112). -/
def State.gangOf (s : State) (a ctx : Nat) : List Nat :=
  ((s.imageOf a ctx).gangs.find? fun g => g.contains a).getD [a]

/-- The macro-operation of a descriptor in its surroundings; the references TD_DO and TD_O of PAIR_BWD's record are read where its TD_PARAM
reaches it (Table 5.3). -/
def State.menv (s : State) (a ctx : Nat) (d : Desc) : MEnv :=
  let m : MEnv := { a := a, ctx := ctx, d := d, img := s.imageOf a ctx, chain := if d.gang = 0 then [a] else s.gangOf a ctx }
  match (if d.op = 0x11 then m.td d.tdParam else none) with
  | some t => if s.beyond m t then m else { m with more := [s.objNum t.obj (t.offset + 8) 2, s.objNum t.obj (t.offset + 10) 2] }
  | none => m

/-- The record that a descriptor's macro-operation will complete with, before its results are known. -/
def State.mopOf (s : State) (a ctx : Nat) (d : Desc) : Mop :=
  { ctx := ctx, opcode := d.op, tag := d.tag, irqDone := d.irqDone, costAc := d.cost, part := s.ctxPart a ctx,
    sig := if d.sigEn then some (s.physTally a ctx d.sigTally) else none }

/-- Put a macro-operation in flight: the marks of its gate go. -/
def State.putMop (s : State) (a ctx : Nat) (x : Mop) : State :=
  s.modArr a fun y =>
    { y with mop := some x, released := y.released.filter fun c => c % 8 != ctx, gangGo := y.gangGo.filter fun c => c != ctx }

/-- A fault found before any element is read: AC is 0 (Table 4.5a). Every member of a gang records it with its own descriptor's TAG and COST
(R113, R114). -/
def State.faultMop (s : State) (m : MEnv) (chain : List Nat) (code operand : Nat) : State :=
  chain.foldl (fun s b => s.putMop b m.ctx { s.mopOf b m.ctx (s.descAt b m.ctx) with fault := code, operand := operand }) s

/-- Domains that hold the pages of the macro-operation's tensors (R323). -/
def State.mopDomains (s : State) (m : MEnv) : List Nat :=
  (((m.tensors.flatMap fun t => s.memberTds m t.1 t.2) ++ m.subTds.map fun t => t.2).flatMap fun u => u.pages.map fun i =>
    memDomain (ottAddr (s.ott i))).eraseDups

/-- Everything before a macro-operation runs (R88, R89, R94, R113, R155, R323): the command has no effect unless the descriptor
at PC is one of its own; an unknown opcode faults under any of them. -/
def State.startMop (s : State) (a : Nat) (mine : Desc → Bool) (body : State → MEnv → State) : State :=
  match s.atStart a with
  | none => s
  | some ctx =>
    let d := s.descAt a ctx
    if opValid d.op && !mine d then s
    else
      let m := s.menv a ctx d
      if s.tallyRange m then s.faultMop m [a] 0x38 opNone
      else
        let (s1, go) := s.waitGate a ctx d
        if !go then s1
        else if decide (1 < m.chain.length) && !(s1.arr a).gangGo.contains ctx then s1
        else match s1.checkDesc m with
          | some (c, o) => s1.faultMop m m.chain c o
          | none =>
            let (s2, on) := s1.wakeAll (s1.mopDomains m)
            if on then body s2 m else s2

/-! ### End of a run -/

/-- What the damaged block or index of a page leads to (R205 to R207): the fault code, and the page that is refetched. -/
def State.weightFault (s : State) (i : Nat) : State × Nat × Option Nat :=
  match s.wellSource i with
  | none => (s, 0x3B, none)
  | some j =>
    if s.tier.refetched.contains j then ((s.setBad j).irq .ott (some (ottPart (s.ott j))) 2, 0x3B, none)
    else (s, 0x3A, some i)

/-- Number of 64-byte lines of memory in the ranges (object, first byte, last byte) that lie in pages that p takes. A line that several ranges
reach counts once (DESIGN CHOICE, log 94). -/
def State.linesIn (s : State) (p : Nat → Bool) (l : List (Nat × Nat × Nat)) : Nat :=
  ((l.flatMap fun r => (List.range (r.2.2 / 64 - r.2.1 / 64 + 1)).map fun k => (r.1, r.2.1 / 64 + k)).filter fun x =>
    p (s.ott (x.1 + x.2 * 64 / pageBytes))).eraseDups.length

/-- Bytes that an element's store writes: its own, or its whole block's where the tensor is compressed. -/
def elRange (t : TD) (x : OutEl) : Nat × Nat × Nat :=
  let o := t.rowOff x.i1 x.i2 x.i3
  if t.cmp = 0 then (x.obj, o + x.i0 * fmtBits t.fmt / 8, o + ((x.i0 + 1) * fmtBits t.fmt - 1) / 8)
  else (x.obj, o + x.i0 / 64 * t.blockBytes, o + (x.i0 / 64 + 1) * t.blockBytes - 1)

/-- 64-byte lines that written elements occupy in T1 (R221). -/
def State.t1Lines (s : State) (t : TD) (els : List OutEl) : Nat :=
  s.linesIn (fun e => ottPlace e == 1) (els.map (elRange t))

/-- Write the outputs of a run; lines that reach T1 count at the CIS weir (R222). -/
def State.putOut (s : State) (part : Option Nat) (out : List (TD × List OutEl)) : State :=
  out.foldl (fun s o =>
    let pages := (o.2.map fun e => e.obj).eraseDups.flatMap fun b => { o.1 with obj := b }.pages
    ((s.putEls o.1 o.2).wroteT0 pages).chargeWeir part 1 (s.t1Lines o.1 o.2)) s

/-- What storage errors do to the block whose words met them (R249, R251, R252): they count on the array's page, or on the page of the cistern
slice; an uncorrectable word of the array's own, met a second time, removes the slot. -/
def State.storeErrors (s : State) (b : Nat) (env : MopEnv) (fault : Nat) : State :=
  let p := match env.slice with
    | some n => Page.cis n
    | none => Page.ma b
  let s1 := if env.corr = 0 then s else s.errCount p 0 0 env.corr
  match env.ue with
  | some (_, w) =>
    if fault ≠ 0x3D then s1
    else
      let s2 := s1.errCount p 0 1 1
      if env.slice.isSome then s2
      else if (s2.arr b).ueWords.contains w then s2.removeSlot b 4
      else s2.modArr b fun x => { x with ueWords := insAsc w x.ueWords }
  | none => s1

/-- What is met of a RES copy does not fault (R252): an uncorrectable word of one among the pages that the macro-operation reads drops and
refills the copy and counts in ERR_CNT1 of its slice. The word of a slice is counted from the slice's start. -/
def State.resError (s : State) (pages : List Nat) (env : MopEnv) : State × MopEnv :=
  match env.slice, env.ue with
  | some n, some (_, w) =>
    let f := 128 * n + w / 8192
    match pages.find? fun i => ottValid (s.ott i) && ottPlace (s.ott i) == 2 && ottRes (s.ott i) && ottFrame (s.ott i) % 1024 == f with
    | some i => ((s.errCount (.cis n) 0 1 1).refill i, { env with ue := none })
    | none => (s, env)
  | _, _ => (s, env)

/-- What a macro-operation without a row of its own for storage errors meets in the spans that it reads (R249, R252): corrected words count, and
the first word with more wrong bits is an uncorrectable word of the array's store or of a cistern slice. -/
def State.upsetEnv (s : State) (spans : List (Nat × Nat)) : State × MopEnv :=
  let (s1, bad) := s.meetWords spans
  (s1, { mism := [], corr := 0, slice := (bad.head?.filter fun w => decide (cisBase ≤ 8 * w)).map fun w => (8 * w - cisBase) / 0x800000 % 8,
         ue := bad.head?.map fun w => (0, if cisBase ≤ 8 * w then w % 2 ^ 20 else w % 2 ^ 22) })

/-- The accumulator file after a run (R69): rows zeroed, then words left. -/
def leaveAcc (clr : List Nat) (words : List (Nat × AccVal)) (old : SMap AccWord) : SMap AccWord :=
  words.foldl (fun t w => SMap.set {} t w.1 (AccWord.mk w.2.v w.2.clamp)) (SMap.erase (fun k => clr.contains (k / 256)) old)

/-- One member of the run: its own replays and counters, its registers, and the macro-operation that completes later. The statistics are those
of its own columns, the leader's those of all (R114); the output tensor's counts and N_out, on every member, are the whole tensor's (log 18). -/
def State.endMember (s : State) (m : MEnv) (b : Nat) (env : MopEnv) (r own : MRes) (fault ac : Nat) (crc : Option Nat) : State :=
  let p := Page.ma b
  let part := s.ctxPart b m.ctx
  let k := m.chain.idxOf b
  let cnt := ((r.cnts.filter fun c => c.1 == k).map fun c => c.2).foldl Cnt.add {}
  let s0 := (s.addCnt b m.ctx cnt).count p m.ctx Reg.Ma.STATE_SAT Reg.Ma.STATE_SAT_SAT (nth 0 r.limited k)
  let s1 := r.prev.foldl (fun s t => s.noteTensor b m.ctx t.1 t.2.1 t.2.2 part) (s0.noteReplay b m.ctx own.mism own.replayAc part)
  let missed := r.prev.any fun t =>
    let x := scaleMiss (s.rd p m.ctx Reg.Ma.MISS_FRAC) t.1 t.2.1 t.2.2
    x.1 || x.2
  let mine := r.residues.filter fun v => v.1 == k
  let s2 := s1.modArr b fun x =>
    { x with stats := (statsOf (if k = 0 then r.stats else r.stats.filter fun v => v.mem == k)).foldl
               (fun t v => SMap.set (0, 0) t v.1 v.2) x.stats,
             acc := leaveAcc ((r.clr.filter fun c => c.1 == k).map fun c => c.2) ((r.acc.filter fun w => w.1 == k).map fun w => w.2) x.acc,
             residues := if mine.isEmpty then x.residues else mine.foldl (fun t v => SMap.set (0, 0) t v.2.1 v.2.2) [] }
  let old := ((s2.arr b).mop).getD {}
  let s3 := s2.putMop b m.ctx
    { s2.mopOf b m.ctx m.d with
        fault := fault, operand := if fault = 0 then opNone else r.operand, tile := r.tile, ac := ac + old.ac, satCnt := r.sat,
        flushCnt := r.flush, nOut := if fault = 0 then r.nOut else 0, missed := missed, replays := own.replays, crcPage := crc,
        gang := old.gang, timingDev := old.timingDev }
  let s4 := if m.d.op = 0x14 then (s3.wr p m.ctx Reg.Ma.RECUR_VALID 1).wr p m.ctx Reg.Ma.RECUR_ID (m.d.os 0 16 16)
    else if [0x01, 0x02, 0x03, 0x10, 0x11, 0x12, 0x13].contains m.d.op then s3.wr p m.ctx Reg.Ma.RECUR_VALID 0
    else s3
  let s5 := s4.storeErrors b env fault
  if fault = 0x28 ∧ env.mism.any (fun x => decide (3 ≤ x.2)) then s5.removeSlot b 3 else s5

/-! ### Overlapping tensors (R90) -/

/-- Direct spans, start and end, of the bytes of a tensor's rows, page by page. -/
def State.spans (s : State) (t : TD) : List (Nat × Nat) :=
  (List.range t.d3).flatMap fun i3 => (List.range t.d2).flatMap fun i2 => (List.range t.d1).flatMap fun i1 =>
    let lo := t.rowOff i1 i2 i3
    let hi := lo + t.rowBytes
    (List.range ((hi - 1) / pageBytes + 1 - lo / pageBytes)).map fun k =>
      let p := lo / pageBytes + k
      let base := ottAddr (s.ott (t.obj + p))
      (base + (max lo (p * pageBytes) - p * pageBytes), base + (min hi ((p + 1) * pageBytes) - p * pageBytes))

/-- Whether two tensors share a byte. -/
def State.meet (s : State) (t u : TD) : Bool :=
  (s.spans t).any fun x => (s.spans u).any fun y => decide (x.1 < y.2) && decide (y.1 < x.2)

/-- Tensors that a macro-operation writes: its outputs, and the statistics of PAIR SOFTMAX (R126). -/
def State.writes (s : State) (m : MEnv) : List TD :=
  (m.outputs.flatMap fun p => s.memberTds m p.1 p.2) ++ (if m.d.op = 0x10 ∧ m.d.sub = 0 then [m.tdD m.d.tdStat] else [])

/-- Keys and values of the sequences of a DECODE, where its table's entries have them (R136). -/
def State.seqCaches (s : State) (m : MEnv) : List TD :=
  let d := m.d
  let k := m.tdD d.tdW
  let v := m.tdD d.tdW2
  (List.range (d.os 1 16 8 + 1)).flatMap fun b =>
    let (len, ko, vo) := s.seqEntry m b
    [d.keysOf k len ko, d.valuesOf v len vo]

/-- Tensors that it reads, with their block-scale arrays and side lists, but for the TD_A of an ELTWISE or MOVE/CONVERT that TD_OUT names
too, which is read before it is written; those of PAIR_BWD's record (Table 5.3) and the caches of DECODE's sequences among them. -/
def State.readsOf (s : State) (m : MEnv) : List TD :=
  let d := m.d
  let outs := m.outputs.map fun p => p.1
  let ins := m.tensors.filter fun p => !outs.contains p.1 && !(d.op == 0x10 && p.1 == opNone && p.2 == m.tdD d.tdStat) &&
    !((d.op == 0x04 || d.op == 0x05) && p.1 == opA && d.tdOut == d.tdA)
  let subs := m.subTds.filterMap fun p => if outs.contains p.1 then none else some p.2
  let base := (ins.filter fun p => !(d.op == 0x13 && (p.1 == opW || p.2 == m.tdD m.d.tdW2))).flatMap fun p => s.memberTds m p.1 p.2
  base ++ subs ++ (if d.op = 0x13 then s.seqCaches m else [])

/-- Whether a tensor that the macro-operation writes shares a byte with another that it reads or writes (R90). -/
def State.overlaps (s : State) (m : MEnv) : Bool :=
  let w := s.writes m
  w.any (fun t => (s.readsOf m).any fun u => s.meet t u) ||
    w.zipIdx.any fun x => w.zipIdx.any fun y => decide (x.2 < y.2) && s.meet x.1 y.1

/-- Where tensors overlap the results are undefined (R90): every element written, the tensor's counts, its statistics, the accumulator words and
the count of limited state words are free values (log 2), and the macro-operation goes on. -/
def State.undefRun (s : State) (m : MEnv) (r : MRes) : MRes :=
  if !s.overlaps m then r
  else
    let f := fun k => Config.freeNat (s.free + r.frees + k)
    let code := fun (t : TD) k => f k % 2 ^ fmtBits t.fmt
    let nEl := sumNat (r.out.map fun o => o.2.length)
    { r with
        out := r.out.zipIdx.map fun o => (o.1.1, o.1.2.zipIdx.map fun x =>
          { x.1 with e := { code := code o.1.1 (5 * x.2 + o.2), v := (decodeCode o.1.1.fmt (code o.1.1 (5 * x.2 + o.2))).v } })
        sat := f 3, flush := f 4
        stats := r.stats.zipIdx.map fun x => { x.1 with top := (f (5 * x.2 + 3) : Int), sum := (f (5 * x.2 + 4) : Int) }
        acc := r.acc.zipIdx.map fun x => (x.1.1, x.1.2.1, { v := satInt 40 (f (5 * (nEl + r.stats.length + x.2) + 2)), clamp := false })
        limited := r.limited.zipIdx.map fun x => f (5 * (nEl + r.stats.length + x.2) + 3)
        frees := r.frees + 5 * (nEl + r.stats.length + r.acc.length + r.limited.length + 1) }

/-- Leave the results of a run: outputs, counters, and one macro-operation in flight on every member (R114). The cycle of a fault found in
mid-walk is a free value within the span that the walk leaves (log 9). -/
def State.endRun (s : State) (m : MEnv) (envs : List (Nat × MopEnv)) (r : MRes) (own : MopEnv → MRes) : State :=
  let part := s.ctxPart m.a m.ctx
  let r := s.undefRun m r
  let s1 := s.putOut part r.out
  let s2 := { s1 with free := s1.free + r.frees }
  let (s3, fault, crc) := match r.crcPage with
    | some i => if r.fault = 0x3A then s2.weightFault i else (s2, r.fault, none)
    | none => (s2, if r.fault = 0x3A then 0x3B else r.fault, none)
  let (ac, s4) := if r.acSpan = 0 then (r.ac, s3) else (let (v, s') := s3.takeFree; (r.ac + v % (r.acSpan + 1), s'))
  envs.foldl (fun s x => s.endMember m x.1 x.2 r (if envs.length = 1 then r else own x.2) fault ac crc) s4

/-- Happenings of a whole gang: for each tile the most mismatches of any member, and the first uncorrectable word. -/
def gangEnv (l : List MopEnv) : MopEnv :=
  let all := l.flatMap fun e => e.mism
  { mism := all.foldl (fun acc p => if acc.any fun q => q.1 == p.1 then
      acc.map fun q => if q.1 = p.1 then (q.1, max q.2 p.2) else q else acc ++ [p]) [],
    ue := (l.filterMap fun e => e.ue).foldl (fun b u => match b with
      | none => some u
      | some v => if u.1 < v.1 then some u else b) none,
    corr := 0 }

/-- Run a macro-operation on one array, or leave a gang member waiting until the last one arrives (R113, R114). -/
def State.runGang (s : State) (a : Nat) (m : MEnv) (env : MopEnv) (go : State → MEnv → List (Nat × MopEnv) → State) : State :=
  if m.chain.length ≤ 1 then go s m [(a, env)]
  else
    let s1 := s.putMop a m.ctx { s.mopOf a m.ctx m.d with gangWait := true, env := env, gang := m.chain }
    let mops := m.chain.map fun b => (b, (s1.arr b).mop)
    if mops.all fun x => match x.2 with
      | some y => y.gangWait && y.ctx == m.ctx
      | none => false
    then go s1 { m with a := m.chain.headD a } (mops.map fun x => (x.1, (x.2.map fun y => y.env).getD env))
    else s1

/-- A tensor macro-operation of one opcode, alone or in a gang. -/
def State.tensorOp (s : State) (a : Nat) (env : MopEnv) (op : Nat) (run : State → MEnv → MopEnv → MRes) : State :=
  s.startMop a (fun d => d.op == op) fun s m =>
    s.runGang a m env fun s m envs =>
      s.endRun m envs (run s m (gangEnv (envs.map fun x => x.2))) fun e => run s m e

/-! ### The ten tensor macro-operations -/

/-- MATMUL (R98). -/
def execMatmul (a : Nat) (env : MopEnv) (s : State) : Ans := .next (s.tensorOp a env 0x01 State.runMatmul)

/-- CONV (R104). -/
def execConv (a : Nat) (env : MopEnv) (s : State) : Ans := .next (s.tensorOp a env 0x02 State.runConv)

/-- POOL (R109). -/
def execPool (a : Nat) (env : MopEnv) (s : State) : Ans := .next (s.tensorOp a env 0x03 State.runPool)

/-- ELTWISE (R110). -/
def execEltwise (a : Nat) (env : MopEnv) (s : State) : Ans := .next (s.tensorOp a env 0x04 State.runEltwise)

/-- Bytes of the stored rows of a tensor as (object, first byte, last byte). -/
def TD.rowRanges (t : TD) : List (Nat × Nat × Nat) :=
  (List.range t.d3).flatMap fun i3 => (List.range t.d2).flatMap fun i2 => (List.range t.d1).map fun i1 =>
    (t.obj, t.rowOff i1 i2 i3, t.rowOff i1 i2 i3 + t.rowBytes - 1)

/-- What MOVE/CONVERT does before its run: reads of T1 pages stamp RES copies and count at the CIS weir (R196, R222), and an uncorrectable
word of a RES copy is served from the well (R252). -/
def State.moveStart (s : State) (m : MEnv) (env : MopEnv) : State :=
  let t := m.tdD m.d.tdA
  let s1 := (s.stampAll t.pages).chargeWeir (s.ctxPart m.a m.ctx) 1
    (s.linesIn (fun e => ottPlace e == 1 || (ottPlace e == 2 && ottRes e)) t.rowRanges)
  (s1.resError t.pages env).1

/-- The happenings that its run meets. -/
def State.moveEnv (s : State) (m : MEnv) (env : MopEnv) : MopEnv := (s.resError (m.tdD m.d.tdA).pages env).2

/-- MOVE/CONVERT (R111). -/
def execMoveConvert (a : Nat) (env : MopEnv) (s : State) : Ans :=
  .next (s.startMop a (fun d => d.op == 0x05) fun s m =>
    let e := s.moveEnv m env
    let s1 := s.moveStart m env
    s1.endRun m [(a, e)] (s1.runMove m e) fun e => s1.runMove m e)

/-- PAIR (R123): EMPTY_ROWS counts rows without a key (R142). -/
def execPair (a : Nat) (env : MopEnv) (s : State) : Ans :=
  .next (s.startMop a (fun d => d.op == 0x10) fun s m =>
    let (r, empties) := s.runPair m env
    (s.endRun m [(a, env)] r fun _ => r).count (.ma a) m.ctx Reg.Ma.EMPTY_ROWS Reg.Ma.EMPTY_ROWS_SAT empties)

/-- PAIR_BWD (R132). -/
def execPairBwd (a : Nat) (env : MopEnv) (s : State) : Ans := .next (s.tensorOp a env 0x11 State.runPairBwd)

/-- EXPAND (R134). -/
def execExpand (a : Nat) (env : MopEnv) (s : State) : Ans := .next (s.tensorOp a env 0x12 State.runMatmul)

/-- DECODE (R137). -/
def execDecode (a : Nat) (env : MopEnv) (s : State) : Ans :=
  .next (s.startMop a (fun d => d.op == 0x13) fun s m =>
    let (r, empties) := s.runDecode m env
    (s.endRun m [(a, env)] r fun _ => r).count (.ma a) m.ctx Reg.Ma.EMPTY_ROWS Reg.Ma.EMPTY_ROWS_SAT empties)

/-- RECUR (R139): the state words stay in the members' accumulator files, and each member's STATE_SAT counts its own (R142). -/
def execRecur (a : Nat) (env : MopEnv) (s : State) : Ans := .next (s.tensorOp a env 0x14 fun s m env => (s.runRecur m env).1)

/-! ### Gang start, refetch and completion -/

/-- Whether a gang member has reached its leader's macro-operation: at a start, at the matching position of its schedule, its gate open
(R113). -/
def State.reached (s : State) (leader b ctx : Nat) : Bool :=
  s.atStart b == some ctx && s.rd (.ma b) ctx Reg.Ma.PC == s.rd (.ma leader) ctx Reg.Ma.PC &&
    (!(s.descAt b ctx).waitEn || (s.arr b).released.contains (ctx + 8) || (s.arr b).released.contains ctx)

/-- GANG_BARRIER_START (R113): once every member has reached the gang macro-operation, the descriptors are compared, GANG is held
against the bound gang and the clocks against each other; the members may then run, or all fault with GANG. Where no member's descriptor at
that position has a GANG there is no gang macro-operation. -/
def execGangBarrierStart (leader : Nat) (s : State) : Ans :=
  .next (match s.atStart leader with
    | none => s
    | some ctx =>
      let chain := s.gangOf leader ctx
      let d := s.descAt leader ctx
      if chain.length ≤ 1 ∨ chain.head? ≠ some leader ∨ !(chain.all fun b => s.reached leader b ctx) then s
      else if chain.all fun b => (s.descAt b ctx).gang == 0 then s
      else
        let m : MEnv := { s.menv leader ctx d with chain := chain }
        let same := chain.all fun b => (s.descAt b ctx).raw == d.raw
        if !same || chain.length != d.gangSize ||
          chain.any fun b => s.rd (.ma b) 0 Reg.Ma.OPP_ACT != s.rd (.ma leader) 0 Reg.Ma.OPP_ACT
        then
          match s.checkDesc m with
          | some (c, o) => if same ∧ c < 9 then s.faultMop m chain c o else s.faultMop m chain 0x09 opNone
          | none => s.faultMop m chain 0x09 opNone
        else chain.foldl (fun s b => (if (s.descAt b ctx).waitEn then s.markPassed b ctx else s).modArr b fun x =>
          { x with gangGo := insAsc ctx x.gangGo }) s)

/-- Replace, in every array whose macro-operation waits for page i to be refetched, what it knows of the refetch. -/
def State.modRefetch (s : State) (i : Nat) (f : Mop → Mop) : State :=
  (List.range 9).foldl (fun s b => match (s.arr b).mop with
    | some y => if y.crcPage = some i then s.setArr b { s.arr b with mop := some (f y) } else s
    | none => s) s

/-- WEIGHT_REFETCH (R205): the 1,024 lines of the sealed well copy are read as far as the partition's weirs let them pass, and once all have
passed they rewrite the damaged frame; an uncorrectable well line sets BAD instead (R252). -/
def execWeightRefetch (a : Nat) (repaired : Bool) (s : State) : Ans :=
  .next (match (s.arr a).mop with
    | none => s
    | some x =>
      match x.crcPage with
      | none => s
      | some i =>
        match s.wellSource i with
        | none => s
        | some j =>
          let (s0, on) := s.wakeAll [21]
          if !on then s0
          else
            let ks := if ottPlace (s0.ott i) = 1 ∨ ottRes (s0.ott j) then [0, 1] else [0]
            let (s1, k) := s0.issueLines (ottPart (s0.ott j)) ks (1024 - x.refetchLine)
            if x.refetchLine + k < 1024 then s1.modRefetch i fun y => { y with refetchLine := x.refetchLine + k }
            else
              let (s2, lost) := s1.meetFrame (ottHome (s1.ott j))
              let s3 := if repaired && !lost then s2.refetch i j else if lost then s2.setBad j else (s2.setBad j).errCount .lpddr 0 1 1
              s3.modRefetch i fun y => { y with crcPage := none, refetchLine := 0 })

/-- The 32 bytes of a completion record (Table 4.5a). -/
def cmplRecord (x : Mop) (bySat byFlush : Bool) : List Byte :=
  leBytes 4 (x.tag % 65536 + x.fault % 256 * 65536 + x.opcode % 256 * 2 ^ 24) ++ leBytes 4 (min x.ac (2 ^ 32 - 1)) ++
  leBytes 4 (min x.satCnt (2 ^ 32 - 1)) ++ leBytes 4 (min x.flushCnt (2 ^ 32 - 1)) ++
  leBytes 4 (b2n (x.missed || bySat || byFlush) + 2 * b2n bySat + 4 * b2n byFlush + 8 * b2n x.timingDev + 16 * min x.replays 15) ++
  leBytes 4 (x.tile % 2 ^ 20 + x.operand % 16 * 2 ^ 20) ++ leBytes 4 x.costAc ++ leBytes 4 0

/-- Charge a macro-operation's cycles to its partition (R216, R219). -/
def State.chargeAc (s : State) (a : Nat) (p : Option Nat) (ac : Nat) : State :=
  match p with
  | none => s
  | some p => s.modArr a fun x =>
      { x with engineAc := SMap.set 0 x.engineAc p ((SMap.get 0 x.engineAc p + ac) % 2 ^ 64),
               eP := SMap.set 0 x.eP p (SMap.get 0 x.eP p + ac) }

/-- PC and PASSES after a macro-operation; the flag says that the schedule has ended (R149). After the end PC keeps the index
of the last descriptor (log 15). -/
def State.advancePc (s : State) (a ctx : Nat) : State × Bool :=
  let p := Page.ma a
  let pc := s.rd p ctx Reg.Ma.PC
  let n := s.rd p ctx Reg.Ma.SCHED_LEN
  if pc + 1 < n then (s.wr p ctx Reg.Ma.PC (pc + 1), false)
  else
    let s1 := s.countSat32 p ctx Reg.Ma.PASSES 1
    let start := s.rd p ctx Reg.Ma.LOOP_START
    let rep := s.rd p ctx Reg.Ma.REPEAT
    if start < n ∧ (rep = 0 ∨ s1.rd p ctx Reg.Ma.PASSES < rep) then (s1.wr p ctx Reg.Ma.PC start, false) else (s1, true)

/-- Whether a macro-operation in flight may complete: a gang member has run, a refetch has been made (R205), and a LIFT's raises
have been taken (R328). -/
def State.mayComplete (s : State) (a : Nat) (x : Mop) : Bool :=
  !x.gangWait && x.crcPage.isNone && !(s.power.raises.any fun r => r.origin == a)

/-- MACRO_OP_COMPLETE (R78, R89, R95, R149, R219): the record is written, the registers of Table 3.5 take the tensor's counts,
interrupts set, the cycles are charged, the tally is signalled; then the page faults, stops, or goes on. -/
def execMacroOpComplete (a : Nat) (s : State) : Ans :=
  .next (match (s.arr a).mop with
    | none => s
    | some x =>
      if !s.mayComplete a x then s
      else
        let p := Page.ma a
        let ctx := x.ctx
        let part := x.part
        let (bs, bf) := if x.fault = 0 then scaleMiss (s.rd p ctx Reg.Ma.MISS_FRAC) x.satCnt x.flushCnt x.nOut else (false, false)
        let wr := s.rd p ctx Reg.Ma.CMPL_WR
        let s1 := s.store (t0Base a + 32 * s.rd p ctx Reg.Ma.CMPL_BASE + 32 * wr) (cmplRecord x bs bf)
        let s2 := s1.wr p ctx Reg.Ma.CMPL_WR ((wr + 1) % s.rd p ctx Reg.Ma.CMPL_LEN)
        let s3 := if x.nOut = 0 then s2 else s2.noteTensor a ctx x.satCnt x.flushCnt x.nOut part
        let s4 := if x.irqDone then s3.irq p part 10 else s3
        let s5 := s4.chargeAc a part x.ac
        let s6 := s5.modArr a fun y => { y with mop := none, turn := none, last := some ctx }
        let s7 :=
          if x.fault ≠ 0 then ((s6.irq p part 11).wr p ctx Reg.Hdr.STOP_REQ 0).setSt p ctx 3
          else
            let sa := match x.opSig with
              | some (i, inc) => s6.signalTally i inc
              | none => s6
            let sb := match x.sig with
              | some i => sa.signalTally i 1
              | none => sa
            let (sc, ended) := sb.advancePc a ctx
            let sd := if ended then sc.irq p part 12 else sc
            let dozed := x.dozeStop && !sd.domOn (arrDomain a)
            let se := if dozed && !ended && sd.st p ctx == 1 then
                sd.setDom (arrDomain a) { sd.dom (arrDomain a) with dozed := some ctx } else sd
            if ended || dozed || sd.st p ctx == 2 then se.enterStopped p ctx else se
        s7.applyOpp a)

end Sys2Proof.Machine
end

