-- ==== Sys2Proof/Machine/Power.lean ====
section
/-! DEFINITION. Power domains (R309 to R325): the PWR register, entry and its refusals, OFF and RETENTION, readiness, and
sequenced drops. -/

namespace Sys2Proof.Machine

/-! ### What a domain loses -/

/-- The pages whose registers a domain holds (Table 1.1); the AUDIO page stays in AON (R314). -/
def domainPages (d : Nat) : List Page := allPages.filter fun p => p.domain == d && p != .audio && d != 0

/-- Offsets of a page that the loss of power of the page's domain clears: all but the operating points (R423), R390's registers, and the
group and binning registers (Table 12.1). -/
def lostOffset (p : Page) (off : Nat) : Bool :=
  match p with
  | .ma _ => !(decide (0x100 ≤ off) && decide (off < 0x180))
  | .hv => decide (0x200 ≤ off)
  | .isp _ => !csiphyOff off
  | _ => true

/-- Return the registers of a page at offsets of a kind to reset. -/
def State.clearRegs (s : State) (p : Page) (lost : Nat → Bool) : State :=
  let size := match p with
    | .ctx _ => 0x800
    | _ => 0x1000
  { s with regs := s.regs.filter fun e =>
      let addr := e.1 / 32 % 2 ^ 24
      !(decide (p.base ≤ addr) && decide (addr < p.base + size) && lost (addr - p.base)) }

/-- Return the registers of a page to reset, as loss of power does; its interrupts fall, but for those of the HV page, whose header AON
holds (R390). -/
def State.clearPage (s : State) (p : Page) : State :=
  let s1 := if p == .hv then s else (List.range 9).foldl (fun s fn => if s.rd p fn Reg.Hdr.IRQ_RAW = 0 then s else s.setRaw p fn 0) s
  s1.clearRegs p (lostOffset p)

/-- Direct address range of the memory that a domain holds (Table 7.1): base and length. -/
def domainMemory (d : Nat) : Nat × Nat :=
  if d = 1 then (t0Base 8, 16 * pageBytes)
  else if 2 ≤ d ∧ d < 10 then (t0Base (d - 2), 384 * pageBytes)
  else if 10 ≤ d ∧ d < 18 then (cisBase + (d - 10) * 0x800000, 0x800000)
  else if d = 21 then (wellBase, 2 ^ 36)
  else (0, 0)

/-- State inside an array that does not survive RETENTION (Table 12.1). -/
def State.retainArr (s : State) (a : Nat) : State := s.modArr a fun x => { x with stats := [], residues := [] }

/-- What RETENTION does not keep (R310, Table 12.1): an array's STATS and residue registers, the pipeline state of ISP and CSIPHY, the
registers of the PHY, PCIE and SEC pages, and what SEC holds beside keys, DRBG and ledger (log 82). The ledger keeps its place in HEAD, and a
full one shows in IRQ_RAW (R239). -/
def State.loseVolatile (s : State) (d : Nat) : State :=
  match domArray d with
  | some a => s.retainArr a
  | none =>
    if d = 18 ∨ d = 19 then
      { s with cams := { s.cams with
          ctx := s.cams.ctx.map fun c => if c.1 / 16 = d - 18 then (c.1, { ({} : CamS) with active := c.2.active }) else c } }
    else if d = 20 then { s with cams := { s.cams with opened := [], bin := none } }
    else if d = 21 then (s.clearPage .phy).wr .lpddr 0 Reg.Lpddr.SREF (s.rd .lpddr 0 Reg.Lpddr.CH_READY)
    else if d = 22 then
      let s1 := s.clearPage .pcie
      { s1 with ports := { s1.ports with link := .l12, hdXfer := [], hdLine := [], heldTlps := [] } }
    else if d = 24 then { s with audio := { s.audio with aoutCount := [] } }
    else if d = 26 then
      let s1 := ([Page.sec, Page.trng, Page.attest, Page.sealPage].foldl State.clearPage s).wr .sec 0 Reg.Sec.REKEY_DUE
        (s.rd .sec 0 Reg.Sec.REKEY_DUE)
      let s2 := s1.wr .sealPage 0 Reg.Seal.HEAD (s.rd .sealPage 0 Reg.Seal.HEAD)
      let s3 := if s.seals.ledger.length = 4096 then s2.irq .sealPage none 1 else s2
      { s3 with sec := { s3.sec with challenge := none, spdm := {} } }
    else s

/-- State inside an array that survives OFF: what the PART page and AON hold of it. -/
def State.clearArr (s : State) (a : Nat) : State :=
  let s1 := (s.ctxs a).foldl (fun s c => (s.dropWaits a false c).dropWaits a true c) s
  (s1.modArr a fun x =>
    { ({} : ArrayS) with eP := x.eP, wAct := x.wAct, engineAc := x.engineAc, ueWords := x.ueWords, oppWait := x.oppWait,
                         last := x.last }).setDma a {}

/-- Everything that OFF loses (R310, R320); REKEY_DUE follows the well counter, which the LPDDR domain holds (R345; log 85). -/
def State.losePower (s : State) (d : Nat) : State :=
  let s0 := if 10 ≤ d ∧ d < 18 then s.dropSlice (d - 10) else s
  let s1 := (domainPages d).foldl State.clearPage s0
  let (base, len) := domainMemory d
  let s2 := if len = 0 then s1 else s1.zero base len
  let s3 := match domArray d with
    | some a => s2.clearArr a
    | none => s2
  if d = 18 ∨ d = 19 then
    { s3 with cams := { s3.cams with ctx := s3.cams.ctx.filter fun c => c.1 / 16 != d - 18 } }
  else if d = 20 then
    { s3.clearRegs (.isp 0) csiphyOff with cams := { s3.cams with opened := [], deskewed := [], groups := [], bin := none } }
  else if d = 21 then
    let (k, s4) := s3.takeFree
    { s4.wr .sec 0 Reg.Sec.REKEY_DUE 0 with sec := { s4.sec with wellKey := k, wellCtr := 0, frameCtr := [] } }
  else if d = 23 then
    { s3 with ports := { s3.ports with ibi := [], uartRx := [], uartOverrun := false, uartCmd := [], sluice := [], nibbles := 0, drain := none } }
  else if d = 24 then { s3 with audio := { s3.audio with aoutCount := [] } }
  else if d = 25 then { s3 with panel := { s3.panel with pumps := false, phases := false } }
  else if d = 26 then
    State.grantSeals { s3.wr .sec 0 Reg.Sec.REKEY_DUE (s.rd .sec 0 Reg.Sec.REKEY_DUE) with
                         seals := { s3.seals with ledger := [] },
                         sec := { s3.sec with challenge := none, drbg := 0, generates := 0, valid := [], spdm := {} } }
  else s3

/-! ### Entry (R315 to R320) -/

/-- The wait of Table 12.3, as far as the device's own state shows it; the cores' WFI and the link's L1 are the environment's,
and the command stands for them. A page that runs from reset has nothing in flight between commands (log 19). -/
def State.waitHolds (s : State) (d : Nat) : Bool :=
  match domArray d with
  | some a => (s.ctxs a).all fun c => s.st (.ma a) c == 0
  | none =>
    if d = 18 ∨ d = 19 then (s.domPages d).all fun x => s.st x.1 x.2 == 0
    else if d = 20 then ((s.domPages d).all fun x => s.st x.1 x.2 == 0) && !s.rdB (.isp 0) 0 Reg.Isp.BIN_EN &&
      s.cams.groups.all fun g => !g.2.started
    else if d = 22 then s.ports.link == .up || s.ports.link == .l12
    else if d = 24 then !s.rdB .audio 0 Reg.Audio.HQ_EN && (List.range 2).all fun p => !s.rdB .aout 0 (Reg.Aout.EN p)
    else if d = 25 then !s.rdB .hv 0 Reg.Hv.BUSY
    else (s.domPages d).all fun x => s.st x.1 x.2 == 0

/-- The first reason of Table 12.5 for which step 1 refuses entry, or 0. ctx is the context of a DOZE that asks. -/
def State.refusal (s : State) (d target : Nat) (ctx : Option Nat) : Nat :=
  let arr := domArray d
  let outstanding := match arr with
    | some a => !(s.dma a).runs.isEmpty || s.trafficTo d
    | none => s.trafficTo d || (d == 22 && (!s.ports.heldTlps.isEmpty || s.ports.hdLine.any fun x => x.2 != 0)) ||
        (d == 23 && s.ports.drain.isSome)
  let waits := match arr with
    | some a => s.waiters.any fun w => w.arr == a
    | none => false
  let live := target == 2 &&
    ((decide (10 ≤ d ∧ d < 18) && decide ((s.sliceUse (d - 10)).2 < (s.sliceUse (d - 10)).1)) ||
     (d == 21 && s.tier.ott.any fun e => ottValid e.2 && (ottPlace e.2 == 2 || ottHomeV e.2)) ||
     (d == 26 && !s.seals.ledger.isEmpty))
  let other := match arr with
    | some a => (match s.assignOf a with
      | .shared l => l.any fun c => ctx != some c && s.st (.ma a) c == 1
      | _ => false)
    | none => false
  if outstanding then 1 else if waits then 2 else if live then 3 else if other then 4
  else if d = 22 ∧ target = 2 then 5 else 0

/-- End of a sequenced drop (R322). -/
def State.seqEnd (s : State) (status held reason : Nat) : State :=
  let s1 := ((s.wr .power 0 Reg.Power.SEQ_STATUS status).wr .power 0 Reg.Power.SEQ_HELD held).wr .power 0 Reg.Power.SEQ_REASON reason
  ({ s1 with power := { s1.power with seq := none } }).irq .power none 1

/-- Whether a sequenced drop treats a domain now. -/
def State.seqHead (s : State) (d : Nat) : Bool := match s.power.seq with
  | some q => q.left.head? == some d
  | none => false

/-- Refuse an entry (R319). -/
def State.refuseEntry (s : State) (d code : Nat) : State :=
  let s1 := (s.setDom d { s.dom d with req := 0 }).count .power 0 (Reg.Power.REFUSALS d) (Reg.Power.REFUSALS_SAT d) 1
  let s2 := ((s1.wr .power 0 Reg.Power.LAST_REFUSER d).wr .power 0 Reg.Power.LAST_REASON code).irq .power none 0
  if s2.seqHead d then s2.seqEnd 3 d code else s2

/-- Step 1 of entry (Table 12.4): the refusal check; the flag says that entry goes on. -/
def State.entryStep1 (s : State) (d : Nat) (ctx : Option Nat) : State × Bool :=
  let x := s.dom d
  match s.refusal d x.req ctx with
  | 0 => (s.setDom d { x with st := .entering 1 x.req, dozed := none }, true)
  | code => (s.refuseEntry d code, false)

/-- Begin entry if REQ ≠ 0 and the wait holds (R315). -/
def State.tryEntry (s : State) (d : Nat) : State :=
  let x := s.dom d
  if x.st == .on && x.req != 0 && s.waitHolds d then (s.entryStep1 d none).1 else s

/-- Drop order of a sequence (R321). -/
def dropOrder : List Nat :=
  List.flatten [(List.range 8).map fun n => n + 2, [1, 18, 19, 20, 24, 25], (List.range 8).map fun n => n + 10, [26, 21]]

/-- Treat the next domain of a sequence (R321): REQ is written and its pages are asked to stop; domains that are not ON are
passed over (log 20). -/
def State.seqNext (s : State) : List Nat → State
  | [] => ({ s with power := { s.power with seq := none } }).seqEnd 2 0 0
  | d :: t =>
    if s.domOn d then
      let mode := s.rd .power 0 Reg.Power.SEQ_MODE
      let s1 := { s with power := { s.power with seq := some { left := d :: t, mode := mode } } }
      let s2 := s1.setDom d { s1.dom d with req := mode }
      ((s2.domPages d).foldl (fun s x => s.stopReq x.1 x.2) s2).tryEntry d
    else State.seqNext s t

/-- The supply-enable pins (R418). -/
def State.vmaEn (s : State) : Bool := (List.range 9).any fun i => (s.dom (i + 1)).st != .off
def State.lpEn (s : State) : Bool := (s.dom 21).st != .off

/-- Once a supply-enable pin is low, the board may remove the rail: a free choice (R418, log 2). -/
def State.railsMayGo (s : State) (d : Nat) : State :=
  if 1 ≤ d ∧ d < 10 ∧ !s.vmaEn then
    let (v, s1) := s.takeFree
    let gone := v % 2 == 1
    { (if gone then s1.wr .therm 0 Reg.Therm.VMA_MV 0 else s1) with supply := { s1.supply with vmaRemoved := gone } }
  else if d = 21 ∧ !s.lpEn then
    let (v, s1) := s.takeFree
    { s1 with supply := { s1.supply with lpRemoved := v % 2 == 1 } }
  else s

/-- Finish an entry (R310, R318, R320): the domain is in its state; a wake event met from step 4 on is followed now. -/
def State.finishEntry (s : State) (d target : Nat) : State :=
  let x := s.dom d
  let s1 := s.setDom d { x with st := if target = 2 then .off else .retention, wakeAfter := false }
  let s2 := if target = 2 then (s1.losePower d).railsMayGo d
    else s1.loseVolatile d
  let s3 := if x.wakeAfter then s2.wake d else s2
  match s3.power.seq with
  | some q => if q.left.head? = some d then s3.seqNext q.left.tail else s3
  | none => s3

/-- DOMAIN_ENTRY (R315, R318): step 1 once REQ ≠ 0 and the wait holds; each further command carries the entry through one
more step of Table 12.4 (log 21). An array's record is written before step 2 (R316). -/
def execDomainEntry (d : Nat) (s : State) : Ans :=
  .next (if d = 0 ∨ 26 < d then s
    else match (s.dom d).st with
      | .on => s.tryEntry d
      | .entering k target =>
        let busy := match domArray d with
          | some a => (s.arr a).mop.isSome
          | none => false
        if busy then s
        else if k < 5 then s.setDom d { s.dom d with st := .entering (k + 1) target, dozed := if k < 3 then (s.dom d).dozed else none }
        else s.finishEntry d target
      | _ => s)

/-- DOMAIN_WAKE (R323). -/
def execDomainWake (d : Nat) (s : State) : Ans := .next (s.wake d)

/-! ### Readiness (R311, R325) -/

/-- Whether the board has restored the rails that a domain needs (R418). -/
def State.railsOn (s : State) (d : Nat) : Bool :=
  if 1 ≤ d ∧ d < 10 then !s.supply.vmaRemoved else if d = 21 then !s.supply.lpRemoved else true

/-- A domain that wakes becomes ready (R311, R325): ON with REQ = 0, COLD after OFF, WAKE_NC; a main array comes up at the
point last requested and settles; LPDDR leaves self-refresh or trains. -/
def State.becomeReady (s : State) (d : Nat) : State :=
  let x := s.dom d
  match x.st with
  | .waking fromOff =>
    if s.power.rampWait.contains d || !s.railsOn d then s
    else
      let s1 := s.setDom d { x with st := .on, req := 0, cold := x.cold || fromOff }
      let s2 := s1.wr .power 0 (Reg.Power.WAKE_NC d) (min (ncOf (s.now - x.wakeAt)) (2 ^ 32 - 1))
      let s3 := if fromOff && decide (2 ≤ d ∧ d < 10) then { s2 with power := { s2.power with rampWait := s2.power.rampWait.tail } } else s2
      match domArray d with
      | some a =>
        if a = 8 then s3
        else
          let p := Page.ma a
          let want := max (s3.rd p 0 Reg.Ma.OPP_REQ) (s3.minPoint a)
          let act := if s3.rdB p 0 Reg.Ma.THROTTLED then min want (s3.rd p 0 Reg.Ma.OPP_ACT) else want
          (s3.wr p 0 Reg.Ma.OPP_ACT act).modArr a fun y => { y with oppSettling := true, oppWait := none }
      | none =>
        if d = 21 then
          (s3.wr .lpddr 0 Reg.Lpddr.SREF 0).wr .lpddr 0 Reg.Lpddr.CH_READY (s3.rd .floor 0 Reg.Floor.CH_PRESENT)
        else if d = 22 then { s3 with ports := { s3.ports with link := .up } }
        else if d = 24 && s3.rdB .audio 0 Reg.Audio.HQ_EN then { s3 with audio := { s3.audio with hqReady := some s3.audio.sidx } }
        else s3
  | _ => s

/-! ### PWR and the sequence command -/

/-- Write of a page's PWR register (Table 12.2, R314, R315, R323): COLD clears on a written 1; REQ 3 is ignored; REQ 0 is a
wake event; another REQ begins entry at once where the wait already holds. AON ignores it. -/
def State.writePwr (s : State) (p : Page) (w : Nat) : State :=
  let d := p.domain
  if d = 0 then s
  else
    let s1 := if bitAt w 7 then s.setDom d { s.dom d with cold := false } else s
    match field w 0 2 with
    | 3 => s1
    | 0 => (s1.setDom d { s1.dom d with req := 0 }).wake d
    | r =>
      let s2 := s1.setDom d { s1.dom d with req := r }
      if d = 22 ∨ d = 23 then s2 else s2.tryEntry d

/-- The write of 0x104 of the POWER page (R321, R334). -/
def State.seqCmd (s : State) (w : Nat) : State :=
  if s.rd .power 0 Reg.Power.SEQ_STATUS = 1 then s
  else
    let mode := field w 0 2
    let s1 := s.wr .power 0 Reg.Power.SEQ_MODE mode
    if !bitAt w 31 then s1
    else
      let mask := s1.rd .power 0 Reg.Power.SEQ_MASK
      if bitAt mask 0 || bitAt mask 22 || bitAt mask 23 || mode == 0 || mode == 3 then s1.errCount .power 0 0 1
      else
        let s2 := ((s1.wr .power 0 Reg.Power.SEQ_STATUS 1).wr .power 0 Reg.Power.SEQ_HELD 0).wr .power 0 Reg.Power.SEQ_REASON 0
        s2.seqNext (dropOrder.filter fun d => bitAt mask d)

/-- SEQ_TIMEOUT (R322): a sequence whose domain still waits ends HELD_OUT with TIMEOUT. -/
def execSeqTimeout (s : State) : Ans :=
  .next (match s.power.seq with
    | some q =>
      match q.left.head? with
      | some d => if s.domOn d then (s.setDom d { s.dom d with req := 0 }).seqEnd 3 d 6 else s
      | none => s
    | none => s)

end Sys2Proof.Machine
end

