-- ==== Sys2Proof/Machine/SystemOps.lean ====
section
/-! DEFINITION. The macro-operations that act on the machine around the arrays: TALLY (R156), LIFT (R327), SEAL (R235 to R238)
and DOZE (R316, R317). -/

namespace Sys2Proof.Machine

/-! ### TALLY -/

/-- TALLY with SUBOP 0 (R156): its signal leaves at completion. A reserved SUBOP faults here. -/
def execTallySignalOp (a : Nat) (s : State) : Ans :=
  .next (s.startMop a (fun d => d.op == 0x20 && d.sub != 1) fun s m =>
    s.putMop a m.ctx { s.mopOf a m.ctx m.d with
      ac := 16, opSig := some (s.physTally a m.ctx (m.d.os 0 0 13), max 1 (m.d.os 0 16 16)) })

/-- TALLY with SUBOP 1 (R153, R156): after its own gate the array waits on the operand's tally, and the macro-operation completes
once that tally releases it. -/
def execTallyWaitOp (a : Nat) (s : State) : Ans :=
  .next (s.startMop a (fun d => d.op == 0x20 && d.sub == 1) fun s m =>
    let go := fun (s : State) => s.putMop a m.ctx { s.mopOf a m.ctx m.d with ac := 16 }
    if (s.arr a).released.contains m.ctx then go s
    else if s.waiters.any fun w => w.arr == a && !w.dma && w.ctx == m.ctx then s
    else
      let s1 := s.beginWait a false m.ctx (s.physTally a m.ctx (m.d.os 0 0 13))
      if (s1.arr a).released.contains m.ctx then go s1 else s1)

/-! ### LIFT -/

/-- Order of the raises of one moment (R328): detector events in DET_EVT order, then arrays in order, then ascending i. -/
def Raise.rank (r : Raise) : Nat := if r.origin = 15 then (setBits r.events 5).headD 0 else 16 + r.origin * 128 + r.index

/-- Put a raise behind those that were raised before it (R328). -/
def insRaise (r : Raise) : List Raise → List Raise
  | [] => [r]
  | q :: t => if r.ts < q.ts ∨ (r.ts = q.ts ∧ r.rank < q.rank) then r :: q :: t else q :: insRaise r t

/-- Raise a lift record: it is held where 16 lifts are in progress or raised before it (R328). -/
def State.raise (s : State) (r : Raise) : State :=
  let full := decide (16 ≤ s.power.lifts.length + s.power.raises.length)
  { s with power := { s.power with raises := insRaise { r with ts := s.now, held := full } s.power.raises } }

/-- Raise the record that event e of the block close sidx names (R302, R326): the events of one close are presented together, and those
that name one record raise one lift, whose EVENTS holds them all (log 84). -/
def State.raiseEvent (s : State) (e sidx : Nat) : State :=
  let record := s.rd .liftPage 0 (Reg.Lift.RECORD e)
  let same : Raise → Bool := fun r => r.origin == 15 && r.sidx == sidx && r.record == record
  if !s.rdB .liftPage 0 (Reg.Lift.EN e) then s
  else if s.power.raises.any same then
    let joined := s.power.raises.map fun r => if same r = true then { r with events := or32 r.events (2 ^ e) } else r
    { s with power := { s.power with raises := joined } }
  else s.raise { record := record, events := 2 ^ e, origin := 15, sidx := sidx }

/-- Scores that pass: index and score (R327). -/
def State.passing (s : State) (tbase : Nat) (scores : List Int) : List (Nat × Int) :=
  (scores.zipIdx.map fun x => (tbase + x.2, x.1)).filter fun x =>
    s.rdB .liftPage 0 (Reg.Lift.THR_EN x.1) && decide (toInt 32 (s.rd .liftPage 0 (Reg.Lift.THRESH x.1)) ≤ x.2)

/-- What a storage error that a LIFT or a SEAL meets leaves (R249, R252): the macro-operation in flight faults with STORE_UE where a word was
uncorrectable, and the block counts. t is the macro-operation's own duration: the cycle of a fault is a free value within it (log 77). -/
def State.readFault (s : State) (m : MEnv) (env : MopEnv) (code operand t : Nat) : State :=
  let (v, s1) := s.takeFree
  (s1.putMop m.a m.ctx { s1.mopOf m.a m.ctx m.d with fault := code, operand := operand, ac := v % (t + 1) }).storeErrors m.a env code

/-- LIFT (R327): every passing score raises its record, or only the lowest passing one with FIRST = 1. INDEX is the score's
index i. -/
def execLift (a : Nat) (s : State) : Ans :=
  .next (s.startMop a (fun d => d.op == 0x21) fun s m =>
    let d := m.d
    let t := m.tdD d.tdA
    let z := if t.fmt = 0xE then 0 else d.za
    let p := s.port m t [s.cellsAt m t t.obj 0 0 0]
    let ac := 16 + t.d0
    let (su, met) := (s.stampAll t.pages).upsetEnv (s.spans t)
    let (sr, env) := su.resError t.pages met
    let s0 := sr.addCnt a m.ctx p.cnt
    match p.faults.head?, env.ue with
    | some f, _ => s0.readFault m env f.code opA ac
    | none, some _ => s0.readFault m env 0x3D opNone ac
    | none, none =>
      let scores := (nth [] p.els 0).map fun e => rhe e.v - z
      let tb := d.os 0 0 7
      let hits := s0.passing tb scores
      let chosen := if d.os 0 7 1 = 1 then hits.take 1 else hits
      let s1 := chosen.foldl (fun s x => s.raise
        { record := s.rd .liftPage 0 (Reg.Lift.THR_RECORD x.1), score := x.2, index := x.1 - tb, origin := a,
          sidx := s.audio.dueSidx }) s0
      s1.putMop a m.ctx { s1.mopOf a m.ctx d with ac := ac })

/-! ### SEAL -/

/-- Bytes of one stored row of a tensor, its pad bits 0 (R28, Table 9.1); a compressed tensor's rows are taken as stored. -/
def State.sealRow (s : State) (t : TD) (i1 i2 i3 : Nat) : List Byte :=
  let l := s.objBytes t.obj (t.rowOff i1 i2 i3) t.rowBytes
  if t.cmp ≠ 0 ∨ fmtBits t.fmt * t.d0 % 8 = 0 then l
  else l.take (l.length - 1) ++ leBytes 1 ((l.getLastD 0).toNat % 2 ^ (fmtBits t.fmt * t.d0 % 8))

/-- Rows of a tensor in descriptor order. -/
def State.sealBytes (s : State) (t : TD) : List Byte :=
  (List.range t.d3).flatMap fun i3 => (List.range t.d2).flatMap fun i2 => (List.range t.d1).flatMap fun i1 => s.sealRow t i1 i2 i3

/-- Bytes 0x00 to 0x8F of a seal record (Table 9.2). -/
def sealBody (img : Image) (outPresent : Bool) (dIn dOut : List Byte) : List Byte :=
  leBytes 4 (img.fpClass % 256 + img.arrays % 16 * 256 + img.variant % 8 * 4096 + b2n outPresent * 32768) ++ leBytes 4 0 ++
  leBytes 8 img.imageId ++ sliceBytes img.progDigest 0 32 ++ sliceBytes img.weightDigest 0 32 ++ dIn ++ dOut

/-- The logical number of an array in its image: 8 for the sentry (Table 9.2). -/
def logicalOf (img : Image) (a : Nat) : Nat := if a = 8 then 8 else img.bind.idxOf a

/-- AC of a SEAL that hashes n records and b bytes of output (R238). -/
def sealAc (b n fac : Nat) : Nat := 16 + ceilDiv (4 * (ceilDiv b 64 + ceilDiv (48 * n) 64 + 3) * fac) 1200

/-- Where a request stands in the order of R238: by its time, and at one time MA0 to MA7, then the sentry. -/
def insSeal (w : SealWait) : List SealWait → List SealWait
  | [] => [w]
  | q :: t => if w.at_ < q.at_ ∨ (w.at_ = q.at_ ∧ w.arr < q.arr) then w :: q :: t else q :: insSeal w t

/-- A SEAL that waits for a ledger entry (R237): it counts in STALLED_OPS once. -/
def State.stallSeal (s : State) (a : Nat) : State :=
  if s.seals.waiters.any fun w => w.arr == a then s
  else
    let s1 := s.count .sealPage 0 Reg.Seal.STALLED_OPS Reg.Seal.STALLED_OPS_SAT 1
    { s1 with seals := { s1.seals with waiters := insSeal { arr := a, at_ := s1.now, since := s1.now } s1.seals.waiters } }

/-- Whether a SEAL of an array has an entry: one that it waited for, or a free one that no earlier request waits for (R237, R238). -/
def State.sealEntry (s : State) (a : Nat) : Bool :=
  match s.seals.waiters.find? fun w => w.arr == a with
  | some w => w.got && decide (s.seals.ledger.length < 4096)
  | none => decide (s.seals.ledger.length + s.seals.waiters.length < 4096)

/-- Append a record to the ledger: the sequence number and the timestamp are those of the append (R236, R238, R239). -/
def State.appendSeal (s : State) (body : List Byte) (part logical tag : Nat) : State :=
  let r := body ++ sha256 body ++ leBytes 4 s.seals.seq ++ leBytes 4 (part % 8 + logical % 16 * 8 + tag % 65536 * 65536) ++
    leBytes 8 s.now
  let s1 := { s with seals := { s.seals with ledger := s.seals.ledger ++ [r], seq := (s.seals.seq + 1) % 2 ^ 32 } }
  let s2 := s1.irq .sealPage none 0
  if 4096 ≤ s2.seals.ledger.length then s2.irq .sealPage none 1 else s2

/-- SEAL (R232, R235 to R238): a ledger entry is reserved first, in the order of the requests; a SEAL that finds none free waits. -/
def execSealOp (a : Nat) (s : State) : Ans :=
  .next (s.startMop a (fun d => d.op == 0x22) fun s m =>
    let (s0, on) := s.wakeAll [26]
    if !on then s0
    else if !s0.sealEntry a then s0.stallSeal a
    else
      let d := m.d
      let ta := m.tdD d.tdA
      let tx := m.tdD d.tdAux
      let pages := (if d.tdA = 0 then [] else ta.pages) ++ (if d.tdAux = 0 then [] else tx.pages)
      let (su, met) := ((s0.unstallSeal a).stampAll pages).upsetEnv
        ((if d.tdA = 0 then [] else s0.spans ta) ++ (if d.tdAux = 0 then [] else s0.spans tx))
      let (s1, env) := su.resError pages met
      let ac := sealAc (if d.tdAux = 0 then 0 else tx.rows * tx.rowBytes) (if d.tdA = 0 then 0 else ta.d1) (s1.acMhz a)
      match (s1.badFaults m).head?, env.ue with
      | some f, _ => (s1.readFault m env f.code f.operand ac).grantSeals
      | none, some _ => (s1.readFault m env 0x3D opNone ac).grantSeals
      | none, none =>
        let din := sha256 (if d.tdA = 0 then [] else s1.sealBytes ta)
        let dout := if d.tdAux = 0 then List.replicate 32 0 else sha256 (s1.sealBytes tx)
        let s2 := (s1.appendSeal (sealBody m.img (d.tdAux != 0) din dout) m.ctx (logicalOf m.img a) d.tag).grantSeals
        s2.putMop a m.ctx { s2.mopOf a m.ctx d with ac := ac })

/-! ### DOZE -/

/-- DOZE (R316, R317): MODE writes REQ; with REQ = 0 nothing follows; otherwise step 1 of entry runs. A refusal lets the schedule
go on, but on a SHARED array with another context running the issuing context still stops. The duration of step 1 in AC is a free
value. -/
def execDoze (a : Nat) (s : State) : Ans :=
  .next (s.startMop a (fun d => d.op == 0x23) fun s m =>
    let dm := arrDomain a
    let mode := m.d.os 0 0 2
    let s1 := if mode = 0 then s else s.setDom dm { s.dom dm with req := mode }
    if (s1.dom dm).req = 0 then s1.putMop a m.ctx { s1.mopOf a m.ctx m.d with ac := 16 }
    else
      let other := s1.refusal dm (s1.dom dm).req (some m.ctx) == 4
      let (s2, ok) := s1.entryStep1 dm (some m.ctx)
      let (v, s3) := s2.takeFree
      let s4 := if other then s3.setSt (.ma a) m.ctx 2 else s3
      s4.putMop a m.ctx { s4.mopOf a m.ctx m.d with ac := 16 + v % 2 ^ 16, dozeStop := ok })

end Sys2Proof.Machine
end

