-- ==== Sys2Proof/Machine/Dma.lean ====
section
/-! DEFINITION. The DMA engines of the main arrays (R190 to R194, R220 to R222): fetch and checks of a descriptor, the lines of
COPY and FILL, faults, and the end of a descriptor. A command acts for one list context of one engine; while several contexts have
transactions ready it issues one line, in R220's turn. -/

namespace Sys2Proof.Machine

/-- Whether an object address lies in a direct window (Table 7.1, R176). -/
def isDirect (a : Nat) : Bool :=
  decide (a < 0x10100000) || (decide (cisBase ≤ a) && decide (a < cisBase + 0x4000000)) ||
    (decide (wellBase ≤ a) && decide (a < wellBase + 2 ^ 36))

/-- Fault of a DMA engine (R194): STATE = FAULT, IRQ_RAW bit 1, DMA_FAULT and FAULT_IDX; no signal. -/
def State.dmaFault (s : State) (a ctx code : Nat) : State :=
  let p := Page.dma a
  let s1 := s.setDma a { s.dma a with runs := (s.dma a).runs.filter fun r => r.ctx != ctx,
                                      released := (s.dma a).released.filter fun c => c != ctx }
  let s2 := ((s1.wr p ctx Reg.Dma.DMA_FAULT code).wr p ctx Reg.Dma.FAULT_IDX (s1.rd p ctx Reg.Dma.DPC)).setSt p ctx 3
  ((s2.wr p ctx Reg.Hdr.STOP_REQ 0).wr p ctx Reg.Dma.INFLIGHT 0).irq p (s2.ctxPart a ctx) 1

/-- The page that holds both ends of a 64-byte line, with the fault met: a read (wr = false) or a write of partition ctx through
the pages of the object that holds address base (Table 7.7). -/
def State.dmaEnd (s : State) (ctx base addr : Nat) (wr : Bool) : Option Nat :=
  if isDirect addr then some 5
  else
    let i0 := (base - transBase) / pageBytes
    let lim := i0 + ottRun (s.ott i0)
    let one := fun (x : Nat) =>
      let i := (x - transBase) / pageBytes
      let e := s.ott i
      if x < transBase ∨ 2 ^ 20 ≤ i ∨ !ottValid e ∨ lim ≤ i then some 2
      else if ottPart e ≠ ctx then some 3
      else if wr ∧ (!ottWr e ∨ ottPlace e = 2) then some 4
      else if ottBad e then some 6
      else none
    match one addr with
    | some c => some c
    | none => one (addr + 63)

/-- Whether an object address lies in an array's own T0 window. -/
def State.ownT0 (s : State) (a x : Nat) : Bool :=
  let e := s.ott ((x - transBase) / pageBytes)
  decide (transBase ≤ x) && ottValid e && ottPlace e == 0 && ottArr e == a

/-- Weirs that count a line (Table 8.3): 0 LPDDR, 1 CIS. -/
def State.lineWeirs (s : State) (x : Nat) : List Nat :=
  let e := s.ott ((x - transBase) / pageBytes)
  if ottPlace e = 2 ∧ !ottRes e then [0] else if ottPlace e = 0 then [] else [1]

/-- Issue a line to the weirs that count it: held by any of them, or one token from each (R221, R222). -/
def State.issueLine (s : State) (part : Option Nat) (ks : List Nat) : State × Bool :=
  match part with
  | none => (s, true)
  | some p =>
    let full := ks.filter fun k => s.weirHolds p k
    if full.isEmpty then (ks.foldl (fun s k => s.chargeWeir (some p) k 1) s, true)
    else (full.foldl (fun s k => s.holdWeir p k) s, false)

/-- Replace the run of a context; INFLIGHT shows its transactions in flight. -/
def State.putRun (s : State) (a : Nat) (r : DmaRun) : State :=
  (s.setDma a { s.dma a with runs := ((s.dma a).runs.filter fun x => x.ctx != r.ctx) ++ [r] }).wr (.dma a) r.ctx Reg.Dma.INFLIGHT r.flight

/-! ### Fetch -/

/-- The wait of a descriptor on its tally (R153, R191). -/
def State.dmaGate (s : State) (a ctx : Nat) (d : DmaDesc) : State × Bool :=
  if !d.waitEn || (s.dma a).released.contains ctx then (s, true)
  else if s.waiters.any fun w => w.arr == a && w.dma && w.ctx == ctx then (s, false)
  else
    let s1 := s.beginWait a true ctx d.waitTally
    (s1, (s1.dma a).released.contains ctx)

/-- A DMA command of one mode (R191): the descriptor at DPC is fetched and checked, waits, then transfers lines. -/
def State.dmaStart (s : State) (a ctx mode : Nat) (transfer : State → DmaDesc → DmaRun → State) : State :=
  let p := Page.dma a
  if !(s.ctxs a).contains ctx || !(s.st p ctx == 1 || s.st p ctx == 2) || !s.domOn (2 + a) then s
  else match (s.dma a).runs.find? fun r => r.ctx == ctx with
    | some r =>
      if r.done then s
      else match s.dmaDesc a ctx with
        | some d => if d.mode = mode then transfer s d r else s
        | none => s
    | none =>
      if s.st p ctx == 2 then s
      else match s.dmaDesc a ctx with
        | none => s.dmaFault a ctx 1
        | some d =>
          if d.bad then s.dmaFault a ctx 1
          else if d.mode ≠ mode then s
          else
            let (s1, go) := s.dmaGate a ctx d
            if !go then s1
            else
              let r : DmaRun := { ctx := ctx, fill := mode == 1 }
              let s2 := s1.setDma a { s1.dma a with released := (s1.dma a).released.filter fun c => c != ctx }
              transfer (s2.putRun a r) d r

/-! ### Transactions in flight (R192, R220, R253) -/

/-- The time for which the limit of R192 has held a context's issue counts in its STALL_NC, up to now. -/
def State.settleDma (s : State) (a ctx : Nat) : State :=
  match (s.dma a).runs.find? fun r => r.ctx == ctx with
  | some r =>
    match r.since with
    | some t => (s.count (.dma a) ctx Reg.Dma.STALL_NC Reg.Dma.STALL_NC_SAT (ncOf s.now - ncOf t)).putRun a { r with since := some s.now }
    | none => s
  | none => s

/-- Transactions of an engine in flight, those of every context together (R192, R220). -/
def State.inFlight (s : State) (a : Nat) : Nat := sumNat ((s.dma a).runs.map fun r => r.flight)

/-- Whether a context of an engine has a transaction ready: its memory is ON, no limit and no weir holds it (R220). -/
def State.runReady (s : State) (a : Nat) (r : DmaRun) : Bool :=
  match s.dmaDesc a r.ctx with
  | none => false
  | some d =>
    let (x, y) := d.line r.line
    let ks := if r.fill then [0, 1] else s.lineWeirs x ++ s.lineWeirs y
    let on := if r.fill then s.domOn 21 else s.domOn (memDomain (s.transAddr x)) && s.domOn (memDomain (s.transAddr y))
    !r.done && r.since.isNone && on && match s.ctxPart a r.ctx with
      | some p => !ks.any fun k => s.weirHolds p k
      | none => true

/-- How many lines a context may issue now (R192, R220): as many as the limit leaves it; only one while another context of the engine has a
transaction ready, and none where it issued the last one. -/
def State.dmaBudget (s : State) (a ctx : Nat) : Nat :=
  let room := 16384 - s.inFlight a
  if (s.dma a).runs.any fun r => r.ctx != ctx && s.runReady a r then
    (if (s.dma a).last = some ctx then 0 else min room 1)
  else room

/-- A context of an engine has issued lines: it is the last that did (R220). -/
def State.issuedBy (s : State) (a ctx : Nat) : State := s.setDma a { s.dma a with last := some ctx }

/-! ### COPY -/

/-- Page i takes a line of a COPY whose destination is y (R204): the line that holds the frame's first byte begins a whole write
by this context. -/
def State.copyMark (s : State) (ctx i y : Nat) : State :=
  let e := s.ott i
  if ottPlace e ≠ 0 then s
  else
    let x := SMap.get {} (s.arr (ottArr e)).pageMap (ottT0Frame e)
    let first := decide (y ≤ transBase + i * pageBytes)
    if first || x.src.isSome || (x.copying.isSome && x.copying != some ctx) then
      let x1 : LocalPage := { x with src := none, copying := if first then some ctx else none }
      s.modArr (ottArr e) fun z => { z with pageMap := SMap.set {} z.pageMap (ottT0Frame e) x1 }
    else s

/-- Write the 64 bytes of a line at a translated address: the pages that it touches, and their records (R177, R204). -/
def State.putLine (s : State) (ctx y : Nat) (data : List Byte) : State :=
  let i := (y - transBase) / pageBytes
  let cut := pageBytes - y % pageBytes
  let s1 := (s.store (s.transAddr y) (data.take cut)).copyMark ctx i y
  if cut < 64 then (s1.store (s1.transAddr (y + cut)) (data.drop cut)).copyMark ctx (i + 1) y else s1

/-- Lines of a COPY from line n on (R191, R194, R221): each line's source is checked before its destination; a line that its weirs
hold waits with everything behind it. The flag says that the descriptor's context still runs. -/
def State.copyLines (s : State) (a : Nat) (r : DmaRun) (d : DmaDesc) (ev : List (Nat × LineEvent)) (n : Nat) : Nat → State
  | 0 => s.putRun a { r with line := n, done := decide (d.rows * (d.rowBytes / 64) ≤ n), flight := r.flight + (n - r.line) }
  | k + 1 =>
    let ctx := r.ctx
    let stop := fun (s : State) => s.putRun a { r with line := n, flight := r.flight + (n - r.line) }
    let (x, y) := d.line n
    match s.dmaEnd ctx d.src x false with
    | some c => s.dmaFault a ctx c
    | none =>
      let (s0, on) := s.wakeAll [memDomain (s.transAddr x)]
      if !on then stop s0
      else
        let dstFault := s0.dmaEnd ctx d.dst y true
        let ks := if dstFault.isSome then s0.lineWeirs x else (s0.lineWeirs x ++ s0.lineWeirs y).eraseDups
        let (s1, go) := s0.issueLine (s0.ctxPart a ctx) ks
        if !go then stop s1
        else
          let (s2, bad, data) := s1.readLine x ((ev.find? fun q => q.1 == n).map fun q => q.2)
          match bad, dstFault with
          | some c, _ => s2.dmaFault a ctx c
          | none, some c => s2.dmaFault a ctx c
          | none, none =>
            if !s2.ownT0 a x && !s2.ownT0 a y then s2.dmaFault a ctx 5
            else
              let (s3, on2) := s2.wakeAll [memDomain (s2.transAddr y)]
              if !on2 then stop s3 else State.copyLines (s3.putLine ctx y data) a r d ev (n + 1) k

/-- Object pages that the rows of a transfer touch, ascending. -/
def touched (base rows pitch rowBytes : Nat) : List Nat :=
  (List.range rows).foldl (fun acc r =>
    let lo := (base + r * pitch - transBase) / pageBytes
    let hi := (base + r * pitch + rowBytes - 1 - transBase) / pageBytes
    (List.range (hi - lo + 1)).foldl (fun acc i => insAsc (lo + i) acc) acc) []

/-- The page from which a COPY writes the whole page i of its destination (R204): its rows in that page join without a gap from the first
byte to the last, and each takes its bytes from the same place of one page. -/
def wholeFrom (d : DmaDesc) (i : Nat) : Option Nat :=
  let lo := transBase + i * pageBytes
  let rows := (List.range d.rows).filterMap fun r =>
    let y := d.dst + r * d.dstPitch
    if y < lo + pageBytes ∧ lo < y + d.rowBytes then some (max lo y, min (lo + pageBytes) (y + d.rowBytes), d.src + r * d.srcPitch + (max lo y - y))
    else none
  let full := rows.foldl (fun at_ q => if q.1 ≤ at_ then max at_ q.2.1 else at_) lo
  match rows with
  | [] => none
  | q :: _ =>
    let j := (q.2.2 - transBase) / pageBytes
    if full = lo + pageBytes ∧ rows.all (fun q => decide (q.2.2 - transBase = j * pageBytes + (q.1 - lo))) then some j else none

/-- The local page map's records after a COPY (R204): a frame written in whole from one page with HOME_V = 1, and by nothing else since,
names that page. -/
def State.noteCopy (s : State) (ctx : Nat) (d : DmaDesc) : State :=
  (touched d.dst d.rows d.dstPitch d.rowBytes).foldl (fun s i =>
    let e := s.ott i
    if ottPlace e = 0 ∧ (SMap.get {} (s.arr (ottArr e)).pageMap (ottT0Frame e)).copying = some ctx then
      s.noteSrc (ottArr e) (ottT0Frame e) (match wholeFrom d i with
        | some j => if ottHomeV (s.ott j) then some j else none
        | none => none)
    else s) s

/-- A command of a context: the lines that it had in flight are complete, the time it was held counts, and it issues what it may; where the
limit holds the rest, the wait begins now (R192, R253; log 97). left is the number of lines still to issue. -/
def State.issueRun (s : State) (a : Nat) (r : DmaRun) (left : Nat) (go : State → DmaRun → Nat → State) : State :=
  let s1 := s.settleDma a r.ctx
  let r1 := { r with flight := 0, since := none }
  let s2 := s1.putRun a r1
  let k := min left (s2.dmaBudget a r.ctx)
  if k = 0 ∧ left ≠ 0 then s2.putRun a { r1 with since := if s2.inFlight a < 16384 then none else some s2.now }
  else
    let s3 := go (s2.issuedBy a r.ctx) r1 k
    if 16384 ≤ s3.inFlight a then (match (s3.dma a).runs.find? fun x => x.ctx == r.ctx with
      | some x => if x.done then s3 else s3.putRun a { x with since := some s3.now }
      | none => s3) else s3

/-- DMA_COPY (R191): moves the lines of the descriptor at DPC; ev gives what its lines meet. -/
def execDmaCopy (a ctx : Nat) (ev : List (Nat × LineEvent)) (s : State) : Ans :=
  .next (s.dmaStart a ctx 0 fun s d r =>
    s.issueRun a r (d.rows * (d.rowBytes / 64) - r.line) fun s r k => s.copyLines a r d ev r.line k)

/-! ### FILL -/

/-- Whether a page needs lines to become RES. -/
def fillNeeds (e : Nat) : Bool := ottValid e && ottPlace e == 2 && !ottRes e && !ottMig e

/-- At most n lines of a page that fills, from line j on: the lines issued, and the fault met. -/
def State.fillLines (s : State) (a ctx i : Nat) (ev : List (Nat × LineEvent)) (base j : Nat) : Nat → State × Nat × Option Nat
  | 0 => (s, j, none)
  | k + 1 =>
    let (s1, go) := s.issueLine (s.ctxPart a ctx) [0, 1]
    if !go then (s1, j, none)
    else
      let (s2, bad, _) := s1.readLine (transBase + i * pageBytes + j * 64) ((ev.find? fun q => q.1 == base + j).map fun q => q.2)
      match bad with
      | some c => (s2, j, some c)
      | none => State.fillLines s2 a ctx i ev base (j + 1) k

/-- Pages of a FILL from the k-th on, of whose first page j lines are issued, within a budget of b lines (R189, R191, R192, R196). A page that
this descriptor has begun is the one that its run names. -/
def State.fillRun (s : State) (a : Nat) (r : DmaRun) (d : DmaDesc) (ev : List (Nat × LineEvent)) (k j b : Nat) : List Nat → State
  | [] => s.putRun a { r with line := 1024 * k, done := true, page := none, flight := r.flight - b }
  | i :: t =>
    let ctx := r.ctx
    let stop := fun (s : State) (j b : Nat) (page : Option Nat) =>
      s.putRun a { r with line := 1024 * k + j, page := page, flight := r.flight - b }
    let x := max d.src (transBase + i * pageBytes)
    let begun := r.page == some i
    match (if begun then none else s.dmaEnd ctx d.src x false) with
    | some c => s.dmaFault a ctx c
    | none =>
      let needs := fillNeeds (s.ott i)
      let (s0, on) := if begun || needs then s.wakeAll [21] else (s, true)
      if !on then stop s0 j b r.page
      else
        let s1 := if begun then s0 else s0.fillPage i
        if !(begun || (needs && ottMig (s1.ott i))) then State.fillRun s1 a { r with page := none } d ev (k + 1) 0 b t
        else
          let (s2, j2, bad) := s1.fillLines a ctx i ev (1024 * k) j (min b (1024 - j))
          match bad with
          | some c => s2.dmaFault a ctx c
          | none =>
            let b2 := b - (j2 - j)
            if j2 < 1024 then stop s2 j2 b2 (some i) else State.fillRun s2 a { r with page := none } d ev (k + 1) 0 b2 t

/-- DMA_FILL (R191): every CACHED_T2 page that the source rows touch. -/
def execDmaFill (a ctx : Nat) (ev : List (Nat × LineEvent)) (s : State) : Ans :=
  .next (s.dmaStart a ctx 1 fun s d r =>
    let pages := touched d.src d.rows d.srcPitch d.rowBytes
    if d.src < transBase then s.dmaFault a ctx (if isDirect d.src then 5 else 2)
    else s.issueRun a r (1024 * pages.length - r.line) fun s r k =>
      s.fillRun a { r with flight := k } d ev (r.line / 1024) (r.line % 1024) k (pages.drop (r.line / 1024)))

/-! ### End -/

/-- DPC and PASSES after a descriptor, as R149 has it for a schedule; the flag says that the list has ended. -/
def State.advanceDpc (s : State) (a ctx : Nat) : State × Bool :=
  let p := Page.dma a
  let pc := s.rd p ctx Reg.Dma.DPC
  let n := s.rd p ctx Reg.Dma.LIST_LEN
  if pc + 1 < n then (s.wr p ctx Reg.Dma.DPC (pc + 1), false)
  else
    let s1 := s.countSat32 p ctx Reg.Dma.PASSES 1
    let start := s.rd p ctx Reg.Dma.LOOP_START
    let rep := s.rd p ctx Reg.Dma.REPEAT
    if start < n ∧ (rep = 0 ∨ s1.rd p ctx Reg.Dma.PASSES < rep) then (s1.wr p ctx Reg.Dma.DPC start, false) else (s1, true)

/-- Whether every page of a FILL is RES or has been refused (R191). -/
def State.fillSettled (s : State) (d : DmaDesc) : Bool :=
  (touched d.src d.rows d.srcPitch d.rowBytes).all fun i => !(s.tier.moves.any fun m => m.fill && m.page == i)

/-- DMA_COMPLETE (R191, R194): the descriptor whose lines are all visible, or whose pages are all settled, signals its tally; the
list goes on, or the page enters STOPPED. -/
def execDmaComplete (a ctx : Nat) (s : State) : Ans :=
  .next (match (s.dma a).runs.find? fun r => r.ctx == ctx, s.dmaDesc a ctx with
    | some r, some d =>
      if !r.done || (r.fill && !s.fillSettled d) then s
      else
        let p := Page.dma a
        let s1 := (s.setDma a { s.dma a with runs := (s.dma a).runs.filter fun x => x.ctx != ctx }).wr p ctx Reg.Dma.INFLIGHT 0
        let s2 := (if r.fill then s1 else s1.noteCopy ctx d)
        let s2 := if d.sigEn then s2.signalTally d.sigTally 1 else s2
        let (s3, ended) := s2.advanceDpc a ctx
        let s4 := if ended then s3.irq p (s3.ctxPart a ctx) 12 else s3
        if ended || s4.st p ctx == 2 then s4.enterStopped p ctx else s4
    | _, _ => s)

end Sys2Proof.Machine
end

