-- ==== Sys2Proof/Machine/Loader.lean ====
section
/-! DEFINITION. The image loader (R144 to R174, R178 to R182, R190, R199 to R202, R232, R233, R338 to R341): header, directory and
requirements checks, variant selection and binding, the shortfall record, commit, and unload. -/

namespace Sys2Proof.Machine

/-! ### Header, directory, requirements -/

/-- One directory entry (Table 6.2). -/
structure DirEnt where
  idx : Nat := 0
  type : Nat := 0
  variant : Nat := 0
  enc : Bool := false
  offset : Nat := 0
  len : Nat := 0
  digest : List Byte := []
  res : Bool := false
deriving DecidableEq, Repr

/-- Decode entry i of the directory. -/
def dirEnt (img : List Byte) (i : Nat) : DirEnt :=
  let b := sliceBytes img (0x40 + 64 * i) 64
  let w := leAt b 0 4
  { idx := i, type := field w 0 8, variant := field w 8 8, enc := bitAt w 16, offset := leAt b 8 8, len := leAt b 0x10 8,
    digest := sliceBytes b 0x20 32, res := field w 17 15 != 0 || leAt b 4 4 != 0 || leAt b 0x18 8 != 0 }

def imgSections (img : List Byte) : Nat := leAt img 6 2
def imgVariants (img : List Byte) : Nat := field (leAt img 8 4) 16 3 + 1
def imgId (img : List Byte) : Nat := leAt img 0x10 8
def imgDir (img : List Byte) : List DirEnt := (List.range (imgSections img)).map (dirEnt img)

/-- Bytes of a section as stored. -/
def secBytes (img : List Byte) (d : DirEnt) : List Byte := sliceBytes img d.offset d.len

/-- Whether the digest of a section holds (R145). -/
def secOk (img : List Byte) (d : DirEnt) : Bool := sha256 (secBytes img d) == d.digest

/-- Whether a section serves variant v. -/
def DirEnt.serves (d : DirEnt) (v : Nat) : Bool := d.variant == v || d.variant == 0xFF

/-- Sections of a type that serve variant v. -/
def secsOf (dir : List DirEnt) (type v : Nat) : List DirEnt := dir.filter fun d => d.type == type && d.serves v

/-- Header or directory invalid (R144, R340). -/
def imgFormatBad (img : List Byte) : Bool :=
  let n := imgSections img
  if img.length < 64 ∨ leAt img 0 4 ≠ 0x4C504F56 ∨ leAt img 4 2 ≠ 1 ∨ n = 0 ∨ 4096 < n ∨ 5 < imgVariants img ∨
    field (leAt img 8 4) 19 13 ≠ 0 ∨ leAt img 0xC 4 ≠ 0 ∨ leAt img 0x18 8 ≠ img.length ∨ leAt img 0x20 32 ≠ 0 ∨
    img.length < 64 + 64 * n then true
  else
    let dir := imgDir img
    let one := fun (d : DirEnt) => d.res || d.type == 0 || decide (10 < d.type) ||
      !(decide (d.variant < imgVariants img) || d.variant == 0xFF) || d.offset % 64 != 0 || decide (d.offset < 64 + 64 * n) ||
      decide (img.length < d.offset + d.len) || (d.enc && [1, 9, 10].contains d.type)
    let overlap := dir.any fun d => dir.any fun e =>
      decide (d.idx < e.idx ∧ d.offset < e.offset + e.len ∧ e.offset < d.offset + d.len)
    let reqs := (List.range (imgVariants img)).any fun v => (secsOf dir 1 v).length != 1
    dir.any one || overlap || reqs || decide (1 < (dir.filter fun d => d.type == 9).length)

/-- One logical array of a requirements record. -/
structure LogArr where
  t0 : Nat := 0
  sched : Nat := 0
  gid : Nat := 0
  gpos : Nat := 0
deriving DecidableEq, Repr

/-- A requirements record (Table 6.4). -/
structure Req where
  variant : Nat := 0
  arrays : Nat := 0
  sentry : Bool := false
  fpClass : Nat := 0
  cis : Nat := 0
  well : Nat := 0
  ott : Nat := 0
  tallies : Nat := 0
  logical : List LogArr := []
  adj : List (Nat × Nat) := []
  fpBytes : List Byte := []
  bad : Bool := false
deriving DecidableEq, Repr

/-- Members of gang g of a record, in GANG_POS order, as logical arrays (R146). -/
def Req.gang (q : Req) (g : Nat) : List Nat :=
  let l := q.logical.zipIdx.filter fun x => x.1.gid == g
  (List.range 8).filterMap fun p => (l.find? fun x => x.1.gpos == p).map fun x => x.2

def decodeReq (b : List Byte) : Req :=
  let w0 := leAt b 0 4
  let w4 := leAt b 4 4
  let arrays := field w0 8 4
  let sentry := bitAt w0 12
  let n := arrays + b2n sentry
  let adjN := field w4 8 8
  let la := (List.range n).map fun i =>
    let x := leAt b (0x40 + 8 * i) 4
    let y := leAt b (0x44 + 8 * i) 4
    (LogArr.mk (field x 0 16) (field x 16 16) (field y 0 4) (field y 4 3), field y 7 25)
  let adj := (List.range adjN).map fun p => (leAt b (0x40 + 8 * n + 2 * p) 1, leAt b (0x41 + 8 * n + 2 * p) 1)
  let q : Req :=
    { variant := field w0 0 8, arrays := arrays, sentry := sentry, fpClass := field w4 0 8,
      cis := leAt b 8 4, well := leAt b 0xC 4, ott := leAt b 0x10 4, tallies := field (leAt b 0x14 4) 0 14,
      logical := la.map fun x => x.1, adj := adj,
      fpBytes := ((List.range arrays).map fun i => nth 0 b (0x44 + 8 * i)) ++ sliceBytes b (0x40 + 8 * n) (2 * adjN) }
  let gangBad := (List.range 15).any fun k =>
    let g := k + 1
    let l := q.logical.filter fun x => x.gid == g
    !l.isEmpty && (decide (4 < g) || !([2, 4, 8].contains l.length) || (q.gang g).length != l.length ||
      l.any fun x => decide (l.length ≤ x.gpos))
  { q with bad := arrays == 0 || decide (8 < arrays) || field w0 13 19 != 0 || decide (10 < adjN) ||
      decide (8192 < q.tallies) || field (leAt b 0x14 4) 14 18 != 0 || leAt b 0x18 40 != 0 || (la.any fun x => x.2 != 0) ||
      (la.zipIdx.any fun x => decide ((if x.2 = arrays then 16 else 384) < x.1.1.t0)) ||
      (adj.any fun p => decide (p.2 ≤ p.1 ∨ arrays ≤ p.2)) || decide (b.length < 0x40 + 8 * n + 2 * adjN) || gangBad ||
      (sentry && (nth {} q.logical arrays).gid != 0) }

/-- The requirements record of variant v. -/
def reqOf (img : List Byte) (v : Nat) : Req :=
  match (secsOf (imgDir img) 1 v).head? with
  | some d => decodeReq (secBytes img d)
  | none => { bad := true }

/-- FP_CLASS of every variant (R147), with the record's own form and its SCHED sections (R146). -/
def reqBad (img : List Byte) (v : Nat) : Bool :=
  let q := reqOf img v
  let dir := imgDir img
  q.bad || q.variant != v || ((sha256 q.fpBytes).headD 0).toNat != q.fpClass ||
    q.logical.any fun l => match dir[l.sched]? with
      | some d => d.type != 2 || !d.serves v
      | none => true

/-! ### Schedules (R148, R161, R162, R173) -/

/-- Macro-operation descriptors of a SCHED section. -/
def schedDescs (b : List Byte) : List Desc :=
  (List.range (field (leAt b 4 4) 0 16)).map fun i => decodeDesc (sliceBytes b (64 + 64 * i) 64)

/-- Tallies that a schedule waits on (R161). -/
def schedWaits (b : List Byte) : List Nat :=
  (schedDescs b).flatMap fun d => (if d.waitEn then [d.waitTally] else []) ++ (if d.op = 0x20 ∧ d.sub = 1 then [d.os 0 0 13] else [])

/-- Whether the header of one schedule of logical array i breaks R148's layout, which makes the image malformed (log 83). -/
def schedMalformed (q : Req) (i : Nat) (b : List Byte) : Bool :=
  let n := field (leAt b 4 4) 0 16
  n == 0 || decide (b.length < 64 + 64 * n) || leAt b 0 4 != (if i = q.arrays then 8 else i) || field (leAt b 0xC 4) 4 28 != 0 ||
    leAt b 0x14 44 != 0

/-- Tallies, SUBOP and tiling of one schedule (R161, R162). -/
def schedBad (q : Req) (b : List Byte) : Bool :=
  let wc := leAt b 0xC 4
  let tiling := field wc 0 2
  let cls := field wc 2 2
  !(tiling == 0 || (tiling == 1 && decide (cls < 2)) || (tiling == 2 && cls == 2)) ||
    (schedDescs b).any fun d => (d.waitEn && decide (q.tallies ≤ d.waitTally)) || (d.sigEn && decide (q.tallies ≤ d.sigTally)) ||
      (d.op == 0x20 && (decide (1 < d.sub) || decide (q.tallies ≤ d.os 0 0 13)))

/-- COST_AC beyond its bound (R173). -/
def costBad (q : Req) (i : Nat) (b : List Byte) : Bool :=
  (schedDescs b).any fun d => decide ((if i = q.arrays then 800000 else 2000000) < d.cost)

/-- SCHED sections of a variant with their logical arrays. -/
def schedsOf (img : List Byte) (q : Req) : List (Nat × DirEnt) :=
  q.logical.zipIdx.filterMap fun l => ((imgDir img)[l.1.sched]?).map fun d => (l.2, d)

/-- Tallies on which more than one schedule or list waits while their MODE is CONSUME (R161, R191). -/
def consumeBad (tallies : List Byte) (waits : List (List Nat)) : Bool :=
  (List.range (tallies.length / 8)).any fun t =>
    leAt tallies (8 * t + 4) 4 % 2 == 0 && decide (1 < (waits.filter fun l => l.contains t).length)

/-- Whether the open schedules of a variant break R161's rule on CONSUME tallies: the TALLIES section says so where
its digest is right; a wrong one refuses nothing before the variant is committed (R145; log 83). -/
def consumeCheck (img : List Byte) (v : Nat) (scheds : List (List Byte)) : Bool :=
  let waits := scheds.map schedWaits
  let twice := waits.zipIdx.any fun x => waits.zipIdx.any fun y => decide (x.2 < y.2) && x.1.any y.1.contains
  twice && match (secsOf (imgDir img) 5 v).head? with
    | none => false
    | some d => !d.enc && secOk img d && consumeBad (secBytes img d) waits

/-- The schedule checks of one variant; an encrypted schedule is checked at commit, once its content can be read (log 24). -/
def variantCheck (img : List Byte) (v : Nat) : Option Nat :=
  let q := reqOf img v
  let l := schedsOf img q
  let open_ := l.filter fun x => !x.2.enc
  if l.any fun x => !secOk img x.2 then some 0x45
  else if open_.any fun x => schedMalformed q x.1 (secBytes img x.2) then some 0x40
  else if open_.any fun x => schedBad q (secBytes img x.2) then some 0x42
  else if consumeCheck img v (open_.map fun x => secBytes img x.2) then some 0x42
  else if open_.any fun x => costBad q x.1 (secBytes img x.2) then some 0x43 else none

/-! ### Binding to devices (R338 to R341) -/

/-- DEVICE_ID (R337). -/
def State.deviceId (s : State) : List Byte := sha256 s.sec.devPub

/-- What the KEYS section gives: a refusal code, or the content key and the digest of OWNER_PUB. -/
def State.keysCheck (s : State) (img : List Byte) : Nat ⊕ (Option Nat × List Byte) :=
  let dir := imgDir img
  let lc := s.sec.lc
  if lc = 0 then .inl 0x58
  else match dir.find? fun d => d.type == 9 with
    | none => if (dir.any fun d => d.enc) || decide (2 ≤ lc) then .inl 0x52 else .inr (none, [])
    | some k =>
      let b := secBytes img k
      let n := leAt b 2 2
      let w4 := leAt b 4 4
      let ent := fun i => sliceBytes b (0x140 + 80 * i) 80
      if leAt b 0 2 ≠ 1 ∨ n = 0 ∨ 256 < n ∨ b.length ≠ 0x140 + 80 * n ∨ field w4 4 4 ≠ 0 ∨ field w4 17 15 ≠ 0 ∨ leAt b 8 24 ≠ 0 ∨
        64 < field w4 8 8 ∨ ((List.range n).any fun i => leAt (ent i) 0x48 8 != 0) then .inl 0x51
      else
        let pub := sliceBytes b 0x80 96
        let signed := img.take 64 ++ (dir.flatMap fun d =>
          let e := sliceBytes img (0x40 + 64 * d.idx) 64
          if d.idx = k.idx then e.take 0x20 ++ List.replicate 32 0 else e) ++ sliceBytes b 0 0xE0
        let rma := bitAt w4 16
        let owned := (List.range 4).any fun i =>
          let o := SMap.get {} s.sec.owners i
          o.en && o.hash == sha256 pub
        if !Config.ecdsaOk pub (sha384 signed) (sliceBytes b 0xE0 96) then .inl 0x53
        else if 2 ≤ lc ∧ !owned then .inl 0x54
        else if field w4 8 8 < SMap.get 0 s.sec.rollback (field w4 0 4) then .inl 0x55
        else if lc = 2 ∧ and32 s.sec.dbgScope 0xB ≠ 0 then .inl 0x5A
        else match (List.range n).find? fun i => (ent i).take 32 == s.deviceId with
          | none => .inl 0x50
          | some i =>
            if rma != (lc == 3) then .inl 0x50
            else
              let info := ascii (if rma then [0x47, 0x54, 0x37, 0x52] else [0x47, 0x54, 0x37, 0x4B]) ++ s.deviceId
              match Config.unwrapKey s.sec.devPriv (sliceBytes b 0x20 96) (leBytes 8 (imgId img)) info (sliceBytes (ent i) 0x20 40) with
              | none => .inl 0x56
              | some key => .inr (some key, sha256 pub)

/-! ### Availability and binding (R164 to R166) -/

/-- Whether a slot is available to a load of partition p (R164). -/
def State.slotFree (s : State) (p a : Nat) : Bool :=
  s.rdB .floor 0 (Reg.Floor.PRESENT a) && !(s.rdB .floor 0 (Reg.Floor.REMOVED a)) &&
    (match s.assignOf a with
      | .owned q => p == q
      | .shared l => l.contains p
      | .unassigned => false)

/-- Free frames of an array's local store, ascending. -/
def State.t0Free (s : State) (a : Nat) : List Nat :=
  (List.range (t0Frames a)).filter fun f => !s.frameNamed (frameT0 a f) && !(s.images.any fun i => i.held.contains (a, f))

/-- Whether logical array i may take slot a after the slots of the earlier ones. -/
def State.bindOk (s : State) (q : Req) (acc : List Nat) (i a : Nat) : Bool :=
  !acc.contains a && decide ((nth {} q.logical i).t0 ≤ (s.t0Free a).length) &&
    q.adj.all fun p => if p.2 = i then s.linked (nth 9 acc p.1) a else true

/-- Whether every gang of a complete mapping occupies a chain order over usable links (R112, R166). -/
def State.gangsOk (s : State) (q : Req) (m : List Nat) : Bool :=
  (List.range 4).all fun k =>
    let l := (q.gang (k + 1)).map fun i => nth 9 m i
    l.isEmpty || (chainOk (l.map s.slotXY) && (l.zip l.tail).all fun p => s.linked p.1 p.2)

/-- The first mapping in lexicographic order that meets R166; the numbers are the logical arrays still to bind. -/
def State.bindFrom (s : State) (q : Req) (slots : List Nat) (acc : List Nat) : List Nat → Option (List Nat)
  | [] => if s.gangsOk q acc then some acc else none
  | i :: t => slots.findSome? fun a => if s.bindOk q acc i a then State.bindFrom s q slots (acc ++ [a]) t else none

/-- The binding of a variant (R165); the sentry's entry binds to the sentry array. -/
def State.binding (s : State) (p : Nat) (q : Req) : Option (List Nat) :=
  if q.sentry && !(s.slotFree p 8 && decide ((nth {} q.logical q.arrays).t0 ≤ (s.t0Free 8).length)) then none
  else s.bindFrom q ((List.range 8).filter (s.slotFree p)) [] (List.range q.arrays)

/-! ### Shortfall (R169) -/

/-- Well frames that entries name, ascending. -/
def State.wellUsed (s : State) : List Nat :=
  (s.tier.ott.filterMap fun e => if ottValid e.2 && (ottPlace e.2 == 2 || ottHomeV e.2) then some (ottHome e.2) else none).foldl
    (fun acc f => insAsc f acc) []

/-- Shortfall of one variant: ARRAYS, T0, CIS, WELL, OTT, TALLY (Table 6.9). -/
def State.shortfall (s : State) (p : Nat) (q : Req) : List Nat :=
  let slots := (List.range 8).filter (s.slotFree p)
  let most := (slots.map fun a => (s.t0Free a).length).foldl max 0
  let need := ((q.logical.take q.arrays).map fun l => l.t0).foldl max 0
  let sen := if q.sentry then (nth {} q.logical q.arrays).t0 - (if s.slotFree p 8 then (s.t0Free 8).length else 0) else 0
  [q.arrays - slots.length, max (need - most) sen, q.cis - (s.quota p - s.pinnedT1 p),
   q.well - (s.rd .floor 0 Reg.Floor.WELL_FRAMES - s.wellUsed.length), q.ott - s.ottFreeRun.1, q.tallies - s.freeRun.1]

/-- One line of the shortfall record. -/
def shortLine (l : List Nat) (noBind : Bool) : List Byte :=
  leBytes 4 (min (nth 0 l 0) 255 + 256 * b2n noBind) ++ (l.tail.flatMap fun x => leBytes 4 (min x (2 ^ 32 - 1))) ++ leBytes 8 0

/-- The shortfall record (R169). -/
def State.shortRecord (s : State) (p : Nat) (img : List Byte) : List Byte :=
  let n := imgVariants img
  leBytes 4 (0x44 + 256 * n) ++ leBytes 4 0 ++ leBytes 8 (imgId img) ++
    (List.range n).flatMap fun v =>
      let q := reqOf img v
      let l := s.shortfall p q
      shortLine l ((l.all fun x => x == 0) && (s.binding p q).isNone)

/-! ### Objects -/

/-- One OBJECTS entry (Table 7.2) with its contents padded to whole pages (R233). -/
structure ObjEnt where
  pages : Nat := 0
  place : Nat := 0
  wr : Bool := false
  wcmp : Bool := false
  sealedCopy : Bool := false
  ctab : Bool := false
  home : Nat := 0
  gangHead : Bool := false
  dataSec : Nat := 0xFFFF
  dataOff : Nat := 0
  res : Bool := false
deriving DecidableEq, Repr

def decodeObj (b : List Byte) : ObjEnt :=
  let w := leAt b 0 4
  let x := leAt b 4 4
  { pages := field w 0 19, place := field w 19 2, wr := bitAt w 21, wcmp := bitAt w 22, sealedCopy := bitAt w 23, ctab := bitAt w 24,
    home := field w 25 4, gangHead := bitAt w 29, dataSec := field x 0 16, dataOff := leAt b 8 8,
    res := field w 30 2 != 0 || field x 16 16 != 0 || field w 0 19 == 0 || field w 19 2 == 3 || decide (8 < field w 25 4) ||
      (field w 19 2 != 0 && (field w 25 4 != 0 || bitAt w 29)) }

/-- Whether the entries from i on match one gang of the record (R180). -/
def gangObjOk (q : Req) (objs : List ObjEnt) (i : Nat) : Bool :=
  (List.range 4).any fun k =>
    let g := q.gang (k + 1)
    let l := (objs.drop i).take g.length
    !g.isEmpty && l.length == g.length && (l.map fun o => o.home) == g &&
      l.all fun o => o.place == 0 && o.pages == (nth {} objs i).pages && o.wr == (nth {} objs i).wr &&
        (l.tail.all fun o => !o.gangHead)

/-- R179, R180, and a home that the variant lacks. -/
def objsBad (q : Req) (objs : List ObjEnt) : Bool :=
  (objs.any fun o => o.res || (o.wr && o.place == 2) || (o.wcmp && (!o.sealedCopy || o.wr)) || (o.place == 2 && !o.sealedCopy) ||
    (o.place == 0 && !(decide (o.home < q.arrays) || (o.home == 8 && q.sentry)))) ||
  decide (1 < (objs.filter fun o => o.ctab).length) ||
  objs.zipIdx.any fun o => o.1.gangHead && !gangObjOk q objs o.2

/-- The exponent code tables of a CTAB object (R202): 256 BF16 lengths, then 32 FP16 lengths; none where a table is not complete. -/
def ctabOf (b : List Byte) : Option (List Nat) :=
  let l := (sliceBytes b 0 144).flatMap fun x => [x.toNat % 16, x.toNat / 16]
  if huffComplete (l.take 256) && huffComplete (l.drop 256) then some l else none

/-! ### Commit -/

/-- The sections of a variant that commit reads, decrypted; a refusal code where a digest or a tag fails (R145, R341). -/
def openSections (img : List Byte) (v : Nat) (key : Option Nat) : Nat ⊕ List (DirEnt × List Byte) :=
  let l := (imgDir img).filter fun d => d.serves v && d.type != 1 && d.type != 9
  if l.any fun d => !secOk img d then .inl 0x45
  else
    let r := l.map fun d => (d, if d.enc then
      Config.gcmOpen (key.getD 0) (leBytes 8 (imgId img) ++ leBytes 4 d.idx) (secBytes img d) else some (secBytes img d))
    if r.any fun x => x.2.isNone then .inl 0x57 else .inr (r.map fun x => (x.1, x.2.getD []))

/-- Content of the first section of a type. -/
def contentOf (l : List (DirEnt × List Byte)) (type : Nat) : List Byte :=
  ((l.find? fun x => x.1.type == type).map fun x => x.2).getD []

/-- Initial contents of an object, padded with zeros to whole pages (R233): up to the next contents that the section holds, or to
its end (log 81). -/
def objContents (l : List (DirEnt × List Byte)) (objs : List ObjEnt) (o : ObjEnt) : List Byte :=
  match l.find? fun x => x.1.idx == o.dataSec && x.1.type == 8 with
  | some x =>
    let ends := (objs.filter fun y => y.dataSec == o.dataSec && decide (o.dataOff < y.dataOff)).map fun y => y.dataOff
    let stop := ends.foldl min x.2.length
    sliceBytes ((x.2.take stop).drop o.dataOff) 0 (o.pages * pageBytes)
  | none => List.replicate (o.pages * pageBytes) 0

/-- The lowest well frame that nothing names (log 14). -/
def State.wellNext (s : State) : Nat := s.wellUsed.foldl (fun n f => if f = n then n + 1 else n) 0

/-- Write a frame in whole: it is no longer one that waits for zeroing (R187). -/
def State.writeFrame (s : State) (k : Nat) (d : List Byte) : State :=
  let s1 := (s.zero (frameAddr k) pageBytes).store (frameAddr k) d
  { s1 with tier := { s1.tier with dirty := s1.tier.dirty.filter fun x => x != k } }

/-- Write a page of the well: its frame takes the next 4,096 counter values (R345, R346). -/
def State.writeWell (s : State) (f : Nat) (d : List Byte) : State :=
  let s1 := s.writeFrame (frameWell f) d
  let s2 := { s1 with sec := { s1.sec with wellCtr := s1.sec.wellCtr + 4096, frameCtr := SMap.set 0 s1.sec.frameCtr f s1.sec.wellCtr } }
  if 2 ^ 47 ≤ s2.sec.wellCtr ∧ !(s2.rdB .sec 0 Reg.Sec.REKEY_DUE) then (s2.wr .sec 0 Reg.Sec.REKEY_DUE 1).irq .sec none 3 else s2

/-- Place one page of an object at OTT entry i (R181 to R186): run is the pages to the object's end. none where no frame is left. -/
def State.placePage (s : State) (p : Nat) (bind : List Nat) (o : ObjEnt) (i k : Nat) (d : List Byte) : Option State :=
  let wf := s.wellNext
  let limit := s.rd .floor 0 Reg.Floor.WELL_FRAMES
  let homed := o.sealedCopy || o.place == 2
  let a := if o.home = 8 then 8 else nth 9 bind o.home
  let frame : Option Nat := match o.place with
    | 0 => ((s.t0Free a).head?).map fun f => a * 512 + f
    | 1 => s.freeT1
    | _ => some 0
  match frame with
  | none => none
  | some f =>
    if homed ∧ limit ≤ wf then none
    else
      let s1 := if homed then s.writeWell wf d else s
      let s2 := match o.place with
        | 0 => s1.writeFrame (frameT0 a (f % 512)) d
        | 1 => s1.writeFrame (frameT1 f) d
        | _ => s1
      let e := 1 + o.place * 2 + p * 8 + b2n o.wr * 64 + b2n (k == 0) * 128 + b2n homed * 2048 + f * 4096 +
        (if homed then wf else 0) * 2 ^ 25 + (o.pages - k) * 2 ^ 45
      let s3 := s2.setOtt i e
      some (if o.place = 0 then
        s3.modArr a fun x => { x with pageMap := SMap.set {} x.pageMap (f % 512) { ott := some i, part := p } }
      else s3)

/-- Place the pages of an object from page k on. -/
def State.placePages (s : State) (p : Nat) (bind : List Nat) (o : ObjEnt) (i k : Nat) : List (List Byte) → Option State
  | [] => some s
  | d :: t => match s.placePage p bind o i k d with
    | none => none
    | some s1 => State.placePages s1 p bind o (i + 1) (k + 1) t

/-- Pages of a byte string. -/
def pagesOf (l : List Byte) (n : Nat) : List (List Byte) := (List.range n).map fun k => sliceBytes (l.drop (k * pageBytes)) 0 pageBytes

/-- Place every object from entry i on. -/
def State.placeObjs (s : State) (p : Nat) (bind : List Nat) (i : Nat) : List (ObjEnt × List Byte) → Option State
  | [] => some s
  | (o, c) :: t => match s.placePages p bind o i 0 (pagesOf c o.pages) with
    | none => none
    | some s1 => State.placeObjs s1 p bind (i + o.pages) t

/-- The first n consecutive free frames of an array's local store (log 14). -/
def State.t0Run (s : State) (a n : Nat) (used : List (Nat × Nat)) : Option Nat :=
  let free := (s.t0Free a).filter fun f => !used.contains (a, f)
  free.find? fun f => (List.range n).all fun k => free.contains (f + k)

/-- Put a byte string into consecutive free frames of an array: its offset there, and the frames used. -/
def State.putT0 (s : State) (a : Nat) (used : List (Nat × Nat)) (d : List Byte) : Option (State × Nat × List (Nat × Nat)) :=
  let n := ceilDiv d.length pageBytes
  match s.t0Run a n used with
  | none => none
  | some f =>
    let frames := (List.range n).map fun k => f + k
    let s1 := frames.foldl (fun s k => s.writeFrame (frameT0 a k) []) s
    some (s1.store (t0Base a + f * pageBytes) d, f * pageBytes, used ++ frames.map fun k => (a, k))

/-- Addresses and tallies of a prefetch descriptor as the loader converts them (R181, R190). -/
def convertDma (ottOf : Nat → Nat) (tallyBase : Nat) (b : List Byte) : List Byte :=
  let addr := fun (o : Nat) =>
    let v := leAt b o 8
    let off := field v 0 40
    leBytes 8 ((transBase + ottOf (field v 40 20) * pageBytes + off) % 2 ^ 40 + field v 60 4 * 2 ^ 60)
  let w := leAt b 0x1C 4
  let w1 := setField w 0 13 (tallyBase + field w 0 13)
  let w2 := setField w1 16 13 (tallyBase + field w 16 13)
  addr 0 ++ addr 8 ++ sliceBytes b 0x10 12 ++ leBytes 4 w2

/-- Write the CSUM array that a POSTTAB item names (R51, R92; log 23). -/
def State.writeCsum (s : State) (m : MEnv) (x : Config.CsumItem) : State :=
  let p := m.tdD x.param
  let t := m.tdD x.weight
  let m1 : MEnv := { m with d := { m.d with transW := x.trans } }
  let home := ottArr (s.ott t.obj)
  let g := if m.isGangObj t then max 1 ((m.img.gangs.find? fun l => l.contains home).getD []).length else 1
  let loc := fun n => if x.ng = 0 then gangCol x.lim g n else convLocal x.lim g x.pack x.ng n
  let rows := (s.port m1 t (s.weightRows m1 t g loc)).els
  let base := p.offset + 2 * align64 (4 * x.nb) + align64 (2 * x.nz)
  rows.zipIdx.foldl (fun s r =>
    (if x.bk = 1 then [r.1] else chunks 32 r.1).zipIdx.foldl (fun s c =>
      s.objStore p.obj (base + 4 * (r.2 * x.bk + c.2)) (leBytes 4 (ofInt 32 (sumInt (c.1.map fun e => rhe e.v))))) s) s

/-- Program one bound array (R148): its schedule and list registers, unless its context runs (log 25). -/
def State.programArray (s : State) (a ctx base count loop rep tb tl : Nat) : State :=
  let p := Page.ma a
  if s.st p ctx ≠ 0 then s
  else
    ((((((s.wr p ctx Reg.Ma.SCHED_BASE (base / 64)).wr p ctx Reg.Ma.SCHED_LEN count).wr p ctx Reg.Ma.LOOP_START loop).wr p ctx
      Reg.Ma.REPEAT rep).wr p ctx Reg.Ma.TALLY_BASE tb).wr p ctx Reg.Ma.TALLY_LEN tl)

/-- Program one DMA list (R191). -/
def State.programList (s : State) (a ctx base count loop rep : Nat) : State :=
  let p := Page.dma a
  if s.st p ctx ≠ 0 then s
  else (((s.wr p ctx Reg.Dma.LIST_BASE (base / 32)).wr p ctx Reg.Dma.LIST_LEN count).wr p ctx Reg.Dma.LOOP_START loop).wr p ctx
    Reg.Dma.REPEAT rep

/-- PROG_DIGEST (Table 9.1). -/
def progDigest (img : List Byte) (v : Nat) : List Byte :=
  sha256 (((imgDir img).filter fun d => d.serves v && !([8, 9, 10].contains d.type)).flatMap fun d => d.digest)

/-- Copy the schedules and prefetch lists into place and program the arrays; fails where frames run out. -/
def State.commitArrays (s : State) (p tb nt : Nat) (lists : List (Nat × Nat × Nat × Nat × List Byte × Bool))
    (used : List (Nat × Nat)) (at_ : List (Nat × Nat)) : Option (State × List (Nat × Nat) × List (Nat × Nat)) :=
  match lists with
  | [] => some (s, used, at_)
  | (a, count, loop, rep, d, isSched) :: t =>
    match s.putT0 a used d with
    | none => none
    | some (s1, off, used1) =>
      let s2 := if isSched then s1.programArray a p off count loop rep tb nt else s1.programList a p off count loop rep
      State.commitArrays s2 p tb nt t used1 (if isSched then at_ ++ [(a, off)] else at_)

/-- Pages of PIN_T1 objects among opened sections. -/
def pinsIn (secs : List (DirEnt × List Byte)) : Nat :=
  let raw := contentOf secs 4
  sumNat ((List.range (raw.length / 16)).map fun i =>
    let o := decodeObj (sliceBytes raw (16 * i) 16)
    if o.place = 1 then o.pages else 0)

/-- Whether a commit's PIN_T1 allocation is refused (R196, R198). -/
def State.pinsRefused (s : State) (p : Nat) (img : List Byte) (v : Nat) (key : Option Nat) : Bool :=
  match openSections img v key with
  | .inl _ => false
  | .inr secs => pinsIn secs != 0 && (s.roomT1 p (pinsIn secs)).isNone

/-- commit(v) of R168: a refusal code, or the state after it. -/
def State.commit (s : State) (p : Nat) (img : List Byte) (q : Req) (bind : List Nat) (key : Option Nat) (owner : List Byte) :
    Nat ⊕ State :=
  match openSections img q.variant key with
  | .inl c => .inl c
  | .inr secs =>
    let raw := contentOf secs 4
    let objs := (List.range (raw.length / 16)).map fun i => decodeObj (sliceBytes raw (16 * i) 16)
    let withC := objs.map fun o => (o, objContents secs objs o)
    let digs := contentOf secs 10
    let tds := contentOf secs 3
    let tal := contentOf secs 5
    let scheds := (schedsOf img q).map fun x => (x.1, ((secs.find? fun y => y.1.idx == x.2.idx).map fun y => y.2).getD [])
    let pf := (secs.filter fun x => x.1.type == 7).flatMap fun x => Config.prefetch x.2
    let post := (secs.filter fun x => x.1.type == 6).map fun x => x.2
    let enc := (schedsOf img q).any fun x => x.2.enc
    let waits := (scheds.map fun x => schedWaits x.2) ++ pf.map fun x =>
      x.2.2.2.filterMap fun d => if (decodeDma d).waitEn then some (decodeDma d).waitTally else none
    let ctab := (withC.find? fun x => x.1.ctab).map fun x => ctabOf x.2
    let pages := sumNat (objs.map fun o => o.pages)
    let talBad := tal.length != 8 * q.tallies || (List.range q.tallies).any fun t =>
      leAt tal (8 * t + 2) 2 == 0 || leAt tal (8 * t + 4) 4 / 2 != 0
    let noData := fun (o : ObjEnt) => o.dataSec != 0xFFFF && !(secs.any fun x => x.1.idx == o.dataSec && x.1.type == 8)
    if objsBad q objs || objs.any noData || raw.length % 16 != 0 || tds.length % 32 != 0 || ctab == some none || decide (q.ott < pages) || talBad
    then .inl 0x40
    else if withC.zipIdx.any fun x => !x.1.1.wr && sha256 x.1.2 != sliceBytes digs (32 * x.2) 32 then .inl 0x45
    else if enc && scheds.any fun x => schedMalformed q x.1 x.2 then .inl 0x40
    else if enc && scheds.any fun x => schedBad q x.2 then .inl 0x42
    else if enc && scheds.any fun x => costBad q x.1 x.2 then .inl 0x43
    else if consumeBad tal waits then .inl 0x42
    else
      let arrOf := fun l => if l = q.arrays ∨ l = 8 then 8 else nth 9 bind l
      let pins := pinsIn secs
      let ottBase := (s.ottFirst (max q.ott pages)).getD 0
      let tb := (s.firstRun q.tallies).getD 0
      match (if pins = 0 then some s else s.roomT1 p pins) with
      | none => .inl 0x44
      | some s0 =>
        let s1 := s0.ottAlloc ottBase (max q.ott pages) p
        match s1.placeObjs p bind ottBase withC with
        | none => .inl 0x44
        | some s2 =>
          let first := fun j => ottBase + sumNat ((objs.take j).map fun o => o.pages)
          let s3 := s2.allocTallies p tb q.tallies
          let s4 := (List.range q.tallies).foldl (fun s t => s.setTally (tb + t)
            { count := leAt tal (8 * t) 2, thresh := leAt tal (8 * t + 2) 2, level := bitAt (leAt tal (8 * t + 4) 4) 0,
              owner := p, alloc := true }) s3
          let lists := (scheds.map fun x => (arrOf x.1, field (leAt x.2 4 4) 0 16, field (leAt x.2 4 4) 16 16, leAt x.2 8 4,
              (x.2.drop 64).take (64 * field (leAt x.2 4 4) 0 16), true)) ++
            pf.map fun x => (arrOf x.1, x.2.2.2.length, x.2.1, x.2.2.1, x.2.2.2.flatMap (convertDma first tb), false)
          match s4.commitArrays p tb q.tallies lists [] [] with
          | none => .inl 0x44
          | some (s5, used, at_) =>
            let image : Image :=
              { part := p, imageId := imgId img, variant := q.variant, arrays := q.arrays, fpClass := q.fpClass, bind := bind,
                sentry := q.sentry,
                gangs := ((List.range 4).map fun k => (q.gang (k + 1)).map fun i => nth 9 bind i).filter fun l => !l.isEmpty,
                tensors := (List.range (tds.length / 32)).map fun i =>
                  let t := decodeTd (sliceBytes tds (32 * i) 32)
                  { t with obj := first t.obj },
                objs := objs.zipIdx.map fun o =>
                  { ott := first o.2, pages := o.1.pages, place := o.1.place, wr := o.1.wr, wcmp := o.1.wcmp,
                    sealedCopy := o.1.sealedCopy, ctab := o.1.ctab, home := o.1.home, gangHead := o.1.gangHead,
                    gangLen := if o.1.gangHead then
                      ((List.range 4).map fun k => q.gang (k + 1)).foldl (fun n g => if g.head? = some o.1.home then g.length else n) 0
                    else 0 },
                ottBase := ottBase, ottLen := max q.ott pages, tallyBase := tb, tallyLen := q.tallies,
                minClk := max 300 (ceilDiv (((scheds.filter fun x => decide (x.1 < q.arrays)).flatMap fun x =>
                  (schedDescs x.2).map fun d => d.cost).foldl max 0) 2000),
                schedAt := at_, held := used, progDigest := progDigest img q.variant,
                weightDigest := sha256 ((((imgDir img).find? fun d => d.type == 10 && d.serves q.variant).map fun d => secBytes img d).getD []),
                hdrDigest := sha256 (img.take (64 + 64 * imgSections img)), ownerDigest := owner, contentKey := key }
            let s6 := { s5 with images := s5.images ++ [image] }
            let arrs := bind ++ (if q.sentry then [8] else [])
            let s7 := match ctab with
              | some (some l) => arrs.foldl (fun s a => s.modArr a fun x => { x with ctab := SMap.set [] x.ctab p l }) s6
              | _ => s6
            let s8 := (post.flatMap Config.postTables).foldl (fun s x => s.modArr (arrOf x.1) fun y =>
              { y with tables := SMap.set {} y.tables (p * 8 + x.2.1 % 8) { x0 := x.2.2.1, step := x.2.2.2.1 % 32, t := x.2.2.2.2 } }) s7
            let m : MEnv := { a := arrOf 0, ctx := p, img := image }
            let s9 := (post.flatMap Config.csums).foldl (fun s x => s.writeCsum m x) s8
            .inr (bind.foldl (fun s a => if s.rd (.ma a) 0 Reg.Ma.OPP_ACT < s.minPoint a then
              (s.modArr a fun x => { x with oppWait := some (s.minPoint a) }).applyOpp a else s) s9)

/-! ### LOAD -/

/-- The variant to commit: the first with no shortfall and a binding (R168). -/
def State.chooseVariant (s : State) (p : Nat) (img : List Byte) : Option (Req × List Nat) :=
  (List.range (imgVariants img)).findSome? fun v =>
    let q := reqOf img v
    if (s.shortfall p q).all fun x => x == 0 then (s.binding p q).map fun b => (q, b) else none

/-- Domains whose memory a commit writes, and SEC, which unwraps keys. -/
def loadDomains (q : Req) (bind : List Nat) : List Nat :=
  (bind.map arrDomain) ++ (if q.sentry then [1] else []) ++ (if q.well = 0 then [] else [21]) ++ [26]

/-- The checks of R168 before any variant is tried. -/
def loadCheck (img : List Byte) : Option Nat :=
  if imgFormatBad img then some 0x40
  else
    let vs := List.range (imgVariants img)
    let dir := imgDir img
    if dir.any fun d => d.type == 1 && !secOk img d then some 0x45
    else if vs.any fun v => reqBad img v then some 0x40
    else if leAt img 9 1 ≠ 2 ∨ 3 < leAt img 8 1 then some 0x41
    else match vs.findSome? fun v => variantCheck img v with
      | some c => some c
      | none => if dir.any fun d => d.type == 9 && !secOk img d then some 0x45 else none

/-- LOAD (R168 to R172): the result leaves for the partition that asked; a refusal leaves everything as it was. A commit that must
wait for the wake of a domain leaves the wake and is tried again. -/
def execLoad (part : Nat) (image : List Byte) (s : State) : Ans :=
  .next (if !s.partOn part then s
    else
      let answer := fun (s : State) c v r => s.emit (.loadResult part c v r)
      let dig := sha256 (image.take (64 + 64 * imgSections image))
      match s.images.find? fun i => i.part == part && i.hdrDigest == dig with
      | some i => answer s 0 i.variant []
      | none =>
        match loadCheck image with
        | some c => answer s c 0 []
        | none =>
          match s.keysCheck image with
          | .inl c => answer s c 0 []
          | .inr (key, owner) =>
            match s.chooseVariant part image with
            | none => answer s 0x44 0 (s.shortRecord part image)
            | some (q, bind) =>
              if q.well ≠ 0 ∧ 2 ^ 47 ≤ s.sec.wellCtr then answer s 0x59 0 []
              else
                let (s0, on) := s.wakeAll (loadDomains q bind)
                if !on then s0
                else match s0.commit part image q bind key owner with
                  | .inl c =>
                    let s1 := if c = 0x44 && s0.pinsRefused part image q.variant key then s0.allocRefused part else s0
                    answer s1 c 0 (if c = 0x44 then s0.shortRecord part image else [])
                  | .inr s1 => answer s1 0 q.variant [])

/-! ### Unload -/

/-- Unload one image (R189, R209, R225, R341): its entries and tallies go, its frames wait for zeroing, its content key is erased. -/
def State.unload (s : State) (i : Image) : State :=
  let s1 := (s.ottFree i.ottBase i.ottLen).freeTallies i.tallyBase i.tallyLen
  let s2 := i.held.foldl (fun s x => s.dirtyFrame (frameT0 x.1 x.2)) s1
  { s2 with images := s2.images.filter fun x => !(x == i) }

/-- IMAGE_UNLOAD (R189, R353): waits until every array of the image is STOPPED. -/
def execImageUnload (part imageId : Nat) (s : State) : Ans :=
  .next (match s.images.find? fun i => i.part == part && i.imageId == imageId with
    | none => s
    | some i => if s.imageQuiet i then s.unload i else s)

end Sys2Proof.Machine
end

