-- ==== Sys2Proof/Machine/Partition.lean ====
section
/-! DEFINITION. Partitions, shares and weirs (R212 to R227): assignment commands, the arbiter and its scrubs, epochs, weir windows,
enabling and disabling, and the PART page's writes. -/

namespace Sys2Proof.Machine

/-! ### Scrubs (Table 8.2, R218, R350) -/

/-- What a switch scrub clears inside an array. -/
def State.scrubSwitch (s : State) (a : Nat) : State :=
  let s1 := s.modArr a fun x => { x with acc := [], stats := [], residues := [] }
  (List.range 9).foldl (fun s c => if s.rdB (.ma a) c Reg.Ma.RECUR_VALID then s.wr (.ma a) c Reg.Ma.RECUR_VALID 0 else s) s1

/-- Count scrub cycles: a free number of nc, at most the table's bound. -/
def State.countScrub (s : State) (a most : Nat) : State :=
  let (v, s1) := s.takeFree
  s1.count .part a Reg.Part.SCRUB_NC Reg.Part.SCRUB_NC_SAT (v % (most + 1))

/-- An array scrub: the whole local store, then the switch scrub. No member has run on the array then. -/
def State.scrubArray (s : State) (a : Nat) : State :=
  let s1 := ((s.wake (arrDomain a)).zero (t0Base a) (t0Frames a * pageBytes)).scrubSwitch a
  (s1.modArr a fun x => { x with last := none, turn := none, tables := [], ctab := [] }).countScrub a 11640

/-! ### The arbiter (R216, R218) -/

/-- Begin the wait of a member whose next macro-operation waits on a tally; the flag says that it waits on none (R89, R216). -/
def State.memberGate (s : State) (a ctx : Nat) : State × Bool :=
  let d := s.descAt a ctx
  let m := s.menv a ctx d
  if s.tallyRange m then (s, true)
  else
    let (s1, go) := s.waitGate a ctx d
    if !go then (s1, false)
    else if d.op = 0x20 ∧ d.sub = 1 ∧ (s1.checkDesc m).isNone then
      if (s1.arr a).released.contains ctx then (s1, true)
      else if s1.waiters.any fun w => w.arr == a && !w.dma && w.ctx == ctx then (s1, false)
      else
        let s2 := s1.beginWait a false ctx (s1.physTally a ctx (d.os 0 0 13))
        (s2, (s2.arr a).released.contains ctx)
    else (s1, true)

/-- Whether p goes before q (R216): smaller E / W by cross products, then the larger weight, then the lower number. -/
def ArrayS.before (x : ArrayS) (p q : Nat) : Bool :=
  let (ep, eq) := (SMap.get 0 x.eP p, SMap.get 0 x.eP q)
  let (wp, wq) := (SMap.get 0 x.wAct p, SMap.get 0 x.wAct q)
  decide (ep * wq < eq * wp) || (decide (ep * wq = eq * wp) && (decide (wq < wp) || (decide (wp = wq) && decide (p < q))))

/-- The member that the arbiter takes among the ready ones. -/
def ArrayS.choose (x : ArrayS) (ready : List Nat) : Option Nat :=
  ready.foldl (fun b p => match b with
    | none => some p
    | some q => if x.before p q then some p else some q) none

/-- ARBITER_CHOICE (R216, R218): at a boundary of a SHARED array, the choice among the ready members, and the switch scrub where the
chosen one is not the one that ran last. -/
def execArbiterChoice (a : Nat) (s : State) : Ans :=
  .next (match s.assignOf a with
    | .shared members =>
      if (s.arr a).mop.isSome || (s.arr a).turn.isSome || !s.domOn (arrDomain a) then s
      else
        let running := members.filter fun c => s.st (.ma a) c == 1
        let (s1, open_) := running.foldl (fun (acc : State × List Nat) c =>
          let (t, go) := acc.1.memberGate a c
          (t, if go then acc.2 ++ [c] else acc.2)) (s, [])
        match (s1.arr a).choose (open_.filter fun c => !s1.ringFull a c) with
        | none => s1
        | some p =>
          let s2 := s1.modArr a fun x => { x with turn := some p }
          match (s2.arr a).last with
          | some q =>
            if p = q then s2
            else ((s2.scrubSwitch a).count .part a Reg.Part.SWITCHES Reg.Part.SWITCHES_SAT 1).countScrub a 1800
          | none => s2
    | _ => s)

/-- SHARE_W of a partition on an array. -/
def State.shareW (s : State) (p a : Nat) : Nat := s.rd .part (p * 16 + a) Reg.Part.SHARE_W

/-- EPOCH_BOUNDARY (R217): every E_p of every SHARED array is 0 and the staged weights become active; the timestamp is that of the
boundary. -/
def execEpochBoundary (s : State) : Ans :=
  .next ((List.range 8).foldl (fun s a => match s.assignOf a with
    | .shared members => s.modArr a fun x =>
        { x with eP := members.foldl (fun t p => SMap.set 0 t p 0) x.eP,
                 wAct := members.foldl (fun t p => SMap.set 0 t p (s.shareW p a)) x.wAct }
    | _ => s) { s with now := (s.now / 1000000 + 1) * 1000000 })

/-! ### Weirs (R222, R223) -/

/-- Stall counter and budget registers of a weir: 0 LPDDR, 1 CIS, 2 PCIE. -/
def weirRegs (k : Nat) : Fld × Fld × Fld × Fld :=
  match k with
  | 0 => (Reg.Part.LPDDR_STALL, Reg.Part.LPDDR_STALL_SAT, Reg.Part.LPDDR_BUDGET, Reg.Part.LPDDR_EN)
  | 1 => (Reg.Part.CIS_STALL, Reg.Part.CIS_STALL_SAT, Reg.Part.CIS_BUDGET, Reg.Part.CIS_EN)
  | _ => (Reg.Part.PCIE_STALL, Reg.Part.PCIE_STALL_SAT, Reg.Part.PCIE_BUDGET, Reg.Part.PCIE_EN)

/-- Count the waits of the weirs that held a line in the window that ends (R222). -/
def State.countHeld (s : State) : State :=
  let s1 := s.parts.held.foldl (fun s h =>
    let r := weirRegs (h.1 % 3)
    s.count .part (h.1 / 3) r.1 r.2.1 (ncOf (s.now - h.2))) s
  let ps := (s.parts.held.map fun h => h.1 / 3).eraseDups
  let s2 := ps.foldl (fun s p => s.countSat32 .part p Reg.Part.WEIR_WINDOWS 1) s1
  { s2 with parts := { s2.parts with held := [] } }

/-- WEIR_WINDOW_START (R222, R223): tokens are set to the budgets, staged budgets and EN bits become active, and the outbound TLPs that
waited for this window leave. -/
def execWeirWindowStart (s : State) : Ans :=
  let s1 := State.countHeld { s with now := (s.now / 1000 + 1) * 1000 }
  .next ((List.range 24).foldl (fun s k =>
    let r := weirRegs (k % 3)
    let b := s.rd .part (k / 3) r.2.2.1
    { s with parts := { s.parts with tokens := SMap.set 0xFFFF s.parts.tokens k b, budget := SMap.set 0xFFFF s.parts.budget k b,
                                     weirEn := SMap.set false s.parts.weirEn k (s.rdB .part (k / 3) r.2.2.2) } }) s1 |>.releaseTlps)

/-! ### Assignment (R213, R214) -/

/-- Whether a partition has an image bound to an array. -/
def State.hasBound (s : State) (p a : Nat) : Bool :=
  s.images.any fun i => i.part == p && (i.bind.contains a || (a == 8 && i.sentry))

def State.setAssign (s : State) (a : Nat) (x : Assign) : State :=
  { s with parts := { s.parts with assign := SMap.set .unassigned s.parts.assign a x } }

/-- Members of an array that is SHARED or UNASSIGNED, as a share set. -/
def membersOf : Assign → Option (List Nat)
  | .unassigned => some []
  | .shared l => some l
  | .owned _ => none

/-- The refusal of an assignment command, first in the order ABSENT, PART_OFF, MODE, BOUND, WEIGHT0 (Table 8.1); 0 where accepted. -/
def State.assignRefusal (s : State) (op a p : Nat) : Nat :=
  let absent := decide (8 < a) || !(s.rdB .floor 0 (Reg.Floor.PRESENT a)) || s.rdB .floor 0 (Reg.Floor.REMOVED a)
  let x := s.assignOf a
  if absent then 2
  else match op with
    | 0 => match x with
      | .owned q => if s.hasBound q a then 1 else 0
      | _ => 4
    | 1 => if !s.partOn p then 3 else if x == .unassigned then 0 else 4
    | 2 =>
      if !s.partOn p then 3
      else match membersOf x with
        | none => 4
        | some l => if l.contains p || a == 8 then 4 else if s.shareW p a = 0 then 5 else 0
    | _ => match x with
      | .shared l => if !l.contains p then 4 else if s.hasBound p a then 1 else 0
      | _ => 4

/-- Take a partition out of an array's share set; the last member leaves the array scrubbed and UNASSIGNED (R214, R218). -/
def State.dropMember (s : State) (a p : Nat) : State :=
  match s.assignOf a with
  | .shared l =>
    let rest := l.filter fun q => q != p
    let s1 := s.modArr a fun x => { x with wAct := SMap.set 0 x.wAct p 0, eP := SMap.set 0 x.eP p 0,
                                           turn := if x.turn = some p then none else x.turn }
    if rest.isEmpty then (s1.scrubArray a).setAssign a .unassigned else s1.setAssign a (.shared rest)
  | _ => s

/-- Whether an accepted assignment command scrubs its array (R214, R218): a RELEASE, and the removal of the last member. -/
def State.assignScrubs (s : State) (op a p : Nat) : Bool :=
  op == 0 || (op == 3 && match s.assignOf a with
    | .shared l => (l.filter fun q => q != p).isEmpty
    | _ => false)

/-- An accepted assignment command. -/
def State.assignDo (s : State) (op a p : Nat) : State :=
  match op with
  | 0 => (s.scrubArray a).setAssign a .unassigned
  | 1 => s.setAssign a (.owned p)
  | 2 =>
    let l := (membersOf (s.assignOf a)).getD []
    (s.modArr a fun x => { x with wAct := SMap.set 0 x.wAct p (s.shareW p a), eP := SMap.set 0 x.eP p 0 }).setAssign a
      (.shared (insAsc p l))
  | _ => s.dropMember a p

/-- The write of 0x138 (R214, R226, R227): a refused command counts in ERR_CNT0, as does a write while A_GO reads 1, which is ignored. A command
that scrubs an array whose domain is not ON wakes it, and A_GO reads 1 until it is ready. -/
def State.assignCmd (s : State) (w : Nat) : State :=
  let (op, a, p) := (field w 0 2, field w 2 4, field w 6 3)
  if s.rdB .part 0 Reg.Part.A_GO then s.errCount .part 0 0 1
  else
  let s1 := ((s.wr .part 0 Reg.Part.A_OP op).wr .part 0 Reg.Part.A_ARRAY a).wr .part 0 Reg.Part.A_PART p
  if !bitAt w 31 then s1
  else
    let r := s1.assignRefusal op a p
    let s2 := s1.wr .part 0 Reg.Part.A_STATUS r
    if r ≠ 0 then s2.errCount .part 0 0 1
    else if s2.assignScrubs op a p then
      let s3 := s2.wake (arrDomain a)
      if s3.domOn (arrDomain a) then s3.assignDo op a p else s3.wr .part 0 Reg.Part.A_GO 1
    else s2.assignDo op a p

/-- A domain has become ready: the assignment command that waited for it to scrub its array is done (R214, R226). -/
def State.assignResume (s : State) (d : Nat) : State :=
  let (op, a, p) := (s.rd .part 0 Reg.Part.A_OP, s.rd .part 0 Reg.Part.A_ARRAY, s.rd .part 0 Reg.Part.A_PART)
  if s.rdB .part 0 Reg.Part.A_GO && arrDomain a == d then (s.assignDo op a p).wr .part 0 Reg.Part.A_GO 0 else s

/-! ### Enabling and disabling (R212, R225) -/

/-- Arrays on which a partition has a context. -/
def State.arraysOf (s : State) (p : Nat) : List Nat := (List.range 9).filter fun a => match s.assignOf a with
  | .unassigned => false
  | .owned q => p == q
  | .shared l => l.contains p

/-- The pages on which a partition has a context: those of its arrays and DMA engines, and host DMA (R215, R225, R381). -/
def State.partPages (s : State) (p : Nat) : List (Page × Nat) :=
  ((s.arraysOf p).flatMap fun a => if a = 8 then [(Page.ma a, p)] else [(.ma a, p), (.dma a, p)]) ++ [(.pcie, p + 1)]

/-- Start disabling a partition: STOP_REQ on every context of it (R225 step 1). -/
def State.disablePart (s : State) (p : Nat) : State :=
  if !s.partOn p || s.parts.disabling.contains p then s
  else (s.partPages p).foldl (fun s x => s.stopReq x.1 x.2)
    { s with parts := { s.parts with disabling := insAsc p s.parts.disabling } }

/-- Whether no context of a partition runs any more: it is STOPPED, or a fault has stopped it (R225 step 2). -/
def State.partQuiet (s : State) (p : Nat) : Bool :=
  (s.partPages p).all fun x => s.st x.1 x.2 == 0 || s.st x.1 x.2 == 3

/-- A waiting debug unlock takes effect once no partition is enabled (R359). -/
def State.debugOpens (s : State) : State :=
  match s.sec.dbgOpening with
  | none => s
  | some scope =>
    if (List.range 8).any s.partOn then s
    else ({ s with sec := { s.sec with dbgOpening := none, dbgScope := or32 s.sec.dbgScope scope } }).irq .sec none 4

/-- The weirs, weights and cycle counters of a partition return to reset (R225 step 6). -/
def State.resetPart (s : State) (p : Nat) : State :=
  let s1 := (List.range 3).foldl (fun s k =>
    let r := weirRegs k
    (((s.wr .part p r.1 0).wr .part p r.2.1 0).wr .part p r.2.2.1 r.2.2.1.reset).wr .part p r.2.2.2 0) s
  let s2 := (List.range 9).foldl (fun s a => (s.wr .part (p * 16 + a) Reg.Part.SHARE_W 0).modArr a fun x =>
    { x with engineAc := SMap.set 0 x.engineAc p 0, eP := SMap.set 0 x.eP p 0, wAct := SMap.set 0 x.wAct p 0 }) s1
  let s3 := s2.wr .part p Reg.Part.WEIR_WINDOWS 0
  { s3 with parts := { s3.parts with
      tokens := SMap.erase (fun k => k / 3 == p) s3.parts.tokens, budget := SMap.erase (fun k => k / 3 == p) s3.parts.budget,
      weirEn := SMap.erase (fun k => k / 3 == p) s3.parts.weirEn, held := s3.parts.held.filter fun h => h.1 / 3 != p } }

/-- PARTITION_TEARDOWN (R225 steps 2 to 6): once every context has stopped (one that a fault stopped follows its STOP_REQ), and the arrays to
be scrubbed are ON, images are unloaded, entries and tallies released, frames
zeroed, arrays scrubbed and left UNASSIGNED, and PART_EN reads 0. -/
def execPartitionTeardown (p : Nat) (s : State) : Ans :=
  .next (if !s.parts.disabling.contains p || !s.partQuiet p then s
    else
    let (t, on) := (s.partPages p).foldl (fun s x => s.stopReq x.1 x.2) s |>.wakeAll (((List.range 9).filter fun a => s.assignOf a == .owned p).map arrDomain)
    if !on then t
    else
      let s1 := (t.images.filter fun i => i.part == p).foldl State.unload t
      let mine := s1.tier.ott.filter fun e => ottPart e.2 == p
      let frames := s1.tier.dirty ++ mine.flatMap fun e => ottFrames e.2
      let s2 := (s1.tier.runs.filter fun r => r.2.2 == p).foldl (fun s r => s.ottFree r.1 r.2.1) s1
      let s3 := (s2.tier.ott.filter fun e => ottPart e.2 == p).foldl (fun s e => s.ottFree e.1 1) s2
      let s4 := (s3.tallies.filter fun t => t.2.alloc && t.2.owner == p).foldl (fun s t => s.setTally t.1 {}) s3
      let s5 := frames.foldl State.zeroFrame s4
      let s6 := (s5.arraysOf p).foldl (fun s a => match s.assignOf a with
        | .owned _ => (s.scrubArray a).setAssign a .unassigned
        | _ => s.dropMember a p) s5
      let s7 := (s6.resetPart p).wr .part p Reg.Part.PART_EN 0
      ({ s7 with parts := { s7.parts with disabling := s7.parts.disabling.filter fun q => q != p } }).debugOpens)

/-! ### The PART page (R195, R226, R227) -/

/-- Whether quotas stay within the frames present less both ISP reservations, with partition p's replaced by n (R195). -/
def State.quotaFits (s : State) (p n : Nat) : Bool :=
  decide (sumNat ((List.range 8).map fun q => if q = p then n else s.quota q) + s.rd (.isp 0) 0 Reg.Isp.CIS_RES +
    s.rd (.isp 1) 0 Reg.Isp.CIS_RES ≤ s.cisFrames.length)

/-- Write of T1_QUOTA (R195, R198, R226). -/
def State.writeQuota (s : State) (p n : Nat) : State :=
  if s.quotaFits p n then (s.wr .part p Reg.Part.T1_QUOTA n).cutQuota p else s.errCount .part 0 0 1

/-- Write of PART_EN (R212, R225). -/
def State.writePartEn (s : State) (p : Nat) (en : Bool) : State :=
  if en then
    if s.parts.disabling.contains p then s.errCount .part 0 0 1 else s.wr .part p Reg.Part.PART_EN 1
  else s.disablePart p

/-- A write to the PART page's block registers (R226, R227). -/
def State.partWrite (s : State) (v : View) (off w : Nat) : State :=
  let p := Page.part
  match v with
  | .vf q =>
    if off = 0x100 then
      let s1 := s.wr p (q + 1) Reg.Part.ASEL (field w 4 4)
      if field w 0 3 ≠ q ∨ field w 8 3 ≠ 0 then s1.errCount p 0 1 1 else s1
    else if (0x104 ≤ off ∧ off ≤ 0x12C) ∨ (0x138 ≤ off ∧ off ≤ 0x144) then s.errCount p 0 1 1
    else s
  | _ =>
    let ps := s.rd p 0 Reg.Part.PSEL
    let as := s.rd p 0 Reg.Part.ASEL
    if off = 0x138 then s.assignCmd w
    else if off = 0x104 then (s.writePartEn ps (bitAt w 0)).writeQuota ps (field w 16 11)
    else
      let bank := if off = 0x100 then 0 else if off = 0x12C then ps * 16 + as else if 0x140 ≤ off then as else ps
      s.wrFields p bank off w Reg.Part.all

/-- Access to a register of the PART page by its command's name. -/
def State.partReg (s : State) (v : View) (off w : Nat) : State :=
  s.viaBus v (0x050000 + off) 4 w fun s _ _ o => s.partWrite v o w

/-- T1_QUOTA (R198). -/
def execT1Quota (v : View) (w : Word) (s : State) : Ans := .next (s.partReg v 0x104 w.toNat)

/-- PART_ENABLE (R212): the write with PART_EN = 1. -/
def execPartEnable (v : View) (w : Word) (s : State) : Ans := .next (s.partReg v 0x104 (setField w.toNat 0 1 1))

/-- PART_DISABLE (R225): the write with PART_EN = 0. -/
def execPartDisable (v : View) (w : Word) (s : State) : Ans := .next (s.partReg v 0x104 (setField w.toNat 0 1 0))

/-- The write of 0x138 with A_GO and a given A_OP. -/
def assignWord (w op : Nat) : Nat := setField (setField w 0 2 op) 31 1 1

/-- RELEASE (R214). -/
def execAssignRelease (v : View) (w : Word) (s : State) : Ans := .next (s.partReg v 0x138 (assignWord w.toNat 0))

/-- OWN (R213, R214). -/
def execAssignOwn (v : View) (w : Word) (s : State) : Ans := .next (s.partReg v 0x138 (assignWord w.toNat 1))

/-- SHARE_ADD (R213, R214, R217). -/
def execShareAdd (v : View) (w : Word) (s : State) : Ans := .next (s.partReg v 0x138 (assignWord w.toNat 2))

/-- SHARE_REMOVE (R214). -/
def execShareRemove (v : View) (w : Word) (s : State) : Ans := .next (s.partReg v 0x138 (assignWord w.toNat 3))

end Sys2Proof.Machine
end

