-- ==== Sys2Proof/Machine/Security.lean ====
section
/-! DEFINITION. SEC (R335 to R347, R352 to R360): random numbers, the SEC page's commands, SPDM, measurements, and IDE keys. -/

namespace Sys2Proof.Machine

/-! ### Random numbers (R354 to R356) -/

/-- Reseed of the DRBG (R354): its state is a free value. -/
def State.reseed (s : State) : State :=
  let (v, s1) := s.takeFree
  ({ s1 with sec := { s1.sec with drbg := v, generates := 0 } }).count .trng 0 Reg.Trng.RESEEDS Reg.Trng.RESEEDS_SAT 1

/-- One generate request: an output of 384 bits; after 2^20 requests the DRBG reseeds first. -/
def State.drbgTake (s : State) : Nat × State :=
  let s1 := if 2 ^ 20 ≤ s.sec.generates then s.reseed else s
  (Config.drbgOut s1.sec.drbg, { s1 with sec := { s1.sec with drbg := Config.drbgNext s1.sec.drbg, generates := s1.sec.generates + 1 } })

/-- Whether the DRBG is seeded now. -/
def State.seeded (s : State) : Bool := s.rdB .trng 0 Reg.Trng.SEEDED

/-- Read of DATA by a requester (R355, R356): 32 bits of output, or 0 while not seeded; VALID of the requester follows. -/
def State.trngRead (s : State) (v : View) : Nat × State :=
  if s.seeded then
    let (x, s1) := s.drbgTake
    (x % 2 ^ 32, { s1 with sec := { s1.sec with valid := SMap.set false s1.sec.valid (View.num v) true } })
  else (0, { s with sec := { s.sec with valid := SMap.set false s.sec.valid (View.num v) false } })

/-- HEALTH_FAIL (R355). -/
def execHealthFail (s : State) : Ans :=
  .next (if !s.domOn 26 then s
    else (((s.wr .trng 0 Reg.Trng.SEEDED 0).wr .trng 0 Reg.Trng.HEALTH_FAIL 1).errCount .trng 0 0 1).irq .trng none 0)

/-- DRBG_RESEED (R354): one second has passed since the last seed. -/
def execDrbgReseed (s : State) : Ans := .next (if s.domOn 26 && s.seeded then s.reseed else s)

/-! ### The SEC page's commands (R336, R346, R357 to R360) -/

/-- Direct address of the command block. -/
def State.cmdBlock (s : State) : Nat := s.rd .sec 0 Reg.Sec.CMD_LO + s.rd .sec 0 Reg.Sec.CMD_HI * 2 ^ 32

/-- OWNER_PROG: slot, DEBUG, hash (Table 13.10; operand bytes of log 26). -/
def State.ownerProg (s : State) (b : List Byte) : Nat × State :=
  let slot := leAt b 8 1
  if 3 < slot then (6, s)
  else if s.sec.lc ≠ 1 then (2, s)
  else if (SMap.get {} s.sec.owners slot).en then (3, s)
  else (0, { s with sec := { s.sec with owners := SMap.set {} s.sec.owners slot (Owner.mk (sliceBytes b 10 32) true (bitAt (leAt b 9 1) 0)) } })

/-- LC_ADVANCE (R335, R336). -/
def State.lcAdvance (s : State) (b : List Byte) : Nat × State :=
  match leAt b 8 1 with
  | 2 =>
    if s.sec.lc ≠ 1 then (2, s)
    else if !((List.range 4).any fun i => (SMap.get {} s.sec.owners i).en) || (List.range 8).any s.partOn then (3, s)
    else (0, { s with sec := { s.sec with lcPending := some 2 } })
  | 3 =>
    if s.sec.lc ≠ 2 then (2, s)
    else match s.sec.challenge with
      | none => (3, s)
      | some c =>
        let s1 := { s with sec := { s.sec with challenge := none } }
        if Config.ecdsaOk Config.grenariPub (sha384 c) (sliceBytes b 9 96) then
          (0, { s1 with sec := { s1.sec with lcPending := some 3 } })
        else (4, s1)
  | _ => (6, s)

/-- ROLLBACK_ADV: a lower value changes nothing. -/
def State.rollbackAdv (s : State) (b : List Byte) : Nat × State :=
  let (i, v) := (leAt b 8 1, leAt b 9 1)
  if 15 < i ∨ 64 < v then (6, s)
  else if s.sec.lc ≠ 1 ∧ s.sec.lc ≠ 2 then (2, s)
  else (0, { s with sec := { s.sec with rollback := SMap.set 0 s.sec.rollback i (max v (SMap.get 0 s.sec.rollback i)) } })

/-- DBG_CHALLENGE (R358): the challenge is written at byte 8 of the block and voids the previous one. -/
def State.dbgChallenge (s : State) (addr : Nat) (b : List Byte) : Nat × State :=
  if s.sec.lc = 0 then (2, s)
  else if s.rdB .sec 0 Reg.Sec.DBG_LOCKOUT then (3, s)
  else
    let (x, s1) := s.drbgTake
    let c := s1.deviceId ++ leBytes 16 x ++ sliceBytes b 8 4 ++ leBytes 1 s1.sec.lc ++ List.replicate 11 0
    (0, ({ s1 with sec := { s1.sec with challenge := some c } }).dstore (addr + 8) c)

/-- Whether a debug key is one that Table 13.1 permits in the present state. -/
def State.debugKeyOk (s : State) (hash : List Byte) : Bool :=
  let owner := (List.range 4).any fun i =>
    let o := SMap.get {} s.sec.owners i
    o.en && o.dbg && o.hash == hash
  let grenari := hash == Config.grenariDebugHash
  match s.sec.lc with
  | 1 => owner || grenari
  | 2 => owner
  | 3 => grenari
  | _ => false

/-- DBG_RESPONSE (R358, R359): one response to a challenge; in SEALED a scope that reaches memory disables the partitions first. -/
def State.dbgResponse (s : State) (b : List Byte) : Nat × State :=
  match s.sec.challenge with
  | none => (3, s)
  | some c =>
    let s1 := { s with sec := { s.sec with challenge := none } }
    let pub := sliceBytes b 8 96
    if s1.debugKeyOk (sha256 pub) && Config.ecdsaOk pub (sha384 c) (sliceBytes b 104 96) then
      let scope := leAt c 48 4 % 16
      if s1.sec.lc = 2 ∧ and32 scope 0xB ≠ 0 then
        let s2 := (List.range 8).foldl State.disablePart s1
        (0, ({ s2 with sec := { s2.sec with dbgOpening := some scope } }).debugOpens)
      else (0, { s1 with sec := { s1.sec with dbgScope := or32 s1.sec.dbgScope scope } })
    else
      let s2 := ({ s1 with sec := { s1.sec with dbgFails := s1.sec.dbgFails + 1 } }).errCount .sec 0 3 1
      (4, if 8 ≤ s2.sec.dbgFails then s2.wr .sec 0 Reg.Sec.DBG_LOCKOUT 1 else s2)

/-- WELL_REKEY (R346). -/
def State.wellRekey (s : State) : Nat × State :=
  if s.st .lpddr 0 ≠ 0 ∨ !s.wellUsed.isEmpty then (3, s)
  else
    let (k, s1) := s.drbgTake
    (0, ({ s1 with sec := { s1.sec with wellKey := k, wellCtr := 0 } }).wr .sec 0 Reg.Sec.REKEY_DUE 0)

/-- Run the command in the block (R249, R360). -/
def State.runSecCmd (s : State) : State :=
  let addr := s.cmdBlock
  let (s, b) := s.meetData addr 256
  let (st, s1) := match leAt b 0 1 with
    | 1 => s.ownerProg b
    | 2 => s.lcAdvance b
    | 3 => s.rollbackAdv b
    | 4 => s.dbgChallenge addr b
    | 5 => s.dbgResponse b
    | 6 => s.wellRekey
    | _ => (6, s)
  let s2 := ((s1.wr .sec 0 Reg.Sec.CMD_STATUS st).wr .sec 0 Reg.Sec.CMD_GO 0).irq .sec none 0
  if st = 0 then s2 else s2.errCount .sec 0 0 1

/-- The write of 0x144 (R355, R360): a command written while another runs is ignored; one that needs randomness waits for SEEDED.
only names the CODE that a command of that name runs. -/
def State.secCmd (s : State) (w : Nat) (only : Option Nat) : State :=
  if s.rdB .sec 0 Reg.Sec.CMD_GO then (if bitAt w 31 then s.errCount .sec 0 0 1 else s)
  else
    let s1 := s.wr .sec 0 Reg.Sec.CMD_HI (field w 0 8)
    if !bitAt w 31 then s1
    else
      let addr := s1.cmdBlock
      let (s2, on) := s1.wakeAll [memDomain addr]
      let code := (s2.byte addr).toNat
      if !on then s2
      else match only with
        | some c => if code ≠ c then s1 else if (c = 4 ∨ c = 6) ∧ !s2.seeded then
            (s2.wr .sec 0 Reg.Sec.CMD_GO 1).wr .sec 0 Reg.Sec.CMD_STATUS 1 else s2.runSecCmd
        | none => if (code = 4 ∨ code = 6) ∧ !s2.seeded then
            (s2.wr .sec 0 Reg.Sec.CMD_GO 1).wr .sec 0 Reg.Sec.CMD_STATUS 1 else s2.runSecCmd

/-- A SEC command by its name: the write of 0x144 with CMD_GO, where the block holds that CODE. -/
def State.secNamed (s : State) (v : View) (w code : Nat) : State :=
  s.viaBus v 0x0A0144 4 w fun s _ _ _ => s.secCmd (setField w 31 1 1) (some code)

/-- OWNER_PROG (Table 13.10). -/
def execOwnerProg (v : View) (w : Word) (s : State) : Ans := .next (s.secNamed v w.toNat 1)

/-- LC_ADVANCE (R336). -/
def execLcAdvance (v : View) (w : Word) (s : State) : Ans := .next (s.secNamed v w.toNat 2)

/-- ROLLBACK_ADV (Table 13.10). -/
def execRollbackAdv (v : View) (w : Word) (s : State) : Ans := .next (s.secNamed v w.toNat 3)

/-- DBG_CHALLENGE (R358). -/
def execDbgChallenge (v : View) (w : Word) (s : State) : Ans := .next (s.secNamed v w.toNat 4)

/-- DBG_RESPONSE (R358, R359). -/
def execDbgResponse (v : View) (w : Word) (s : State) : Ans := .next (s.secNamed v w.toNat 5)

/-- WELL_REKEY (R346). -/
def execWellRekey (v : View) (w : Word) (s : State) : Ans := .next (s.secNamed v w.toNat 6)

/-- TRNG_SEEDED (R354, R355): the seed has passed; a SEC command that waited for it runs. -/
def execTrngSeeded (s : State) : Ans :=
  .next (if !s.domOn 26 then s
    else
      let (v, s1) := s.takeFree
      let s2 := ({ s1 with sec := { s1.sec with drbg := v, generates := 0 } }).wr .trng 0 Reg.Trng.SEEDED 1
      if s2.rdB .sec 0 Reg.Sec.CMD_GO then s2.runSecCmd else s2)

/-! ### Attestation (R352, R353) -/

/-- Register word of SEC at 0x100 (Table 13.9); IDE_REQ is fixed at 1 in SEALED. -/
def State.secWord0 (s : State) : Nat :=
  s.sec.lc % 4 + b2n s.sec.lcPending.isSome * 4 + s.sec.dbgScope % 16 * 16 + s.rd .sec 0 Reg.Sec.DBG_LOCKOUT * 256 +
    b2n (s.rdB .sec 0 Reg.Sec.IDE_REQ || s.sec.lc == 2) * 512

/-- Register word of SEC at 0x104. -/
def State.secWord1 (s : State) : Nat :=
  maskOf ((List.range 4).filter fun i => (SMap.get {} s.sec.owners i).en) +
    16 * maskOf ((List.range 4).filter fun i => (SMap.get {} s.sec.owners i).dbg)

/-- OWNS and SHARES of a partition (Table 8.5). -/
def State.ownsOf (s : State) (p : Nat) : Nat := maskOf ((List.range 9).filter fun a => s.assignOf a == .owned p)
def State.sharesOf (s : State) (p : Nat) : Nat := maskOf ((List.range 8).filter fun a => match s.assignOf a with
  | .shared l => l.contains p
  | _ => false)

/-- The record of a loaded image in measurements. -/
def imageRecord (i : Image) : List Byte :=
  leBytes 1 i.part ++ leBytes 1 i.variant ++ leBytes 8 i.imageId ++ sliceBytes i.hdrDigest 0 32 ++ sliceBytes i.progDigest 0 32 ++
    sliceBytes i.weightDigest 0 32 ++ sliceBytes i.ownerDigest 0 32

/-- Records of every loaded image, in partition order and then load order. -/
def State.imageRecords (s : State) : List (List Byte) :=
  (List.range 8).flatMap fun p => (s.images.filter fun i => i.part == p).map imageRecord

/-- Measurement blocks (Table 13.7; byte layouts of log 27). -/
def State.measurements (s : State) : List (Nat × List Byte) :=
  let word := fun (n : Nat) => leBytes 4 n
  let part := fun (p : Nat) =>
    let b := fun (f e : Fld) => word (s.rd .part p f + 65536 * s.rd .part p e)
    leBytes 1 (s.rd .part p Reg.Part.PART_EN) ++ leBytes 2 (s.ownsOf p) ++ leBytes 1 (s.sharesOf p) ++
    ((List.range 9).flatMap fun a => leBytes 2 (s.rd .part (p * 16 + a) Reg.Part.SHARE_W)) ++
    leBytes 2 (s.rd .part p Reg.Part.T1_QUOTA) ++ b Reg.Part.LPDDR_BUDGET Reg.Part.LPDDR_EN ++
    b Reg.Part.CIS_BUDGET Reg.Part.CIS_EN ++ b Reg.Part.PCIE_BUDGET Reg.Part.PCIE_EN
  let fl := fun (f : Fld) => s.rd .floor 0 f
  let recs := s.imageRecords
  [(1, Config.bootRomDigest), (2, s.sec.aonMeas), (3, s.sec.stwMeas),
   (4, word s.secWord0 ++ word s.secWord1 ++ s.deviceId),
   (5, (List.range 16).flatMap fun i => leBytes 1 (SMap.get 0 s.sec.rollback i)),
   (6, (List.range 8).flatMap part),
   (7, word (fl Reg.Floor.ARR_PRESENT + 65536 * fl Reg.Floor.ARR_REMOVED) ++
      word (fl Reg.Floor.LINK_PRESENT + 65536 * fl Reg.Floor.LINK_FAILED) ++
      word (fl Reg.Floor.CIS_PRESENT + 256 * fl Reg.Floor.CIS_FAILED + 65536 * fl Reg.Floor.CH_PRESENT +
        2 ^ 24 * fl Reg.Floor.CH_FAILED)),
   (15, sha256 recs.flatten)] ++
  (recs.take 239).zipIdx.map fun r => (16 + r.2, r.1)

/-- An SPDM request reaches SEC (R323, R352): it waits for the domain. -/
def State.spdm (s : State) (ok : Bool) (go : State → State) : State :=
  let (s1, on) := s.wakeAll [26]
  if !on then s1 else if ok then go s1 else s1.emit .spdmError

def State.setSpdm (s : State) (x : SpdmS) : State := { s with sec := { s.sec with spdm := x } }

/-- A signature by DEV_PRIV: 96 free bytes, since ECDSA draws a fresh number for each. -/
def State.signed (s : State) (f : List Byte → Out) : State :=
  let (g, s1) := s.takeBytes 96
  s1.emit (f g)

/-- GET_VERSION (R352): a new connection. -/
def execGetVersion (s : State) : Ans :=
  .next (s.spdm true fun s => (s.setSpdm { version := true, keyGen := s.sec.spdm.keyGen }).emit .spdmVersion)

/-- GET_CAPABILITIES (R352). -/
def execGetCapabilities (s : State) : Ans :=
  .next (s.spdm s.sec.spdm.version fun s => (s.setSpdm { s.sec.spdm with caps := true }).emit .spdmCapabilities)

/-- NEGOTIATE_ALGORITHMS (R352). -/
def execNegotiateAlgorithms (s : State) : Ans :=
  .next (s.spdm s.sec.spdm.caps fun s => (s.setSpdm { s.sec.spdm with algs := true }).emit .spdmAlgorithms)

/-- GET_DIGESTS (R337, R352): slot 0, or none where it is empty. -/
def execGetDigests (s : State) : Ans :=
  .next (s.spdm s.sec.spdm.algs fun s =>
    s.emit (.spdmDigests (if s.sec.certChain.isEmpty then [] else sha384 s.sec.certChain)))

/-- GET_CERTIFICATE (R337, R352): a portion of the chain of slot 0. -/
def execGetCertificate (slot offset len : Nat) (s : State) : Ans :=
  .next (s.spdm (s.sec.spdm.algs && slot == 0 && !s.sec.certChain.isEmpty && decide (offset < s.sec.certChain.length)) fun s =>
    s.emit (.spdmCertificate ((s.sec.certChain.drop offset).take len)))

/-- CHALLENGE (R352): the digest of the chain and a signature. -/
def execChallenge (slot : Nat) (_nonce : List Byte) (s : State) : Ans :=
  .next (s.spdm (s.sec.spdm.algs && slot == 0 && !s.sec.certChain.isEmpty) fun s =>
    s.signed fun g => .spdmChallengeAuth (sha384 s.sec.certChain) g)

/-- GET_MEASUREMENTS (R352, R353): index 0 asks how many blocks there are, 255 for all of them, another for one. -/
def execGetMeasurements (index : Nat) (sign : Bool) (_nonce : List Byte) (s : State) : Ans :=
  .next (s.spdm s.sec.spdm.algs fun s =>
    let all := s.measurements
    let sel := if index = 0 then [(0, leBytes 1 all.length)] else if index = 255 then all else all.filter fun b => b.1 == index
    if sel.isEmpty then s.emit .spdmError
    else if sign then s.signed fun g => .spdmMeasurements sel g
    else s.emit (.spdmMeasurements sel []))

/-- KEY_EXCHANGE (R352): a session begins. -/
def execKeyExchange (_pub : List Byte) (s : State) : Ans :=
  .next (s.spdm (s.sec.spdm.algs && s.sec.spdm.session == 0) fun s =>
    (s.setSpdm { s.sec.spdm with session := 1, keyGen := s.sec.spdm.keyGen + 1 }).signed fun g => .spdmKeyExchange g)

/-- FINISH (R352): the session is established where the message verifies, and ends otherwise. -/
def execFinish (mac : List Byte) (s : State) : Ans :=
  .next (s.spdm (s.sec.spdm.session == 1) fun s =>
    if Config.finishOk s.sec.spdm.keyGen mac then (s.setSpdm { s.sec.spdm with session := 2 }).emit .spdmAck
    else (s.setSpdm { s.sec.spdm with session := 0 }).emit .spdmError)

/-- HEARTBEAT (R352). -/
def execHeartbeat (s : State) : Ans := .next (s.spdm (s.sec.spdm.session == 2) fun s => s.emit .spdmAck)

/-- KEY_UPDATE (R352). -/
def execKeyUpdate (s : State) : Ans :=
  .next (s.spdm (s.sec.spdm.session == 2) fun s =>
    (s.setSpdm { s.sec.spdm with keyGen := s.sec.spdm.keyGen + 1 }).emit .spdmAck)

/-- END_SESSION (R352). -/
def execEndSession (s : State) : Ans :=
  .next (s.spdm (s.sec.spdm.session == 2) fun s => (s.setSpdm { s.sec.spdm with session := 0 }).emit .spdmAck)

/-! ### IDE (R342, R343) -/

def State.ide (s : State) (k : Nat) : IdeS := SMap.get {} s.sec.ide k
def State.setIde (s : State) (k : Nat) (x : IdeS) : State := { s with sec := { s.sec with ide := SMap.set {} s.sec.ide k x } }

/-- IDE_KM (R342): keys are programmed in a secured session and taken up by K_SET_GO, which also keys an Insecure stream again. -/
def execIdeKm (m : IdeKm) (s : State) : Ans :=
  .next (s.spdm (s.sec.spdm.session == 2) fun s =>
    match m with
    | .keyProg st key rids => (s.setIde st { s.ide st with nextKey := some key, rids := rids }).emit .spdmAck
    | .kSetGo st =>
      match (s.ide st).nextKey with
      | none => s.emit .spdmError
      | some k => (s.setIde st { s.ide st with key := k, nextKey := none, secure := true, insecure := false }).emit .spdmAck)

/-- IDE_INTEGRITY_FAILURE (R343). -/
def execIdeIntegrityFailure (stream : Nat) (s : State) : Ans :=
  .next (((s.setIde stream { s.ide stream with secure := false, insecure := true }).errCount .sec 0 1 1).irq .sec none 1)

end Sys2Proof.Machine
end

