-- ==== Sys2Proof/Machine/Audio.lean ====
section
/-! DEFINITION. Microphones, the sump, the wake detectors, audio streams, the high-quality path, mute and the audio outputs
(R284 to R308, with the lockstep compare of R250). -/

namespace Sys2Proof.Machine

/-- The AON-held part of the acoustic path. -/
def State.setAudio (s : State) (x : AudioS) : State := { s with audio := x }

/-! ### Samples (R286 to R291, R297) -/

/-- Pre-gain factor of a code (R290); code 3 is reserved (log 29). -/
def gainFactor (code : Nat) : Int :=
  match code with
  | 0 => 1
  | 1 => 4
  | 2 => 16
  | _ => Config.reservedGain

/-- Apply GAIN_TRIM (R286). -/
def trimmed (cal : Cal) (c : Nat) (d : Int) : Int := satInt 24 (rheDiv (satInt 24 d * nth 0 cal.trim c) (2 ^ 14))

/-- PLAIN of a value d (R286). -/
def plainOf (d : Int) : Int := satInt 16 (rheDiv d 256)

/-- GAINED before saturation: sample j of a block, previous and present pre-gain codes (R290). -/
def gainedRaw (d : Int) (old new j : Nat) : Int :=
  if j < 64 then rheDiv (d * (gainFactor old * (64 - (j : Int)) + gainFactor new * j)) (2 ^ 14)
  else rheDiv (d * gainFactor new) 256

/-- Whether samples are held at zero by the mute (R303). -/
def AudioS.muted (x : AudioS) : Bool := x.muteLow || x.unmuteWait || decide (0 < x.unmuteLeft)

/-- Channels that resume now (R297): the UNDERRUN mask changes. -/
def State.resumeDue (s : State) : State :=
  (List.range 8).foldl (fun s c =>
    let ch := SMap.get {} s.audio.chans c
    match ch.resume with
    | some n =>
      if n ≤ s.audio.sidx then
        let s1 := s.setAudio { s.audio with chans := SMap.set {} s.audio.chans c { ch with under := false, resume := none } }
        (s1.wr .audio 0 Reg.Audio.UNDERRUN (clr32 (s1.rd .audio 0 Reg.Audio.UNDERRUN) (2 ^ c))).irq .audio none 2
      else s
    | none => s) s

/-- One sample of one channel: its next filter states, PLAIN, GAINED, the three high-quality samples, and whether GAINED saturated.
off says that the PDM clock is held low; zero that the sample is 0 (muted or underrunning). -/
def AudioS.sample (x : AudioS) (bits : List Bool) (c hqEn : Nat) (hqOn off : Bool) : ChanS × Int × Int × List Int × Bool :=
  let ch := SMap.get {} x.chans c
  let delay := nth 0 x.cal.delay c
  let ch1 := if off then ch else
    { ch with lp := if bitAt x.chEn c then Config.lpNext ch.lp bits else ch.lp,
              hq := if hqOn && bitAt hqEn c then Config.hqNext ch.hq bits else ch.hq }
  let zero := x.muted || ch.under
  let d := trimmed x.cal c (Config.lpOut ch1.lp delay)
  let on := bitAt x.chEn c && !zero
  let g := gainedRaw d (field x.gainOld (2 * c) 2) (field x.gainNew (2 * c) 2) (x.sidx % 256)
  let hq := (List.range 3).map fun k =>
    let early := match x.splice with
      | some n => decide (x.sidx < n)
      | none => true
    if bitAt hqEn c && !zero && !early then trimmed x.cal c (Config.hqOut ch1.hq delay k) else 0
  (ch1, if on then plainOf d else 0, if on then satInt 16 g else 0, hq, on && satHits 16 g)

/-- PCM_SAMPLE (R284 to R290, R297, R298, R303): the next low-power sample of every channel and, while the high-quality path runs, its
three samples. A full block is closed before its next sample (log 30). -/
def execPcmSample (bits : List (List Bool)) (s : State) : Ans :=
  .next (if 256 ≤ s.audio.openMix.length then s
    else
      let s0 := s.resumeDue
      let x := s0.audio
      let hqOn := x.fast && s0.domOn 24
      let hqEn := s0.rd .audio 0 Reg.Audio.HQ_CH_EN
      let r := (List.range 8).map fun c => x.sample (nth [] bits c) c hqEn hqOn (x.muteLow || x.unmuteWait)
      let word := fun (y : ChanS × Int × Int × List Int × Bool) => ofInt 16 y.2.2.1 + ofInt 16 y.2.1 * 65536
      let live := r.zipIdx.filter fun y => bitAt (s0.rd .audio 0 Reg.Audio.DET_MASK) y.2 && bitAt x.chEn y.2 && !x.muted &&
        !(SMap.get {} x.chans y.2).under
      let mix := if live.isEmpty then 0 else rheDiv (sumInt (live.map fun y => y.1.2.1)) live.length
      let under := maskOf ((List.range 8).filter fun c => (SMap.get {} x.chans c).under)
      let x1 : AudioS :=
        { x with sidx := (x.sidx + 1) % 2 ^ 64,
                 chans := (r.zipIdx.foldl (fun m y => SMap.set {} m y.2 y.1.1) x.chans),
                 openLanes := (List.range 8).map fun c => nth [] x.openLanes c ++ [word (nth ({}, 0, 0, [], false) r c)],
                 openHq := if hqOn then (List.range 8).map fun c => nth [] x.openHq c ++ (nth ({}, 0, 0, [], false) r c).2.2.2.1 else x.openHq,
                 openMix := x.openMix ++ [(mix, x.muted)],
                 openUnder := or32 x.openUnder under }
      let s1 := (s0.setAudio x1).errCount .audio 0 3 (r.filter fun y => y.2.2.2.2).length
      if hqOn && x.splice == some x.sidx then s1.wr .audio 0 Reg.Audio.HQ_ACTIVE 1 else s1)

/-- CHANNEL_UNDERRUN (R297). -/
def execChannelUnderrun (c : Nat) (s : State) : Ans :=
  .next (if 8 ≤ c then s
    else
      let ch := SMap.get {} s.audio.chans c
      let s1 := s.setAudio { s.audio with chans := SMap.set {} s.audio.chans c { ch with under := true, resume := none } }
      if ch.under then s1
      else (s1.wr .audio 0 Reg.Audio.UNDERRUN (or32 (s1.rd .audio 0 Reg.Audio.UNDERRUN) (2 ^ c))).irq .audio none 2)

/-- CHANNEL_RESUME (R297): the data bit of an underrun channel changes; the first sample at least 24 later resumes it. -/
def execChannelResume (c : Nat) (s : State) : Ans :=
  .next (if 8 ≤ c then s
    else
      let ch := SMap.get {} s.audio.chans c
      if ch.under then s.setAudio { s.audio with chans := SMap.set {} s.audio.chans c { ch with resume := some (s.audio.sidx + 24) } }
      else s)

/-! ### Calibration (R289, Table 11.2) -/

/-- A calibration image whose MAGIC, LENGTH and CRC are valid. -/
def parseCal (b : List Byte) : Option Cal :=
  let len := leAt b 6 2
  if leAt b 0 4 = 0x4C414341 ∧ 0xF0 ≤ len ∧ len ≤ 0x800 ∧
      crc32c (sliceBytes b 0 8 ++ sliceBytes b 12 (len - 12)) = leAt b 8 4 then
    some
      { trim := (List.range 8).map fun c => leAt b (0x20 + 8 * c) 2,
        delay := (List.range 8).map fun c => toInt 16 (leAt b (0x22 + 8 * c) 2),
        bands := (List.range 5).map fun k => (List.range 5).map fun i => toInt 32 (leAt b (0x60 + 20 * k + 4 * i) 4),
        vadMin := leAt b 0xC8 6, impTh := leAt b 0xD0 6, shatTh := leAt b 0xD8 6, toneTh := leAt b 0xE0 6,
        vadSnr := leAt b 0xE8 1, vadOn := leAt b 0xE9 1, vadHang := leAt b 0xEA 1, shatFr := leAt b 0xEB 1,
        toneRatio := leAt b 0xEC 1, impRise := leAt b 0xED 1, contFr := leAt b 0xEE 2 }
  else none

/-- CAL_BAD sets, with IRQ_RAW bit 3 (R289, R307). -/
def State.calBad (s : State) : State := (s.wr .audio 0 Reg.Audio.CAL_BAD 1).irq .audio none 3

/-- The write of CAL_LOAD that its check becomes while the memory of the copy wakes (R324). -/
def State.calStall (s : State) (d : Nat) : Stalled :=
  { dom := d, view := .pf, addr := Page.audio.base + 0x124, word := some (s.rd .audio 0 Reg.Audio.CAL_HI + 2 ^ 31) }

/-- CAL_LOAD reads 1 until the copy is applied or found invalid (R9, R289): while it is checked, and while it waits for the boundary. -/
def State.calLoading (s : State) : Bool :=
  s.audio.calNext.isSome || s.stalled.any fun x => x.addr == Page.audio.base + 0x124 && bitAt (x.word.getD 0) 31

/-- Check the copy at CAL_LO and CAL_HI (R289 step 3): a valid one waits for the next boundary. -/
def State.calCheck (s : State) : State :=
  let addr := s.rd .audio 0 Reg.Audio.CAL_LO + s.rd .audio 0 Reg.Audio.CAL_HI * 2 ^ 32
  if transBase ≤ addr then s.calBad
  else
    let (s1, on) := s.wakeAll [memDomain addr]
    if !on then
      if (s1.dom (memDomain addr)).st == .off then s1.calBad else { s1 with stalled := s1.stalled ++ [s1.calStall (memDomain addr)] }
    else
      let (s2, b) := s1.meetData addr 0x800
      match parseCal b with
      | some c => s2.setAudio { s2.audio with calNext := some c }
      | none => s2.calBad

/-- The calibration at the AON power-on reset (R289 steps 1 and 2), from the 2 KiB customer OTP. -/
def State.calFromOtp (s : State) : State :=
  let b := (List.range 0x800).map fun i => SMap.get 0 s.sec.otp i
  match parseCal b with
  | some c => (s.setAudio { s.audio with cal := c, calNext := none }).wr .audio 0 Reg.Audio.CAL_SRC 1
  | none =>
    let s1 := (s.setAudio { s.audio with cal := {}, calNext := none }).wr .audio 0 Reg.Audio.CAL_SRC 0
    if s.sec.otp.isEmpty then s1 else s1.calBad

/-! ### Detectors (R298 to R302) -/

/-- The limit of sat40 (R139), counted nowhere here (R298). -/
def lim40 (x : Int) : Int := clampInt (-(2 ^ 39 - 1)) (2 ^ 39 - 1) x

/-- One BIQUAD step (R139, R298): coefficients B0, B1, B2, A1, A2; state s1, s2; input. -/
def biquad (k : List Int) (st : Int × Int) (x : Int) : (Int × Int) × Int :=
  let y := lim40 (rheDiv (nth 0 k 0 * x) (2 ^ 29) + st.1)
  let s1 := lim40 (rheDiv (nth 0 k 1 * x - nth 0 k 3 * y) (2 ^ 29) + st.2)
  let s2 := lim40 (rheDiv (nth 0 k 2 * x - nth 0 k 4 * y) (2 ^ 29))
  ((s1, s2), y)

/-- A frame through one band: next state and energy (R298). -/
def bandFrame (k : List Int) (st : Int × Int) (m : List Int) : (Int × Int) × Nat :=
  let r := m.foldl (fun (acc : (Int × Int) × Nat) x =>
    let b := biquad k acc.1 x
    (b.1, acc.2 + b.2.natAbs * b.2.natAbs)) (st, 0)
  (r.1, min (2 ^ 48 - 1) r.2)

/-- Filter a frame by biquad slot i with the coefficients of a band. -/
def DetS.filter (d : DetS) (cal : Cal) (i band : Nat) (m : List Int) : DetS × Nat :=
  let r := bandFrame (nth [] cal.bands band) (SMap.get (0, 0) d.biq i) m
  ({ d with biq := SMap.set (0, 0) d.biq i r.1 }, r.2)

/-- VAD on one frame (R299): events 0 VAD_START and 1 VAD_END. The speech test uses the floor after its update; each run fires once. -/
def DetS.vad (d : DetS) (cal : Cal) (muted : Bool) (m : List Int) : DetS × Nat :=
  let (d1, e) := d.filter cal 0 0 m
  let n := if muted then d1.floor else match d1.floor with
    | none => some e
    | some n => some (if e < n then e else n + (e - n) / 1024)
  let speech := decide (cal.vadMin ≤ e) && decide (cal.vadSnr * n.getD 0 ≤ 16 * e)
  let on := if speech then d1.speechRun + 1 else 0
  let off := if speech then 0 else d1.quietRun + 1
  let ev := if muted then 0 else b2n (speech && on == cal.vadOn) + 2 * b2n (!speech && off == cal.vadHang)
  ({ d1 with floor := n, speechRun := on, quietRun := off }, ev)

/-- GLASS on one frame (R300): event bit 2. Each impact confirms at most once. -/
def DetS.glass (d : DetS) (cal : Cal) (muted : Bool) (m : List Int) : DetS × Nat :=
  let (d1, ei) := d.filter cal 1 1 m
  let (d2, es) := d1.filter cal 2 2 m
  let run := if cal.shatTh ≤ es then d2.shatRun + 1 else 0
  let ages := (d2.impAges.map fun a => a + 1).filter fun a => decide (a ≤ cal.shatFr + 36)
  let hit := fun a => decide (cal.shatFr ≤ a) && decide (cal.shatFr ≤ run)
  let fires := !muted && ages.any hit
  let left := if fires then ages.filter fun a => !hit a else ages
  let impact := match d2.impPrev with
    | none => false
    | some p => decide (cal.impTh ≤ ei) && decide (cal.impRise * p ≤ 16 * ei)
  ({ d2 with shatRun := run, impAges := if impact then left ++ [0] else left, impPrev := some ei }, 4 * b2n fires)

/-- Whether a frame is tonal (R301), through biquad slots i and i + 1. -/
def DetS.tonal (d : DetS) (cal : Cal) (i : Nat) (m : List Int) : DetS × Bool :=
  let (d1, et) := d.filter cal i 3 m
  let (d2, ef) := d1.filter cal (i + 1) 4 m
  (d2, decide (cal.toneTh ≤ et) && decide (cal.toneRatio * ef ≤ 256 * et))

/-- ALARM_T3 on one frame (R301): event bit 3, when a tonal run ends and the last five ended runs fit the pattern. -/
def DetS.alarmT3 (d : DetS) (cal : Cal) (muted : Bool) (m : List Int) : DetS × Nat :=
  let (d1, t) := d.tonal cal 3 m
  if t == d1.toneOn then ({ d1 with toneLen := d1.toneLen + 1 }, 0)
  else
    let all := d1.toneRuns ++ (if d1.toneLen = 0 then [] else [(d1.toneOn, d1.toneLen)])
    let runs := all.drop (all.length - 5)
    let fits := d1.toneOn && runs.length == 5 && runs.all fun r => decide (113 ≤ r.2) && decide (r.2 ≤ 137)
    ({ d1 with toneOn := t, toneLen := 1, toneRuns := runs }, 8 * b2n (fits && !muted))

/-- ALARM_CONT on one frame (R301): event bit 4. -/
def DetS.alarmCont (d : DetS) (cal : Cal) (muted : Bool) (m : List Int) : DetS × Nat :=
  let (d1, t) := d.tonal cal 5 m
  let n := if t then d1.contLen + 1 else 0
  ({ d1 with contLen := n }, 16 * b2n (t && n == cal.contFr && !muted))

/-- One frame through the enabled detectors: the events it decides, in DET_EVT bits. -/
def DetS.frame (d : DetS) (cal : Cal) (en : Nat) (f : List (Int × Bool)) : DetS × Nat :=
  let m := f.map fun x => x.1
  let muted := f.any fun x => x.2
  let (d1, v) := if bitAt en 0 then d.vad cal muted m else (d, 0)
  let (d2, g) := if bitAt en 1 then d1.glass cal muted m else (d1, 0)
  let (d3, t) := if bitAt en 2 then d2.alarmT3 cal muted m else (d2, 0)
  let (d4, c) := if bitAt en 3 then d3.alarmCont cal muted m else (d3, 0)
  (d4, v + g + t + c)

/-- Clear the state of the detectors that become enabled (R302). -/
def DetS.enable (d : DetS) (new : Nat) : DetS :=
  let drop := fun (l : List Nat) (d : DetS) => { d with biq := SMap.erase (fun k => l.contains k) d.biq }
  let d1 := if bitAt new 0 then drop [0] { d with floor := none, speechRun := 0, quietRun := 0 } else d
  let d2 := if bitAt new 1 then drop [1, 2] { d1 with impPrev := none, impAges := [], shatRun := 0 } else d1
  let d3 := if bitAt new 2 then drop [3, 4] { d2 with toneOn := false, toneLen := 0, toneRuns := [] } else d2
  if bitAt new 3 then drop [5, 6] { d3 with contLen := 0 } else d3

/-- DET_EN as it reads (R289). -/
def State.detEn (s : State) : Nat := if s.rd .audio 0 Reg.Audio.CAL_SRC = 0 then 0 else s.rd .audio 0 Reg.Audio.DET_EN

/-- A detector event that the last block close has decided fires (R302, R326): DET_EVT, DET_SIDX, IRQ_RAW bit 0, and the raise of the
record that DET_LIFT names. While muted DET_EVT receives no new bit (R304). -/
def State.fireEvent (s : State) (e : Nat) : State :=
  if !bitAt s.audio.due e then s
  else
    let s0 := s.setAudio { s.audio with due := clr32 s.audio.due (2 ^ e) }
    if s.audio.muted then s0
    else
    let i := s.audio.dueSidx
    let s1 := (s0.wr .audio 0 Reg.Audio.DET_EVT (or32 (s0.rd .audio 0 Reg.Audio.DET_EVT) (2 ^ e))).wr2 .audio 0
      Reg.Audio.DET_SIDX_LO Reg.Audio.DET_SIDX_HI i
    let s2 := s1.irq .audio none 0
    s2.raiseEvent e i

/-- VAD_START (R299, R302). -/
def execVadStart (s : State) : Ans := .next (s.fireEvent 0)

/-- VAD_END (R299, R302). -/
def execVadEnd (s : State) : Ans := .next (s.fireEvent 1)

/-- GLASS (R300, R302). -/
def execGlass (s : State) : Ans := .next (s.fireEvent 2)

/-- ALARM_T3 (R301, R302). -/
def execAlarmT3 (s : State) : Ans := .next (s.fireEvent 3)

/-- ALARM_CONT (R301, R302). -/
def execAlarmCont (s : State) : Ans := .next (s.fireEvent 4)

/-! ### Streams (R293 to R296) -/

def State.stream (s : State) (st : Nat) : StreamS := SMap.get {} s.audio.streams st
def State.setStream (s : State) (st : Nat) (x : StreamS) : State :=
  s.setAudio { s.audio with streams := SMap.set {} s.audio.streams st x }

/-- DST and REC of a stream. -/
def State.streamDst (s : State) (st : Nat) : Nat := s.rd2 .audio 0 (Reg.Audio.DST_LO st) (Reg.Audio.DST_HI st)
def State.streamRec (s : State) (st : Nat) : Nat := s.rd2 .audio 0 (Reg.Audio.REC_LO st) (Reg.Audio.REC_HI st)

/-- Bytes of a delivered block's data. -/
def State.streamBytes (s : State) (st : Nat) : Nat :=
  (setBits (s.rd .audio 0 (Reg.Audio.CH st)) 8).length * (if s.rdB .audio 0 (Reg.Audio.SRC st) then 768 else 256) *
    (if s.rd .audio 0 (Reg.Audio.FORM st) = 2 then 4 else 2)

/-- Start a stream whose fields stand (R293); the flag says that the start was refused. A stream of the high-quality path wakes AUDHQ
(R323). -/
def State.streamStart (s : State) (st : Nat) : State × Bool :=
  let a := Page.audio
  let hq := s.rdB a 0 (Reg.Audio.SRC st)
  let back := s.rd a 0 (Reg.Audio.BACK st)
  let nbuf := s.rd a 0 (Reg.Audio.NBUF_M1 st) + 1
  let span := (nbuf - 1) * s.rd a 0 (Reg.Audio.SLOT_PITCH st) + s.streamBytes st
  if (hq && back != 0) || decide (nbuf < back + 1) || !inT0T1 (s.streamDst st) span || !inT0T1 (s.streamRec st) (80 * nbuf) ||
      s.rd a 0 (Reg.Audio.FORM st) == 3 then
    ((s.wr a 0 (Reg.Audio.EN st) 0).errCount a 0 0 1, true)
  else
    let o := s.audio.sidx / 256
    let o := if s.audio.openMix.length = 256 then o - 1 else o
    let n := min back o
    let s1 := ((s.wr a 0 (Reg.Audio.EN st) 1).wr a 0 (Reg.Audio.BLK_NUM st) 0).wr a 0 (Reg.Audio.ACTIVE st) 1
    let s2 := s1.wr a 0 (Reg.Audio.CATCHUP st) (b2n (n != 0))
    let s3 := s2.setStream st { active := true, past := (List.range n).map fun k => (o - n + k) * 256 }
    (if hq then s3.wake 24 else s3, false)

/-- A stream ends. -/
def State.streamEnd (s : State) (st : Nat) : State :=
  let a := Page.audio
  (((s.wr a 0 (Reg.Audio.EN st) 0).wr a 0 (Reg.Audio.ACTIVE st) 0).wr a 0 (Reg.Audio.CATCHUP st) 0).setStream st {}

/-- EN ← 0 (R293): it takes effect when the block being delivered is complete. -/
def State.streamStop (s : State) (st : Nat) : State :=
  let x := s.stream st
  if !x.active then s
  else if x.past.isEmpty && x.live.isEmpty then s.streamEnd st
  else s.setStream st { x with stopAfter := some 1 }

/-- A closed block joins the streams that deliver it (R293, R296): every stream of the low-power path, and those of the
high-quality path from the block that holds the splice index. -/
def State.streamBlock (s : State) (st : Nat) (b : Blk) : State :=
  let x := s.stream st
  if !x.active || x.stopAfter.isSome then s
  else if s.rdB .audio 0 (Reg.Audio.SRC st) then
    match s.audio.splice with
    | none => s
    | some n =>
      let fresh := s.rd .audio 0 (Reg.Audio.BLK_NUM st) == 0 && x.live.isEmpty
      if s.audio.openHq.isEmpty || (fresh && decide (b.hdr.sidx + 256 ≤ n)) then s
      else
        let here := decide (b.hdr.sidx ≤ n) && decide (n < b.hdr.sidx + 256)
        s.setStream st { x with live := x.live ++ [{ b with
          hdr := { b.hdr with hq := true, splice := here, spliceOff := if here then n - b.hdr.sidx else 0 },
          lanes := s.audio.openHq, words := [] }] }
  else s.setStream st { x with live := x.live ++ [b] }

/-- Bytes of a block record (Table 11.3). -/
def blockRecord (h : BlockRec) : List Byte :=
  leBytes 8 h.sidx ++ leBytes 8 h.ts ++ leBytes 2 h.gainOld ++ leBytes 2 h.gainNew ++
  leBytes 4 (h.underrun + h.ch * 256 + b2n h.muted * 65536 + b2n h.clkSwitch * 131072 + b2n h.splice * 262144 +
    b2n h.lost * 524288 + b2n h.hq * 1048576) ++
  leBytes 4 (h.spliceOff % 256 + h.stream % 4 * 256) ++ leBytes 4 h.blkNum

/-- Bytes of one delivered sample of w bits of fraction in a FORM (R294). -/
def sampleBytes (form frac : Nat) (v : Int) : List Byte :=
  if form = 2 then leBytes 4 (ofInt 32 v)
  else leBytes 2 (narrow (if form = 0 then 0xC else 0xB) ((v : Rat) * pow2 (-(frac : Int)))).code

/-- Data of a block for a stream (R294): one row per channel of CH, ascending. -/
def State.streamData (s : State) (st : Nat) (b : Blk) : List Byte :=
  let form := s.rd .audio 0 (Reg.Audio.FORM st)
  let chs := setBits (s.rd .audio 0 (Reg.Audio.CH st)) 8
  if s.rdB .audio 0 (Reg.Audio.SRC st) then
    chs.flatMap fun c => (List.range 768).flatMap fun i => sampleBytes form 23 (nth 0 (nth [] b.lanes c) i)
  else
    let sh := if s.rdB .audio 0 (Reg.Audio.VIEW st) then 16 else 0
    chs.flatMap fun c => (List.range 256).flatMap fun i => sampleBytes form 15 (toInt 16 (field (nth 0 (nth [] b.words c) i) sh 16))

/-- The next block that a stream delivers (R293, R295), and what is left; the flag says that it is LOST. -/
def State.nextBlock (s : State) (st : Nat) : Option (Blk × StreamS × Bool) :=
  let x := s.stream st
  match x.past with
  | i :: t =>
    let slot := SMap.get {} s.audio.sump (i / 256 % 128)
    if slot.hdr.sidx = i then some ({ hdr := slot.hdr, words := slot.lanes }, { x with past := t }, false)
    else some ({ hdr := { sidx := i, lost := true } }, { x with past := t }, true)
  | [] => match x.live with
    | b :: t => some (b, { x with live := t }, false)
    | [] => none

/-- AUDIO_BLOCK_DELIVERY (R234, R294, R295): data, block record, ingest digest record, tally. The destination's domains are woken
first. A word of the sump that cannot be corrected leaves free data (log 95). -/
def execAudioBlockDelivery (st : Nat) (s : State) : Ans :=
  .next (if 4 ≤ st || !(s.stream st).active then s
    else match s.nextBlock st with
      | none => s
      | some (b, x, lost) =>
        let a := Page.audio
        let nbuf := s.rd a 0 (Reg.Audio.NBUF_M1 st) + 1
        let n := s.rd a 0 (Reg.Audio.BLK_NUM st)
        let slot := s.streamDst st + n % nbuf * s.rd a 0 (Reg.Audio.SLOT_PITCH st)
        let recs := s.streamRec st
        let (s0, on) := s.wakeAll [memDomain slot, memDomain recs]
        if !on then s0
        else
          let (s0, bad) := match (s.stream st).past with
            | i :: _ => if lost then (s0, false) else s0.meetCell (.sump (i / 256 % 128)) a
            | [] => (s0, false)
          let clean := s0.streamData st b
          let (d, s0) := if bad then s0.takeBytes clean.length else (clean, s0)
          let hdr : BlockRec := { b.hdr with ch := s0.rd a 0 (Reg.Audio.CH st), stream := st, blkNum := n }
          let s1 := ((s0.dstore slot d).dstore (recs + 32 * (n % nbuf)) (blockRecord hdr)).dstore (recs + 32 * nbuf + 48 * (n % nbuf))
            (ingestRecord 1 st b.hdr.sidx d)
          let s2 := if lost then s1.errCount a 0 1 1 else s1
          let s3 := (s2.wr a 0 (Reg.Audio.BLK_NUM st) ((n + 1) % 2 ^ 32)).wr a 0 (Reg.Audio.CATCHUP st) (b2n (!x.past.isEmpty))
          let s4 := s3.setStream st { x with stopAfter := x.stopAfter.map fun k => k - 1 }
          let s5 := if s4.rdB a 0 (Reg.Audio.SIG_EN st) then s4.signalTally (s4.rd a 0 (Reg.Audio.TALLY st)) 1 else s4
          if x.stopAfter = some 1 then s5.streamEnd st else s5)

/-! ### Block close (R250, R285, R288 to R292, R296, R303) -/

/-- The lockstep compare of a closed block (R250). -/
def State.compareCopies (s : State) (r : CopyResult) : State :=
  if s.audio.simplex.isSome then s
  else
    let keep := fun (l : List Nat) => (l.filter fun t => decide (s.now < t + 10 ^ 9)) ++ [s.now]
    let out := fun (s : State) (left : Nat) (l : List Nat) =>
      if 3 ≤ l.length then ((s.setAudio { s.audio with simplex := some left }).wr .audio 0 Reg.Audio.AON_SIMPLEX 1).irq .audio none 4
      else s
    match r with
    | .agree => s
    | .copy0Loses =>
      let l := keep s.audio.loss0
      out ((s.setAudio { s.audio with loss0 := l }).errCount .audio 0 2 1) 1 l
    | .copy1Loses =>
      let l := keep s.audio.loss1
      out ((s.setAudio { s.audio with loss1 := l }).errCount .audio 0 2 1) 0 l

/-- AON firmware runs the detectors and the sump from READY on (R364). -/
def State.ready (s : State) : Bool := s.rd .sys 0 Reg.Sys.STAGE == 6

/-- The closed block enters the sump (R292) and PEAK reports it. -/
def State.closeSump (s : State) : State :=
  let x := s.audio
  let hdr : BlockRec :=
    { sidx := x.sidx - 256, ts := s.now, gainOld := x.gainOld, gainNew := x.gainNew, underrun := x.openUnder, ch := x.chEn,
      muted := x.openMix.any fun y => y.2, clkSwitch := x.openClk }
  let slot : SumpSlot := { hdr := hdr, lanes := x.openLanes }
  let s1 := s.setAudio
    { x with sump := if s.ready then SMap.set {} x.sump (hdr.sidx / 256 % 128) slot else x.sump, dueSidx := hdr.sidx }
  let s2 := (List.range 8).foldl (fun s c =>
    let peak := fun sh => if x.muted then 0 else ((nth [] x.openLanes c).map fun w => (toInt 16 (field w sh 16)).natAbs).foldl max 0
    (s.wr .audio 0 (Reg.Audio.PEAK_PLAIN c) (peak 16)).wr .audio 0 (Reg.Audio.PEAK_GAINED c) (peak 0)) s1
  (List.range 4).foldl (fun s st => s.streamBlock st { hdr := hdr, words := x.openLanes }) s2

/-- The four frames of the closed block through the detectors; events wait for their own commands. -/
def State.closeDetect (s : State) : State :=
  let x := s.audio
  let r := if !s.ready then (x.det, x.due) else (chunks 64 x.openMix).foldl (fun (acc : DetS × Nat) f =>
    let y := acc.1.frame x.cal s.detEn f
    (y.1, or32 acc.2 y.2)) (x.det, x.due)
  s.setAudio { x with det := r.1, due := r.2 }

/-- The clock at a boundary (R285, R296): the switch to the high rate at B_sw, back after HQ_EN ← 0, and a new splice after an unmute. -/
def State.boundaryClock (s : State) (unmuted : Bool) : State :=
  let x := s.audio
  let b := x.sidx
  let en := s.rdB .audio 0 Reg.Audio.HQ_EN
  let splice := fun (s : State) (x : AudioS) =>
    let n := b + s.rd .audio 0 Reg.Audio.SETTLE + 24
    ((s.setAudio { x with splice := some n }).wr2 .audio 0 Reg.Audio.SPLICE_LO Reg.Audio.SPLICE_HI n).wr .audio 0 Reg.Audio.HQ_ACTIVE 0
  if x.fast && !en then
    let s1 := (s.setAudio { x with fast := false, openClk := true, splice := none }).wr .audio 0 Reg.Audio.HQ_ACTIVE 0
    (List.range 4).foldl (fun s st =>
      let y := s.stream st
      if y.active && s.rdB .audio 0 (Reg.Audio.SRC st) then
        if y.live.isEmpty then s.streamEnd st else s.setStream st { y with stopAfter := some (y.stopAfter.getD y.live.length) }
      else s) s1
  else if x.fast && unmuted then splice s x
  else match x.hqReady with
    | some r =>
      if !x.fast && en && decide (r + 9 ≤ b) then splice s { x with fast := true, openClk := true, hqReady := none } else s
    | none => s

/-- BLOCK_CLOSE (R250, R288 to R292, R296, R298 to R303): a full block closes, and the boundary's changes take effect. -/
def execBlockClose (r : CopyResult) (s : State) : Ans :=
  .next (if s.audio.openMix.length < 256 then s
    else
      let s1 := ((s.compareCopies r).closeDetect).closeSump
      let x := s1.audio
      let (cal, calSrc) := match x.calNext with
        | some c => (c, 2)
        | none => (x.cal, s1.rd .audio 0 Reg.Audio.CAL_SRC)
      let left := if x.unmuteWait then s1.rd .audio 0 Reg.Audio.UNMUTE_BLOCKS else x.unmuteLeft - 1
      let req := s1.rd .audio 0 Reg.Audio.GAIN_REQ
      let x1 : AudioS :=
        { x with openLanes := [], openMix := [], openHq := [], openClk := false, cal := cal, calNext := none,
                 openUnder := 0,
                 gainOld := x.gainNew, gainNew := req, chEn := s1.rd .audio 0 Reg.Audio.CH_EN,
                 unmuteWait := false, unmuteLeft := left }
      let s2 := (((s1.setAudio x1).wr .audio 0 Reg.Audio.CAL_SRC calSrc).wr .audio 0 Reg.Audio.GAIN_ACT req).boundaryClock x.unmuteWait
      if x.muted && !x1.muted then (s2.wr .audio 0 Reg.Audio.MUTED 0).irq .audio none 1 else s2)

/-! ### Mute (R303, R304) -/

/-- MUTE_ASSERT: MUTE_N falls. -/
def execMuteAssert (s : State) : Ans :=
  .next (
    let was := s.audio.muted
    let x := { s.audio with muteLow := true, unmuteWait := false, unmuteLeft := 0, micPwr := false, muteInd := true }
    let x1 := if s.rdB .audio 0 Reg.Audio.SUMP_WIPE then
        { x with sump := (List.range 128).foldl (fun m k =>
            let h := (SMap.get {} m k).hdr
            SMap.set {} m k (SumpSlot.mk { h with muted := true } [])) x.sump }
      else x
    let s1 := (List.range 8).foldl (fun s c => (s.wr .audio 0 (Reg.Audio.PEAK_PLAIN c) 0).wr .audio 0 (Reg.Audio.PEAK_GAINED c) 0)
      (s.setAudio x1)
    if was then s1 else (s1.wr .audio 0 Reg.Audio.MUTED 1).irq .audio none 1)

/-- MUTE_RELEASE: MUTE_N rises; the clock restarts at the next boundary. -/
def execMuteRelease (s : State) : Ans :=
  .next (if !s.audio.muteLow then s
    else s.setAudio { s.audio with muteLow := false, unmuteWait := true, micPwr := true, muteInd := false })

/-! ### The AUDIO page (R307) -/

/-- HQ_EN rises (R296): AUDHQ is woken, and its readiness starts the wait for the boundary. -/
def State.hqOn (s : State) : State :=
  if s.domOn 24 then s.setAudio { s.audio with hqReady := some s.audio.sidx } else s.wake 24

/-- A write of the AUDIO page's block registers. A stream's fields change only while its EN = 0. -/
def State.audioWrite (s : State) (off w : Nat) : State :=
  let a := Page.audio
  let plain := s.wrFields a 0 off w Reg.Audio.all
  if off = 0x100 then
    let was := s.rdB a 0 Reg.Audio.HQ_EN
    let s1 := plain
    if !was && bitAt w 16 then s1.hqOn
    else if was && !bitAt w 16 then s1.setAudio { s1.audio with hqReady := none } else s1
  else if off = 0x124 then if bitAt w 31 then plain.calCheck else plain
  else if off = 0x128 then
    if s.rd a 0 Reg.Audio.CAL_SRC = 0 then s.wr a 0 Reg.Audio.DET_MASK (field w 8 8)
    else plain.setAudio { plain.audio with det := plain.audio.det.enable (clr32 (field w 0 4) (s.rd a 0 Reg.Audio.DET_EN)) }
  else if 0x200 ≤ off ∧ off < 0x300 then
    let st := (off - 0x200) / 0x40
    if s.rdB a 0 (Reg.Audio.EN st) then
      if off % 0x40 = 0 ∧ !bitAt w 0 then s.streamStop st else s
    else if off % 0x40 = 0 then
      let s1 := s.wrFields a 0 off (setField w 0 1 0) Reg.Audio.all
      if bitAt w 0 then (s1.streamStart st).1 else s1
    else plain
  else plain

/-- A write of an AUDIO page register by its command's name. -/
def State.audioReg (s : State) (v : View) (off w : Nat) : State :=
  s.viaBus v (0x080000 + off) 4 w fun s _ _ o => s.audioWrite o w

/-- AUDIO_STREAM_START (R293): the write with EN = 1. -/
def execAudioStreamStart (v : View) (st : Nat) (w : Word) (s : State) : Ans :=
  .next (if 4 ≤ st then s else s.audioReg v (0x200 + 0x40 * st) (setField w.toNat 0 1 1))

/-- AUDIO_STREAM_STOP (R293): the write with EN = 0. -/
def execAudioStreamStop (v : View) (st : Nat) (w : Word) (s : State) : Ans :=
  .next (if 4 ≤ st then s else s.audioReg v (0x200 + 0x40 * st) (setField w.toNat 0 1 0))

/-- HQ_START (R296): the write with HQ_EN = 1. -/
def execHqStart (v : View) (w : Word) (s : State) : Ans := .next (s.audioReg v 0x100 (setField w.toNat 16 1 1))

/-- HQ_STOP (R296): the write with HQ_EN = 0. -/
def execHqStop (v : View) (w : Word) (s : State) : Ans := .next (s.audioReg v 0x100 (setField w.toNat 16 1 0))

/-- CAL_LOAD (R289): the write with CAL_LOAD = 1. -/
def execCalLoad (v : View) (w : Word) (s : State) : Ans := .next (s.audioReg v 0x124 (setField w.toNat 31 1 1))

/-! ### Audio outputs (R305, R306, R308) -/

/-- Slots of a frame of an output port. -/
def State.aoutSlots (s : State) (p : Nat) : Nat :=
  if s.rd .aout 0 (Reg.Aout.FMT p) = 2 then s.rd .aout 0 (Reg.Aout.SLOTS_M1 p) + 1 else 2

/-- Whether EN of a port is accepted (R305); reserved FMT and SLOT_W codes are refused. -/
def State.aoutOk (s : State) (p : Nat) : Bool :=
  let rate := nth 0 [16000, 24000, 32000, 48000] (s.rd .aout 0 (Reg.Aout.RATE p))
  let b := rate * s.aoutSlots p * nth 0 [16, 24, 32] (s.rd .aout 0 (Reg.Aout.SLOT_W p))
  s.rd .aout 0 (Reg.Aout.FMT p) != 3 && b != 0 && 24576000 % b == 0 && decide (b ≤ 12288000)

/-- A write of the AOUT page's block registers: configuration fields change only while EN = 0. -/
def State.aoutWrite (s : State) (off w : Nat) : State :=
  let a := Page.aout
  if off < 0x100 ∨ 0x180 ≤ off then s
  else
    let p := (off - 0x100) / 0x40
    let rel := off % 0x40
    if s.rdB a 0 (Reg.Aout.EN p) then
      if rel = 0 then s.wr a 0 (Reg.Aout.EN p) (b2n (bitAt w 10))
      else if rel = 0x10 ∨ rel = 0x1C then s.wrFields a 0 off w Reg.Aout.all
      else s
    else if rel = 0 then
      let s1 := s.wrFields a 0 off (setField w 10 1 0) Reg.Aout.all
      if !bitAt w 10 then s1
      else if s1.aoutOk p then (s1.wr a 0 (Reg.Aout.EN p) 1).setAudio { s1.audio with aoutCount := SMap.set 0 s1.audio.aoutCount p 0 }
      else s1.errCount a 0 0 1
    else s.wrFields a 0 off w Reg.Aout.all

/-- AOUT_ENABLE (R305): the write with EN = 1. -/
def execAoutEnable (v : View) (port : Nat) (w : Word) (s : State) : Ans :=
  .next (if 2 ≤ port then s
    else s.viaBus v (0x084100 + 0x40 * port) 4 (setField w.toNat 10 1 1) fun s _ _ o => s.aoutWrite o (setField w.toNat 10 1 1))

/-- AOUT_FRAME (R249, R306): the next ring frame, or zeros with UNDERFLOW. -/
def execAoutFrame (port : Nat) (s : State) : Ans :=
  .next (
    let a := Page.aout
    if decide (2 ≤ port) || !s.domOn 24 || !s.rdB a 0 (Reg.Aout.EN port) then s
    else
      let wide := s.rdB a 0 (Reg.Aout.DATA_W port)
      let n := s.aoutSlots port
      let rd := s.rd a 0 (Reg.Aout.RD port)
      let counted := fun (s : State) =>
        s.setAudio { s.audio with aoutCount := SMap.set 0 s.audio.aoutCount port (SMap.get 0 s.audio.aoutCount port + 1) }
      if rd = s.rd a 0 (Reg.Aout.WR port) then
        counted ((s.count a 0 (Reg.Aout.UNDERFLOW port) (Reg.Aout.UNDERFLOW_SAT port) 1).emit (.audioFrame port (List.replicate n 0)))
      else
        let sz := if wide then 4 else 2
        let addr := s.rd2 a 0 (Reg.Aout.SRC_LO port) (Reg.Aout.SRC_HI port) + rd * n * sz
        let (s0, on) := s.wakeAll [memDomain addr]
        if !on then s0
        else
          let (s1, b) := s0.meetData addr (n * sz)
          let v := (List.range n).map fun i => leNat (sliceBytes b (i * sz) sz) / (if wide then 256 else 1)
          let nx := if s1.rd a 0 (Reg.Aout.FRAMES port) ≤ rd + 1 then 0 else rd + 1
          counted ((s1.wr a 0 (Reg.Aout.RD port) nx).emit (.audioFrame port v)))

/-- AOUT_PERIOD_SIGNAL (R306): PERIOD frames have been sent. -/
def execAoutPeriodSignal (port : Nat) (s : State) : Ans :=
  .next (
    let a := Page.aout
    let per := s.rd a 0 (Reg.Aout.PERIOD port)
    let n := SMap.get 0 s.audio.aoutCount port
    if decide (2 ≤ port) || per == 0 || decide (n < per) then s
    else
      let s1 := s.setAudio { s.audio with aoutCount := SMap.set 0 s.audio.aoutCount port (n - per) }
      if s1.rdB a 0 (Reg.Aout.SIG_EN port) then s1.signalTally (s1.rd a 0 (Reg.Aout.TALLY port)) 1 else s1)

end Sys2Proof.Machine
end

