-- ==== Sys2Proof/Machine/Camera.lean ====
section
/-! DEFINITION. Cameras (R254 to R283): CSI-2 receivers, contexts and their admission, the pipelines' work items and exact stages,
outputs, frame records, deadlines, aligned groups and the binning unit. -/

namespace Sys2Proof.Machine

def State.setCams (s : State) (x : CamerasS) : State := { s with cams := x }
def State.cam (s : State) (c : Nat) : CamS := SMap.get {} s.cams.ctx c
def State.setCam (s : State) (c : Nat) (x : CamS) : State := s.setCams { s.cams with ctx := SMap.set {} s.cams.ctx c x }
def State.group (s : State) (g : Nat) : GroupS := SMap.get {} s.cams.groups g
def State.setGroup (s : State) (g : Nat) (x : GroupS) : State := s.setCams { s.cams with groups := SMap.set {} s.cams.groups g x }

/-- Whether a context runs: RUNNING or STOPPING. -/
def State.ctxRuns (s : State) (c : Nat) : Bool := s.st (.ctx c) 0 == 1 || s.st (.ctx c) 0 == 2

/-- Pixel data types (Table 10.1), and their bits. -/
def dtBits (dt : Nat) : Option Nat :=
  match dt with
  | 0x2A => some 8
  | 0x2B => some 10
  | 0x2C => some 12
  | 0x2D => some 14
  | 0x2E => some 16
  | 0x2F => some 20
  | 0x1E => some 8
  | _ => none

/-! ### Admission (R259 to R262) -/

def State.ctxW (s : State) (c : Nat) : Nat := s.rd (.ctx c) 0 Reg.Ctx.WIDTH_M1 + 1
def State.ctxH (s : State) (c : Nat) : Nat := s.rd (.ctx c) 0 Reg.Ctx.HEIGHT_M1 + 1
def State.mux (s : State) (c : Nat) : Bool := s.rdB (.isp (c / 16)) 0 Reg.Isp.MUX

/-- LOAD (R260). -/
def State.ctxLoad (s : State) (c : Nat) : Nat :=
  let fps := s.rd (.ctx c) 0 Reg.Ctx.FPS_MAX
  let sw := if s.mux c then fps * ceilDiv (s.ctxH c) 64 else fps
  ceilDiv (65536 * (s.ctxW c * s.ctxH c * fps + sw * 3200)) 1600000000

/-- NEED (R261). -/
def State.ctxNeed (s : State) (c : Nat) : Nat :=
  let ring := (if s.mux c then 200 else s.ctxH c) * s.ctxW c * 2
  let ref := if s.rdB (.ctx c) 0 Reg.Ctx.TNR then s.ctxW c * s.ctxH c * 2 else 0
  ceilDiv (ring + ref + 16384) 65536

/-- Running contexts of a pipeline. -/
def State.runningCtx (s : State) (p : Nat) : List Nat := ((List.range 16).map fun c => c + 16 * p).filter s.ctxRuns

def State.loadSum (s : State) (p : Nat) : Nat := sumNat ((s.runningCtx p).map s.ctxLoad)
def State.needSum (s : State) (p : Nat) : Nat := sumNat ((s.runningCtx p).map s.ctxNeed)

/-- Period of a mosaic's pattern (Table 10.6). -/
def mosaicPeriod (m : Nat) : Nat := if m = 0 then 1 else if m = 2 ∨ m = 5 then 4 else 2

/-- The output as a tensor row of WIDTH elements (R115, R271). -/
def State.ctxRowTD (s : State) (c : Nat) : TD :=
  { fmt := s.rd (.ctx c) 0 Reg.Ctx.OFMT, d0 := s.ctxW c, cmp := s.rd (.ctx c) 0 Reg.Ctx.CMP }

/-- Planes of the tensor output: Y, RGB or RGBI. -/
def State.ctxPlanes (s : State) (c : Nat) : Nat := nth 0 [1, 3, 4] (s.rd (.ctx c) 0 Reg.Ctx.PLANES)

def State.ctxOut (s : State) (c : Nat) : Nat := s.rd2 (.ctx c) 0 Reg.Ctx.OUT_LO Reg.Ctx.OUT_HI
def State.ctxStat (s : State) (c : Nat) : Nat := s.rd2 (.ctx c) 0 Reg.Ctx.STAT_LO Reg.Ctx.STAT_HI
def State.ctxEmb (s : State) (c : Nat) : Nat := s.rd2 (.ctx c) 0 Reg.Ctx.EMB_LO Reg.Ctx.EMB_HI

/-- Groups of which a context is a member. -/
def State.groupsOf (s : State) (c : Nat) : List Nat :=
  (List.range 8).filter fun g => bitAt (s.rd (.isp 0) 0 (Reg.Isp.MEMBERS g)) c

/-- Whether geometry, mosaic or output settings break a rule (Table 10.3 GEOMETRY: R270 to R272, R276, R281; the status ring's alignment
and length are Table 10.11's, log 99). -/
def State.geometryBad (s : State) (c : Nat) : Bool :=
  let p := Page.ctx c
  let m := s.rd p 0 Reg.Ctx.MOSAIC
  let dt := s.rd p 0 Reg.Ctx.DT
  let om := s.rd p 0 Reg.Ctx.OMODE
  let fmt := s.rd p 0 Reg.Ctx.OFMT
  let cmp := s.rd p 0 Reg.Ctx.CMP
  let nbuf := s.rd p 0 Reg.Ctx.NBUF_M1
  let pitches := s.rd p 0 Reg.Ctx.ROW_PITCH % 64 != 0 || s.rd p 0 Reg.Ctx.PLANE_PITCH % 64 != 0 ||
    s.rd p 0 Reg.Ctx.BUF_PITCH % 64 != 0 || s.ctxOut c % 64 != 0
  let mosaicBad := decide (5 < m) || (dtBits dt).isNone || (dt == 0x1E && m != 0) ||
    decide (mosaicPeriod m ≤ s.rd p 0 Reg.Ctx.PHASE_X) || decide (mosaicPeriod m ≤ s.rd p 0 Reg.Ctx.PHASE_Y)
  let tensorBad := om == 2 &&
    (!([7, 8, 0xC].contains fmt) || s.ctxPlanes c == 0 || (s.ctxPlanes c == 4 && m != 2) || cmp == 3 || (cmp == 2 && fmt != 0xC) ||
     decide (s.rd p 0 Reg.Ctx.ROW_PITCH < (s.ctxRowTD c).rowBytes))
  let t5Bad := s.rdB p 0 Reg.Ctx.T5 && (!([0x2B, 0x2C].contains dt) || m != 1 || s.rdB p 0 Reg.Ctx.TNR || om != 0)
  let groupBad := (s.groupsOf c).any fun g => decide (s.rd (.isp 0) 0 (Reg.Isp.PERIOD g) ≤ 2 * s.rd (.isp 0) 0 (Reg.Isp.TOL g))
  pitches || mosaicBad || om == 3 || tensorBad || t5Bad || groupBad ||
    !inT0T1 (s.ctxOut c + nbuf * s.rd p 0 Reg.Ctx.BUF_PITCH) 1 || !inT0T1 (s.ctxOut c) 1 ||
    s.ctxStat c % 64 != 0 || decide (s.rd p 0 Reg.Ctx.STAT_LEN < 2)

/-- The refusal of a context start (Table 10.3), the lowest code where several apply; 0 for none. -/
def State.ctxRefusal (s : State) (c : Nat) : Nat :=
  let p := Page.ctx c
  let pipe := c / 16
  let port := s.rd p 0 Reg.Ctx.PORT
  let others := ((List.range 32).filter fun d => d != c && s.ctxRuns d)
  let same := others.any fun d => s.rd (.ctx d) 0 Reg.Ctx.PORT == port && s.rd (.ctx d) 0 Reg.Ctx.VC == s.rd p 0 Reg.Ctx.VC &&
    s.rd (.ctx d) 0 Reg.Ctx.DT == s.rd p 0 Reg.Ctx.DT
  if 62259 < s.loadSum pipe + s.ctxLoad c then 1
  else if decide (6 ≤ port) || !bitAt (s.rd .floor 0 Reg.Floor.CSI_PRESENT) port || same then 2
  else if s.geometryBad c then 3
  else if s.rd (.isp pipe) 0 Reg.Isp.CIS_RES < s.needSum pipe + s.ctxNeed c then 4
  else if s.rdB p 0 Reg.Ctx.T5 && (s.mux c || others.any fun d => d / 16 == pipe && s.rdB (.ctx d) 0 Reg.Ctx.T5) then 5
  else if s.st (.isp pipe) 0 ≠ 1 then 6
  else 0

/-- Groups start once all their members run, and stop with any of them (R280). -/
def State.groupCheck (s : State) (c : Nat) : State :=
  (s.groupsOf c).foldl (fun s g =>
    let all := (setBits (s.rd (.isp 0) 0 (Reg.Isp.MEMBERS g)) 32).all fun d => s.st (.ctx d) 0 == 1
    let x := s.group g
    if all && !x.started then s.setGroup g { started := true }
    else if !all && x.started then s.setGroup g {} else s) s

/-- Start of a context (R259, R278, R282); the flag says that it is refused. LOAD and NEED are what it computes (R260, R261, log 62). -/
def State.ctxStart (s0 : State) (c : Nat) : State × Bool :=
  let s := (s0.wr (.ctx c) 0 Reg.Ctx.LOAD (s0.ctxLoad c)).wr (.ctx c) 0 Reg.Ctx.NEED (s0.ctxNeed c)
  match s.ctxRefusal c with
  | 0 =>
    let x := s.cam c
    let s1 := s.setCam c { active := x.active, ref := [], freshRef := true }
    ((s1.setSt (.ctx c) 0 1).groupCheck c, false)
  | e => ((s.wr (.ctx c) 0 Reg.Ctx.CTX_ERR e).errCount (.ctx c) 0 0 1, true)

/-- What a context that has stopped leaves: no frame waits, and an ISP page that waits for its last context stops (R282). -/
def State.ctxStopped (s : State) (c : Nat) : State :=
  let x := s.cam c
  let s1 := (s.setCam c { x with frames := [], dropping := false }).groupCheck c
  let p := Page.isp (c / 16)
  if s1.st p 0 == 2 && (s1.runningCtx (c / 16)).isEmpty then s1.enterStopped p 0 else s1

/-! ### Shadow bank (R265) -/

/-- Where the words of a T5 context's bank stand (R276): 0x400 to 0x5FF, whole words, in bank 1 of the page. -/
def t5Word (off : Nat) : Fld := ⟨off, 0, 32, 0, .rw⟩

/-- The shadow bank as it stands: offset · 32 + lowest bit, value; T5 mode has its own layout. -/
def State.shadow (s : State) (c : Nat) : SMap Nat :=
  let p := Page.ctx c
  let bank := if s.rdB p 0 Reg.Ctx.T5 then 1 else 0
  let lo := (bank * 2 ^ 24 + p.base + 0x400) * 32
  (s.regs.filter fun e => decide (lo ≤ e.1) && decide (e.1 < lo + 0x400 * 32)).map fun e => (e.1 - (bank * 2 ^ 24 + p.base) * 32, e.2)

/-- A field of an active bank. -/
def bankRd (b : SMap Nat) (f : Fld) : Nat := SMap.get f.reset b (f.off * 32 + f.lsb)

/-! ### Receivers (R254 to R257) -/

/-- RX_READY (R257). -/
def State.rxReady (s : State) (port : Nat) : Bool :=
  let p := Page.csi port
  decide (port < 6) && s.domOn 20 && bitAt (s.rd .floor 0 Reg.Floor.CSI_PRESENT) port && s.st p 0 == 1 &&
    (s.rdB p 0 Reg.Csi.CPHY || decide (s.rd p 0 Reg.Csi.RATE ≤ 1500) || SMap.get false s.cams.deskewed port)

/-- The header of a packet at a port that accepts packets (R255), then whether its virtual channel is enabled (R256): the flag says
that the packet goes on. -/
def State.header (s : State) (port vc : Nat) (hdr : HdrErr) : State × Bool :=
  let p := Page.csi port
  if !s.rxReady port then (s, false)
  else
    let s1 := match hdr with
      | .clean => s
      | .corrected => s.errCount p 0 0 1
      | .uncorrectable => s.errCount p 0 1 1
    if hdr == .uncorrectable then (s1, false)
    else if !bitAt (s1.rd p 0 Reg.Csi.VC_EN) vc then (s1.errCount p 0 2 1, false)
    else (s1, true)

/-- Contexts bound to a port and virtual channel that run. -/
def State.boundCtx (s : State) (port vc : Nat) : List Nat :=
  (List.range 32).filter fun c => s.ctxRuns c && s.rd (.ctx c) 0 Reg.Ctx.PORT == port && s.rd (.ctx c) 0 Reg.Ctx.VC == vc

/-- The mosaic channel of a pixel (Table 10.6, R270); the 4 × 4 patterns are not laid out by the spec. -/
def mosaicCh (m px py x y : Nat) : Nat :=
  let n := mosaicPeriod m
  let c := (x + px) % n
  let r := (y + py) % n
  if m = 0 then 0
  else if m = 2 ∨ m = 5 then Config.mosaic4 m c r % 4
  else if m = 4 then (if c = 0 ∧ r = 0 then 0 else 1)
  else 2 * r + c

/-- Value of a padded pixel of a context (R279). -/
def State.padPixel (s : State) (c : Nat) (bank : SMap Nat) (x y : Nat) : Nat :=
  let p := Page.ctx c
  if s.rd p 0 Reg.Ctx.DT = 0x1E then Config.yuvPad
  else bankRd bank (Reg.Ctx.BLACK (mosaicCh (s.rd p 0 Reg.Ctx.MOSAIC) (s.rd p 0 Reg.Ctx.PHASE_X) (s.rd p 0 Reg.Ctx.PHASE_Y) x y))

/-- Pixels of a long packet's payload (MIPI packing, log 32); lin of R267's stage 1, or Y, U and V packed for YUV422. -/
def unpackLine (dt : Nat) (b : List Byte) : List Nat :=
  let at_ := fun i => (nth 0 b i).toNat
  let n := b.length
  match dt with
  | 0x2A => (List.range n).map fun i => at_ i * 2 ^ 12
  | 0x2B => (List.range (n / 5 * 4)).map fun i => (at_ (i / 4 * 5 + i % 4) * 4 + field (at_ (i / 4 * 5 + 4)) (2 * (i % 4)) 2) * 2 ^ 10
  | 0x2C => (List.range (n / 3 * 2)).map fun i => (at_ (i / 2 * 3 + i % 2) * 16 + field (at_ (i / 2 * 3 + 2)) (4 * (i % 2)) 4) * 2 ^ 8
  | 0x2D => (List.range (n / 7 * 4)).map fun i =>
      (at_ (i / 4 * 7 + i % 4) * 64 + field (leAt b (i / 4 * 7 + 4) 3) (6 * (i % 4)) 6) * 2 ^ 6
  | 0x2E => (List.range (n / 2)).map fun i => (at_ (2 * i) * 256 + at_ (2 * i + 1)) * 2 ^ 4
  | 0x2F => (List.range (n / 5 * 2)).map fun i =>
      let half := fun k => at_ (i / 2 * 5 + k) * 4 + field (at_ (i / 2 * 5 + 4)) (2 * k) 2
      half (2 * (i % 2)) * 1024 + half (2 * (i % 2) + 1)
  | 0x1E => (List.range (n / 2)).map fun i => at_ (i / 2 * 4 + 1 + 2 * (i % 2)) + at_ (i / 2 * 4) * 256 + at_ (i / 2 * 4 + 2) * 65536
  | _ => []

/-- A line cut or padded to w pixels (R279), and whether its length differed. -/
def fitLine (w : Nat) (pad : Nat → Nat) (l : List Nat) : List Nat × Bool :=
  ((List.range w).map fun x => if x < l.length then nth 0 l x else pad x, l.length != w)

/-- Lines that a context's ring can hold (R261), and those it holds. -/
def State.ringLines (s : State) (c : Nat) : Nat := if s.mux c then 200 else s.ctxH c
def CamS.held (x : CamS) : Nat := sumNat (x.frames.map fun f => f.lines.length - 64 * f.stripes)

/-- Replace the last frame. -/
def mapLast (f : FrameS → FrameS) : List FrameS → List FrameS
  | [] => []
  | [x] => [f x]
  | x :: t => x :: mapLast f t

/-- A pixel line for a context's open frame (R256, R264, R279). -/
def State.ctxLine (s : State) (c : Nat) (crcOk : Bool) (l : List Nat) : State :=
  let x := s.cam c
  match x.frames.getLast? with
  | none => s
  | some f =>
    if f.ended || x.dropping then s
    else
      let s1 := s.setCams { s.cams with arrival := s.cams.arrival + 1 }
      let f1 := { f with received := f.received + 1, crcLines := f.crcLines + b2n !crcOk }
      if s.ctxH c ≤ f.received then s1.setCam c { x with frames := mapLast (fun _ => { f1 with long := true }) x.frames }
      else if s.ringLines c ≤ x.held then
        (s1.setCam c { x with frames := mapLast (fun _ => { f1 with overrun := true }) x.frames }).errCount (.ctx c) 0 2 1
      else
        let (row, bad) := fitLine (s.ctxW c) (fun i => s.padPixel c f.bank i f.lines.length) l
        let f2 := { f1 with lines := f1.lines ++ [row], widthErr := f1.widthErr || bad,
                            arrivals := if f.lines.length % 64 = 0 then f1.arrivals ++ [s.cams.arrival] else f1.arrivals }
        s1.setCam c { x with frames := mapLast (fun _ => f2) x.frames }

/-- Embedded data for a context's open frame (R259, R273). -/
def State.ctxEmbed (s : State) (c : Nat) (crcOk : Bool) (b : List Byte) : State :=
  let x := s.cam c
  match x.frames.getLast? with
  | none => s
  | some f =>
    if f.ended || x.dropping || !s.rdB (.ctx c) 0 Reg.Ctx.EMB then s
    else s.setCam c { x with frames := mapLast (fun f =>
      { f with emb := (f.emb ++ b).take 4096, crcLines := f.crcLines + b2n !crcOk }) x.frames }

/-- Whether the binning unit takes a stream (R275). -/
def State.binTakes (s : State) (port vc : Nat) : Bool :=
  let p := Page.isp 0
  s.domOn 20 && s.rdB p 0 Reg.Isp.BIN_EN && s.rd p 0 Reg.Isp.BIN_PORT == port && s.rd p 0 Reg.Isp.BIN_VC == vc

/-- A line for the binning unit. -/
def State.binLine (s : State) (crcOk : Bool) (l : List Nat) : State :=
  match s.cams.bin with
  | none => s
  | some f =>
    let f1 := { f with received := f.received + 1, crcLines := f.crcLines + b2n !crcOk }
    let h := s.rd (.isp 0) 0 Reg.Isp.BIN_H_M1 + 1
    let f2 := if f.lines.length = h then { f1 with long := true }
      else { f1 with lines := f1.lines ++ [(fitLine (s.rd (.isp 0) 0 Reg.Isp.BIN_W_M1 + 1)
        (fun _ => s.rd (.isp 0) 0 Reg.Isp.BIN_BLACK) l).1] }
    s.setCams { s.cams with bin := some f2 }

/-- LONG_PACKET (R255, R256, R264, R279). -/
def execLongPacket (p : LongPkt) (s : State) : Ans :=
  .next (
    let (s1, go) := s.header p.port p.vc p.hdr
    if !go then s1
    else if p.dt ≠ 0x12 ∧ (dtBits p.dt).isNone then s1.errCount (.csi p.port) 0 2 1
    else
      let s2 := if p.crcOk then s1
        else s1.count (.csi p.port) 0 (Reg.Csi.CRC_VC (p.vc % 16)) (Reg.Csi.CRC_VC_SAT (p.vc % 16)) 1
      let ctxs := s2.boundCtx p.port p.vc
      if p.dt = 0x12 then ctxs.foldl (fun s c => s.ctxEmbed c p.crcOk p.payload) s2
      else
        let l := unpackLine p.dt p.payload
        let s3 := (ctxs.filter fun c => s2.rd (.ctx c) 0 Reg.Ctx.DT == p.dt).foldl (fun s c => s.ctxLine c p.crcOk l) s2
        if s3.binTakes p.port p.vc && s3.rd (.isp 0) 0 Reg.Isp.BIN_DT == p.dt then s3.binLine p.crcOk l else s3)

/-- LINE_SHORT_PACKET (R254): accepted and ignored. -/
def execLineShortPacket (port vc : Nat) (hdr : HdrErr) (s : State) : Ans := .next (s.header port vc hdr).1

/-- DESKEW_RECEIVED (R257). -/
def execDeskewReceived (port : Nat) (s : State) : Ans :=
  .next (if s.domOn 20 && decide (port < 6) && s.st (.csi port) 0 == 1 then
      s.setCams { s.cams with deskewed := SMap.set false s.cams.deskewed port true }
    else s)

/-! ### Frame records (R273, R274, R277) -/

/-- Bytes of a status record (Table 10.9). -/
def statusRecord (num epoch flags c group fs fe lines crc buf : Nat) : List Byte :=
  leBytes 4 num ++ leBytes 4 (epoch % 2 + flags * 2 + c * 65536 + group * 16777216) ++ leBytes 8 fs ++ leBytes 8 fe ++
  leBytes 4 (min lines 65535 + min crc 65535 * 65536) ++ leBytes 4 buf

/-- The group of a context, 1 to 8, or 0; of several, the lowest. -/
def State.groupNo (s : State) (c : Nat) : Nat := ((s.groupsOf c).head?.map fun g => g + 1).getD 0

/-- Take the next record number of a context, or the slot number of its group (R277, R280). -/
def State.nextFrameNum (s : State) (c slot : Nat) : State :=
  let p := Page.ctx c
  let n := if s.groupNo c = 0 then s.rd p 0 Reg.Ctx.EPOCH * 2 ^ 32 + s.rd p 0 Reg.Ctx.FRAME_NUM + 1 else slot
  (s.wr p 0 Reg.Ctx.FRAME_NUM (n % 2 ^ 32)).wr p 0 Reg.Ctx.EPOCH (n / 2 ^ 32 % 2)

/-- Write the status record and the ingest digest record of a context's next record, or count them lost to a full ring (R273, R274). -/
def State.putRecord (s : State) (c slot flags fs fe lines crc buf : Nat) (data emb : List Byte) : State :=
  let p := Page.ctx c
  let s1 := s.nextFrameNum c slot
  let num := s1.rd p 0 Reg.Ctx.FRAME_NUM
  let ep := s1.rd p 0 Reg.Ctx.EPOCH
  let len := s1.rd p 0 Reg.Ctx.STAT_LEN
  let i := s1.rd p 0 Reg.Ctx.STAT_WR
  if (i + 1) % max len 1 = s1.rd p 0 Reg.Ctx.STAT_RD then s1.errCount p 0 1 1
  else
    let s2 := (s1.dstore (s1.ctxStat c + 32 * i) (statusRecord num ep flags c (s1.groupNo c) fs fe lines crc buf)).dstore
      (s1.ctxStat c + 32 * len + 48 * i) (ingestRecord 0 c (ep * 2 ^ 32 + num) data)
    let s3 := if emb.isEmpty then s2 else s2.dstore (s2.ctxEmb c + 4096 * i) emb
    s3.wr p 0 Reg.Ctx.STAT_WR ((i + 1) % max len 1)

/-- A context's tally signal (R273). -/
def State.ctxSignal (s : State) (c : Nat) : State :=
  if s.rdB (.ctx c) 0 Reg.Ctx.SIG_EN then s.signalTally (s.rd (.ctx c) 0 Reg.Ctx.TALLY) 1 else s

/-- A member's record of a slot is written; the last one signals the group's tally (R281). -/
def State.groupWrote (s : State) (g c slot : Nat) : State :=
  let x := s.group g
  match x.waiting.find? fun w => w.1 == slot with
  | none => s
  | some w =>
    let left := w.2.filter fun d => d != c
    if left.isEmpty then
      let s1 := s.setGroup g { x with waiting := x.waiting.filter fun v => v.1 != slot }
      if s1.rdB (.isp 0) 0 (Reg.Isp.G_SIG_EN g) then s1.signalTally (s1.rd (.isp 0) 0 (Reg.Isp.G_TALLY g)) 1 else s1
    else s.setGroup g { x with waiting := x.waiting.map fun v => if v.1 = slot then (slot, left) else v }

/-! ### Frame start and groups (R256, R265, R275, R278, R281) -/

/-- Move a group on while every member of its slot is present or absent (R281). -/
def State.groupAdvance (s : State) (g : Nat) : State :=
  let x := s.group g
  let members := setBits (s.rd (.isp 0) 0 (Reg.Isp.MEMBERS g)) 32
  match x.centre with
  | none => s
  | some c =>
    if members.all fun m => x.absent.contains m || x.present.any fun q => q.1 == m then
      let per := s.rd (.isp 0) 0 (Reg.Isp.PERIOD g) * 1000
      let nx := match members.find? fun m => !x.absent.contains m with
        | some m => (((x.present.find? fun q => q.1 == m).map fun q => q.2).getD c) + per
        | none => c + per
      s.setGroup g { x with slot := x.slot + 1, centre := some nx, present := [], absent := [] }
    else s

/-- Place a member's FS in its group: the slot, or none where it lies in no window (R281). -/
def State.groupPlace (s : State) (g c : Nat) : State × Option Nat :=
  let x := s.group g
  let members := setBits (s.rd (.isp 0) 0 (Reg.Isp.MEMBERS g)) 32
  let tol := s.rd (.isp 0) 0 (Reg.Isp.TOL g) * 1000
  let inside := match x.centre with
    | none => true
    | some m => decide (m ≤ s.now + tol) && decide (s.now ≤ m + tol)
  if !x.started || !inside || x.present.any (fun q => q.1 == c) || x.absent.contains c then (s, none)
  else
    let w := if x.waiting.any fun v => v.1 == x.slot then x.waiting else x.waiting ++ [(x.slot, members)]
    let x1 := { x with centre := some (x.centre.getD s.now), present := x.present ++ [(c, s.now)], waiting := w }
    ((s.setGroup g x1).groupAdvance g, some x.slot)

/-- An FS reaches a running context (R265, R278, R281). -/
def State.ctxFs (s : State) (c : Nat) : State :=
  let p := Page.ctx c
  if s.st p 0 ≠ 1 then s
  else
    let s1 := if s.rdB p 0 Reg.Ctx.PENDING then
        (s.setCam c { s.cam c with active := s.shadow c }).wr p 0 Reg.Ctx.PENDING 0
      else s
    let x := s1.cam c
    let frame : FrameS :=
      { tsFs := s1.now, late := x.skipped, bank := x.active, freshRef := x.freshRef, arrivedFs := s1.cams.arrival }
    let s2 := s1.setCams { s1.cams with arrival := s1.cams.arrival + 1 }
    match (s2.groupsOf c).head? with
    | some g =>
      match s2.groupPlace g c with
      | (s3, some k) => s3.setCam c { x with frames := x.frames ++ [{ frame with slot := k, late := false }], dropping := false,
                                             freshRef := false }
      | (s3, none) => (s3.count p 0 Reg.Ctx.GROUP_DROP Reg.Ctx.GROUP_DROP_SAT 1).setCam c { x with dropping := true }
    | none =>
      let on := s2.rd p 0 Reg.Ctx.DEADLINE != 0
      s2.setCam c { x with frames := x.frames ++ [{ frame with late := on && x.skipped }], dropping := false, freshRef := false,
                           tRef := if on then some s2.now else none, skipped := false }

/-- An FE reaches a context: its open frame ends (R279). -/
def State.ctxFe (s : State) (c : Nat) : State :=
  let x := s.cam c
  match x.frames.getLast? with
  | none => s.setCam c { x with dropping := false }
  | some f =>
    if f.ended then s.setCam c { x with dropping := false }
    else s.setCam c { x with dropping := false, frames := mapLast (fun f =>
      { f with ended := true, tsFe := s.now, short := decide (f.received < s.ctxH c) }) x.frames }

/-- The binned rows of a frame (R275). -/
def binRows (b black gain w h : Nat) (lines : List (List Nat)) : List Byte :=
  (List.range (h / b)).flatMap fun y => (List.range (w / b)).map fun x =>
    let sum := sumNat ((List.range b).flatMap fun j =>
      let l := nth [] lines (y * b + j)
      (List.range b).map fun i => nth 0 l (x * b + i) - black)
    BitVec.ofNat 8 (min 255 (rheDiv (sum * gain) (2 ^ 24)).toNat)

/-- The binning unit's frame ends (R275, R279): output, ingest digest record, tally, flags. The sentry store is woken. -/
def State.binFe (s : State) : State :=
  match s.cams.bin with
  | none => s
  | some f =>
    let p := Page.isp 0
    let w := s.rd p 0 Reg.Isp.BIN_W_M1 + 1
    let h := s.rd p 0 Reg.Isp.BIN_H_M1 + 1
    let black := s.rd p 0 Reg.Isp.BIN_BLACK
    let lines := f.lines ++ List.replicate (h - f.lines.length) (List.replicate w black)
    let out := binRows (2 ^ (s.rd p 0 Reg.Isp.BIN_B + 1)) black (s.rd p 0 Reg.Isp.BIN_GAIN) w h lines
    let addr := t0Base 8 + s.rd p 0 Reg.Isp.BIN_ADDR
    let flags := b2n (decide (f.received < h)) + 2 * b2n f.long + 4 * b2n (decide (0 < f.crcLines)) + 8 * b2n f.overrun
    let s1 := (((s.wake 1).dstore addr out).dstore (addr + out.length) (ingestRecord 0 32 s.cams.binSeq out)).wr p 0 Reg.Isp.BIN_FLAGS flags
    let s2 := s1.setCams { s1.cams with bin := none, binSeq := (s1.cams.binSeq + 1) % 2 ^ 33 }
    if s2.rdB p 0 Reg.Isp.BIN_SIG_EN then s2.signalTally (s2.rd p 0 Reg.Isp.BIN_TALLY) 1 else s2

/-- The frame of a virtual channel ends for all who take it. -/
def State.channelFe (s : State) (port vc : Nat) : State :=
  let s1 := (s.boundCtx port vc).foldl State.ctxFe s
  let s2 := s1.setCams { s1.cams with opened := SMap.set false s1.cams.opened (port * 16 + vc) false }
  if s2.binTakes port vc then s2.binFe else s2

/-- FRAME_START (R255, R256, R265, R278, R281). An FS without the previous FE counts, and the frame before it ends there. -/
def execFrameStart (port vc : Nat) (hdr : HdrErr) (s : State) : Ans :=
  .next (
    let (s1, go) := s.header port vc hdr
    if !go then s1
    else
      let key := port * 16 + vc
      let s2 := if SMap.get false s1.cams.opened key then (s1.errCount (.csi port) 0 3 1).channelFe port vc else s1
      let s3 := s2.setCams { s2.cams with opened := SMap.set false s2.cams.opened key true }
      let s4 := (s3.boundCtx port vc).foldl State.ctxFs s3
      if s4.binTakes port vc then s4.setCams { s4.cams with bin := some { tsFs := s4.now } } else s4)

/-- FRAME_END (R256, R275, R279). An FE without an FS only counts. -/
def execFrameEnd (port vc : Nat) (hdr : HdrErr) (s : State) : Ans :=
  .next (
    let (s1, go) := s.header port vc hdr
    if !go then s1
    else if SMap.get false s1.cams.opened (port * 16 + vc) then s1.channelFe port vc
    else s1.errCount (.csi port) 0 3 1)

/-- DEADLINE_SKIP (R278): the deadline of a context passes without an FS; the timestamp is that of the deadline. -/
def execDeadlineSkip (c : Nat) (s : State) : Ans :=
  .next (
    let p := Page.ctx c
    let d := s.rd p 0 Reg.Ctx.DEADLINE
    if decide (32 ≤ c) || s.st p 0 != 1 || d == 0 || s.groupNo c != 0 then s
    else match (s.cam c).tRef with
      | none => s
      | some t =>
        let at_ := t + d * 1000
        let s1 := { s with now := max s.now at_ }
        let s2 := s1.setCam c { s1.cam c with tRef := some at_, skipped := true, freshRef := true }
        (s2.putRecord c 0 1 0 at_ 0 0 0 [] []).ctxSignal c)

/-- GROUP_ABSENT (R281): the window of the present slot passes without a member's FS. -/
def execGroupAbsent (g c : Nat) (s : State) : Ans :=
  .next (
    let x := s.group g
    let members := setBits (s.rd (.isp 0) 0 (Reg.Isp.MEMBERS g)) 32
    match x.centre with
    | none => s
    | some m =>
      if decide (8 ≤ g) || !x.started || !members.contains c || x.absent.contains c || x.present.any fun q => q.1 == c then s
      else
        let at_ := m + s.rd (.isp 0) 0 (Reg.Isp.TOL g) * 1000
        let s1 := { s with now := max s.now at_ }
        let w := if x.waiting.any fun v => v.1 == x.slot then x.waiting else x.waiting ++ [(x.slot, members)]
        let s2 := (s1.setGroup g { x with absent := insAsc c x.absent, waiting := w }).setCam c { s1.cam c with freshRef := true }
        let s3 := (s2.putRecord c x.slot 2 0 at_ 0 0 0 [] []).ctxSignal c
        (s3.groupWrote g c x.slot).groupAdvance g)

/-! ### The stages (R267 to R271) -/

def clamp20 (x : Int) : Nat := (clampInt 0 (2 ^ 20 - 1) x).toNat

/-- Black level and white balance (R268). -/
def whiteBalance (bank : SMap Nat) (ch lin : Nat) : Nat :=
  clamp20 (rheDiv (((lin : Int) - bankRd bank (Reg.Ctx.BLACK ch)) * bankRd bank (Reg.Ctx.WB ch)) (2 ^ 12))

/-- IR subtraction (R268). -/
def irSubtract (bank : SMap Nat) (k x ir : Nat) : Nat := clamp20 ((x : Int) - rheDiv ((bankRd bank (Reg.Ctx.IRK k) : Int) * ir) (2 ^ 12))

/-- A signed 16-bit coefficient of a bank. -/
def bankCoef (bank : SMap Nat) (f : Fld) : Int := toInt 16 (bankRd bank f)

/-- Colour matrix (R268). -/
def ccm (bank : SMap Nat) (i : Nat) (c : List Nat) : Nat :=
  clamp20 (rheDiv (sumInt ((List.range 3).map fun j => bankCoef bank (Reg.Ctx.CCM (3 * i + j)) * nth 0 c j)) (2 ^ 12))

/-- Entry of the tone table. -/
def toneEntry (bank : SMap Nat) (i : Nat) : Nat :=
  if i % 2 = 0 then bankRd bank (Reg.Ctx.TONE_LO (i / 2)) else bankRd bank (Reg.Ctx.TONE_HI (i / 2))

/-- Tone table (R268): 20-bit scale to 16-bit scale. -/
def tone (bank : SMap Nat) (c : Nat) : Nat :=
  let t0 : Int := toneEntry bank (c / 4096)
  let t1 : Int := toneEntry bank (c / 4096 + 1)
  (t0 + rheDiv ((c % 4096 : Nat) * (t1 - t0)) (2 ^ 12)).toNat

/-- RGB to YUV (R268). -/
def csc (bank : SMap Nat) (i : Nat) (t : List Nat) : Nat :=
  (clampInt 0 65535 (rheDiv (sumInt ((List.range 3).map fun j => bankCoef bank (Reg.Ctx.CSC (3 * i + j)) * nth 0 t j)) (2 ^ 12) +
    bankRd bank (Reg.Ctx.CSCO i))).toNat

/-- Pixel (x, y) of a plane. -/
def pix (pl : List (List Nat)) (x y : Nat) : Nat := nth 0 (nth [] pl y) x

/-- The geometry that the fixed functions see. -/
def State.geometry (s : State) (c : Nat) : List Nat :=
  let p := Page.ctx c
  [s.ctxW c, s.ctxH c, s.rd p 0 Reg.Ctx.MOSAIC, s.rd p 0 Reg.Ctx.PHASE_X, s.rd p 0 Reg.Ctx.PHASE_Y, s.rd p 0 Reg.Ctx.DT,
   s.rd p 0 Reg.Ctx.TNR]

/-- Stages 2 and 3 on the lines met so far: the raw clean stage's rows (R268, R269). -/
def State.cleanRows (s : State) (c : Nat) (f : FrameS) (lines ref : List (List Nat)) : List (List Nat) :=
  let p := Page.ctx c
  let g := s.geometry c
  let wb := lines.zipIdx.map fun r => r.1.zipIdx.map fun v =>
    whiteBalance f.bank (mosaicCh (s.rd p 0 Reg.Ctx.MOSAIC) (s.rd p 0 Reg.Ctx.PHASE_X) (s.rd p 0 Reg.Ctx.PHASE_Y) v.2 r.2) v.1
  let front := Config.rawFront f.bank g wb
  Config.rawClean f.bank g (if f.freshRef then front else ref) front

/-- The pixels t_0, t_1, t_2 (16-bit scale) after stage 5, and the IR plane; for YUV422 they are Y, U, V (R267, R268). -/
def State.colourAt (s : State) (c : Nat) (f : FrameS) (planes : List (List (List Nat))) (lines : List (List Nat)) (x y : Nat) : List Nat :=
  if s.rd (.ctx c) 0 Reg.Ctx.DT = 0x1E then
    let v := pix lines x y
    [v % 256 * 256, v / 256 % 256 * 256, v / 65536 * 256]
  else
    let raw := (List.range 3).map fun k => pix (nth [] planes k) x y
    let ir := pix (nth [] planes 3) x y
    let rgb := if s.rd (.ctx c) 0 Reg.Ctx.MOSAIC = 2 then raw.zipIdx.map fun v => irSubtract f.bank v.2 v.1 ir else raw
    (List.range 3).map (fun i => tone f.bank (ccm f.bank i rgb)) ++ [Config.irPlane ir % 65536]

/-- Y, U and V of a pixel: stage 6's CSC of its three values, those of YUV422 input too (R267, R268). -/
def yuvOf (f : FrameS) (t : List Nat) : List Nat := (List.range 3).map fun i => csc f.bank i t

/-- A sample of a YUV output (R271): 8 bits, or the 10-bit value in bits [15:6]. -/
def yuvBytes (om v : Nat) : List Byte := if om = 0 then leBytes 1 (v / 256) else leBytes 2 (v / 64 * 64)

/-- An element of a tensor output (R271). -/
def State.tensorEl (s : State) (c k t : Nat) : Narrowed :=
  let p := Page.ctx c
  let fmt := s.rd p 0 Reg.Ctx.OFMT
  let gain : Int := s.rd p 0 (Reg.Ctx.GAIN k)
  let off := toInt 16 (s.rd p 0 (Reg.Ctx.OFFSET k))
  if fmt = 0xC then narrow fmt ((t * gain : Int) * pow2 (-24) - (off : Rat) * pow2 (-8))
  else narrowInt fmt (rheDiv (t * gain) (2 ^ 16) + off)

/-- The output rows [y0, y1) of a frame as (plane, address, bytes), from the colour of each pixel (R271); interleaved U and V are plane 1. -/
def State.outRows (s : State) (c : Nat) (f : FrameS) (buf y0 y1 : Nat) (col : Nat → Nat → List Nat) : List (Nat × Nat × List Byte) :=
  let p := Page.ctx c
  let w := s.ctxW c
  let base := s.ctxOut c + buf * s.rd p 0 Reg.Ctx.BUF_PITCH
  let pitch := s.rd p 0 Reg.Ctx.ROW_PITCH
  let plane := s.rd p 0 Reg.Ctx.PLANE_PITCH
  let om := s.rd p 0 Reg.Ctx.OMODE
  if om = 2 then
    (List.range (s.ctxPlanes c)).flatMap fun k => (List.range (y1 - y0)).map fun j =>
      let els := (List.range w).map fun x =>
        let t := col x (y0 + j)
        let v := if k = 0 ∧ s.ctxPlanes c = 1 ∧ !([0, 4].contains (s.rd p 0 Reg.Ctx.MOSAIC)) then nth 0 (yuvOf f t) 0 else nth 0 t k
        s.tensorEl c k v
      (k, base + k * plane + (y0 + j) * pitch, rowEncode (s.ctxRowTD c) els)
  else
    let yuv := fun x y => if s.rdB p 0 Reg.Ctx.T5 then col x y else yuvOf f (col x y)
    let ys := (List.range (y1 - y0)).map fun j =>
      (0, base + (y0 + j) * pitch, (List.range w).flatMap fun x => yuvBytes om (nth 0 (yuv x (y0 + j)) 0))
    let uv := (List.range (ceilDiv (y1 - y0) 2)).map fun j =>
      let y := y0 + 2 * j
      (1, base + plane + y / 2 * pitch, (List.range (ceilDiv w 2)).flatMap fun i =>
        let cells := ([(2 * i, y), (2 * i + 1, y), (2 * i, y + 1), (2 * i + 1, y + 1)].filter fun q =>
          decide (q.1 < w) && decide (q.2 < y1)).map fun q => yuv q.1 q.2
        [1, 2].flatMap fun k => yuvBytes om (rheDiv (sumNat (cells.map fun t => nth 0 t k)) cells.length).toNat)
    ys ++ uv

/-! ### Work items (R263, R269, R273) -/

/-- The frame's lines with its padding (R279), as far as the frame has ended. -/
def State.framed (s : State) (c : Nat) (f : FrameS) : List (List Nat) :=
  if !f.ended then f.lines
  else f.lines ++ (List.range (s.ctxH c - f.lines.length)).map fun j =>
    (List.range (s.ctxW c)).map fun x => s.padPixel c f.bank x (f.lines.length + j)

/-- Stripes of a frame. -/
def State.stripeCount (s : State) (c : Nat) : Nat := ceilDiv (s.ctxH c) 64

/-- The next work item of a context: whether it is ready, and the arrival of its first line (R263). -/
def State.item (s : State) (c : Nat) : Option Nat :=
  match (s.cam c).frames.head? with
  | none => none
  | some f =>
    if s.mux c then
      if f.ended || decide (64 * (f.stripes + 1) + 8 ≤ f.lines.length) then some (nth (s.cams.arrival) f.arrivals f.stripes) else none
    else some (nth f.arrivedFs f.arrivals 0)

/-- The context whose item the pipeline works on: that of the item it has taken, else the ready item of the earliest arrival, on a tie
the lower context's (R263). -/
def State.pick (s : State) (p : Nat) : Option Nat :=
  ((s.runningCtx p).find? fun c => (s.cam c).frames.head?.any fun f => f.taken).or
    ((s.runningCtx p).foldl (fun best c => match s.item c, best with
      | some t, some b => if t < (s.item b).getD 0 then some c else best
      | some _, none => some c
      | none, _ => best) none)

/-- Process one stripe of a context's first frame: its output lines (R267 to R271). -/
def State.doStripe (s : State) (c : Nat) : State :=
  let x := s.cam c
  match x.frames with
  | [] => s
  | f :: rest =>
    let lines := s.framed c f
    let y0 := 64 * f.stripes
    let y1 := min (s.ctxH c) (y0 + 64)
    let seen := lines.take (y1 + 8)
    let buf := x.delivered % (s.rd (.ctx c) 0 Reg.Ctx.NBUF_M1 + 1)
    let clean := s.cleanRows c f seen x.ref
    let rows :=
      if s.rdB (.ctx c) 0 Reg.Ctx.T5 then
        let yuv := Config.t5Yuv f.bank (s.geometry c) seen
        s.outRows c f buf y0 y1 fun i j => (List.range 3).map fun k => pix (nth [] yuv k) i j
      else
        let planes := Config.recon f.bank (s.geometry c) clean
        s.outRows c f buf y0 y1 fun i j => s.colourAt c f planes seen i j
    let s1 := rows.foldl (fun s r => s.dstore r.2.1 r.2.2) s
    let f1 := { f with taken := false, stripes := f.stripes + 1, sent := f.sent ++ rows.map fun r => (r.1, r.2.2), clean := f.clean ++ (clean.drop y0).take (y1 - y0) }
    let s2 := s1.setCam c { x with frames := f1 :: rest }
    if s.mux c && s.rdB (.ctx c) 0 Reg.Ctx.SIG_STRIPE then s2.ctxSignal c else s2

/-- The bytes of a frame as they were delivered, plane by plane and in each its rows in order (R234). -/
def FrameS.bytes (f : FrameS) : List Byte :=
  (List.range 4).flatMap fun k => (f.sent.filter fun r => r.1 == k).flatMap fun r => r.2

/-- The last stripe is done: records, tally, buffer rotation, REF (R273). -/
def State.frameDone (s : State) (c : Nat) : State :=
  let x := s.cam c
  match x.frames with
  | [] => s
  | f :: rest =>
    let buf := x.delivered % (s.rd (.ctx c) 0 Reg.Ctx.NBUF_M1 + 1)
    let flags := 4 * b2n f.late + 8 * b2n f.short + 16 * b2n f.long + 32 * b2n (decide (0 < f.crcLines)) + 64 * b2n f.overrun +
      128 * b2n f.widthErr
    let s1 := s.setCam c { x with frames := rest, delivered := x.delivered + 1, ref := f.clean }
    let s2 := (s1.putRecord c f.slot flags f.tsFs f.tsFe f.received f.crcLines buf f.bytes f.emb).ctxSignal c
    match (s2.groupsOf c).head? with
    | some g => s2.groupWrote g c f.slot
    | none => s2

/-- Process stripes of a context's first frame until n more are done. -/
def State.doStripes (s : State) (c : Nat) : Nat → State
  | 0 => s
  | n + 1 => State.doStripes (s.doStripe c) c n

/-- The pipeline takes the item of a context's first frame: ACTIVE_CTX, and a switch where the item before was another context's
(R263). An item it already follows is taken once. -/
def State.takeItem (s : State) (p c : Nat) : State :=
  let x := s.cam c
  match x.frames with
  | [] => s
  | f :: rest =>
    let last := SMap.get 0 s.cams.lastCtx p
    let s1 := (s.setCam c { x with frames := { f with taken := true } :: rest })
    let s2 := s1.setCams { s1.cams with lastCtx := SMap.set 0 s1.cams.lastCtx p (c + 1) }
    let s3 := if last = 0 ∨ last = c + 1 then s2 else s2.count (.isp p) 0 Reg.Isp.SWITCHES Reg.Isp.SWITCHES_SAT 1
    s3.wr (.isp p) 0 Reg.Isp.ACTIVE_CTX c

/-- Process the item taken: one stripe, or a whole frame; the last stripe's end delivers the frame (R263, R273). -/
def State.runItem (s : State) (c : Nat) : State :=
  let s1 := s.doStripes c (if s.mux c then 1 else s.stripeCount c)
  if s1.stripeCount c ≤ ((s1.cam c).frames.head?.map fun f => f.stripes).getD 0 then s1.frameDone c else s1

/-- WORK_ITEM (R263, R267 to R273): the pipeline takes the earliest ready item, or goes on with the one it follows. A whole frame is
taken at its FS and delivered once its FE has arrived. The domains of the output and of the records are woken first. -/
def execWorkItem (p : Nat) (s : State) : Ans :=
  .next (if decide (2 ≤ p) || !s.domOn (18 + p) then s
    else match s.pick p with
      | none => s
      | some c =>
        let s1 := s.takeItem p c
        if !s1.mux c && !((s1.cam c).frames.head?.any fun f => f.ended) then s1
        else
          let (s2, on) := s1.wakeAll [memDomain (s1.ctxOut c), memDomain (s1.ctxStat c)]
          if on then s2.runItem c else s2)

/-! ### Registers (R262, R265, R275, R282) -/

/-- Write of the word that holds MUX and CIS_RES (R262, R282). -/
def State.writeCisRes (s : State) (p w : Nat) : State :=
  let n := field w 16 11
  let s1 := s.wrFields (.isp p) 0 0x104 (setField w 16 11 (s.rd (.isp p) 0 Reg.Isp.CIS_RES)) Reg.Isp.all
  let other := s1.rd (.isp (1 - p)) 0 Reg.Isp.CIS_RES
  if sumNat ((List.range 8).map s1.quota) + n + other ≤ s1.cisFrames.length ∧ s1.needSum p ≤ n then
    s1.wr (.isp p) 0 Reg.Isp.CIS_RES n
  else s1.errCount (.isp p) 0 0 1

/-- Whether the binning settings hold (R275): a raw stream, b, whole blocks and the output's size, and the alignment of Table 10.10 (log 99). -/
def State.binOk (s : State) : Bool :=
  let p := Page.isp 0
  let b := 2 ^ (s.rd p 0 Reg.Isp.BIN_B + 1)
  let w := s.rd p 0 Reg.Isp.BIN_W_M1 + 1
  let h := s.rd p 0 Reg.Isp.BIN_H_M1 + 1
  s.rd p 0 Reg.Isp.BIN_B != 3 && ([0x2A, 0x2B, 0x2C, 0x2D, 0x2E, 0x2F].contains (s.rd p 0 Reg.Isp.BIN_DT)) &&
    s.rd p 0 Reg.Isp.BIN_ADDR % 64 == 0 && w % b == 0 && h % b == 0 && decide (w / b * (h / b) ≤ 327680)

/-- A write of an ISP page's block registers. -/
def State.ispWrite (s : State) (p off w : Nat) : State :=
  let pg := Page.isp p
  if off = 0x104 then s.writeCisRes p w
  else if 0x140 ≤ off ∧ off < 0x1C0 then
    if p ≠ 0 ∨ (setBits (s.rd pg 0 (Reg.Isp.MEMBERS ((off - 0x140) / 16))) 32).any s.ctxRuns then s
    else s.wrFields pg 0 off w Reg.Isp.all
  else if 0x1C0 ≤ off ∧ off < 0x1D8 then
    if p ≠ 0 then s
    else if s.rdB pg 0 Reg.Isp.BIN_EN then
      if off = 0x1C0 ∧ !bitAt w 0 then (s.wr pg 0 Reg.Isp.BIN_EN 0).setCams { s.cams with bin := none } else s
    else if off = 0x1C0 then
      let s1 := s.wrFields pg 0 off (setField w 0 1 0) Reg.Isp.all
      if bitAt w 0 && s1.binOk then s1.wr pg 0 Reg.Isp.BIN_EN 1 else s1
    else s.wrFields pg 0 off w Reg.Isp.all
  else s.wrFields pg 0 off w Reg.Isp.all

/-- A write of a context's block registers: the shadow bank in T5 mode has its own words (R276). -/
def State.ctxWrite (s : State) (c off w : Nat) : State :=
  let p := Page.ctx c
  if off = 0x154 then if bitAt w 0 then s.wr p 0 Reg.Ctx.PENDING 1 else s
  else if s.rdB p 0 Reg.Ctx.T5 && decide (0x400 ≤ off) && decide (off < 0x600) then s.wr p 1 (t5Word off) w
  else s.wrFields p 0 off w Reg.Ctx.all

/-- A write of a CSI port page's block registers. The reserved code 3 of WIDTH is stored and read back, and the port starts and receives
with it as with any other (log 100). -/
def State.csiWrite (s : State) (p off w : Nat) : State :=
  if off = 0x180 then
    if bitAt w 0 then (List.range 16).foldl (fun s v => s.wr (.csi p) 0 (Reg.Csi.CRC_VC v) 0) s else s
  else s.wrFields (.csi p) 0 off w Reg.Csi.all

/-- SHADOW_COMMIT (R265): the write with COMMIT = 1. -/
def execShadowCommit (v : View) (c : Nat) (w : Word) (s : State) : Ans :=
  .next (if 32 ≤ c then s
    else s.viaBus v ((Page.ctx c).base + 0x154) 4 (setField w.toNat 0 1 1) fun s _ _ _ => s.ctxWrite c 0x154 (setField w.toNat 0 1 1))

/-- CIS_RES (R262). -/
def execCisRes (v : View) (p : Nat) (w : Word) (s : State) : Ans :=
  .next (if 2 ≤ p then s
    else s.viaBus v ((Page.isp p).base + 0x104) 4 w.toNat fun s _ _ _ => s.writeCisRes p w.toNat)

end Sys2Proof.Machine
end

