-- ==== Sys2Proof/Machine/HostPorts.lean ====
section
/-! DEFINITION. Host and service ports (R377 to R389, with R313, R342, R363): the PCIe link, TLPs, host DMA, MSI-X, xSPI flash, I3C, UART
and the auxiliary stream port. The string that restarts the device is followed in Bringup.lean. -/

namespace Sys2Proof.Machine

def State.setPorts (s : State) (x : PortsS) : State := { s with ports := x }

/-! ### The link (R241, R252, R313, R361, R363) -/

/-- Training begins once PERST_N is high and step 5e has passed (R363). -/
def State.tryTrain (s : State) : State :=
  if s.ports.perstN && s.ports.lanesOk && (s.ports.link == .down || s.ports.link == .d3cold) then
    s.setPorts { s.ports with link := .training }
  else s

/-- Registers of the PCIE domain return to reset; host DMA contexts and IDE streams end. -/
def State.clearPcie (s : State) : State :=
  let s1 := s.clearPage .pcie
  { s1.setPorts { s1.ports with hdXfer := [], hdLine := [], msix := [], heldTlps := [] } with sec := { s1.sec with ide := [] } }

/-- PERST_N_RISE (R363). -/
def execPerstNRise (s : State) : Ans := .next (s.setPorts { s.ports with perstN := true }).tryTrain

/-- PERST_N_FALL (R361): it resets the PCIE domain only. -/
def execPerstNFall (s : State) : Ans :=
  .next (s.clearPcie.setPorts { s.clearPcie.ports with perstN := false, link := .down })

/-- HOST_D3COLD (R313): PCIE goes to OFF, and COLD of its page reads 1. -/
def execHostD3cold (s : State) : Ans :=
  .next (
    let s1 := s.clearPcie.setPorts { s.clearPcie.ports with link := .d3cold }
    s1.setDom 22 { s1.dom 22 with st := .off, req := 0, cold := true, wakeAfter := false })

/-- PCIE_LINK_UP (R363): training, or recovery, completes; a PCIE domain that was OFF is ON with COLD. -/
def execPcieLinkUp (s : State) : Ans :=
  .next (match s.ports.link with
    | .training =>
      let d := s.dom 22
      (s.setDom 22 { d with st := .on, cold := d.cold || d.st == .off }).setPorts { s.ports with link := .up }
    | .recovery => s.setPorts { s.ports with link := .up }
    | _ => s)

/-- PCIE_TLP_REPLAY (R241). -/
def execPcieTlpReplay (s : State) : Ans := .next (if s.domOn 22 then s.errCount .pcie 0 0 1 else s)

/-- PCIE_LINK_RECOVERY (R241, R252): after a fourth replay of one TLP the link retrains. -/
def execPcieLinkRecovery (s : State) : Ans :=
  .next (if s.domOn 22 && s.ports.link == .up then
      let s1 := s.errCount .pcie 0 1 1
      s1.setPorts { s1.ports with link := .recovery }
    else s)

/-! ### TLPs and MSI-X (R221, R342, R343, R412) -/

/-- Whether a TLP of a function travels on a secure stream: the selective stream that names the function, or the link stream. -/
def State.tlpSecure (s : State) (t : Tlp) : Bool :=
  match t.stream with
  | none => false
  | some k => (s.ide k).secure && (k == 0 || (s.ide k).rids.contains t.fn)

/-- Charge the payload of a TLP to or from a VF to its PCIE weir (Table 8.3). -/
def State.chargeTlp (s : State) (fn bytes : Nat) : State :=
  if fn = 0 then s else s.chargeWeir (some (fn - 1)) 2 (ceilDiv bytes 64)

/-- TLP_RECEIVED (R342, R343, R221): without a secure stream and with IDE_REQ = 1 it is dropped, and a request is completed with
Unsupported Request; an Insecure stream carries nothing. -/
def execTlpReceived (t : Tlp) (s : State) : Ans :=
  .next (if s.ports.link != .up || decide (8 < t.fn) then s
    else
      let insecure := match t.stream with
        | some k => (s.ide k).insecure
        | none => false
      let req := s.rdB .sec 0 Reg.Sec.IDE_REQ || s.sec.lc == 2
      if insecure || (req && !s.tlpSecure t) then s.emit (if t.request then .tlpUnsupported t.fn else .tlpDropped t.fn)
      else (s.chargeTlp t.fn t.payload).emit (.tlpAccepted t.fn))

/-- MSIX_UNMASK (R412): a pending message is sent. -/
def execMsixUnmask (fn k : Nat) (s : State) : Ans :=
  .next (if decide (8 < fn) || decide (16 ≤ k) then s
    else
      let m := SMap.get {} s.ports.msix (msixKey fn k)
      let s1 := s.setPorts { s.ports with msix := SMap.set {} s.ports.msix (msixKey fn k) { masked := false, pendingBit := false } }
      if m.masked && m.pendingBit then s1.sendMsix fn k else s1)

/-! ### Host DMA (R380, R381) -/

/-- A host DMA descriptor (Table 15.2). -/
structure HostDesc where
  host : Nat
  obj : Nat
  out : Bool
  len : Nat
  bad : Bool
deriving DecidableEq, Repr

def decodeHostDesc (b : List Byte) : HostDesc :=
  let o := leAt b 8 8
  let n := leAt b 0x10 4
  { host := leAt b 0 8, obj := field o 0 40, out := bitAt o 40, len := field n 0 24,
    bad := field o 41 23 != 0 || field n 24 8 != 0 || leAt b 0x14 8 != 0 || leAt b 0x1C 4 != 0 || field n 0 24 % 64 != 0 ||
      field n 0 24 == 0 || field o 0 40 % 64 != 0 || leAt b 0 8 % 64 != 0 }

/-- Whether a well frame is named by a VALID entry (R186). -/
def State.wellNamed (s : State) (addr : Nat) : Bool := s.frameNamed (frameWell ((addr - wellBase) / pageBytes))

/-- The fault of one 64-byte line of function fn at address x of the object that begins at base, or none (R184, R186, R380). -/
def State.hdLineFault (s : State) (fn base x : Nat) (wr : Bool) : Option Nat :=
  if x < transBase then
    if fn ≠ 0 then some 5
    else if !s.populated x then some 2
    else if wr && decide (wellBase ≤ x) && s.wellNamed x then some 4
    else none
  else
    let i0 := (base - transBase) / pageBytes
    let i := (x - transBase) / pageBytes
    let e := s.ott i
    if 2 ^ 20 ≤ i ∨ !ottValid e ∨ i0 + ottRun (s.ott i0) ≤ i then some 2
    else if fn ≠ 0 ∧ ottPart e ≠ fn - 1 then some 3
    else if wr ∧ (!ottWr e ∨ ottPlace e = 2) then some 4
    else if ottBad e then some 6
    else none

/-- Stop a host DMA context with a fault (R381). -/
def State.hdFault (s : State) (fn code : Nat) : State :=
  let p := Page.pcie
  let s1 := ((s.wr p fn Reg.Pcie.HD_FAULT code).wr p fn Reg.Pcie.FAULT_IDX (s.rd p fn Reg.Pcie.HEAD)).setSt p fn 3
  let s2 := (s1.wr p fn Reg.Hdr.STOP_REQ 0).setPorts { s1.ports with hdLine := SMap.set 0 s1.ports.hdLine fn 0 }
  s2.irq p (if fn = 0 then none else some (fn - 1)) 0

/-- The lines of a descriptor from line k on, n of them: inbound lines are never held, an outbound line waits for a token of the
PCIE weir. The state, the number of lines done, and the fault met; a line of the well that is lost is LINE_UE (R252, R381). -/
def State.hdLines (s : State) (fn : Nat) (d : HostDesc) (data : List Byte) (k : Nat) : Nat → State × Nat × Option Nat
  | 0 => (s, k, none)
  | n + 1 =>
    let x := d.obj + 64 * k
    match s.hdLineFault fn d.obj x (!d.out) with
    | some c => (s, k, some c)
    | none =>
      if d.out then
        let (s1, go) := s.issueLine (if fn = 0 then none else some (fn - 1)) [2]
        if !go then (s1, k, none)
        else
          let (s2, bad, l) := s1.readLine x none
          match bad with
          | some c => (s2, k, some c)
          | none => (s2.emit (.hostWrite fn (d.host + 64 * k) l)).hdLines fn d data (k + 1) n
      else ((s.chargeTlp fn 64).dstore (s.addrOf x) (sliceBytes (data.drop (64 * k)) 0 64)).hdLines fn d data (k + 1) n

/-- End of a descriptor (R380): the ingest digest record of an inbound one, then HEAD and XFERS. -/
def State.hdDone (s : State) (fn : Nat) (d : HostDesc) (data : List Byte) : State :=
  let p := Page.pcie
  let n := SMap.get 0 s.ports.hdXfer fn
  let len := max 1 (s.rd p fn Reg.Pcie.RING_LEN)
  let dig := s.rd2 p fn Reg.Pcie.DIG_LO Reg.Pcie.DIG_HI + 48 * (n % len)
  let fault := if d.out then none else match s.hdLineFault fn dig dig true with
    | some c => some c
    | none => s.hdLineFault fn dig (dig + 47) true
  match fault with
  | some c => s.hdFault fn c
  | none =>
    let s1 := if d.out then s else
      let r := ingestRecord 2 (if fn = 0 then 8 else fn - 1) n (sliceBytes data 0 d.len)
      let cut := min 48 (pageBytes - dig % pageBytes)
      (s.dstore (s.addrOf dig) (r.take cut)).dstore (s.addrOf (dig + cut)) (r.drop cut)
    let s2 := s1.wr p fn Reg.Pcie.HEAD ((s1.rd p fn Reg.Pcie.HEAD + 1) % len)
    (s2.count p fn Reg.Pcie.XFERS Reg.Pcie.XFERS_SAT 1).setPorts
      { s2.ports with hdXfer := SMap.set 0 s2.ports.hdXfer fn (n + 1), hdLine := SMap.set 0 s2.ports.hdLine fn 0 }

/-- Domains of the memory behind a range. -/
def State.hdDomains (s : State) (x n : Nat) : List Nat :=
  (List.range ((x % pageBytes + n + pageBytes - 1) / pageBytes)).map fun k => memDomain (s.addrOf (x / pageBytes * pageBytes + k * pageBytes))

/-- Whether a function's host DMA context has a descriptor to run; one that stops only ends the descriptor that it has begun. -/
def State.hdReady (s : State) (fn : Nat) : Bool :=
  let p := Page.pcie
  decide (fn ≤ 8) && s.domOn 22 && s.ports.link == .up && (s.st p fn == 1 || (s.st p fn == 2 && SMap.get 0 s.ports.hdLine fn != 0)) &&
    s.rd p fn Reg.Pcie.HEAD != s.rd p fn Reg.Pcie.TAIL

/-- HOST_DMA_DESCRIPTOR (R234, R380, R381): the descriptor at HEAD, as the context reads it from the host, with the host's data for an
inbound one. A descriptor that a weir holds goes on when the command is given again. Where IDE drops the context's reads, the host's
completion is an Unsupported Request (R342). -/
def execHostDmaDescriptor (fn : Nat) (desc data : List Byte) (hostErr : Bool) (s : State) : Ans :=
  .next (if !s.hdReady fn then s
    else
      let d := decodeHostDesc desc
      let p := Page.pcie
      if s.ideDrops fn then s.hdFault fn 8
      else if d.bad then s.hdFault fn 1
      else
        let (s0, on) := s.wakeAll (s.hdDomains d.obj d.len ++ (if d.out then [] else s.hdDomains (s.rd2 p fn Reg.Pcie.DIG_LO Reg.Pcie.DIG_HI) 1))
        if !on then s0
        else if hostErr then s0.hdFault fn 8
        else
          let k0 := SMap.get 0 s0.ports.hdLine fn
          let (s1, k, f) := s0.hdLines fn d data k0 (d.len / 64 - k0)
          match f with
          | some c => s1.hdFault fn c
          | none =>
            if k * 64 = d.len then s1.hdDone fn d data
            else s1.setPorts { s1.ports with hdLine := SMap.set 0 s1.ports.hdLine fn k })

/-- COMPLETION_TIMEOUT (R381). -/
def execCompletionTimeout (fn : Nat) (s : State) : Ans := .next (if s.hdReady fn then s.hdFault fn 8 else s)

/-- A write of the PCIE page's block registers in one function's view (R381). -/
def State.pcieWrite (s : State) (fn off w : Nat) : State :=
  if off = 0x10C then
    if s.rd .pcie fn Reg.Pcie.HD_FAULT ≠ 0 then s.errCount .pcie 0 0 1 else s.wr .pcie fn Reg.Pcie.TAIL w
  else s.wrFields .pcie fn off w Reg.Pcie.all

/-- HOST_DMA_TAIL (R380, R381). -/
def execHostDmaTail (v : View) (w : Word) (s : State) : Ans :=
  .next (s.viaBus v 0x0B010C 4 w.toNat fun s _ fn o => s.pcieWrite fn o w.toNat)

/-- VF_FLR (R225, R381): partition p is disabled, and its host DMA context stops with HEAD, TAIL and HD_FAULT cleared. -/
def execVfFlr (p : Nat) (s : State) : Ans :=
  .next (if 8 ≤ p then s
    else
      let s1 := s.disablePart p
      let fn := p + 1
      let s2 := (((s1.setSt .pcie fn 0).wr .pcie fn Reg.Hdr.STOP_REQ 0).wr .pcie fn Reg.Pcie.HEAD 0).wr .pcie fn Reg.Pcie.TAIL 0
      (s2.wr .pcie fn Reg.Pcie.HD_FAULT 0).setPorts
        { s2.ports with hdXfer := SMap.set 0 s2.ports.hdXfer fn 0, hdLine := SMap.set 0 s2.ports.hdLine fn 0,
                        heldTlps := s2.ports.heldTlps.filter fun h => h.1 != fn })

/-! ### Flash, I3C, UART (R368, R382 to R384) -/

/-- Whether a flash range meets copy A or copy B, 16 MiB each (R375). -/
def inBootCopy (addr len : Nat) : Bool := decide (addr < 0x2000000) && decide (0 < len)

/-- XSPI_COMMAND (R382): the steward's program or erase command after READY. -/
def execXspiCommand (op : XspiOp) (s : State) : Ans :=
  .next (if s.rd .sys 0 Reg.Sys.STAGE != 6 || !s.domOn 23 then s
    else
      let refused := fun (addr len : Nat) (unlock : Bool) => s.sec.lc == 2 && inBootCopy addr len && !unlock
      match op with
      | .program addr data unlock =>
        if refused addr data.length unlock then s.errCount .xspi 0 0 1
        else s.setPorts { s.ports with flash := data.zipIdx.foldl (fun m x => SMap.set 0xFF m (addr + x.2) x.1) s.ports.flash }
      | .erase addr len unlock =>
        if refused addr len unlock then s.errCount .xspi 0 0 1
        else s.setPorts { s.ports with flash := SMap.erase (fun k => decide (addr ≤ k) && decide (k < addr + len)) s.ports.flash })

/-- An interrupt or hot-join request of an I3C target (R383): queued, or NACKed and counted while the queue of 16 is full. -/
def State.i3cRequest (s : State) (target : Nat) (payload : List Byte) : State :=
  if !s.domOn 23 || s.st .i3c 0 == 0 || s.rd .sys 0 Reg.Sys.STAGE == 15 then s
  else if 16 ≤ s.ports.ibi.length then (s.errCount .i3c 0 1 1).emit (.i3cNack target)
  else (s.setPorts { s.ports with ibi := s.ports.ibi ++ [(target, payload)] }).emit (.i3cIbiAck target)

/-- I3C_IBI (R383): at most 4 payload bytes. -/
def execI3cIbi (target : Nat) (payload : List Byte) (s : State) : Ans := .next (s.i3cRequest target (payload.take 4))

/-- I3C_HOT_JOIN (R383). -/
def execI3cHotJoin (target : Nat) (s : State) : Ans := .next (s.i3cRequest target [])

/-- Byte i of the failure record, wrapping after 255. -/
def State.recordByte (s : State) (i : Nat) : Byte := nth 0 s.boot.record (i % 256)

/-- I3C_PRIVATE_READ (R368): in standpipe, n bytes of the failure record from byte 0. -/
def execI3cPrivateRead (n : Nat) (s : State) : Ans :=
  .next (if s.rd .sys 0 Reg.Sys.STAGE == 15 then s.emit (.i3cData ((List.range n).map s.recordByte)) else s)

/-- A hex digit as its ASCII code. -/
def hexChar (n : Nat) : Nat := if n < 10 then 48 + n else 55 + n

/-- The 8 hex digits of four record bytes in order. -/
def State.hexWord (s : State) (i : Nat) : List Nat :=
  (List.range 4).flatMap fun k => [hexChar ((s.recordByte (i + k)).toNat / 16), hexChar ((s.recordByte (i + k)).toNat % 16)]

/-- The standpipe lines (R368): the title, then 32 lines of 8 record bytes as two groups of 8 hex digits. -/
def State.standpipeLines (s : State) : List (List Nat) :=
  [[71, 84, 55, 32, 83, 84, 65, 78, 68, 80, 73, 80, 69]] ++
    (List.range 32).map fun i => s.hexWord (8 * i) ++ [32] ++ s.hexWord (8 * i + 4)

def State.sendLines (s : State) : State := s.standpipeLines.foldl (fun s l => s.emit (.uartLine l)) s

/-- UART_QUERY (R368). -/
def execUartQuery (s : State) : Ans := .next (if s.rd .sys 0 Reg.Sys.STAGE == 15 then s.sendLines else s)

/-! ### The auxiliary stream port (R386 to R389) -/

/-- ASP_XOFF after a change of COUNT or of the watermarks' enable (R388). -/
def State.aspXoff (s : State) : State :=
  let p := Page.asp
  let n := s.ports.sluice.length
  if s.rdB p 0 Reg.Asp.WM_EN then
    if s.rd p 0 Reg.Asp.HI_WM ≤ n then s.wr p 0 Reg.Asp.XOFF 1
    else if n ≤ s.rd p 0 Reg.Asp.LO_WM then s.wr p 0 Reg.Asp.XOFF 0
    else s
  else s.wr p 0 Reg.Asp.XOFF (s.rd p 0 Reg.Asp.XOFF_SW)

/-- ASP_RDY (R387). -/
def State.aspRdy (s : State) : Bool := s.st .asp 0 == 1 && decide (8 < 8192 - s.ports.sluice.length)

/-- ASP_WORD (R385 to R388). -/
def execAspWord (d : BitVec 64) (s : State) : Ans :=
  .next (
    let p := Page.asp
    if !s.domOn 23 || (s.st p 0 != 1 && s.st p 0 != 2) then s
    else if 8192 ≤ s.ports.sluice.length then
      ((s.count p 0 Reg.Asp.DROPPED Reg.Asp.DROPPED_SAT 1).wr p 0 Reg.Asp.OVERRUN 1).irq p none 1
    else (s.setPorts { s.ports with sluice := s.ports.sluice ++ [d], nibbles := 0 }).aspXoff)

/-- Whether a page refuses a write of the ASP drain (R184). -/
def State.aspRefused (s : State) (base x : Nat) : Bool :=
  decide (x < transBase) ||
    (let i0 := (base - transBase) / pageBytes
     let i := (x - transBase) / pageBytes
     let e := s.ott i
     !ottValid e || decide (i0 + ottRun (s.ott i0) ≤ i) || ottPart e != s.rd .asp 0 Reg.Asp.ASP_PART || !ottWr e || ottPlace e == 2 || ottBad e)

/-- Store bytes one by one through the translated space; a refused page takes nothing. -/
def State.aspStore (s : State) (base : Nat) (l : List (Nat × Byte)) : State :=
  l.foldl (fun s x => if s.aspRefused base x.1 then s else s.dstore (s.transAddr x.1) [x.2]) s

/-- A write of the ASP page's block registers (R388, R389). -/
def State.aspWrite (s : State) (off w : Nat) : State :=
  let p := Page.asp
  if off = 0x10C then
    if !bitAt w 31 then s.wr p 0 Reg.Asp.DRAIN_LEN w
    else if s.ports.drain.isSome then s.errCount p 0 1 1
    else
      let n := field w 0 14
      let s1 := s.wr p 0 Reg.Asp.DRAIN_LEN n
      if s.ports.sluice.length < n then s1.errCount p 0 1 1
      else (s1.wr p 0 Reg.Asp.DRAIN_GO 1).setPorts { s1.ports with drain := some n }
  else if off = 0x100 then (s.wrFields p 0 off w Reg.Asp.all).aspXoff
  else s.wrFields p 0 off w Reg.Asp.all

/-- DRAIN_GO (R389): the write with DRAIN_GO = 1. -/
def execDrainGo (v : View) (w : Word) (s : State) : Ans :=
  .next (s.viaBus v 0x0B410C 4 w.toNat fun s _ _ o => s.aspWrite o (setField w.toNat 31 1 1))

/-- ASP_DRAIN_END (R234, R389): the words are in the ring, the ingest digest record is written, IRQ_RAW bit 0 sets. -/
def execAspDrainEnd (s : State) : Ans :=
  .next (match s.ports.drain with
    | none => s
    | some n =>
      let p := Page.asp
      let dst := s.rd2 p 0 Reg.Asp.DST_LO Reg.Asp.DST_HI
      let len := max 1 (s.rd p 0 Reg.Asp.DST_LEN)
      let off := s.rd p 0 Reg.Asp.DST_OFF
      let k := s.rd p 0 Reg.Asp.XFER_NUM
      let dig := s.rd2 p 0 Reg.Asp.DIG_LO Reg.Asp.DIG_HI + 48 * (k % (s.rd p 0 Reg.Asp.DIG_SLOTS_M1 + 1))
      let data := (s.ports.sluice.take n).flatMap fun w => leBytes 8 w.toNat
      let cells := data.zipIdx.map fun x => (dst + (off + x.2) % len, x.1)
      let recs := (ingestRecord 3 0 k data).zipIdx.map fun x => (dig + x.2, x.1)
      let (s0, on) := s.wakeAll (((cells ++ recs).filter fun c => decide (transBase ≤ c.1)).map fun c => memDomain (s.transAddr c.1)).eraseDups
      if !on then s0
      else
        let s1 := (s0.aspStore dst cells).aspStore dig recs
        let s2 := s1.setPorts { s1.ports with sluice := s1.ports.sluice.drop n, drain := none }
        let s3 := ((s2.wr p 0 Reg.Asp.DST_OFF ((off + data.length) % len)).wr p 0 Reg.Asp.XFER_NUM ((k + 1) % 2 ^ 32)).wr p 0 Reg.Asp.DRAIN_GO 0
        s3.aspXoff.irq p none 0)

end Sys2Proof.Machine
end

