-- ==== Sys2Proof/Machine/HighVoltage.lean ====
section
/-! DEFINITION. The high-voltage island (R390 to R404): the battery gauge and the bistable status panel. -/

namespace Sys2Proof.Machine

def State.setGauge (s : State) (x : GaugeS) : State := { s with gauge := x }
def State.setPanel (s : State) (x : PanelS) : State := { s with panel := x }

/-! ### The coulomb counter (R391 to R393, R398) -/

def qLim : Int := 2 ^ 47 - 1

/-- QCNT: bits [55:8] of the accumulator. -/
def State.qcnt (s : State) : Int := s.gauge.acc / 256

/-- Add to the accumulator; QCNT saturates and sets QSAT (R392). -/
def State.addCharge (s : State) (x : Int) : State :=
  let a := s.gauge.acc + x
  if qLim < a / 256 then (s.setGauge { s.gauge with acc := qLim * 256 }).wr .hv 0 Reg.Hv.QSAT 1
  else if a / 256 < -qLim then (s.setGauge { s.gauge with acc := -qLim * 256 }).wr .hv 0 Reg.Hv.QSAT 1
  else s.setGauge { s.gauge with acc := a }

/-- Add an error bound to Q_UNC (R393). -/
def State.addUnc (s : State) (n : Nat) : State := s.count .hv 0 Reg.Hv.Q_UNC Reg.Hv.Q_UNC_SAT n

/-- A Q_LOAD that waits is applied before the sample (R398). -/
def State.applyQload (s : State) : State :=
  if s.rdB .hv 0 Reg.Hv.Q_LOAD then
    let q := toInt 48 (s.rd2 .hv 0 Reg.Hv.QSET_LO Reg.Hv.QSET_HI)
    ((s.setGauge { s.gauge with acc := q * 256, rest := 0 }).wr .hv 0 Reg.Hv.Q_UNC 0).wr .hv 0 Reg.Hv.Q_LOAD 0
  else s

/-- A sample of value e enters the counter, with the settling samples that take its value (R393). -/
def State.takeE (s : State) (e : Int) : State :=
  let n := s.gauge.unsettled + 1
  let s1 := s.addCharge (e * n)
  let es := s1.gauge.es ++ List.replicate n e
  (s1.setGauge { s1.gauge with lastE := e, unsettled := 0, es := es.drop (es.length - 10) }).wr .hv 0 Reg.Hv.I_CODE (ofInt 27 e)

/-- GAUGE_CURRENT_SAMPLE (R391 to R393, R398). -/
def execGaugeCurrentSample (f : CurrentFrame) (s : State) : Ans :=
  .next (
    let s0 := s.applyQload
    let g := s0.gauge
    match f with
    | .lost =>
      let s1 := (s0.errCount .hv 0 0 1).addUnc 524288
      if 0 < g.settle then s1.setGauge { g with settle := g.settle - 1, unsettled := g.unsettled + 1 }
      else if 0 < g.unsettled then s1.setGauge { g with unsettled := g.unsettled + 1 }
      else s1.takeE g.lastE
    | .code c =>
      if 0 < g.settle then s0.setGauge { g with settle := g.settle - 1, unsettled := g.unsettled + 1, outRun := 0 }
      else
        let c1 := clampInt (-(2 ^ 23)) (2 ^ 23 - 1) c
        let coarse := s0.rdB .hv 0 Reg.Hv.RANGE
        let out := if coarse then decide (c1.natAbs ≤ 786432) else decide (7864320 ≤ c1.natAbs)
        let s1 := s0.takeE (if coarse then 8 * c1 else c1)
        s1.setGauge { s1.gauge with outRun := if out then g.outRun + 1 else 0 })

/-- GAUGE_RANGE_CHANGE (R393, Table 16.1): after four consecutive out-of-range samples. -/
def execGaugeRangeChange (s : State) : Ans :=
  .next (if s.gauge.outRun < 4 then s
    else
      let coarse := s.rdB .hv 0 Reg.Hv.RANGE
      ((s.wr .hv 0 Reg.Hv.RANGE (b2n !coarse)).addUnc (if coarse then 1048576 else 2097152)).setGauge
        { s.gauge with outRun := 0, settle := 2, rest := 0 })

/-! ### Estimates (R394 to R397) -/

/-- The OCV table in use: (mV, SOC). -/
def State.ocvTable (s : State) : List (Nat × Nat) :=
  (List.range (s.rd .hv 0 Reg.Hv.OCV_N)).map fun i => (s.rd .hv 0 (Reg.Hv.OCV_MV i), s.rd .hv 0 (Reg.Hv.OCV_SOC i))

/-- Whether a table's first components rise. -/
def rising : List (Nat × Nat) → Bool
  | [] => true
  | [_] => true
  | a :: b :: t => decide (a.1 < b.1) && rising (b :: t)

/-- OCV (R394). -/
def ocv : List (Nat × Nat) → Int → Int
  | [], _ => 0
  | [a], _ => a.2
  | a :: b :: t, v =>
    if v ≤ a.1 then a.2
    else if v < b.1 then (a.2 : Int) + rheDiv ((v - a.1) * ((b.2 : Int) - a.2)) (b.1 - a.1)
    else ocv (b :: t) v

def State.capacity (s : State) : Nat := s.rd2 .hv 0 Reg.Hv.CAP_LO Reg.Hv.CAP_HI

/-- Whether the settings allow no estimate (R394). -/
def State.tableBad (s : State) : Bool :=
  let n := s.rd .hv 0 Reg.Hv.CELLS
  n == 0 || decide (13 < n) || s.capacity == 0 || s.rd .hv 0 Reg.Hv.SHUNT_UOHM == 0 || decide (s.rd .hv 0 Reg.Hv.OCV_N < 2) ||
    decide (16 < s.rd .hv 0 Reg.Hv.OCV_N) || !rising s.ocvTable

/-- I_mA of the mean of the last ten samples (R394). -/
def State.currentMa (s : State) : Int :=
  let n := max 1 s.gauge.es.length
  rheDiv (sumInt s.gauge.es * 6250000) (n * 2 ^ 23 * max 1 (s.rd .hv 0 Reg.Hv.SHUNT_UOHM))

/-- SOC_Q (R394). -/
def State.socQ (s : State) : Int := clampInt 0 65535 (s.qcnt * 65536 / (max 1 s.capacity : Nat))

/-- SOC_V of a pack voltage (R394). -/
def State.socV (s : State) (mv : Nat) : Int :=
  let comp := (mv : Int) - rheDiv (s.currentMa * s.rd .hv 0 Reg.Hv.RPACK_MOHM) 1000
  clampInt 0 65535 (ocv s.ocvTable (rheDiv comp (max 1 (s.rd .hv 0 Reg.Hv.CELLS))))

/-- GAUGE_DISAGREE follows the two estimates; its rise sets IRQ_RAW bit 0 (R395). -/
def State.disagree (s : State) (q v : Int) : State :=
  let d := decide (s.rd .hv 0 Reg.Hv.DIS_TH < (q - v).natAbs)
  let was := s.rdB .hv 0 Reg.Hv.GAUGE_DISAGREE
  let s1 := s.wr .hv 0 Reg.Hv.GAUGE_DISAGREE (b2n d)
  if d && !was then s1.irq .hv none 0 else s1

/-- GAUGE_VOLTAGE_SAMPLE (R391, R394, R395, R397). -/
def execGaugeVoltageSample (mv ntc : Nat) (ntcFault : Bool) (s : State) : Ans :=
  .next (
    let p := Page.hv
    let m := min mv 65535
    let s0 := s.wr p 0 Reg.Hv.VPACK_MV m
    let s1 := if s0.rdB p 0 Reg.Hv.NTC_EN then (s0.wr p 0 Reg.Hv.NTC_CODE (min ntc 4095)).wr p 0 Reg.Hv.NTC_FAULT (b2n ntcFault) else s0
    let s2 := if s1.rd p 0 Reg.Hv.SHUNT_UOHM = 0 then s1 else
      let rest := decide (s1.currentMa.natAbs ≤ s1.rd p 0 Reg.Hv.REST_MA)
      (s1.wr p 0 Reg.Hv.RESTING (b2n rest)).setGauge { s1.gauge with rest := if rest then s1.gauge.rest + 1 else 0 }
    if s2.tableBad then ((s2.wr p 0 Reg.Hv.TABLE_BAD 1).wr p 0 Reg.Hv.SOC_Q 0).wr p 0 Reg.Hv.SOC_V 0
    else
      let q := s2.socQ
      let v := s2.socV m
      let s3 := ((s2.wr p 0 Reg.Hv.TABLE_BAD 0).wr p 0 Reg.Hv.SOC_Q q.toNat).wr p 0 Reg.Hv.SOC_V v.toNat
      let c1 := decide (q = 0) && decide (v ≤ s3.rd p 0 Reg.Hv.EMPTY_SOC)
      let c2 := decide (m ≤ s3.rd p 0 Reg.Hv.CUTOFF_MV)
      let g := s3.gauge
      (s3.setGauge { g with holdQ := if c1 then g.holdQ + 1 else 0, holdV := if c2 then g.holdV + 1 else 0,
                            clearHold := if c1 || c2 then 0 else g.clearHold + 1 }).disagree q v)

/-- GAUGE_EMPTY_SET (R395): a condition has held for 8 consecutive voltage samples. -/
def execGaugeEmptySet (s : State) : Ans :=
  .next (if s.rdB .hv 0 Reg.Hv.EMPTY || (decide (s.gauge.holdQ < 8) && decide (s.gauge.holdV < 8)) then s
    else (s.wr .hv 0 Reg.Hv.EMPTY 1).irq .hv none 1)

/-- GAUGE_EMPTY_CLEAR (R395): neither condition has held for 8 consecutive voltage samples. -/
def execGaugeEmptyClear (s : State) : Ans :=
  .next (if s.gauge.clearHold < 8 then s else s.wr .hv 0 Reg.Hv.EMPTY 0)

/-- GAUGE_REANCHOR (R397, R398): at the voltage sample after 180,000 consecutive resting ones, unless a Q_LOAD waits or TABLE_BAD is
set. -/
def execGaugeReanchor (s : State) : Ans :=
  .next (
    let p := Page.hv
    if decide (s.gauge.rest ≤ 180000) || s.rdB p 0 Reg.Hv.TABLE_BAD || s.rdB p 0 Reg.Hv.Q_LOAD then s
    else
      let v := s.rd p 0 Reg.Hv.SOC_V
      let s1 := s.setGauge { s.gauge with acc := (v * s.capacity / 65536 : Nat) * 256, rest := 0 }
      let s2 := ((s1.wr p 0 Reg.Hv.Q_UNC 0).count p 0 Reg.Hv.ANCHORS Reg.Hv.ANCHORS_SAT 1).irq p none 2
      (s2.wr p 0 Reg.Hv.SOC_Q s2.socQ.toNat).disagree s2.socQ v)

/-! ### The panel (R399 to R404) -/

/-- Bit k of three 32-bit registers. -/
def State.segBit (s : State) (f : Nat → Fld) (k : Nat) : Bool := bitAt (s.rd .hv 0 (f (k / 32))) (k % 32)

/-- A phase entry of a waveform (Table 16.2). -/
def State.phaseEntry (s : State) (w i : Nat) : Nat := s.rd .hv 0 (Reg.Hv.PHASE_ENTRY (32 * w + i))

/-- Whether a phase entry holds LEN = 0, a reserved code or a reserved bit. -/
def phaseBad (e : Nat) : Bool := field e 0 10 == 0 || field e 10 2 == 3 || field e 20 12 != 0

/-- The refusal of a GO (R402), in the order of its list; 0 for none. -/
def State.panelRefusal (s : State) (w : Nat) : Nat :=
  let p := Page.hv
  let needs := (List.range 3).any fun i => s.rd p 0 (Reg.Hv.CLEAN_REQ i) != 0
  let covers := (List.range 3).all fun i => clr32 (s.rd p 0 (Reg.Hv.CLEAN_REQ i)) (s.rd p 0 (Reg.Hv.REGION i)) == 0
  let n := s.rd p 0 (Reg.Hv.NPHASE w)
  if s.rdB p 0 Reg.Hv.BUSY then 1
  else if needs && !(s.rdB p 0 (Reg.Hv.CLEAN w) && covers) then 2
  else if s.panel.vddHv < 3000 then 3
  else if n == 0 || (List.range n).any fun i => phaseBad (s.phaseEntry w i) then 4
  else 0

/-- A write of GO (R401, R402): a refused one changes nothing but P_ERR, ERR_CNT1 and IRQ_RAW bit 5. -/
def State.panelGo (s : State) (w : Nat) : State :=
  let p := Page.hv
  match s.panelRefusal w with
  | 0 =>
    ((((s.wr p 0 Reg.Hv.WAVE w).wr p 0 Reg.Hv.BUSY 1).wr p 0 Reg.Hv.PHASE 0).wr p 0 Reg.Hv.JRN_SFAIL 0).setPanel
      { s.panel with pumps := true, phases := false }
  | e => ((s.wr p 0 Reg.Hv.P_ERR e).errCount p 0 1 1).irq p none 5

/-- Level of segment k in a phase (R400, R401). -/
def State.segLevel (s : State) (e k : Nat) : Nat :=
  let com := field e 10 2
  let code :=
    if !s.segBit Reg.Hv.REGION k then 3
    else match s.segBit Reg.Hv.IMAGE k, s.segBit Reg.Hv.TARGET k with
      | false, true => field e 12 2
      | true, false => field e 14 2
      | true, true => field e 16 2
      | false, false => field e 18 2
  if code = 3 then com else code

/-- A phase begins (R401 step 3). -/
def State.beginPhase (s : State) (i : Nat) : State :=
  let e := s.phaseEntry (s.rd .hv 0 Reg.Hv.WAVE) i
  ((s.wr .hv 0 Reg.Hv.PHASE i).wr .hv 0 Reg.Hv.JRN_PHASE i).setPanel
    { s.panel with phases := true, segs := (List.range 96).map (s.segLevel e), com := field e 10 2 }

/-- Every output at 0 V, pumps stopped, no update in progress. -/
def State.parkPanel (s : State) : State :=
  ((s.wr .hv 0 Reg.Hv.BUSY 0).wr .hv 0 Reg.Hv.PHASE 0).setPanel
    { s.panel with pumps := false, phases := false, segs := List.replicate 96 0, com := 0 }

/-- PANEL_GO (R401, R402): the write with GO = 1. -/
def execPanelGo (v : View) (w : Word) (s : State) : Ans :=
  .next (s.viaBus v 0x0C0200 4 (setField w.toNat 31 1 1) fun s _ _ _ => s.panelGo (field w.toNat 0 2))

/-- PANEL_PUMPS_READY (R401 step 2): the journal is set and phase 0 begins. -/
def execPanelPumpsReady (s : State) : Ans :=
  .next (
    let p := Page.hv
    if !s.domOn 25 || !s.panel.pumps || s.panel.phases || !s.rdB p 0 Reg.Hv.BUSY then s
    else
      let s1 := (List.range 3).foldl (fun s i => s.wr p 0 (Reg.Hv.JRN_REGION i) (s.rd p 0 (Reg.Hv.REGION i))) s
      ((s1.wr p 0 Reg.Hv.JRN_WAVE (s1.rd p 0 Reg.Hv.WAVE)).wr p 0 Reg.Hv.JRN_VALID 1).beginPhase 0)

/-- PANEL_PHASE_END (R401 steps 3 to 5). -/
def execPanelPhaseEnd (s : State) : Ans :=
  .next (
    let p := Page.hv
    if !s.domOn 25 || !s.panel.phases then s
    else
      let w := s.rd p 0 Reg.Hv.WAVE
      let i := s.rd p 0 Reg.Hv.PHASE
      if i + 1 < s.rd p 0 (Reg.Hv.NPHASE w) then s.beginPhase (i + 1)
      else
        let s1 := (List.range 3).foldl (fun s k =>
          let r := s.rd p 0 (Reg.Hv.REGION k)
          let img := or32 (clr32 (s.rd p 0 (Reg.Hv.IMAGE k)) r) (and32 (s.rd p 0 (Reg.Hv.TARGET k)) r)
          let s1 := s.wr p 0 (Reg.Hv.IMAGE k) img
          if s.rdB p 0 (Reg.Hv.CLEAN w) then s1.wr p 0 (Reg.Hv.CLEAN_REQ k) (clr32 (s.rd p 0 (Reg.Hv.CLEAN_REQ k)) r) else s1) s
        (s1.parkPanel.wr p 0 Reg.Hv.JRN_VALID 0).irq p none 3)

/-- HV_SUPPLY_FAIL (R403): VDD_HV falls to mv. A level of 2.9 V or more is only the new level. -/
def execHvSupplyFail (mv : Nat) (s : State) : Ans :=
  .next (
    let p := Page.hv
    let s0 := s.setPanel { s.panel with vddHv := mv }
    if decide (2900 ≤ mv) || decide (s.panel.vddHv < 2900) then s0
    else
      let s1 := s0.parkPanel
      if !s.rdB p 0 Reg.Hv.BUSY then s1
      else
        let s2 := (List.range 3).foldl (fun s k =>
          s.wr p 0 (Reg.Hv.CLEAN_REQ k) (or32 (s.rd p 0 (Reg.Hv.CLEAN_REQ k)) (s.rd p 0 (Reg.Hv.JRN_REGION k)))) s1
        ((s2.wr p 0 Reg.Hv.JRN_SFAIL 1).errCount p 0 2 1).irq p none 4)

/-- A write of the HV page's block registers: those of EPD are ignored while BUSY = 1, with CFG_WHILE_RUN. -/
def State.hvWrite (s : State) (off w : Nat) : State :=
  let p := Page.hv
  if off = 0x200 ∧ bitAt w 31 then s.panelGo (field w 0 2)
  else if 0x200 ≤ off && s.rdB p 0 Reg.Hv.BUSY then (s.wr p 0 Reg.Hdr.CFG_WHILE_RUN 1).irq p none 31
  else
    let s1 := s.wrFields p 0 off w Reg.Hv.all
    if off = 0x120 ∧ bitAt w 31 then s1.wr p 0 Reg.Hv.Q_LOAD 1 else s1

/-- Q_LOAD (R398): the write with Q_LOAD = 1. -/
def execQLoad (v : View) (w : Word) (s : State) : Ans :=
  .next (s.viaBus v 0x0C0120 4 (setField w.toNat 31 1 1) fun s _ _ o => s.hvWrite o (setField w.toNat 31 1 1))

end Sys2Proof.Machine
end

