-- ==== Sys2Proof/Machine/Bringup.lean ====
section
/-! DEFINITION. Power-up, self-test, the standpipe state and the resets (R361 to R376, R420, R425). -/

namespace Sys2Proof.Machine

/-! ### What a reset keeps (R361, R420) -/

/-- Whether a register key lies in a byte range of the control window, bank 0. -/
def keyIn (k lo hi : Nat) : Bool := decide (lo ≤ k / 32) && decide (k / 32 < hi)

/-- Registers that keep their values while PORST_N is low: fuses, the operating points (R423), the gauge and the journal (R390), TRIPPED
(R425), what the pad logic and the calibration hold in AUDIO (R289, R304), and REKEY_DUE beside the well counter (R345). -/
def porKeeps (k : Nat) : Bool :=
  keyIn k 0x002100 0x003000 || ((List.range 9).any fun a => keyIn k (0x010100 + a * 0x1000) (0x010180 + a * 0x1000)) ||
  keyIn k 0x0C0100 0x0C0200 || k == regKey .therm 0 Reg.Therm.TRIPPED || k == regKey .audio 0 Reg.Audio.CAL_SRC ||
  k == regKey .audio 0 Reg.Audio.CAL_BAD || k == regKey .audio 0 Reg.Audio.MUTED || k == regKey .sec 0 Reg.Sec.REKEY_DUE

/-- The security fuses after a power-on reset (R336, R337): a pending advance of the lifecycle takes effect. -/
def SecS.fuses (x : SecS) : SecS :=
  let lc := x.lcPending.getD x.lc
  { lc := lc, devPub := x.devPub, devPriv := x.devPriv, owners := x.owners, rollback := x.rollback, otp := x.otp,
    dbgScope := if lc = 0 then 0xF else 0 }

/-- What AON audio keeps through PORST_N: SIDX goes on (R288), and with it the place in the open block; the calibration stays (R289); the
pad logic works (R364). -/
def AudioS.kept (x : AudioS) : AudioS :=
  let n := x.sidx % 256
  { sidx := x.sidx, cal := x.cal, muteLow := x.muteLow, unmuteWait := x.unmuteWait, unmuteLeft := x.unmuteLeft, micPwr := x.micPwr,
    muteInd := x.muteInd, openLanes := List.replicate 8 (List.replicate n 0), openMix := List.replicate n (0, x.muted) }

/-- The device while PORST_N is low, or while the thermal trip or a RESTART resets it (R361, R370, R420, R425). -/
def State.porReset (s : State) : State :=
  { State.reset with
    regs := s.regs.filter fun e => porKeeps e.1
    now := s.now
    free := s.free
    out := s.out
    pending := s.pending
    audio := s.audio.kept
    sec := { s.sec.fuses with wellKey := s.sec.wellKey, wellCtr := s.sec.wellCtr, frameCtr := s.sec.frameCtr }
    ports := { flash := s.ports.flash, perstN := s.ports.perstN }
    gauge := s.gauge
    panel := { vddHv := s.panel.vddHv }
    supply := s.supply
    boot := { test := s.boot.test, porstN := s.boot.porstN, runs := s.boot.runs } }

/-- The AON power-on reset (R420): only fuses, flash and what lies outside the device stay; SIDX is 0, the calibration comes from OTP
(R289), a fresh well key is installed (R345), and the real-time clock is back on the crystal (R426). -/
def State.aonReset (s : State) : State :=
  let (k, s0) := s.takeFree
  ({ State.reset with
    regs := s0.regs.filter fun e => keyIn e.1 0x002100 0x003000
    now := s0.now
    free := s0.free
    out := s0.out
    pending := s0.pending
    audio := { muteLow := s0.audio.muteLow, micPwr := !s0.audio.muteLow, muteInd := s0.audio.muteLow }
    sec := { s0.sec.fuses with wellKey := k }
    ports := { flash := s0.ports.flash, perstN := s0.ports.perstN }
    panel := { vddHv := s0.panel.vddHv }
    supply := { vmaRemoved := s0.supply.vmaRemoved, lpRemoved := s0.supply.lpRemoved }
    boot := { test := s0.boot.test, porstN := s0.boot.porstN } } : State).calFromOtp

/-! ### Fuses (R374) -/

/-- Number of set bits among the low 8. -/
def popcount (w : Nat) : Nat := (setBits w 8).length

/-- Whether the counts of present units match the row of Table 0.1 that ORDER names. -/
def State.countsOk (s : State) : Bool :=
  let order := s.rd .fuse 0 Reg.Fuse.ORDER
  let n := nth 0 [8, 6, 4] order
  decide (order < 3) && [Reg.Fuse.ARR_OFF, Reg.Fuse.CIS_OFF, Reg.Fuse.CH_OFF].all (fun f => 8 - popcount (s.rd .fuse 0 f) == n) &&
    6 - popcount (s.rd .fuse 0 Reg.Fuse.CSI_OFF) == nth 0 [6, 6, 4] order

/-! ### Boot from flash (R375, Table 14.7) -/

/-- n bytes of the boot flash; an erased byte reads 0xFF. -/
def State.flashBytes (s : State) (a n : Nat) : List Byte := (List.range n).map fun i => SMap.get 0xFF s.ports.flash (a + i)

/-- Base of copy A or B. -/
def copyBase (b : Bool) : Nat := if b then 0x1000000 else 0

/-- The boot header of a copy. -/
def State.bootHeader (s : State) (b : Bool) : List Byte := s.flashBytes (copyBase b) 512

/-- The first check of a header that fails, as R375 numbers them, or 0. -/
def State.headerCode (s : State) (h : List Byte) : Nat :=
  let pub := sliceBytes h 0x40 96
  let owner := (List.range 4).any fun i =>
    let o := SMap.get {} s.sec.owners i
    o.en && o.hash == sha256 pub
  let signer := owner || (decide (s.sec.lc < 2) && sha256 pub == Config.grenariFwHash)
  if leAt h 0 4 ≠ 0x42375447 ∨ leAt h 4 2 ≠ 1 then 1
  else if !Config.ecdsaOk pub (sha384 (sliceBytes h 0 0xA0 ++ sliceBytes h 0x100 0x100)) (sliceBytes h 0xA0 96) then 2
  else if !signer then 3
  else if field (leAt h 0x28 4) 8 8 < SMap.get 0 s.sec.rollback (field (leAt h 0x28 4) 0 4) then 4
  else 0

/-- An image of a copy, by the offset of its OFF and LEN fields in the header. -/
def State.bootImage (s : State) (b : Bool) (h : List Byte) (o : Nat) : List Byte :=
  s.flashBytes (copyBase b + leAt h o 4) (leAt h (o + 4) 4)

/-- Failure code of a copy's header and AON image (step 4), or 0. -/
def State.code4 (s : State) (b : Bool) : Nat :=
  let h := s.bootHeader b
  match s.headerCode h with
  | 0 => if sha384 (s.bootImage b h 0x08) = sliceBytes h 0x100 48 then 0 else 5
  | c => c

/-- Whether a copy's steward image has its digest (step 5f). -/
def State.stewardOk (s : State) (b : Bool) : Bool :=
  let h := s.bootHeader b
  sha384 (s.bootImage b h 0x10) == sliceBytes h 0x130 48

/-- Take both images from a copy: the header, the measurements of R353 and the certificate chain (R337), empty where its leaf key is not
DEV_PUB. -/
def State.takeCopy (s : State) (b : Bool) : State :=
  let h := s.bootHeader b
  let meas := fun (o ver : Nat) => sha256 (s.bootImage b h o) ++ sliceBytes h ver 4
  let chain := s.bootImage b h 0x18
  { s with boot := { s.boot with hdr := h, copyB := b, code4 := 0, code5 := 0 },
           sec := { s.sec with aonMeas := meas 0x08 0x20, stwMeas := meas 0x10 0x24,
                               certChain := if Config.leafKey chain = s.sec.devPub then chain else [] } }

/-- Boot verification (R375), steps 4 and 5f. -/
def State.bootCheck (s : State) : State :=
  let a := s.code4 false
  let fail := fun (c4 c5 : Nat) => { s with boot := { s.boot with code4 := c4, code5 := c5 } }
  if a = 0 then
    if s.stewardOk false then s.takeCopy false
    else if s.code4 true = 0 && s.stewardOk true then s.takeCopy true
    else fail 0 5
  else if s.code4 true = 0 then
    if s.stewardOk true then s.takeCopy true else fail 0 a
  else fail a 0

/-! ### The sequence (R362, R363) -/

/-- Whether a defect makes its unit fail: a link, channel, port or lane is retrained once (R366). -/
def defectFails (d : Defect) : Bool := !(decide (11 ≤ d.unit) && decide (d.unit ≤ 14) && d.retrainPasses)

/-- Steps 1 to 5 of the sequence (R362), with what the tests of this part meet. -/
def State.bringUp (s : State) (t : SelfTest) : State :=
  let ok := t.fuseOk && s.countsOk
  let s1 := (s.wr .fuse 0 Reg.Fuse.FUSE_OK (b2n ok)).wr .sys 0 Reg.Sys.STAGE 4
  let s2 := ({ s1 with boot := { s1.boot with test := t, running := true, runs := (s1.boot.runs + 1) % 2 ^ 32 } }).bootCheck
  let lanes := !(t.defects.any fun d => d.unit == 14 && defectFails d)
  (s2.setPorts { s2.ports with lanesOk := lanes }).tryTrain

/-- PORST_N_RISE (R361, R362): nothing starts while the thermal trip still holds its reset (R425). -/
def execPorstNRise (t : SelfTest) (s : State) : Ans :=
  .next (if s.boot.porstN then s
    else
      let s1 := { s with boot := { s.boot with porstN := true, test := t } }
      if s.boot.tripped then s1 else s1.bringUp t)

/-- PORST_N_FALL (R420): the ball, or a monitor of VDDIO, VDD_SOC or VDD_SRAM. RUNS is cleared (R369). -/
def execPorstNFall (s : State) : Ans :=
  .next (
    let s1 := s.porReset
    { s1 with boot := { s1.boot with porstN := false, runs := 0, tripped := s.boot.tripped } })

/-- AON_POWER_ON_RESET (R361, R420): self-test follows where PORST_N is high. -/
def execAonPowerOnReset (s : State) : Ans :=
  .next (
    let s1 := s.aonReset
    if s1.boot.porstN then s1.bringUp s1.boot.test else s1)

/-! ### The verdict (R365 to R369, R372, R376) -/

/-- Ends of a mesh link (Table 14.5). -/
def linkEnds (l : Nat) : Nat × Nat := if l < 3 then (l, l + 1) else if l < 6 then (l + 1, l + 2) else (l - 6, l - 2)

/-- The masks of units that fail: main arrays, slices, links, channels, ports. Fused-off units, and links that end at an absent slot, are
not tested. -/
structure Failed where
  arr : Nat
  cis : Nat
  link : Nat
  ch : Nat
  csi : Nat
  arrPresent : Nat
  links : Nat
deriving DecidableEq, Repr

/-- Whether a fused unit is there. -/
def State.fusedIn (s : State) (off : Fld) (i : Nat) : Bool := !bitAt (s.rd .fuse 0 off) i

/-- The failed units of a list of defects. -/
def State.failed (s : State) (l : List Defect) : Failed :=
  let bad := fun (u n : Nat) (off : Fld) => maskOf ((List.range n).filter fun i =>
    s.fusedIn off i && l.any fun d => d.unit == u && d.inst == i && defectFails d)
  let arr := bad 9 8 Reg.Fuse.ARR_OFF
  let present := maskOf ((List.range 8).filter fun i => s.fusedIn Reg.Fuse.ARR_OFF i && !bitAt arr i)
  let links := (List.range 10).filter fun k => bitAt present (linkEnds k).1 && bitAt present (linkEnds k).2
  { arr := arr, cis := bad 10 8 Reg.Fuse.CIS_OFF, ch := bad 12 8 Reg.Fuse.CH_OFF, csi := bad 13 6 Reg.Fuse.CSI_OFF,
    link := maskOf (links.filter fun k => l.any fun d => d.unit == 11 && d.inst == k && defectFails d), arrPresent := present,
    links := maskOf links }

/-- Whether a defect's unit is tested at all; fuses and boot images have tests of their own. -/
def State.tested (s : State) (f : Failed) (d : Defect) : Bool :=
  match d.unit with
  | 0 => false
  | 9 => decide (d.inst < 8) && s.fusedIn Reg.Fuse.ARR_OFF d.inst
  | 10 => decide (d.inst < 8) && s.fusedIn Reg.Fuse.CIS_OFF d.inst
  | 11 => bitAt f.links d.inst
  | 12 => decide (d.inst < 8) && s.fusedIn Reg.Fuse.CH_OFF d.inst
  | 13 => decide (d.inst < 6) && s.fusedIn Reg.Fuse.CSI_OFF d.inst
  | _ => decide (d.unit < 15)

/-- Step of Table 14.1 in which a unit is tested, as the record spells it (log 33). -/
def unitStep (u : Nat) : Nat :=
  match u with
  | 0 => 1
  | 1 => 2
  | 9 => Config.stepCode 0 % 256
  | 10 => Config.stepCode 0 % 256
  | 11 => Config.stepCode 1 % 256
  | 12 => Config.stepCode 2 % 256
  | 13 => Config.stepCode 3 % 256
  | 14 => Config.stepCode 4 % 256
  | _ => Config.stepCode 5 % 256

/-- One entry of the failure record (Table 14.3). -/
def testEntry (step unit inst kind data : Nat) (retry : Bool) : List Byte :=
  leBytes 4 (step % 256 + unit % 16 * 256 + inst % 16 * 4096 + kind % 8 * 65536 + b2n retry * 2 ^ 19) ++ leBytes 4 (min data (2 ^ 32 - 1))

/-- The entries of a defect: a link that fails its retrain writes two (R366). -/
def defectEntries (d : Defect) : List (List Byte) :=
  let e := testEntry (unitStep d.unit) d.unit d.inst d.kind d.data
  if decide (11 ≤ d.unit) && decide (d.unit ≤ 14) && !d.retrainPasses then [e false, e true] else [e false]

/-- Units whose failure leads to the standpipe state (Table 14.2). -/
def defectFatal (d : Defect) : Bool := defectFails d && (decide (d.unit < 9) || d.unit == 14)

/-- The FLOOR page at the verdict (R372). -/
def State.setFloor (s : State) (t : SelfTest) (f : Failed) : State :=
  let w := fun (s : State) (g : Fld) (v : Nat) => s.wr .floor 0 g v
  let there := fun (n : Nat) (off : Fld) (bad : Nat) => maskOf ((List.range n).filter fun i => s.fusedIn off i && !bitAt bad i)
  let s1 := w (w s Reg.Floor.ARR_PRESENT (f.arrPresent + 256)) Reg.Floor.ARR_REMOVED f.arr
  let s2 := w (w s1 Reg.Floor.LINK_PRESENT (clr32 f.links f.link)) Reg.Floor.LINK_FAILED f.link
  let s3 := w (w s2 Reg.Floor.CIS_PRESENT (there 8 Reg.Fuse.CIS_OFF f.cis)) Reg.Floor.CIS_FAILED f.cis
  let s4 := w (w s3 Reg.Floor.CH_PRESENT (there 8 Reg.Fuse.CH_OFF f.ch)) Reg.Floor.CH_FAILED f.ch
  let s5 := w (w s4 Reg.Floor.CSI_PRESENT (there 6 Reg.Fuse.CSI_OFF f.csi)) Reg.Floor.CSI_FAILED f.csi
  let s6 := w (w s5 Reg.Floor.WELL_FRAMES (14336 * min t.installedGib (s.rd .fuse 0 Reg.Fuse.WELL_MAX))) Reg.Floor.FLOOR_GEN 0
  let cause := fun (n : Nat) =>
    if bitAt f.arr n then (if t.defects.any fun d => d.unit == 9 && d.inst == n && d.kind != 1 then 1 else 2) else 0
  let slot := fun (s : State) (n : Nat) =>
    let there := n == 8 || bitAt f.arrPresent n
    let s1 := w (w s (Reg.Floor.X n) (if n = 8 then 0 else n % 4)) (Reg.Floor.Y n) (if n = 8 then 0 else n / 4)
    w (w (w (w s1 (Reg.Floor.PRESENT n) (b2n there)) (Reg.Floor.REMOVED n) (b2n (bitAt f.arr n))) (Reg.Floor.CAUSE n) (cause n))
      (Reg.Floor.ON_MESH n) (b2n (n != 8))
  (List.range 9).foldl slot s6

/-- Put a domain out of reach: OFF, and no wake brings it up (R367, R368). -/
def State.dropDomain (s : State) (d : Nat) : State := s.setDom d { s.dom d with st := .off, req := 0, removed := true }

/-- The trained channels at the verdict: readiness, and as free values the eye margins and the sensed VDD_MA (log 2). -/
def State.setWell (s : State) (t : SelfTest) (f : Failed) : State :=
  let up := s.rd .floor 0 Reg.Floor.CH_PRESENT
  let s1 := (s.wr .lpddr 0 Reg.Lpddr.CH_READY up).wr .lpddr 0 Reg.Lpddr.INSTALLED_GIB t.installedGib
  let s2 := (s1.wr .phy 0 Reg.Phy.TRAIN_DONE up).wr .phy 0 Reg.Phy.TRAIN_FAIL f.ch
  let (mv, s3) := s2.takeFree
  let s3 := s3.wr .therm 0 Reg.Therm.VMA_MV mv
  (setBits up 8).foldl (fun s c =>
    let (v, s) := s.takeFree
    (((s.wr .phy 0 (Reg.Phy.RD_MV c) v).wr .phy 0 (Reg.Phy.WR_MV c) (v / 256)).wr .phy 0 (Reg.Phy.RD_PS c) (v / 65536)).wr .phy 0
      (Reg.Phy.WR_PS c) (v / 2 ^ 24)) s3

/-- Entry into the standpipe state (R368): every domain but AON, PCIE and STEWARD is OFF, the UART sends the record, and FAULT_N is
driven low. -/
def State.enterStandpipe (s : State) : State :=
  let s1 := ((List.range 27).filter fun d => decide (d ≠ 0) && d != 22 && d != 23).foldl State.dropDomain s
  let s2 := (s1.wr .sys 0 Reg.Sys.STAGE 15).sendLines
  { s2 with boot := { s2.boot with faultN := true } }

/-- The first reason for the standpipe state, as CAUSE spells its step, and none where there is none: fuses, AON SRAM and the boot images of
step 4, the units of step 5 in the order found, the images of step 5f, then the minima of the boot header (R365, R367). -/
def State.standpipeCause (s : State) (fuseOk : Bool) (l : List Defect) (f : Failed) : Option Nat :=
  let min4 := field (leAt s.boot.hdr 4 4) 16 4
  let minC := field (leAt s.boot.hdr 4 4) 20 4
  let aon := l.any fun d => d.unit == 1
  if !fuseOk then some 1
  else if aon then some 2
  else if s.boot.code4 ≠ 0 then some 4
  else match l.find? defectFatal with
    | some d => some (unitStep d.unit)
    | none =>
      if s.boot.code5 ≠ 0 then some (unitStep 15)
      else if popcount f.arrPresent < min4 then some (unitStep 9)
      else if popcount (s.rd .floor 0 Reg.Floor.CH_PRESENT) < minC then some (unitStep 12)
      else none

/-- The verdict of a sequence that runs (R365 to R369, R376). -/
def State.verdict (s : State) : State :=
  let t := s.boot.test
  let f := s.failed t.defects
  let l := t.defects.filter (s.tested f)
  let fuseOk := s.rdB .fuse 0 Reg.Fuse.FUSE_OK
  let s0 := ((s.setFloor t f).setWell t f)
  let (v, s1) := s0.takeFree
  let early := l.filter fun d => d.unit == 1
  let late := l.filter fun d => d.unit != 1
  let entries := (if fuseOk then [] else [testEntry 1 0 0 5 (v % 2 ^ 32) false]) ++ early.flatMap defectEntries ++
    (if s1.boot.code4 = 0 then [] else [testEntry 4 15 0 4 s1.boot.code4 false]) ++ late.flatMap defectEntries ++
    (if s1.boot.code5 = 0 then [] else [testEntry (unitStep 15) 15 0 4 s1.boot.code5 false])
  let cause := s1.standpipeCause fuseOk l f
  let removed := f.arr + f.cis + f.link + f.ch + f.csi
  let verdict := if cause.isSome then 2 else if removed = 0 then 0 else 1
  let word := verdict + cause.getD 0 * 256 + min entries.length 30 * 65536 + b2n (decide (30 < entries.length)) * 2 ^ 21
  let record := sliceBytes (leBytes 4 word ++ leBytes 4 s1.boot.runs ++ leBytes 8 s1.now ++ (entries.take 30).flatten) 0 256
  let s2 := { s1 with boot := { s1.boot with record := record, running := false } }
  let s3 := ((s2.wr .sys 0 Reg.Sys.DEGRADED (b2n (verdict == 1))).wr .sys 0 Reg.Sys.BOOT_COPY (b2n s2.boot.copyB)).wr .sys 0
    Reg.Sys.BOOT_US t.bootUs
  let gone := ((List.range 8).filter fun i => !bitAt f.arrPresent i).map (fun i => i + 2) ++
    ((List.range 8).filter fun i => !bitAt (s3.rd .floor 0 Reg.Floor.CIS_PRESENT) i).map fun i => i + 10
  let s4 := gone.foldl State.dropDomain s3
  if cause.isSome then s4.enterStandpipe else s4.wr .sys 0 Reg.Sys.STAGE 6

/-- SELF_TEST_VERDICT (R367): the last of steps 5a to 5f has ended. -/
def execSelfTestVerdict (s : State) : Ans := .next (if s.boot.running then s.verdict else s)

/-! ### RESTART (R361, R370) -/

/-- A RESTART: accepted only in stage 6 or 15, it runs the sequence from step 1; SIDX and TRIPPED keep their values. -/
def State.restart (s : State) : State :=
  if s.rd .sys 0 Reg.Sys.STAGE = 6 ∨ s.rd .sys 0 Reg.Sys.STAGE = 15 then s.porReset.bringUp s.boot.test
  else s.errCount .sys 0 0 1

/-- RESTART (R370) through SYS. -/
def execRestart (v : View) (w : Word) (s : State) : Ans :=
  .next (s.viaBus v 0x000108 4 (setField w.toNat 0 1 1) fun s _ _ _ => s.restart)

/-- The UART string of R370: "restart" and CR. -/
def restartString : List Nat := [114, 101, 115, 116, 97, 114, 116, 13]

/-- Whether the UART receives: its page has been started, or the standpipe service runs it. -/
def State.uartOn (s : State) : Bool := s.rd .sys 0 Reg.Sys.STAGE == 15 || (s.domOn 23 && s.st .uart 0 != 0)

/-- UART_RECEIVE (R370, R384, R385): a character enters the queue of 64, or is dropped and the overrun is noted; a framing error or a break
counts. -/
def execUartReceive (f : UartFrame) (s : State) : Ans :=
  .next (if !s.uartOn then s
    else match f with
      | .char c =>
        let seen := (s.ports.uartCmd ++ [c]).drop ((s.ports.uartCmd ++ [c]).length - 8)
        let s1 := if s.rd .sys 0 Reg.Sys.STAGE = 15 then s
          else if 64 ≤ s.ports.uartRx.length then s.setPorts { s.ports with uartOverrun := true }
          else s.setPorts { s.ports with uartRx := s.ports.uartRx ++ [c] }
        let s2 := s1.setPorts { s1.ports with uartCmd := seen }
        if seen = restartString then s2.restart else s2
      | _ => s.errCount .uart 0 0 1)

end Sys2Proof.Machine
end

