-- ==== Sys2Proof/Machine/Electrical.lean ====
section
/-! DEFINITION. Supplies, operating points, temperature and telemetry (R15, R243, R349, R417, R418, R423 to R426, R428, Table 9.4). -/

namespace Sys2Proof.Machine

/-! ### Operating points (R15, R215, R423) -/

/-- A write of OPP_REQ by a view (R215, R423): staged; 29 to 31 are ignored and count in ERR_CNT3, as does a VF's write on a shared array;
read-only on the SENTRY page. -/
def State.oppWrite (s : State) (v : View) (a w : Nat) : State :=
  let i := field w 0 5
  let shared := match s.assignOf a, v with
    | .shared _, .vf _ => true
    | _, _ => false
  if a = 8 then s
  else if shared || decide (28 < i) then s.errCount (.ma a) 0 3 1
  else ((s.wr (.ma a) 0 Reg.Ma.OPP_REQ i).modArr a fun x => { x with oppWait := some i }).applyOpp a

/-- OPP_REQ (R15, R423). -/
def execOppReq (v : View) (a : Nat) (w : Word) (s : State) : Ans :=
  .next (if 8 < a then s else s.viaBus v (0x010100 + a * 0x1000) 4 w.toNat fun s _ _ _ => s.oppWrite v a w.toNat)

/-- OPP_SETTLED (R15). -/
def execOppSettled (a : Nat) (s : State) : Ans := .next (if 8 ≤ a then s else s.modArr a fun x => { x with oppSettling := false })

/-! ### Throttle steps (R243, R417, R424) -/

/-- Mark a macro-operation in flight, and those of its gang, as disturbed; the stall of at most 64 ac enters its AC (R114, R243). -/
def State.deviate (s : State) (a stall : Nat) : State :=
  match (s.arr a).mop with
  | none => s
  | some m =>
    (if m.gang.isEmpty then [a] else m.gang).foldl (fun s b =>
      s.modArr b fun x => { x with mop := x.mop.map fun y =>
        if y.ctx = m.ctx then { y with timingDev := true, ac := y.ac + min stall 64 } else y }) s

/-- One step of an island's clock to a point (R243). -/
def State.throttleTo (s : State) (a i stall : Nat) : State :=
  ((s.wr (.ma a) 0 (oppActFld a) i).deviate a stall).count (.ma a) 0 Reg.Ma.THROT_STEPS Reg.Ma.THROT_STEPS_SAT 1

/-- Set the THROTTLED bit of an island; a rise sets IRQ_RAW bit 0 of THERM. -/
def State.setThrottled (s : State) (a : Nat) : State :=
  if s.rdB (.ma a) 0 Reg.Ma.THROTTLED then s else (s.wr (.ma a) 0 Reg.Ma.THROTTLED 1).irq .therm none 0

/-- A throttle step down by 4 points, to point 0 at the lowest (R424). -/
def State.stepDown (s : State) (a stall : Nat) : State :=
  if s.oppAct a = 0 then s else s.throttleTo a (s.oppAct a - 4) stall

/-- THROTTLE_STEP_DOWN (R424): the sensor reads at least THROT_C, a free value (log 2). -/
def execThrottleStepDown (a stallAc : Nat) (s : State) : Ans :=
  .next (if decide (8 < a) || !s.domOn (arrDomain a) then s
    else
      let (v, s1) := s.takeFree
      let lim := 4 * s.rd .therm 0 Reg.Therm.THROT_C
      let s2 := s1.wr .therm 0 (Reg.Therm.TJ_Q a) (lim + v % (1024 - lim))
      (s2.setThrottled a).stepDown a stallAc)

/-- The point to which an island returns: OPP_REQ, not below MIN_CLK (R174), and 4 on the sentry. -/
def State.oppWant (s : State) (a : Nat) : Nat := if a = 8 then 4 else max (s.rd (.ma a) 0 Reg.Ma.OPP_REQ) (s.minPoint a)

/-- THROTTLE_STEP_UP (R424): the sensor reads below THROT_C - 3 °C, a free value (log 2); at OPP_REQ the throttle ends. -/
def execThrottleStepUp (a stallAc : Nat) (s : State) : Ans :=
  .next (if decide (8 < a) || !s.domOn (arrDomain a) || !s.rdB (.ma a) 0 Reg.Ma.THROTTLED then s
    else
      let (v, s1) := s.takeFree
      let lim := 4 * (s.rd .therm 0 Reg.Therm.THROT_C - 3)
      let s2 := s1.wr .therm 0 (Reg.Therm.TJ_Q a) (ofInt 11 ((lim : Int) - 1 - (v % (1024 + lim) : Nat)))
      let s3 := if s2.oppAct a < s2.oppWant a then s2.throttleTo a (s2.oppAct a + 1) stallAc else s2
      if s3.oppAct a < s3.oppWant a then s3 else s3.wr (.ma a) 0 Reg.Ma.THROTTLED 0)

/-- HEADROOM_LOW (R417): the sensed VDD_MA is mv; below V_i + 25 mV the island takes a throttle step and HEADROOM_LOW sets. -/
def execHeadroomLow (a mv stallAc : Nat) (s : State) : Ans :=
  .next (
    let s1 := s.wr .therm 0 Reg.Therm.VMA_MV (min mv 1023)
    if decide (8 < a) || !s1.domOn (arrDomain a) || decide (islandMv a (s1.oppAct a) + 25 ≤ mv) then s1
    else
      let s2 := s1.stepDown a stallAc
      if s2.rdB (.ma a) 0 Reg.Ma.HEADROOM_LOW then s2 else (s2.wr (.ma a) 0 Reg.Ma.HEADROOM_LOW 1).irq .therm none 1)

/-! ### VDD_MA (R417, R418) -/

/-- Force one main-array domain OFF (R417): no record is written, its pages read FAULT, COLD is 1. -/
def State.collapse (s : State) (a : Nat) : State :=
  let d := arrDomain a
  let x := s.dom d
  let ctxs := s.ctxs a
  let s1 := (s.setDom d { x with st := .off, req := 0, cold := true, wakeAfter := false }).losePower d
  ctxs.foldl (fun s c => (s.setSt (.ma a) c 3).setSt (.dma a) c 3) s1

/-- VDD_MA_COLLAPSE (R417). -/
def execVddMaCollapse (mv : Nat) (s : State) : Ans :=
  .next (
    let s1 := s.wr .therm 0 Reg.Therm.VMA_MV (min mv 1023)
    let hit := (List.range 8).filter fun a => match (s.dom (arrDomain a)).st with
      | .on => true
      | .entering _ _ => true
      | _ => false
    if decide (580 ≤ mv) || hit.isEmpty then s1
    else
      let s2 := ((hit.foldl State.collapse s1).railsMayGo 2).irq .sys none 1
      match s2.power.seq with
      | some q => match q.left.head? with
        | some d => if (hit.map arrDomain).contains d then s2.seqNext q.left.tail else s2
        | none => s2
      | none => s2)

/-- SUPPLY_RAIL_RESTORED (R418): a rail is in its range again; with VDD_MA, an island with headroom clears HEADROOM_LOW and waiting requests
are tried again. -/
def execSupplyRailRestored (r : Rail) (mv : Nat) (s : State) : Ans :=
  .next (match r with
    | .lpddr => { s with supply := { s.supply with lpRemoved := false } }
    | .vddMa =>
      let s1 := { s.wr .therm 0 Reg.Therm.VMA_MV (min mv 1023) with supply := { s.supply with vmaRemoved := false } }
      (List.range 9).foldl (fun s a =>
        let low := s.rdB (.ma a) 0 Reg.Ma.HEADROOM_LOW && decide (islandMv a (s.oppAct a) + 25 ≤ mv)
        let s2 := if low then s.wr (.ma a) 0 Reg.Ma.HEADROOM_LOW 0 else s
        if a = 8 then (if low && !s2.rdB (.ma a) 0 Reg.Ma.THROTTLED then s2.wr (.ma a) 0 (oppActFld a) 4 else s2)
        else
          let s3 := if low then s2.modArr a fun x => { x with oppWait := some (x.oppWait.getD (s2.rd (.ma a) 0 Reg.Ma.OPP_REQ)) } else s2
          s3.applyOpp a) s1)

/-! ### Temperature (R425, R241) -/

/-- THERMAL_TRIP (R425): at 112 °C TRIPPED sets and an internal reset begins, which does not clear RUNS. -/
def execThermalTrip (sensor : Nat) (tq : Int) (s : State) : Ans :=
  .next (if decide (10 < sensor) || decide (tq < 448) || s.boot.tripped then s
    else
      let s1 := (s.wr .therm 0 Reg.Therm.TRIPPED 1).porReset
      { s1 with boot := { s1.boot with tripped := true } })

/-- THERMAL_TRIP_RELEASE (R425): every one of the 11 sensors reads below 95 °C; self-test runs as after PORST_N rising. -/
def execThermalTripRelease (tq : List Int) (s : State) : Ans :=
  .next (if !s.boot.tripped || decide (tq.length ≠ 11) || tq.any (fun t => decide (380 ≤ t)) then s
    else
      let s1 := { s with boot := { s.boot with tripped := false } }
      let s2 := tq.zipIdx.foldl (fun s t => s.wr .therm 0 (Reg.Therm.TJ_Q t.2) (ofInt 11 t.1)) s1
      if s2.boot.porstN then s2.bringUp s2.boot.test else s2)

/-- RTC_FALLBACK (R426). -/
def execRtcFallback (s : State) : Ans := .next { s with supply := { s.supply with rtcInternal := true } }

/-- LPDDR_HOT (R241, Table 9.4). -/
def execLpddrHot (ch : Nat) (hot : Bool) (s : State) : Ans :=
  .next (if 8 ≤ ch then s
    else
      let h := s.rd .lpddr 0 Reg.Lpddr.HOT
      s.wr .lpddr 0 Reg.Lpddr.HOT (if hot then or32 h (2 ^ ch) else clr32 h (2 ^ ch)))

/-! ### LPDDR training (R428) -/

/-- A write of RETRAIN: only while the LPDDR page is STOPPED; ok tells the channels that train. Margins are free (log 2). -/
def State.retrain (s : State) (w ok : Nat) : State :=
  if s.st .lpddr 0 ≠ 0 then s.errCount .phy 0 0 1
  else
    let chs := and32 (field w 0 8) (s.rd .floor 0 Reg.Floor.CH_PRESENT)
    let upd := fun (old good : Nat) => or32 (clr32 old chs) (and32 chs good)
    let s1 := (s.wr .phy 0 Reg.Phy.TRAIN_DONE (upd (s.rd .phy 0 Reg.Phy.TRAIN_DONE) (ok % 256))).wr .phy 0 Reg.Phy.TRAIN_FAIL
      (upd (s.rd .phy 0 Reg.Phy.TRAIN_FAIL) (clr32 255 ok))
    let s2 := s1.wr .lpddr 0 Reg.Lpddr.CH_READY (upd (s1.rd .lpddr 0 Reg.Lpddr.CH_READY) (ok % 256))
    (setBits chs 8).foldl (fun s c =>
      let (v, s) := s.takeFree
      (((s.wr .phy 0 (Reg.Phy.RD_MV c) v).wr .phy 0 (Reg.Phy.WR_MV c) (v / 256)).wr .phy 0 (Reg.Phy.RD_PS c) (v / 65536)).wr .phy 0
        (Reg.Phy.WR_PS c) (v / 2 ^ 24)) s2

/-- RETRAIN (R428). -/
def execRetrain (v : View) (w : Word) (ok : Nat) (s : State) : Ans :=
  .next (s.viaBus v 0x0D8104 4 w.toNat fun s _ _ _ => s.retrain w.toNat ok)

/-! ### Telemetry (R349, Table 18.6) -/

/-- THERM's THROTTLED: bit n is the bit of island n. -/
def State.throttled (s : State) : Nat := maskOf ((List.range 9).filter fun a => s.rdB (.ma a) 0 Reg.Ma.THROTTLED)

/-- TELEM_WINDOW_END (R349): the window ends at the next multiple of 10^8; the device's mean power in it is meanMw. The temperature, a
multiple of 5 °C, and the last millisecond's power are free values (log 2). -/
def execTelemWindowEnd (meanMw : Nat) (s : State) : Ans :=
  .next (
    let k := s.now / 10 ^ 8
    let (t, s1) := { s with now := (k + 1) * 10 ^ 8, supply := { s.supply with energy := s.supply.energy + meanMw } }.takeFree
    let (p, s2) := s1.takeFree
    let half := (rheDiv (meanMw : Int) 500).toNat
    let s3 := (s2.wr .therm 0 Reg.Therm.PWR_HALF_W (min half 255)).wr .therm 0 Reg.Therm.TJ_C (ofInt 8 (5 * (t % 34 : Nat) - 40))
    let s4 := (s3.wr .therm 0 Reg.Therm.THROTTLE (b2n (s3.throttled != 0))).wr .therm 0 Reg.Therm.WINDOW (k % 2 ^ 32)
    (s4.wr .therm 0 Reg.Therm.PWR_MW p).wr .therm 0 Reg.Therm.ENERGY_J (min (s4.supply.energy / 10000) (2 ^ 32 - 1)))

end Sys2Proof.Machine
end

