-- ==== Sys2Proof/Machine/Pages.lean ====
section
/-! DEFINITION. The register pages as a requester meets them (R405 to R415): reads of every register word in every view, the writes of the
common header, start and stop, and the write of each page's block registers. -/

namespace Sys2Proof.Machine

/-! ### Fields of each page -/

/-- The block registers of a page, as fields. -/
def Page.fields : Page → List Fld
  | .sys => Reg.Sys.all
  | .floor => Reg.Floor.all
  | .fuse => Reg.Fuse.all
  | .ma _ => Reg.Ma.all
  | .dma _ => Reg.Dma.all
  | .ott => Reg.Ott.all
  | .tallyPf => Reg.Tally.all
  | .tallyVf _ => Reg.Tally.all
  | .part => Reg.Part.all
  | .isp _ => Reg.Isp.all
  | .csi _ => Reg.Csi.all
  | .ctx _ => Reg.Ctx.all
  | .audio => Reg.Audio.all
  | .aout => Reg.Aout.all
  | .power => Reg.Power.all
  | .liftPage => Reg.Lift.all
  | .sec => Reg.Sec.all
  | .trng => Reg.Trng.all
  | .pcie => Reg.Pcie.all
  | .asp => Reg.Asp.all
  | .hv => Reg.Hv.all
  | .lpddr => Reg.Lpddr.all
  | .phy => Reg.Phy.all
  | .sealPage => Reg.Seal.all
  | .therm => Reg.Therm.all
  | _ => []

/-- Whether a view is a virtual function's. -/
def View.isVf : View → Bool
  | .vf _ => true
  | _ => false

/-- The partition that PSEL of a page names in a view: a VF's is fixed (R227, R348). -/
def State.psel (s : State) (v : View) (p : Page) (f : Fld) : Nat :=
  match v with
  | .vf q => q
  | _ => s.rd p 0 f

/-- ASEL of a view of the PART page. -/
def State.asel (s : State) (v : View) : Nat := s.rd .part (View.fn v) Reg.Part.ASEL

/-- The bank that holds the stored fields of a block register word. -/
def State.wordBank (s : State) (v : View) (p : Page) (bank off : Nat) : Nat :=
  match p with
  | .ma _ => if off < 0x180 then 0 else bank
  | .ott => if off = 0x100 then View.fn v else if off = 0x120 ∨ off = 0x124 then s.psel v .ott Reg.Ott.PSEL else 0
  | .part =>
    let ps := s.psel v .part Reg.Part.PSEL
    if off = 0x100 ∨ off = 0x138 then 0
    else if off = 0x12C then ps * 16 + s.asel v
    else if 0x140 ≤ off then s.asel v
    else ps
  | .tallyPf => 0
  | .tallyVf _ => 0
  | _ => bank

/-- The stored part of a block register word. -/
def State.storedWord (s : State) (p : Page) (bank off : Nat) : Nat :=
  sumNat (((Page.fields p).filter fun f => f.off == off && (f.acc != .dv)).map fun f => s.rd p bank f * 2 ^ f.lsb)

/-! ### Derived words -/

/-- STATE of PWR (Table 12.2). -/
def DomSt.code : DomSt → Nat
  | .on => 0
  | .retention => 1
  | .off => 2
  | _ => 3

/-- The PWR register of a domain (Table 12.2). -/
def State.pwrWord (s : State) (d : Nat) : Nat :=
  let x := s.dom d
  let step := match x.st with
    | .entering k _ => k
    | _ => 0
  x.req % 4 + x.st.code * 4 + step % 8 * 16 + b2n x.cold * 128 + d * 256

/-- 2 bits of STATE for domains lo to lo + n - 1 (Table 12.10). -/
def State.stateWord (s : State) (lo n : Nat) : Nat := sumNat ((List.range n).map fun i => (s.dom (lo + i)).st.code * 4 ^ i)

/-- Words of a tally in a view (Table 6.7, R159): 0 where the view does not reach it. -/
def State.tallyWords (s : State) (page : Page) (v : Option Nat) (off : Nat) : Nat :=
  let i := s.rd page 0 Reg.Tally.TSEL
  let t := s.tally i
  if !s.reaches v i then 0
  else if off = 0x104 then t.count + t.thresh * 65536
  else
    let ws := s.waiters.filter fun w => w.tally == i
    b2n t.alloc + b2n t.level * 2 + t.owner * 4 + b2n t.ovf * 32 + b2n (!ws.isEmpty) * 64 +
      maskOf (ws.map fun w => w.arr) * 65536

/-- ENGINE_AC of a partition on an array (R219, R227). -/
def State.engineAcOf (s : State) (p a : Nat) : Nat := SMap.get 0 (s.arr a).engineAc p

/-- ARR_MODE, ARR_OWNER, ARR_LAST and ARR_MEMBERS of an array (Table 8.5). -/
def State.arrWord (s : State) (a : Nat) : Nat :=
  let last := ((s.arr a).last.getD 0) % 8 * 32
  match s.assignOf a with
  | .unassigned => last
  | .owned p => 1 + p * 4 + last
  | .shared l => 2 + last + maskOf l % 256 * 256

/-- The T5 context of a pipeline, if one runs (R276). -/
def State.t5Ctx (s : State) (p : Nat) : Option Nat := (s.runningCtx p).find? fun c => s.rdB (.ctx c) 0 Reg.Ctx.T5

/-- The derived part of a block register word. -/
def State.derivedWord (s : State) (v : View) (p : Page) (off : Nat) : Nat :=
  match p with
  | .ma a => if off = 0x104 then islandMv a (s.oppAct a) % 1024 * 65536 else 0
  | .ott =>
    let e := s.ott (s.rd .ott (View.fn v) Reg.Ott.OTT_IDX)
    let ps := s.psel v .ott Reg.Ott.PSEL
    let mine := !(View.isVf v) || ottPart e == ps
    if off = 0x104 then (if mine then e % 2 ^ 32 else 0)
    else if off = 0x108 then (if mine then e / 2 ^ 32 % 2 ^ 32 else 0)
    else if off = 0x10C then s.ottFreeRun.2.2
    else if off = 0x110 then s.ottFreeRun.1
    else if off = 0x118 then s.pinnedT1 ps + (s.resPages ps).length * 65536
    else if off = 0x11C then s.quota ps + b2n (s.overQuota ps) * 65536
    else 0
  | .tallyPf =>
    if off = 0x104 ∨ off = 0x108 then s.tallyWords p none off
    else if off = 0x118 then (s.tallies.filter fun t => t.2.alloc).length
    else if off = 0x11C then s.freeRun.1
    else 0
  | .tallyVf q =>
    if off = 0x104 ∨ off = 0x108 then s.tallyWords p (some q) off
    else if off = 0x118 then (s.tallies.filter fun t => t.2.alloc && t.2.owner == q).length
    else 0
  | .part =>
    let ps := s.psel v .part Reg.Part.PSEL
    let as := s.asel v
    if off = 0x120 then s.ownsOf ps + s.sharesOf ps * 65536
    else if off = 0x12C then (if s.usesArr ps as then SMap.get 0 (s.arr as).wAct ps % 1024 * 65536 else 0)
    else if off = 0x130 then s.engineAcOf ps as % 2 ^ 32
    else if off = 0x134 then s.engineAcOf ps as / 2 ^ 32 % 2 ^ 32
    else if off = 0x13C then s.arrWord as
    else 0
  | .isp q =>
    if off = 0x100 then s.loadSum q
    else if off = 0x108 then s.needSum q
    else if off = 0x110 then
      let busy := (s.runningCtx q).any fun c => (s.cam c).frames.head?.any fun f => f.taken
      b2n busy * 32 + ((s.t5Ctx q).map fun c => c % 32 * 64 + 2048).getD 0
    else 0
  | .csi q => if off = 0x104 then b2n (s.rxReady q) else 0
  | .audio =>
    if off = 0x108 then s.audio.sidx % 2 ^ 32
    else if off = 0x10C then s.audio.sidx / 2 ^ 32 % 2 ^ 32
    else if off = 0x124 then b2n s.calLoading * 2 ^ 31
    else 0
  | .power =>
    if off = 0x114 then maskOf ((List.range 27).filter fun d => (s.dom d).cold)
    else if off = 0x118 then s.stateWord 0 16
    else if off = 0x11C then s.stateWord 16 11
    else 0
  | .liftPage =>
    if off = 0x120 then s.power.lifts.length % 32 +
      ((s.power.raises.filter fun r => r.held && r.origin == 15).map fun r => r.events).foldl or32 0 % 32 * 256
    else 0
  | .trng => if off = 0x104 then b2n (SMap.get false s.sec.valid (View.num v)) else 0
  | .sec =>
    if 0x120 ≤ off ∧ off < 0x140 then leAt s.deviceId (off - 0x120) 4
    else if off = 0x150 then s.sec.wellCtr % 2 ^ 32
    else if off = 0x154 then s.sec.wellCtr / 2 ^ 32 % 65536
    else if 0x160 ≤ off ∧ off < 0x170 then
      sumNat ((List.range 4).map fun k => SMap.get 0 s.sec.rollback (off - 0x160 + k) % 256 * 256 ^ k)
    else 0
  | .floor => if off = 0x10C ∧ !s.boot.record.isEmpty then s.rd .fuse 0 Reg.Fuse.ORDER * 65536 else 0
  | .asp =>
    if off = 0x100 then s.rd .asp 0 Reg.Asp.XOFF * 4 + b2n s.aspRdy * 8
    else if off = 0x108 then s.ports.sluice.length
    else 0
  | .hv =>
    if off = 0x114 then ofInt 48 s.qcnt % 2 ^ 32 else if off = 0x118 then ofInt 48 s.qcnt / 2 ^ 32 else 0
  | .sealPage =>
    if off = 0x104 then s.seals.ledger.length
    else if off = 0x10C then s.seals.seq % 2 ^ 32
    else if off = 0x118 then maskOf ((s.seals.waiters.filter fun w => !w.got).map fun w => w.arr)
    else if 0x200 ≤ off ∧ off < 0x2C0 then leAt (s.seals.ledger.headD []) (off - 0x200) 4
    else 0
  | .therm => if off = 0x118 then s.throttled else if off = 0x150 then s.vmaReq % 1024 else 0
  | .cis n => if off = 0x100 then (s.sliceUse n).1 else if off = 0x104 then (s.sliceUse n).2 else 0
  | .test => if off < 0x200 then leAt s.boot.record (off - 0x100) 4 else 0
  | _ => 0

/-! ### Reads (R348, R405 to R407, R412, R414) -/

/-- Bits [9:0] of a counter read as 0 in a VF view (Table 13.5). -/
def coarse (v : View) (w : Nat) : Nat := if View.isVf v then w / 1024 * 1024 else w

/-- A word of the common header (Table 17.1) in a view. -/
def State.hdrWord (s : State) (v : View) (p : Page) (bank off : Nat) : Nat :=
  let fn := View.fn v
  let any := match p with
    | .ma a => !(View.isVf v) && (s.ctxs a).any fun c => s.st p c == 1
    | _ => false
  if off = 0x000 then p.type + p.inst * 65536 + fn * 2 ^ 24
  else if off = 0x004 then 0x0100
  else if off = 0x008 then s.rd p bank Reg.Hdr.STOP_REQ * 2 + s.rd p bank Reg.Hdr.CFG_OPEN * 4
  else if off = 0x00C then
    (if any then 1 else s.st p bank) + s.rd p bank Reg.Hdr.CFG_WHILE_RUN * 256 + s.rd p bank Reg.Hdr.START_REFUSED * 512
  else if off = 0x010 then s.rd p fn Reg.Hdr.IRQ_RAW
  else if off = 0x014 then s.rd p fn Reg.Hdr.IRQ_MASK
  else if 0x020 ≤ off ∧ off < 0x030 then
    let i := (off - 0x020) / 4
    let own := match p with
      | .tallyVf _ => true
      | _ => !(View.isVf v)
    if own then s.rd p 0 (Reg.Hdr.ERR_CNT i) + s.rd p 0 (Reg.Hdr.ERR_CNT_SAT i) * 2 ^ 31 else 0
  else if off = 0x030 then (if View.isVf v then 0 else s.rd p 0 Reg.Hdr.IRQ_MASK_S)
  else if off = 0x040 then s.pwrWord p.domain
  else 0

/-- A block register word in a view. -/
def State.blockWord (s : State) (v : View) (p : Page) (bank off : Nat) : Nat :=
  let word := s.storedWord p (s.wordBank v p bank off) off + s.derivedWord v p off
  match p with
  | .ma a =>
    if a = 8 ∧ off = 0x100 then 4
    else if a = 8 ∧ off = 0x104 then word - s.rd p 0 Reg.Ma.OPP_ACT + s.oppAct 8
    else if off = 0x1FC ∨ off = 0x1B4 then coarse v word
    else word
  | .dma _ => if off = 0x114 then coarse v word else word
  | .ott => if (View.isVf v) ∧ (off = 0x10C ∨ off = 0x110 ∨ off = 0x128 ∨ 0x12C ≤ off) then 0
    else if (View.isVf v) ∧ off = 0x114 then s.psel v .ott Reg.Ott.PSEL else word
  | .part =>
    if off = 0x100 then
      match v with
      | .vf q => q + s.asel v * 16
      | _ => word
    else if (View.isVf v) ∧ 0x138 ≤ off then 0
    else if (View.isVf v) ∧ 0x12C ≤ off ∧ !s.usesArr (View.fn v - 1) (s.asel v) then 0
    else if off = 0x130 ∨ (0x114 ≤ off ∧ off ≤ 0x11C) then coarse v word
    else word
  | .ctx c => if s.rdB (.ctx c) 0 Reg.Ctx.T5 && decide (0x400 ≤ off) && decide (off < 0x600) then s.rd p 1 (t5Word off) else word
  | .sec => if off = 0x100 then s.secWord0 else if off = 0x104 then s.secWord1 else word
  | .audio => if off = 0x128 then word - word % 16 + s.detEn else word
  | .therm => if (View.isVf v) ∧ 0x10C ≤ off then 0 else word
  | .trng => if off = 0x100 then 0 else word
  | .liftPage =>
    if off = 0x124 then
      let r := count31 (word % 2 ^ 31) (sumNat ((s.power.raises.filter fun r => r.held).map fun r => ncOf (s.now - r.ts)))
      r.1 + (if r.2 then 2 ^ 31 else word / 2 ^ 31 * 2 ^ 31)
    else word
  | _ => word

/-- A page of a unit that self-test has removed (R367). -/
def State.pageRemoved (s : State) (p : Page) : Bool :=
  let arr := fun a => s.rdB .floor 0 (Reg.Floor.REMOVED a) && decide (s.rd .floor 0 (Reg.Floor.CAUSE a) < 3)
  match p with
  | .ma a => arr a
  | .dma a => arr a
  | .cis n => bitAt (s.rd .floor 0 Reg.Floor.CIS_FAILED) n
  | .csi n => bitAt (s.rd .floor 0 Reg.Floor.CSI_FAILED) n
  | _ => false

/-- What the page of a removed unit answers (R367). -/
def removedWord (v : View) (p : Page) (off : Nat) : Nat :=
  if off = 0x000 then p.type + p.inst * 65536 + View.fn v * 2 ^ 24
  else if off = 0x004 then 0x0100
  else if off = 0x00C then 3
  else if off = 0x040 then 8 + p.domain * 256
  else 0

/-- The low words whose read latches the high word four bytes above, with the latched width (R407). -/
def latchPair (p : Page) (off : Nat) : Option Nat :=
  match p with
  | .ott => if off = 0x104 then some 32 else none
  | .part => if off = 0x130 then some 32 else none
  | .audio => if off = 0x108 then some 32 else none
  | .sec => if off = 0x150 then some 16 else none
  | .hv => if off = 0x114 then some 16 else none
  | _ => none

/-- Key of a requester's latch for the high word at an address. -/
def latchKey (v : View) (addr : Nat) : Nat := View.num v * 2 ^ 24 + addr

/-- What a read brings up to date first: the stall counters of a wait that still goes on (R192, R237). -/
def State.settlePage (s : State) (p : Page) (bank off : Nat) : State :=
  match p with
  | .dma a => if off = 0x114 then s.settleDma a bank else s
  | .sealPage => if off = 0x110 then s.settleSeals else s
  | _ => s

/-- The protected SRAM word that a register shows: a record of the ledger, or the panel's journal (R239, R249, R403). -/
def State.shownCell (s : State) (p : Page) (off : Nat) : Option Cell64 :=
  match p with
  | .sealPage => if 0x200 ≤ off ∧ off < 0x2C0 then some (.ledger (s.rd .sealPage 0 Reg.Seal.HEAD)) else none
  | .hv => if 0x19C ≤ off ∧ off < 0x1AC then some .journal else none
  | _ => none

/-- Read of a register word that stands behind no wait and no upset: its value, after a latch or a random draw. -/
def State.readWord (s : State) (v : View) (p : Page) (bank off : Nat) : State × Nat :=
  let addr := p.base + off
  if off < 0x100 then (s, s.hdrWord v p bank off)
  else if p = .trng ∧ off = 0x100 then
    let (x, s1) := s.trngRead v
    (s1, x)
  else
    let w := s.blockWord v p bank off
    match latchPair p off with
    | some n =>
      let hi := s.blockWord v p bank (off + 4) % 2 ^ n
      ({ s with latches := SMap.set 0 s.latches (latchKey v (addr + 4)) hi }, w)
    | none =>
      if 4 ≤ off then
        match latchPair p (off - 4) with
        | some n => (s, w - w % 2 ^ n + SMap.get 0 s.latches (latchKey v addr))
        | none => (s, w)
      else (s, w)

/-- Read of a register word of a page that answers a view. -/
def State.readPage (s : State) (v : View) (p : Page) (bank off : Nat) : State × Nat :=
  let s1 := s.settlePage p bank off
  match s1.shownCell p off with
  | none => s1.readWord v p bank off
  | some c =>
    let (s2, lost) := s1.meetCell c p
    if lost then
      let (x, s3) := s2.takeFree
      (s3, x % 2 ^ 32)
    else s2.readWord v p bank off

/-- The data of a read leaves: to a virtual function it is the payload of a completion (R221). -/
def State.answer (s : State) (v : View) (addr w : Nat) : State :=
  match v with
  | .vf q => s.emitTlp (q + 1) 4 (.readData v addr (BitVec.ofNat 32 w))
  | _ => s.emit (.readData v addr (BitVec.ofNat 32 w))

/-- Read of an aligned word at an address of the control window (R11, R313, R324, R367, R406, R407, R415): the data leaves the device, or the
access stalls behind the wake that it has begun; a read of the PCIE page while PCIE is OFF meets its reset state. -/
def State.busRead (s : State) (v : View) (addr : Nat) : State :=
  let zero := fun (s : State) => s.answer v addr 0
  if addr % 4 ≠ 0 then s
  else match pageAt addr with
    | none => zero s
    | some (p, off) =>
      if !s.served p then zero s
      else if s.pageRemoved p then s.answer v addr (removedWord v p off)
      else if s.pageAbsent p then zero s
      else match s.viewBank v p with
        | none => zero s
        | some bank =>
          let go := fun (s : State) =>
            let (s1, w) := s.readPage v p bank off
            s1.answer v addr w
          let d := p.wakeDomain off
          let s1 := s.wakeFor p off
          if s1.domOn d || (d == 22 && (s1.dom d).st == .off) then go s1
          else if (s1.dom d).st == .off then zero s1
          else { s1 with stalled := s1.stalled ++ [Stalled.mk d v addr none] }

/-! ### Start and stop (R409 to R411) -/

/-- A start that is refused (R409). -/
def State.startRefused (s : State) (p : Page) (bank : Nat) : State := s.wr p bank Reg.Hdr.START_REFUSED 1

/-- RATEs of Table 18.8. -/
def lpddrRates : List Nat := [3200, 4267, 5500, 6400, 7500, 8533]

/-- A page starts: its own start checks and what an accepted RUN clears. The caller has checked STATE and CFG_OPEN. -/
def State.startPage (s : State) (p : Page) (bank : Nat) : State :=
  match p with
  | .ma a =>
    if !s.rdB .floor 0 (Reg.Floor.PRESENT a) then s.startRefused p bank
    else
      let s1 := (((s.wr p bank Reg.Ma.PC 0).wr p bank Reg.Ma.PASSES 0).wr p bank Reg.Ma.WAIT_AC 0).clearCtx a bank
      if s1.rd p bank Reg.Ma.SCHED_LEN = 0 then (s1.wr p bank Reg.Ma.PASSES 1).irq p (s1.ctxPart a bank) 12
      else s1.setSt p bank 1
  | .dma a =>
    if !s.rdB .floor 0 (Reg.Floor.PRESENT a) then s.startRefused p bank
    else
      let s1 := ((((s.wr p bank Reg.Dma.DPC 0).wr p bank Reg.Dma.PASSES 0).wr p bank Reg.Dma.DMA_FAULT 0).wr p bank
        Reg.Dma.FAULT_IDX 0).clearDmaCtx a bank
      if s1.rd p bank Reg.Dma.LIST_LEN = 0 then (s1.wr p bank Reg.Dma.PASSES 1).irq p (s1.ctxPart a bank) 12
      else s1.setSt p bank 1
  | .ctx c =>
    let (s1, refused) := s.ctxStart c
    if refused then s1.startRefused p bank else s1
  | .csi q => (s.setCams { s.cams with deskewed := SMap.set false s.cams.deskewed q false }).setSt p bank 1
  | .pcie =>
    ((s.wr p bank Reg.Pcie.HD_FAULT 0).wr p bank Reg.Pcie.FAULT_IDX 0).setSt p bank 1
  | .asp =>
    if s.rd p 0 Reg.Asp.HI_WM ≤ s.rd p 0 Reg.Asp.LO_WM ∨ 8192 < s.rd p 0 Reg.Asp.HI_WM then (s.errCount p 0 0 1).startRefused p bank
    else ((s.wr p 0 Reg.Asp.XFER_NUM 0).setSt p bank 1).aspXoff
  | .lpddr => if lpddrRates.contains (s.rd p 0 Reg.Lpddr.RATE) then s.setSt p bank 1 else s.startRefused p bank
  | _ => s.setSt p bank 1

/-- RUN (R409). -/
def State.runPage (s : State) (p : Page) (bank : Nat) : State :=
  if s.st p bank = 0 ∧ !s.rdB p bank Reg.Hdr.CFG_OPEN then s.startPage p bank else s.startRefused p bank

/-- What follows a page's STOP_REQ: groups of a context that stops end (R280); an ISP page whose contexts are all STOPPED stops (R282). -/
def State.afterStop (s : State) (p : Page) (bank : Nat) : State :=
  match p with
  | .ctx c => if s.st p bank = 0 then s.ctxStopped c else s.groupCheck c
  | .isp q => if s.st p bank = 2 ∧ (s.runningCtx q).isEmpty then s.enterStopped p bank else s
  | _ => s

/-- Nothing of a stopping page is in flight (Table 17.3, R282, R389). -/
def State.pageQuiet (s : State) (p : Page) (bank : Nat) : Bool :=
  match p with
  | .ma _ => s.atBoundary p bank
  | .dma _ => s.atBoundary p bank
  | .ctx c => (s.cam c).frames.isEmpty
  | .isp q => (s.runningCtx q).isEmpty
  | .pcie => SMap.get 0 s.ports.hdLine bank == 0
  | .asp => s.ports.drain.isNone
  | _ => true

/-- PAGE_STOPPED (R410): a page that stops, and has reached its boundary, is STOPPED. -/
def State.pageStopped (s : State) (p : Page) (bank : Nat) : State :=
  if s.st p bank = 2 ∧ s.pageQuiet p bank then
    let s1 := s.enterStopped p bank
    match p with
    | .ctx c => s1.ctxStopped c
    | _ => s1
  else s

/-- A write of CTRL (R409, R411, R414). -/
def State.ctrlWrite (s : State) (v : View) (p : Page) (bank w : Nat) : State :=
  let own := match p with
    | .tallyVf _ => true
    | _ => !(View.isVf v)
  let s1 := if bitAt w 3 && own then (List.range 4).foldl (fun s i => s.wr p 0 (Reg.Hdr.ERR_CNT i) 0) s else s
  if !p.stops then s1
  else
    let s2 :=
      if !bitAt w 2 then s1.wr p bank Reg.Hdr.CFG_OPEN 0
      else if s1.st p bank = 0 then s1.wr p bank Reg.Hdr.CFG_OPEN 1
      else (s1.wr p bank Reg.Hdr.CFG_WHILE_RUN 1).irq p (s1.pagePart p bank) 31
    let s3 := if bitAt w 1 then (s2.stopReq p bank).afterStop p bank else s2
    if !bitAt w 0 then s3 else if bitAt w 1 then s3.startRefused p bank else s3.runPage p bank

/-! ### Header writes (R405, R412 to R414) -/

/-- IRQ_CLR in a view (R413): a bit that follows a condition sets again while the condition holds; the SEAL page's bit 1 is one (R239). -/
def State.irqClear (s : State) (p : Page) (fn w : Nat) : State :=
  let s1 := s.setRaw p fn (clr32 (s.rd p fn Reg.Hdr.IRQ_RAW) w)
  if p = .sealPage ∧ bitAt w 1 ∧ s1.seals.ledger.length = 4096 then s1.orRaw p fn 2 else s1

/-- A write of a header word. -/
def State.hdrWrite (s : State) (v : View) (p : Page) (bank off w : Nat) : State :=
  let fn := View.fn v
  if off = 0x008 then s.ctrlWrite v p bank w
  else if off = 0x00C then
    let s1 := if bitAt w 8 then s.wr p bank Reg.Hdr.CFG_WHILE_RUN 0 else s
    if bitAt w 9 then s1.wr p bank Reg.Hdr.START_REFUSED 0 else s1
  else if off = 0x014 then s.setMask p fn w
  else if off = 0x018 then s.irqClear p fn w
  else if off = 0x01C then s.orRaw p fn (irqBits w)
  else if 0x020 ≤ off ∧ off < 0x030 then
    let own := match p with
      | .tallyVf _ => true
      | _ => !(View.isVf v)
    if own && bitAt w 31 then s.wr p 0 (Reg.Hdr.ERR_CNT_SAT ((off - 0x020) / 4)) 0 else s
  else if off = 0x030 then if View.isVf v then s else s.wr p 0 Reg.Hdr.IRQ_MASK_S w
  else if off = 0x040 then s.writePwr p w
  else s

/-! ### Block writes -/

/-- ACK_N (R237, R239): frees the oldest records; a SEAL that waits may then append its own. -/
def State.ackN (s : State) (w : Nat) : State :=
  let p := Page.sealPage
  let n := field w 0 13
  if s.seals.ledger.length < n then s.errCount p 0 0 1
  else
    let s1 := (s.settleSeals.wr p 0 Reg.Seal.ACK_N n).wr p 0 Reg.Seal.HEAD (s.rd p 0 Reg.Seal.HEAD + n)
    State.grantSeals { s1 with seals := { s1.seals with ledger := s1.seals.ledger.drop n } }

/-- Clear counters of a page; their SAT bits stay. -/
def State.clearCounts (s : State) (p : Page) (bank : Nat) (l : List Fld) : State := l.foldl (fun s f => s.wr p bank f 0) s

/-- A write of an array's control page (Tables 2.9, 3.5, 4.5b, 5.6, 6.5, 18.4). -/
def State.maWrite (s : State) (v : View) (a bank off w : Nat) : State :=
  let p := Page.ma a
  if off = 0x100 then s.oppWrite v a w
  else if off < 0x180 then
    if !(View.isVf v) then s.wrFields p 0 off w Reg.Ma.all
    else match s.assignOf a with
      | .shared _ => s.errCount p 0 3 1
      | _ => s
  else if off = 0x190 ∧ bitAt w 0 then
    s.clearCounts p bank [Reg.Ma.NAN_IN, Reg.Ma.INF_IN, Reg.Ma.ESC_ORPHAN, Reg.Ma.SCALE_BAD]
  else if off = 0x1B8 ∧ bitAt w 0 then s.clearCounts p bank [Reg.Ma.RES_MISMATCH, Reg.Ma.REPLAY_AC]
  else if off = 0x1DC ∧ bitAt w 0 then s.clearCounts p bank [Reg.Ma.EMPTY_ROWS, Reg.Ma.STATE_SAT]
  else s.wrFields p bank off w Reg.Ma.all

/-- A write of the OTT page (R209): a VF view sets its own OTT_IDX only. -/
def State.ottWrite (s : State) (v : View) (off w : Nat) : State :=
  let p := Page.ott
  if off = 0x100 then s.wr p (View.fn v) Reg.Ott.OTT_IDX w
  else if View.isVf v then s
  else if off = 0x12C then s.ottCmd w
  else if 0x130 ≤ off ∧ off ≤ 0x13C ∧ s.rdB p 0 Reg.Ott.C_GO then s.errCount p 0 0 1
  else s.wrFields p (s.wordBank v p 0 off) off w Reg.Ott.all

/-- A write of a TALLY page (Table 6.7, R158, R159). -/
def State.tallyWrite (s : State) (p : Page) (v : Option Nat) (off w : Nat) : State :=
  if off = 0x108 then
    let i := s.rd p 0 Reg.Tally.TSEL
    if !s.reaches v i then s.tallyIgnored v
    else if bitAt w 5 then s.setTally i { s.tally i with ovf := false } else s
  else if off = 0x10C then s.tallySig p v w
  else if off = 0x110 then s.tallyInit p v w
  else if off = 0x120 then s.tallyCmd v w
  else s.wrFields p 0 off w Reg.Tally.all

/-- A write of the POWER page (R321, R334). -/
def State.powerWrite (s : State) (off w : Nat) : State :=
  let p := Page.power
  if off = 0x104 then s.seqCmd w
  else if (off = 0x100 ∨ off = 0x10C) ∧ s.rd p 0 Reg.Power.SEQ_STATUS = 1 then s
  else if off = 0x380 ∧ bitAt w 0 then
    s.clearCounts p 0 (Reg.Power.REF_STARTS :: ((List.range 27).map Reg.Power.REFUSALS ++ (List.range 27).map Reg.Power.ABORTS))
  else s.wrFields p 0 off w Reg.Power.all

/-- The write of a block register word. -/
def State.blockWrite (s : State) (v : View) (p : Page) (bank off w : Nat) : State :=
  match p with
  | .ma a => s.maWrite v a bank off w
  | .ott => s.ottWrite v off w
  | .tallyPf => s.tallyWrite p none off w
  | .tallyVf q => s.tallyWrite p (some q) off w
  | .part => s.partWrite v off w
  | .isp q => s.ispWrite q off w
  | .csi q => s.csiWrite q off w
  | .ctx c => s.ctxWrite c off w
  | .audio => s.audioWrite off w
  | .aout => s.aoutWrite off w
  | .power => s.powerWrite off w
  | .sec => if off = 0x144 then s.secCmd w none else s.wrFields p 0 off w Reg.Sec.all
  | .pcie => s.pcieWrite bank off w
  | .asp => s.aspWrite off w
  | .hv => s.hvWrite off w
  | .phy =>
    if off = 0x104 then
      let (ok, s1) := s.takeFree
      s1.retrain w (ok % 256)
    else s.wrFields p 0 off w Reg.Phy.all
  | .sealPage => if off = 0x108 then s.ackN w else s.wrFields p 0 off w Reg.Seal.all
  | .therm => if View.isVf v then s else s.wrFields p 0 off w Reg.Therm.all
  | .sys => if off = 0x108 ∧ bitAt w 0 then s.restart else s
  | _ => s.wrFields p bank off w (Page.fields p)

/-- The write of a register word of a page that answers a view. -/
def State.pageWrite (s : State) (v : View) (p : Page) (bank off w : Nat) : State :=
  if off < 0x100 then s.hdrWrite v p bank off w else s.blockWrite v p bank off w

/-- A write to the control window (R407, R408). -/
def State.busWrite (s : State) (v : View) (addr size w : Nat) : State :=
  s.viaBus v addr size w fun s p bank off => s.pageWrite v p bank off w

end Sys2Proof.Machine
end

