-- ==== Sys2Proof/Machine/Lift.lean ====
section
/-! DEFINITION. Lifts (R326 to R332): a raise enters the LIFT block, and a lift whose domains are ready restores, starts and hands over. -/

namespace Sys2Proof.Machine

/-! ### Raise -/

/-- Domains that come up from OFF in a lift raised now: those that are OFF, and those whose entry into OFF can no longer be abandoned. -/
def State.comesFromOff (s : State) (d : Nat) : Bool :=
  !(s.dom d).removed && match (s.dom d).st with
    | .off => true
    | .entering k t => decide (4 ≤ k) && t == 2
    | .waking fromOff => fromOff
    | _ => false

/-- Word k of a lift record (Table 12.6). -/
def State.liftWord (s : State) (r k : Nat) : Nat := s.rd .liftPage 0 (Reg.Lift.REC_WORD (16 * r + k))

/-- LIFT_RAISE (R328 to R330 step 1): the first waiting raise becomes a lift where fewer than 16 are in progress. Its record is read, RAISED
counts, and the domains of DOM_MASK are woken. AON runs lifts from READY on (R364). -/
def execLiftRaise (s : State) : Ans :=
  .next (match s.power.raises with
    | [] => s
    | r :: rest =>
      if !s.ready || decide (16 ≤ s.power.lifts.length) then s
      else
        let rec_ := r.record % 32
        let words := (List.range 16).map (s.liftWord rec_)
        let doms := setBits (nth 0 words 0) 27 |>.filter fun d => d != 0
        let run : LiftRun :=
          { raise := r, words := words, seqNo := s.rd .liftPage 0 (Reg.Lift.RAISED rec_), fromOff := doms.filter s.comesFromOff }
        let s1 := { s with power := { s.power with raises := rest, lifts := s.power.lifts ++ [run] } }
        let s2 := if r.held then s1.count .liftPage 0 Reg.Lift.LIFT_STALL Reg.Lift.LIFT_STALL_SAT (ncOf (s.now - r.ts)) else s1
        (doms.foldl State.wake (s2.countWrap32 .liftPage 0 (Reg.Lift.RAISED rec_) 1)))

/-! ### The record (Table 12.6) -/

def LiftRun.word (x : LiftRun) (k : Nat) : Nat := nth 0 x.words k
def LiftRun.doms (x : LiftRun) : List Nat := (setBits (x.word 0) 27).filter fun d => d != 0
def LiftRun.start (x : LiftRun) : List Nat := setBits (x.word 1) 9
def LiftRun.ctxPart (x : LiftRun) : Nat := field (x.word 1) 14 3
def LiftRun.hoAddr (x : LiftRun) : Nat := x.word 4 + field (x.word 5) 0 8 * 2 ^ 32
def LiftRun.hoLen (x : LiftRun) : Nat := field (x.word 5) 8 8 + 1
def LiftRun.restoreAt (x : LiftRun) : Nat := x.word 6 + field (x.word 7) 0 8 * 2 ^ 32

/-- Address of the hand-over descriptor (R332). -/
def LiftRun.hoSlot (x : LiftRun) : Nat := x.hoAddr + 32 * (x.seqNo % x.hoLen)

/-- The context that a lift acts on at an array (R330), none on a SHARED array without CTX_PART among its members. -/
def State.liftCtx (s : State) (x : LiftRun) (a : Nat) : Option Nat :=
  match s.assignOf a with
  | .unassigned => some 0
  | .owned p => some p
  | .shared l => if l.contains x.ctxPart then some x.ctxPart else none

/-! ### The restore list (R331, Table 12.7) -/

/-- The entries of a list, at most n, without its END; their reads meet the memory's upsets (R249). -/
def State.restoreList (s : State) (addr k : Nat) : Nat → State × List (List Byte)
  | 0 => (s, [])
  | n + 1 =>
    let (s1, e) := s.meetData (addr + 16 * k) 16
    if field (leAt e 0 4) 0 2 = 3 then (s1, [])
    else
      let (s2, l) := State.restoreList s1 addr (k + 1) n
      (s2, e :: l)

/-- PAGEMAP: words at addr name the OTT entries of the pages at map indices from dst on. Rejected words count (R331); one past the map's end
has no entry to be written to (log 69). -/
def State.restoreMap (s : State) (a part addr dst : Nat) : Nat → State × Bool
  | 0 => (s, true)
  | n + 1 =>
    let (s0, ok) := s.restoreMap a part addr dst n
    let (s1, d) := s0.meetData (addr + 4 * n) 4
    let i := leNat d % 2 ^ 20
    let e := s1.ott i
    if t0Frames a ≤ dst + n then (s1, ok)
    else if ottValid e && ottPart e == part && ottPlace e == 0 && ottArr e == a then
      (s1.modArr a fun x => { x with pageMap := SMap.set {} x.pageMap (dst + n) { ott := some i, part := part } }, ok)
    else (s1.errCount .liftPage 0 1 1, false)

/-- Bytes of an array's local store. -/
def t0Bytes (a : Nat) : Nat := if a = 8 then 16 * pageBytes else 384 * pageBytes

/-- The START arrays that came up COLD in a lift: those whose domain it found OFF (R330, R331). -/
def LiftRun.coldStart (x : LiftRun) : List Nat := x.start.filter fun a => x.fromOff.contains (arrDomain a)

/-- Run one restore entry for an array that came up COLD in the lift; the flag says that nothing was rejected. -/
def State.restoreOne (s : State) (x : LiftRun) (e : List Byte) : State × Bool :=
  let w := leAt e 0 4
  let a := field w 4 4
  let len := field w 8 24
  let dst := leAt e 4 4
  let src := leAt e 8 5
  if !x.coldStart.contains a then (s, true)
  else match s.liftCtx x a with
    | none => (s, true)
    | some c =>
      match field w 0 2 with
      | 0 =>
        if dst % 64 = 0 ∧ dst + 64 * len ≤ t0Bytes a then
          let (s1, d) := s.meetData src (64 * len)
          (s1.dstore (t0Base a + dst) d, true)
        else (s, true)
      | 1 =>
        if bitAt w 2 then (if a = 8 then (s, true) else (s.pageWrite .pf (.dma a) c dst (leAt e 8 4), true))
        else (s.pageWrite .pf (.ma a) c dst (leAt e 8 4), true)
      | _ => s.restoreMap a c src dst len

/-- Domains of the memory that the copies and maps of a list read, those for the given arrays; the other entries are skipped (R331). -/
def restoreReads (arrs : List Nat) (l : List (List Byte)) : List Nat :=
  (l.filter fun e => field (leAt e 0 4) 0 2 != 1 && arrs.contains (field (leAt e 0 4) 4 4)).flatMap fun e =>
    let n := field (leAt e 0 4) 8 24 * (if field (leAt e 0 4) 0 2 = 0 then 64 else 4)
    let src := leAt e 8 5
    if n = 0 then [] else [memDomain src, memDomain (src + n - 1)]

/-! ### Proceeding (R330) -/

/-- Step 3: the restore list, and COLD of each START array that came up in this lift clears. The arrays with a rejected entry. -/
def State.liftRestore (s : State) (x : LiftRun) (l : List (List Byte)) : State × List Nat :=
  let (s1, bad) := l.foldl (fun (acc : State × List Nat) e =>
    let (s', ok) := acc.1.restoreOne x e
    (s', if ok then acc.2 else insAsc (field (leAt e 0 4) 4 4) acc.2)) (s, [])
  (x.coldStart.foldl (fun s a =>
    s.setDom (arrDomain a) { s.dom (arrDomain a) with cold := false }) s1, bad)

/-- Step 4, first half: HQ_START, AUD_START, ISP_START. Whether a context start and a stream start were refused. -/
def State.liftStreams (s : State) (x : LiftRun) : State × Bool × Bool :=
  let refuse := fun (s : State) => s.errCount .liftPage 0 0 1
  let s1 := if bitAt (x.word 1) 13 && !s.rdB .audio 0 Reg.Audio.HQ_EN then (s.wr .audio 0 Reg.Audio.HQ_EN 1).hqOn else s
  let (s2, aud) := (setBits (field (x.word 1) 9 4) 4).foldl (fun (acc : State × Bool) st =>
    if acc.1.rdB .audio 0 (Reg.Audio.EN st) then acc
    else
      let (s', r) := acc.1.streamStart st
      if r then (refuse s', true) else (s', acc.2)) (s1, false)
  let (s3, isp) := (setBits (x.word 2) 32).foldl (fun (acc : State × Bool) c =>
    if acc.1.st (.ctx c) 0 = 0 ∧ !acc.1.rdB (.ctx c) 0 Reg.Hdr.CFG_OPEN then
      let (s', r) := acc.1.ctxStart c
      if r then (refuse (s'.startRefused (.ctx c) 0), true) else (s', acc.2)
    else (refuse (acc.1.startRefused (.ctx c) 0), true)) (s2, false)
  (s3, isp, aud)

/-- Step 4, second half: RUN on the START arrays; those not started (R330). -/
def State.liftStart (s : State) (x : LiftRun) (bad : List Nat) : State × List Nat :=
  x.start.foldl (fun (acc : State × List Nat) a =>
    match acc.1.liftCtx x a with
    | none => (acc.1, insAsc a acc.2)
    | some c =>
      if bad.contains a || !acc.1.rdB .floor 0 (Reg.Floor.PRESENT a) || acc.1.rd (.ma a) c Reg.Ma.SCHED_LEN == 0 then
        (acc.1, insAsc a acc.2)
      else (acc.1.runPage (.ma a) c, acc.2)) (s, [])

/-- The hand-over descriptor (Table 12.8); came holds the domains that came up from OFF, STEWARD among them only where it is ready. -/
def LiftRun.descriptor (x : LiftRun) (came notStarted : List Nat) (isp aud : Bool) : List Byte :=
  let r := x.raise
  let events := if r.origin = 15 then r.events else 0
  leBytes 4 (r.record % 32 + events % 32 * 32 + field (x.word 8) 0 16 * 65536) ++
    leBytes 4 (maskOf came) ++ leBytes 8 r.sidx ++ leBytes 8 r.ts ++
    leBytes 4 (if r.origin = 15 then 0 else ofInt 32 r.score) ++
    leBytes 4 (r.index % 128 + r.origin % 16 * 256 + maskOf notStarted * 4096 + b2n isp * 2 ^ 21 + b2n aud * 2 ^ 22)

/-- Steps 3 to 5 of a lift that is number i in progress. -/
def State.proceed (s : State) (i : Nat) (x : LiftRun) (l : List (List Byte)) : State :=
  let (s1, bad) := s.liftRestore x l
  let (s2, isp, aud) := s1.liftStreams x
  let (s3, notStarted) := s2.liftStart x bad
  let came := x.fromOff.filter fun d => d != 23 || s3.domOn d
  let s4 := s3.dstore x.hoSlot (x.descriptor came notStarted isp aud)
  let s5 := if bitAt (x.word 3) 13 then s4.signalTally (field (x.word 3) 0 13) 1 else s4
  { s5 with power := { s5.power with lifts := s5.power.lifts.eraseIdx i } }

/-- Lifts raised at the same time are posted in the order in which they stand (R23, R328): no earlier one of lift i's time is still in
progress. -/
def State.liftFirst (s : State) (i : Nat) (x : LiftRun) : Bool := (s.power.lifts.take i).all fun y => y.raise.ts != x.raise.ts

/-- LIFT_PROCEED (R330 to R332): lift i, once every named domain but STEWARD is ready; a domain removed by self-test is not waited for. Memory
that the descriptor needs, and the restore list where an array came up COLD, is woken first, and the command is then given again. -/
def execLiftProceed (i : Nat) (s : State) : Ans :=
  .next (match s.power.lifts[i]? with
    | none => s
    | some x =>
      if !(x.doms.all fun d => d == 23 || (s.dom d).removed || s.domOn d) || !s.liftFirst i x then s
      else
        let at_ := if x.coldStart.isEmpty then 0 else x.restoreAt
        let (s1, on) := s.wakeAll (memDomain x.hoSlot :: (if at_ = 0 then [] else [memDomain at_]))
        if !on then s1
        else
          let (s1, l) := if at_ = 0 then (s1, []) else s1.restoreList at_ 0 4096
          let (s2, on2) := s1.wakeAll (restoreReads x.coldStart l)
          if on2 then s2.proceed i x l else s2)

end Sys2Proof.Machine
end

