-- ==== Sys2Proof/Machine/Bus.lean ====
section
/-! DEFINITION. The commands that are register accesses under a name of their own, the commands of the tally unit, the OTT and the power
block that reach the device through their pages, the readiness of a domain with the accesses that stall behind it, and JTAG. A command
named for what a write does carries the written word; the bits that make it that command are set whatever the word holds (log 60). -/

namespace Sys2Proof.Machine

/-- A write to a named register word of a page: the write, where the address lies at that offset of a page. -/
def State.namedWrite (s : State) (v : View) (addr off w : Nat) : State :=
  match pageAt addr with
  | some (_, o) => if o = off then s.busWrite v addr 4 w else s
  | none => s

/-! ### Header commands (R405 to R414) -/

/-- RUN (R409). -/
def execRun (v : View) (addr : Nat) (w : Word) (s : State) : Ans := .next (s.namedWrite v addr 0x008 (setField w.toNat 0 1 1))

/-- STOP_REQ (R149, R409, R410). -/
def execStopReq (v : View) (addr : Nat) (w : Word) (s : State) : Ans := .next (s.namedWrite v addr 0x008 (setField w.toNat 1 1 1))

/-- CFG_OPEN (R409): the write opens or closes configuration by its bit 2. -/
def execCfgOpen (v : View) (addr : Nat) (w : Word) (s : State) : Ans := .next (s.namedWrite v addr 0x008 w.toNat)

/-- ERR_CLR (R414). -/
def execErrClr (v : View) (addr : Nat) (w : Word) (s : State) : Ans := .next (s.namedWrite v addr 0x008 (setField w.toNat 3 1 1))

/-- IRQ_CLR (R413). -/
def execIrqClr (v : View) (addr : Nat) (w : Word) (s : State) : Ans := .next (s.namedWrite v addr 0x018 w.toNat)

/-- IRQ_FORCE (R413). -/
def execIrqForce (v : View) (addr : Nat) (w : Word) (s : State) : Ans := .next (s.namedWrite v addr 0x01C w.toNat)

/-- IRQ_MASK (R412). -/
def execIrqMask (v : View) (addr : Nat) (w : Word) (s : State) : Ans := .next (s.namedWrite v addr 0x014 w.toNat)

/-- PAGE_STOPPED (R410): ctx names the context of an array, a DMA engine or a host DMA page. -/
def execPageStopped (addr ctx : Nat) (s : State) : Ans :=
  .next (match pageAt addr with
    | none => s
    | some (p, _) =>
      let bank := match p with
        | .ma _ => ctx
        | .dma _ => ctx
        | .pcie => ctx
        | _ => 0
      s.pageStopped p bank)

/-! ### Counter commands (R53, R80, R142) -/

/-- CNT_CLR of an array's page, a CSI port page or the POWER page, by its address. -/
def execCntClr (v : View) (addr : Nat) (w : Word) (s : State) : Ans :=
  .next (match pageAt addr with
    | some (.ma _, off) => if off = 0x190 then s.busWrite v addr 4 (setField w.toNat 0 1 1) else s
    | some (.csi _, off) => if off = 0x180 then s.busWrite v addr 4 (setField w.toNat 0 1 1) else s
    | some (.power, off) => if off = 0x380 then s.busWrite v addr 4 (setField w.toNat 0 1 1) else s
    | _ => s)

/-- RES_CLR (R80). -/
def execResClr (v : View) (a : Nat) (w : Word) (s : State) : Ans :=
  .next (if 8 < a then s else s.busWrite v ((Page.ma a).base + 0x1B8) 4 (setField w.toNat 0 1 1))

/-- SEQ_CLR (R142). -/
def execSeqClr (v : View) (a : Nat) (w : Word) (s : State) : Ans :=
  .next (if 8 < a then s else s.busWrite v ((Page.ma a).base + 0x1DC) 4 (setField w.toNat 0 1 1))

/-- CMPL_RD (R96): the runtime has read records up to the written index. -/
def execCmplRd (v : View) (a : Nat) (w : Word) (s : State) : Ans :=
  .next (if 8 < a then s else s.busWrite v ((Page.ma a).base + 0x1CC) 4 w.toNat)

/-- ACK_N (R237, R239). -/
def execAckN (v : View) (w : Word) (s : State) : Ans := .next (s.busWrite v (Page.sealPage.base + 0x108) 4 w.toNat)

/-! ### Plain accesses (R407, R408) -/

/-- LATCHED_READ (R407): a read of an aligned word; the low word of a pair latches the high word for its requester. -/
def execLatchedRead (v : View) (addr : Nat) (s : State) : Ans := .next (s.busRead v addr)

/-- TRNG_DATA_READ (R355, R356): a read of DATA of the TRNG page. -/
def execTrngDataRead (v : View) (s : State) : Ans := .next (s.busRead v (Page.trng.base + 0x100))

/-- REGISTER_WRITE (R407, R408). -/
def execRegisterWrite (v : View) (addr size : Nat) (w : Word) (s : State) : Ans := .next (s.busWrite v addr size w.toNat)

/-! ### The tally unit (R152 to R159) -/

/-- TALLY_SIGNAL (R152, R154): the signals that reach a tally in one nc are added as one sum. -/
def execTallySignal (idx : Nat) (incs : List Nat) (s : State) : Ans := .next (s.signalTally idx (sumNat incs))

/-- SIG_INC (Table 6.7). -/
def execSigInc (v : View) (w : Word) (s : State) : Ans := .next (s.busWrite v ((tallyView v).1.base + 0x10C) 4 w.toNat)

/-- INIT_THRESH (R158). -/
def execInitThresh (v : View) (w : Word) (s : State) : Ans := .next (s.busWrite v ((tallyView v).1.base + 0x110) 4 w.toNat)

/-- The word of 0x120 with A_GO and a given A_FREE. -/
def allocWord (w free : Nat) : Nat := setField (setField w 30 1 free) 31 1 1

/-- Allocation of a run of tallies (R158). -/
def execTallyAllocate (v : View) (w : Word) (s : State) : Ans :=
  .next (s.busWrite v ((tallyView v).1.base + 0x120) 4 (allocWord w.toNat 0))

/-- Release of a run of tallies (R158). -/
def execTallyFree (v : View) (w : Word) (s : State) : Ans :=
  .next (s.busWrite v ((tallyView v).1.base + 0x120) 4 (allocWord w.toNat 1))

/-! ### The OTT (R187 to R189, R209, R210) -/

/-- The word of 0x12C with C_GO and a given CMD. -/
def ottWord (w cmd : Nat) : Nat := setField (setField w 0 2 cmd) 31 1 1

/-- An OTT command by its name. -/
def State.ottNamed (s : State) (v : View) (w cmd : Nat) : State := s.busWrite v (Page.ott.base + 0x12C) 4 (ottWord w cmd)

/-- ALLOC (R209). -/
def execOttAlloc (v : View) (w : Word) (s : State) : Ans := .next (s.ottNamed v w.toNat 0)

/-- RELEASE (R189, R209). -/
def execOttRelease (v : View) (w : Word) (s : State) : Ans := .next (s.ottNamed v w.toNat 1)

/-- A RELEASE that waited completes (R189). -/
def execOttReleaseResume (s : State) : Ans := .next s.releaseResume

/-- SET (R210). -/
def execOttSet (v : View) (w : Word) (s : State) : Ans := .next (s.ottNamed v w.toNat 2)

/-- MOVE (R188, R209). -/
def execOttMove (v : View) (w : Word) (s : State) : Ans := .next (s.ottNamed v w.toNat 3)

/-- PAGE_MOVE_COMPLETE (R187). -/
def execPageMoveComplete (page : Nat) (s : State) : Ans := .next (s.completeMove page)

/-- FRAME_ZEROING (R187): a released frame, by its key, reads as zeros; a frame that an entry names is left alone. -/
def execFrameZeroing (frame : Nat) (s : State) : Ans := .next 
  (if s.tier.dirty.contains frame && !s.frameNamed frame then s.zeroFrame frame else s)

/-! ### Power (R311, R315, R321, R324) -/

/-- PWR_REQ (R315): a write of the PWR register of a page. -/
def execPwrReq (v : View) (addr : Nat) (w : Word) (s : State) : Ans := .next (s.namedWrite v addr 0x040 w.toNat)

/-- SEQ_GO (R321). -/
def execSeqGo (v : View) (w : Word) (s : State) : Ans :=
  .next (s.busWrite v (Page.power.base + 0x104) 4 (setField w.toNat 31 1 1))

/-- The accesses that stalled behind a domain complete in the order in which they came (R324). -/
def State.unstall (s : State) (d : Nat) : State :=
  let mine := s.stalled.filter fun x => x.dom == d
  mine.foldl (fun s x => match x.word with
    | some w => s.busWrite x.view x.addr 4 w
    | none => s.busRead x.view x.addr) { s with stalled := s.stalled.filter fun x => x.dom != d }

/-- DOMAIN_READY (R311, R324, R325). -/
def execDomainReady (d : Nat) (s : State) : Ans :=
  .next (
    let s1 := s.becomeReady d
    if s1.domOn d then (s1.assignResume d).unstall d else s1)

/-! ### JTAG (R357, R384) -/

/-- JTAG_ACCESS (R357): BYPASS and IDCODE in every state, the rest by the bits of DBG_SCOPE. An instruction that is not granted selects the
bypass register (DEDUCED, log 61). What a debug module or the boundary-scan cells do is outside the spec. -/
def execJtagAccess (j : Jtag) (s : State) : Ans :=
  .next (
    let byp := fun (s : State) (b : Bool) => s.setPorts { s.ports with jtagBypass := b }
    let scope := fun k => bitAt s.sec.dbgScope k
    match j with
    | .bypass => byp s true
    | .idcode => (byp s false).emit (.jtagData 0x17A079DD)
    | .stewardDm => byp s (!scope 0)
    | .aon => byp s (!scope 1)
    | .extest => byp s (!scope 2)
    | .busRead addr =>
      if !scope 3 then byp s true
      else if !s.populated addr then byp s false
      else
        let (s1, on) := s.wakeAll [memDomain addr]
        if on then
          let (s2, d) := s1.readAt addr 1
          (byp s2 false).emit (.jtagData (d.headD 0).toNat)
        else s1
    | .busWrite addr d =>
      if !scope 3 then byp s true
      else if !s.populated addr then byp s false
      else
        let (s1, on) := s.wakeAll [memDomain addr]
        if on then (byp s1 false).dstore addr [d] else s1)

end Sys2Proof.Machine
end

