-- ==== Sys2Proof/Machine/Dispatch.lean ====
section
/-! DEFINITION. One arm per command: each is one direct call of the command's meaning. -/

namespace Sys2Proof.Machine

/-- The effect of a command on everything but the queue. -/
def exec (i : Instr) (s : State) : Host.Outcome State Fault Refusal :=
  match i with
  | .matmul a env => Sys2Proof.Machine.execMatmul a env s
  | .conv a env => Sys2Proof.Machine.execConv a env s
  | .pool a env => Sys2Proof.Machine.execPool a env s
  | .eltwise a env => Sys2Proof.Machine.execEltwise a env s
  | .moveConvert a env => Sys2Proof.Machine.execMoveConvert a env s
  | .pair a env => Sys2Proof.Machine.execPair a env s
  | .pairBwd a env => Sys2Proof.Machine.execPairBwd a env s
  | .expand a env => Sys2Proof.Machine.execExpand a env s
  | .decode a env => Sys2Proof.Machine.execDecode a env s
  | .recur a env => Sys2Proof.Machine.execRecur a env s
  | .tallySignalOp a => Sys2Proof.Machine.execTallySignalOp a s
  | .tallyWaitOp a => Sys2Proof.Machine.execTallyWaitOp a s
  | .lift a => Sys2Proof.Machine.execLift a s
  | .sealOp a => Sys2Proof.Machine.execSealOp a s
  | .doze a => Sys2Proof.Machine.execDoze a s
  | .weightRefetch a repaired => Sys2Proof.Machine.execWeightRefetch a repaired s
  | .macroOpComplete a => Sys2Proof.Machine.execMacroOpComplete a s
  | .gangBarrierStart leader => Sys2Proof.Machine.execGangBarrierStart leader s
  | .cmplRd v a w => Sys2Proof.Machine.execCmplRd v a w s
  | .arbiterChoice a => Sys2Proof.Machine.execArbiterChoice a s
  | .epochBoundary => Sys2Proof.Machine.execEpochBoundary s
  | .weirWindowStart => Sys2Proof.Machine.execWeirWindowStart s
  | .tallySignal idx incs => Sys2Proof.Machine.execTallySignal idx incs s
  | .sigInc v w => Sys2Proof.Machine.execSigInc v w s
  | .initThresh v w => Sys2Proof.Machine.execInitThresh v w s
  | .tallyAllocate v w => Sys2Proof.Machine.execTallyAllocate v w s
  | .tallyFree v w => Sys2Proof.Machine.execTallyFree v w s
  | .load part image => Sys2Proof.Machine.execLoad part image s
  | .ottAlloc v w => Sys2Proof.Machine.execOttAlloc v w s
  | .ottRelease v w => Sys2Proof.Machine.execOttRelease v w s
  | .ottReleaseResume => Sys2Proof.Machine.execOttReleaseResume s
  | .ottSet v w => Sys2Proof.Machine.execOttSet v w s
  | .ottMove v w => Sys2Proof.Machine.execOttMove v w s
  | .pageMoveComplete page => Sys2Proof.Machine.execPageMoveComplete page s
  | .frameZeroing frame => Sys2Proof.Machine.execFrameZeroing frame s
  | .dmaCopy a ctx ev => Sys2Proof.Machine.execDmaCopy a ctx ev s
  | .dmaFill a ctx ev => Sys2Proof.Machine.execDmaFill a ctx ev s
  | .dmaComplete a ctx => Sys2Proof.Machine.execDmaComplete a ctx s
  | .t1Quota v w => Sys2Proof.Machine.execT1Quota v w s
  | .partEnable v w => Sys2Proof.Machine.execPartEnable v w s
  | .partDisable v w => Sys2Proof.Machine.execPartDisable v w s
  | .partitionTeardown p => Sys2Proof.Machine.execPartitionTeardown p s
  | .vfFlr p => Sys2Proof.Machine.execVfFlr p s
  | .assignRelease v w => Sys2Proof.Machine.execAssignRelease v w s
  | .assignOwn v w => Sys2Proof.Machine.execAssignOwn v w s
  | .shareAdd v w => Sys2Proof.Machine.execShareAdd v w s
  | .shareRemove v w => Sys2Proof.Machine.execShareRemove v w s
  | .ownerProg v w => Sys2Proof.Machine.execOwnerProg v w s
  | .lcAdvance v w => Sys2Proof.Machine.execLcAdvance v w s
  | .rollbackAdv v w => Sys2Proof.Machine.execRollbackAdv v w s
  | .dbgChallenge v w => Sys2Proof.Machine.execDbgChallenge v w s
  | .dbgResponse v w => Sys2Proof.Machine.execDbgResponse v w s
  | .wellRekey v w => Sys2Proof.Machine.execWellRekey v w s
  | .getVersion => Sys2Proof.Machine.execGetVersion s
  | .getCapabilities => Sys2Proof.Machine.execGetCapabilities s
  | .negotiateAlgorithms => Sys2Proof.Machine.execNegotiateAlgorithms s
  | .getDigests => Sys2Proof.Machine.execGetDigests s
  | .getCertificate slot offset len => Sys2Proof.Machine.execGetCertificate slot offset len s
  | .challenge slot nonce => Sys2Proof.Machine.execChallenge slot nonce s
  | .getMeasurements index sign nonce => Sys2Proof.Machine.execGetMeasurements index sign nonce s
  | .keyExchange pub => Sys2Proof.Machine.execKeyExchange pub s
  | .finish mac => Sys2Proof.Machine.execFinish mac s
  | .heartbeat => Sys2Proof.Machine.execHeartbeat s
  | .keyUpdate => Sys2Proof.Machine.execKeyUpdate s
  | .endSession => Sys2Proof.Machine.execEndSession s
  | .ideKm m => Sys2Proof.Machine.execIdeKm m s
  | .ideIntegrityFailure stream => Sys2Proof.Machine.execIdeIntegrityFailure stream s
  | .tlpReceived t => Sys2Proof.Machine.execTlpReceived t s
  | .trngDataRead v => Sys2Proof.Machine.execTrngDataRead v s
  | .trngSeeded => Sys2Proof.Machine.execTrngSeeded s
  | .healthFail => Sys2Proof.Machine.execHealthFail s
  | .drbgReseed => Sys2Proof.Machine.execDrbgReseed s
  | .pwrReq v addr w => Sys2Proof.Machine.execPwrReq v addr w s
  | .domainEntry d => Sys2Proof.Machine.execDomainEntry d s
  | .domainWake d => Sys2Proof.Machine.execDomainWake d s
  | .domainReady d => Sys2Proof.Machine.execDomainReady d s
  | .seqGo v w => Sys2Proof.Machine.execSeqGo v w s
  | .seqTimeout => Sys2Proof.Machine.execSeqTimeout s
  | .liftRaise => Sys2Proof.Machine.execLiftRaise s
  | .liftProceed k => Sys2Proof.Machine.execLiftProceed k s
  | .pcmSample bits => Sys2Proof.Machine.execPcmSample bits s
  | .blockClose r => Sys2Proof.Machine.execBlockClose r s
  | .vadStart => Sys2Proof.Machine.execVadStart s
  | .vadEnd => Sys2Proof.Machine.execVadEnd s
  | .glass => Sys2Proof.Machine.execGlass s
  | .alarmT3 => Sys2Proof.Machine.execAlarmT3 s
  | .alarmCont => Sys2Proof.Machine.execAlarmCont s
  | .audioStreamStart v st w => Sys2Proof.Machine.execAudioStreamStart v st w s
  | .audioStreamStop v st w => Sys2Proof.Machine.execAudioStreamStop v st w s
  | .audioBlockDelivery st => Sys2Proof.Machine.execAudioBlockDelivery st s
  | .hqStart v w => Sys2Proof.Machine.execHqStart v w s
  | .hqStop v w => Sys2Proof.Machine.execHqStop v w s
  | .calLoad v w => Sys2Proof.Machine.execCalLoad v w s
  | .channelUnderrun c => Sys2Proof.Machine.execChannelUnderrun c s
  | .channelResume c => Sys2Proof.Machine.execChannelResume c s
  | .muteAssert => Sys2Proof.Machine.execMuteAssert s
  | .muteRelease => Sys2Proof.Machine.execMuteRelease s
  | .aoutEnable v port w => Sys2Proof.Machine.execAoutEnable v port w s
  | .aoutFrame port => Sys2Proof.Machine.execAoutFrame port s
  | .aoutPeriodSignal port => Sys2Proof.Machine.execAoutPeriodSignal port s
  | .frameStart port vc hdr => Sys2Proof.Machine.execFrameStart port vc hdr s
  | .frameEnd port vc hdr => Sys2Proof.Machine.execFrameEnd port vc hdr s
  | .longPacket p => Sys2Proof.Machine.execLongPacket p s
  | .lineShortPacket port vc hdr => Sys2Proof.Machine.execLineShortPacket port vc hdr s
  | .deskewReceived port => Sys2Proof.Machine.execDeskewReceived port s
  | .shadowCommit v c w => Sys2Proof.Machine.execShadowCommit v c w s
  | .cisRes v p w => Sys2Proof.Machine.execCisRes v p w s
  | .workItem p => Sys2Proof.Machine.execWorkItem p s
  | .deadlineSkip c => Sys2Proof.Machine.execDeadlineSkip c s
  | .groupAbsent g c => Sys2Proof.Machine.execGroupAbsent g c s
  | .hostDmaTail v w => Sys2Proof.Machine.execHostDmaTail v w s
  | .hostDmaDescriptor fn desc data hostErr => Sys2Proof.Machine.execHostDmaDescriptor fn desc data hostErr s
  | .perstNRise => Sys2Proof.Machine.execPerstNRise s
  | .perstNFall => Sys2Proof.Machine.execPerstNFall s
  | .hostD3cold => Sys2Proof.Machine.execHostD3cold s
  | .pcieLinkRecovery => Sys2Proof.Machine.execPcieLinkRecovery s
  | .msixUnmask fn k => Sys2Proof.Machine.execMsixUnmask fn k s
  | .xspiCommand op => Sys2Proof.Machine.execXspiCommand op s
  | .i3cIbi target payload => Sys2Proof.Machine.execI3cIbi target payload s
  | .i3cHotJoin target => Sys2Proof.Machine.execI3cHotJoin target s
  | .i3cPrivateRead n => Sys2Proof.Machine.execI3cPrivateRead n s
  | .uartReceive f => Sys2Proof.Machine.execUartReceive f s
  | .uartQuery => Sys2Proof.Machine.execUartQuery s
  | .aspWord d => Sys2Proof.Machine.execAspWord d s
  | .drainGo v w => Sys2Proof.Machine.execDrainGo v w s
  | .aspDrainEnd => Sys2Proof.Machine.execAspDrainEnd s
  | .gaugeCurrentSample f => Sys2Proof.Machine.execGaugeCurrentSample f s
  | .gaugeVoltageSample mv ntc ntcFault => Sys2Proof.Machine.execGaugeVoltageSample mv ntc ntcFault s
  | .gaugeRangeChange => Sys2Proof.Machine.execGaugeRangeChange s
  | .gaugeEmptySet => Sys2Proof.Machine.execGaugeEmptySet s
  | .gaugeEmptyClear => Sys2Proof.Machine.execGaugeEmptyClear s
  | .gaugeReanchor => Sys2Proof.Machine.execGaugeReanchor s
  | .qLoad v w => Sys2Proof.Machine.execQLoad v w s
  | .panelGo v w => Sys2Proof.Machine.execPanelGo v w s
  | .panelPumpsReady => Sys2Proof.Machine.execPanelPumpsReady s
  | .panelPhaseEnd => Sys2Proof.Machine.execPanelPhaseEnd s
  | .hvSupplyFail mv => Sys2Proof.Machine.execHvSupplyFail mv s
  | .porstNRise t => Sys2Proof.Machine.execPorstNRise t s
  | .porstNFall => Sys2Proof.Machine.execPorstNFall s
  | .aonPowerOnReset => Sys2Proof.Machine.execAonPowerOnReset s
  | .selfTestVerdict => Sys2Proof.Machine.execSelfTestVerdict s
  | .restart v w => Sys2Proof.Machine.execRestart v w s
  | .thermalTrip sensor tq => Sys2Proof.Machine.execThermalTrip sensor tq s
  | .thermalTripRelease tq => Sys2Proof.Machine.execThermalTripRelease tq s
  | .throttleStepDown a stallAc => Sys2Proof.Machine.execThrottleStepDown a stallAc s
  | .throttleStepUp a stallAc => Sys2Proof.Machine.execThrottleStepUp a stallAc s
  | .headroomLow a mv stallAc => Sys2Proof.Machine.execHeadroomLow a mv stallAc s
  | .vddMaCollapse mv => Sys2Proof.Machine.execVddMaCollapse mv s
  | .oppReq v a w => Sys2Proof.Machine.execOppReq v a w s
  | .oppSettled a => Sys2Proof.Machine.execOppSettled a s
  | .rtcFallback => Sys2Proof.Machine.execRtcFallback s
  | .retrain v w ok => Sys2Proof.Machine.execRetrain v w ok s
  | .ackN v w => Sys2Proof.Machine.execAckN v w s
  | .run v addr w => Sys2Proof.Machine.execRun v addr w s
  | .stopReq v addr w => Sys2Proof.Machine.execStopReq v addr w s
  | .pageStopped addr ctx => Sys2Proof.Machine.execPageStopped addr ctx s
  | .cfgOpen v addr w => Sys2Proof.Machine.execCfgOpen v addr w s
  | .errClr v addr w => Sys2Proof.Machine.execErrClr v addr w s
  | .irqClr v addr w => Sys2Proof.Machine.execIrqClr v addr w s
  | .irqForce v addr w => Sys2Proof.Machine.execIrqForce v addr w s
  | .irqMask v addr w => Sys2Proof.Machine.execIrqMask v addr w s
  | .cntClr v addr w => Sys2Proof.Machine.execCntClr v addr w s
  | .resClr v a w => Sys2Proof.Machine.execResClr v a w s
  | .seqClr v a w => Sys2Proof.Machine.execSeqClr v a w s
  | .latchedRead v addr => Sys2Proof.Machine.execLatchedRead v addr s
  | .registerWrite v addr size w => Sys2Proof.Machine.execRegisterWrite v addr size w s
  | .telemWindowEnd meanMw => Sys2Proof.Machine.execTelemWindowEnd meanMw s
  | .pcieTlpReplay => Sys2Proof.Machine.execPcieTlpReplay s
  | .pcieLinkUp => Sys2Proof.Machine.execPcieLinkUp s
  | .completionTimeout fn => Sys2Proof.Machine.execCompletionTimeout fn s
  | .imageUnload part imageId => Sys2Proof.Machine.execImageUnload part imageId s
  | .supplyRailRestored r mv => Sys2Proof.Machine.execSupplyRailRestored r mv s
  | .lpddrHot ch hot => Sys2Proof.Machine.execLpddrHot ch hot s
  | .jtagAccess j => Sys2Proof.Machine.execJtagAccess j s

end Sys2Proof.Machine
end

