-- ==== Sys2Proof/Machine/Step.lean ====
section
/-! DEFINITION. One step: take the command at the front of the queue and run it; on an empty queue one tick of the 1 GHz
timestamp passes (log 7). -/

namespace Sys2Proof.Machine

/-- Take the command at the front of the queue, run it with the queue's rest, and answer its outcome. On an empty queue the
block idles for one nanosecond: only the timestamp moves (DESIGN CHOICE, log 7). -/
def step (s : State) : Host.Outcome State Fault Refusal :=
  match s.pending with
  | [] => .next { s with now := s.now + 1 }
  | c :: rest => exec c { s with pending := rest }

/-- s with the command that a table word spells put at the front of its queue; s itself, since no word spells one (log 6). -/
def State.withFetchWord (s : State) (nbits w : Nat) : State :=
  match decodeTableWord nbits w with
  | none => s
  | some c => { s with pending := c :: s.pending }

end Sys2Proof.Machine
end

