-- ==== Sys2Proof/Safety.lean ====
section
/-! DEFINITION. What every run keeps, and the conditions under which a command has its own effect, in the terms that statements use. -/

namespace Sys2Proof.Machine

/-- Memory is in canonical form: addresses rise, no zero byte is listed. -/
abbrev MemInv (s : State) : Prop := Memory.wf s.mem = true

/-- Every queue and counter keeps within its depth: the ledger holds 4096 records (R237), 16 lifts run (R328), the sluice holds 8192 words
(R386), the I3C queue 16 requests (R383), the UART queue 64 characters (R384), the open block 256 samples (R288), and a tally counts to 0xFFFF
(R151). -/
abbrev QueueInv (s : State) : Prop :=
  s.seals.ledger.length ≤ 4096 ∧ s.power.lifts.length ≤ 16 ∧ s.ports.sluice.length ≤ 8192 ∧ s.ports.ibi.length ≤ 16 ∧
    s.ports.uartRx.length ≤ 64 ∧ s.audio.openMix.length ≤ 256 ∧ ∀ i, (s.tally i).count ≤ 0xFFFF

/-- Between two states only registers of one page differ: those of every other 4 KiB page read as before, in every bank. -/
abbrev RegsOutside (s t : State) (p : Page) : Prop :=
  ∀ q ∈ allPages, q.base / 0x1000 ≠ p.base / 0x1000 → ∀ b f, q.base % 0x1000 + f.off < 0x1000 → f.lsb < 32 → t.rd q b f = s.rd q b f

/-- A view reaches a register word of a page at once (R407, R415, R324): the word lies at that offset, the page is served and not
absent, the view has the bank, and the page's domain is ON. -/
abbrev Reaches (s : State) (v : View) (p : Page) (off bank : Nat) : Prop :=
  pageAt (p.base + off) = some (p, off) ∧ (p.base + off) % 4 = 0 ∧ s.served p = true ∧ s.pageAbsent p = false ∧
    s.viewBank v p = some bank ∧ s.domOn (p.wakeDomain off) = true

/-- Every domain of a list is ON. -/
abbrev AllOn (s : State) (l : List Nat) : Prop := l.all s.domOn = true

/-- An interrupt bit of a page is set in a view (R412). -/
abbrev IrqSet (s : State) (p : Page) (fn bit : Nat) : Prop := bitAt (s.rd p fn Reg.Hdr.IRQ_RAW) bit = true

/-- The descriptor that a context's PC names, as the sequencer runs it. -/
abbrev State.macroAt (s : State) (a ctx : Nat) : MEnv := s.menv a ctx (s.descAt a ctx)

/-- An array stands at the start of a macro-operation of one opcode that nothing holds back (R88, R89, R94, R323): the context runs and
may start, the descriptor waits on no tally and belongs to no gang, its checks pass, no tensor that it writes overlaps another (R90), and its
memory's domains are ON. -/
abbrev MacroReady (s : State) (a ctx op : Nat) : Prop :=
  a ≤ 8 ∧ s.atStart a = some ctx ∧ (s.descAt a ctx).op = op ∧ opValid op = true ∧ (s.descAt a ctx).waitEn = false ∧
    (s.descAt a ctx).gang = 0 ∧ s.tallyRange (s.macroAt a ctx) = false ∧ s.checkDesc (s.macroAt a ctx) = none ∧
    s.overlaps (s.macroAt a ctx) = false ∧ AllOn s (s.mopDomains (s.macroAt a ctx))

/-- A run of a macro-operation leaves its results, and nothing of the rest of the device moves (R88, R95, R114): memory is what the
outputs write, one macro-operation is in flight with the descriptor's TAG and the run's counts, and no PC or STATE has changed. -/
abbrev LeavesRun (s u t : State) (a ctx op : Nat) (r : MRes) : Prop :=
  (∃ x, (t.arr a).mop = some x ∧ x.ctx = ctx ∧ x.opcode = op ∧ x.tag = (s.descAt a ctx).tag ∧ x.fault = 0 ∧ x.operand = opNone ∧
      x.satCnt = r.sat ∧ x.flushCnt = r.flush ∧ x.nOut = r.nOut ∧ x.replays = r.replays) ∧
    t.mem = (u.putOut (u.ctxPart a ctx) r.out).mem ∧
    (∀ b c, t.rd (.ma b) c Reg.Ma.PC = s.rd (.ma b) c Reg.Ma.PC ∧ t.st (.ma b) c = s.st (.ma b) c) ∧
    t.tallies = s.tallies ∧ t.waiters = s.waiters ∧ t.dmas = s.dmas ∧ t.images = s.images ∧ t.power = s.power ∧ t.audio = s.audio ∧
    t.cams = s.cams ∧ t.gauge = s.gauge ∧ t.panel = s.panel ∧ t.boot = s.boot ∧ t.now = s.now ∧ t.pending = s.pending

/-- A SEC command of one CODE may run at once (R360): the write of 0x144 reaches the page, no command runs, and the block at CMD_LO and the
written CMD_HI, whose domain is ON and whose bytes no upset has struck, begins with that CODE. -/
abbrev SecReady (s : State) (v : View) (w : Word) (addr code : Nat) : Prop :=
  Reaches s v .sec 0x144 0 ∧ s.rdB .sec 0 Reg.Sec.CMD_GO = false ∧ addr = s.rd .sec 0 Reg.Sec.CMD_LO + field w.toNat 0 8 * 2 ^ 32 ∧
    s.domOn (memDomain addr) = true ∧ s.upsets = [] ∧ (s.byte addr).toNat = code

/-- A SEC command has ended with a status (R360): CMD_STATUS holds it, CMD_GO reads 0, and IRQ_RAW bit 0 of SEC is set. -/
abbrev SecEnded (t : State) (st : Nat) : Prop :=
  t.rd .sec 0 Reg.Sec.CMD_STATUS = st ∧ t.rd .sec 0 Reg.Sec.CMD_GO = 0 ∧ IrqSet t .sec 0 0

end Sys2Proof.Machine
end

