-- ==== Sys2Proof/Certificates/Slice0/Obligations.lean ====
section
/-! DEFINITION. The statements about the T7 for the provers. Each says in its docstring which rules it formalises; a clause that rests on a
choice of the model names the log entry. -/

open Sys2Proof Sys2Proof.Machine

/-! ### The whole machine -/

/-- A step takes the command at the front of the queue and is that command's effect on the state with the queue's rest; on an empty queue
only the timestamp moves, by 1 ns (DESIGN CHOICE, log 7). -/
def Obligations.StepTakesTheFront : Prop :=
  (∀ (c : Instr) (rest : List Instr) (s : State), s.pending = c :: rest → step s = exec c { s with pending := rest }) ∧
    ∀ s : State, s.pending = [] → step s = .next { s with now := s.now + 1 }

/-- Every command of the table goes on in every state, leaves the queue alone, and never turns the timestamp back. -/
def Obligations.EveryCommandGoesOn : Prop :=
  ∀ (c : Instr) (s : State), ∃ t, exec c s = .next t ∧ t.pending = s.pending ∧ s.now ≤ t.now

/-- After reset memory is in canonical form and reads zero everywhere (log 5), and every queue is within its depth. -/
def Obligations.ResetMeetsTheInvariants : Prop := MemInv State.reset ∧ QueueInv State.reset ∧ ∀ a, State.reset.byte a = 0

/-- Every step keeps memory in canonical form, so that equal memories are equal data (the model's own form of memory), and keeps the ledger,
the lifts, the sluice, the I3C and UART queues, the open audio block and every tally within the depth that the spec gives it. -/
def Obligations.StepKeepsTheInvariants : Prop :=
  (∀ s t : State, MemInv s → step s = .next t → MemInv t) ∧ ∀ s t : State, QueueInv s → step s = .next t → QueueInv t

/-- The frame of the commands of one shape. Those of the first list store nothing: every byte of memory reads as before. Those of the second
list change no register at all. Each of the third list changes registers of the page beside it, and of no other page. -/
def Obligations.CommandFrames : Prop :=
  ∀ (s t : State) (c : Instr) (v : View) (w : Word) (n m k : Nat) (b : Bool) (bs : List Byte) (ns : List Nat) (is : List Int)
    (bits : List (List Bool)) (d : BitVec 64) (r : CopyResult) (cf : CurrentFrame) (km : IdeKm) (h : HdrErr) (lp : LongPkt) (st : SelfTest)
    (rl : Rail) (tl : Tlp) (xo : XspiOp), exec c s = .next t →
    (c ∈
    [Instr.alarmCont, .alarmT3, .aoutEnable v n w, .aoutFrame n, .aoutPeriodSignal n, .arbiterChoice n, .aspWord d,
     .audioStreamStart v n w, .audioStreamStop v n w, .blockClose r, .calLoad v w, .challenge n bs, .channelResume n, .channelUnderrun n,
     .cisRes v n w, .completionTimeout n, .deskewReceived n, .dmaComplete n m, .domainWake n, .doze n, .drainGo v w, .drbgReseed,
     .endSession, .epochBoundary, .finish bs, .gangBarrierStart n, .gaugeCurrentSample cf, .gaugeEmptyClear, .gaugeEmptySet,
     .gaugeRangeChange, .gaugeReanchor, .gaugeVoltageSample n m b, .getCapabilities, .getCertificate n m k, .getDigests,
     .getMeasurements n b bs, .getVersion, .glass, .headroomLow n m k, .healthFail, .heartbeat, .hostD3cold, .hostDmaTail v w,
     .hqStart v w, .hqStop v w, .hvSupplyFail n, .i3cHotJoin n, .i3cIbi n bs, .i3cPrivateRead n, .ideIntegrityFailure n, .ideKm km,
     .imageUnload n m, .keyExchange bs, .keyUpdate, .latchedRead v n, .lift n, .liftRaise, .lineShortPacket n m h, .longPacket lp,
     .lpddrHot n b, .msixUnmask n m, .muteAssert, .muteRelease, .negotiateAlgorithms, .oppReq v n w, .oppSettled n, .ottReleaseResume,
     .pageStopped n m, .panelGo v w, .panelPhaseEnd, .panelPumpsReady, .pcieLinkRecovery, .pcieLinkUp, .pcieTlpReplay, .pcmSample bits,
     .perstNFall, .perstNRise, .porstNRise st, .qLoad v w, .retrain v w n, .rtcFallback, .sealOp n, .selfTestVerdict, .seqTimeout,
     .shadowCommit v n w, .supplyRailRestored rl n, .tallySignal n ns, .tallySignalOp n, .tallyWaitOp n, .telemWindowEnd n,
     .thermalTripRelease is, .throttleStepDown n m, .throttleStepUp n m, .tlpReceived tl, .trngDataRead v, .uartQuery, .vadEnd,
     .vadStart, .vfFlr n, .weirWindowStart, .xspiCommand xo] →
      t.mem = s.mem ∧ ∀ a, t.byte a = s.byte a) ∧
    (c ∈
    [Instr.channelResume n, .deskewReceived n, .epochBoundary, .frameZeroing n, .gangBarrierStart n, .i3cPrivateRead n,
     .msixUnmask n m, .muteRelease, .oppSettled n, .pcieLinkUp, .perstNRise, .rtcFallback, .tlpReceived tl, .uartQuery] →
      t.regs = s.regs) ∧
    ∀ p, (c, p) ∈
    [(Instr.gaugeCurrentSample cf, Page.hv), (.gaugeVoltageSample n m b, .hv), (.gaugeRangeChange, .hv), (.gaugeEmptySet, .hv),
     (.gaugeEmptyClear, .hv), (.gaugeReanchor, .hv), (.panelPumpsReady, .hv), (.panelPhaseEnd, .hv), (.hvSupplyFail n, .hv),
     (.i3cIbi n bs, .i3c), (.i3cHotJoin n, .i3c), (.xspiCommand xo, .xspi), (.pcieTlpReplay, .pcie), (.lpddrHot n b, .lpddr),
     (.lineShortPacket n m h, .csi n), (.pcmSample bits, .audio), (.blockClose r, .audio), (.channelUnderrun n, .audio),
     (.muteAssert, .audio), (.vadStart, .audio), (.vadEnd, .audio), (.glass, .audio), (.alarmT3, .audio), (.alarmCont, .audio),
     (.aspWord d, .asp), (.healthFail, .trng), (.drbgReseed, .trng), (.ideIntegrityFailure n, .sec), (.telemWindowEnd n, .therm),
     (.domainWake n, .power), (.seqTimeout, .power), (.imageUnload n m, .ott)] →
      RegsOutside s t p

/-- After reset every register field reads its reset value, every array is UNASSIGNED, every tally is as a free one, and no partition,
image, OTT entry, sump block or seal record is there. Values that the spec does not give are those of logs 1 and 3. -/
def Obligations.ResetLeaves : Prop :=
  (∀ p b f, State.reset.rd p b f = f.reset) ∧ (∀ a, State.reset.assignOf a = .unassigned) ∧
    (∀ i, (State.reset.tally i).count = 0 ∧ (State.reset.tally i).thresh = 1 ∧ (State.reset.tally i).level = false ∧
      (State.reset.tally i).alloc = false ∧ (State.reset.tally i).ovf = false) ∧
    (∀ p, State.reset.partOn p = false) ∧ State.reset.images = [] ∧ (∀ i, State.reset.ott i = 0) ∧
    State.reset.audio.sump = [] ∧ State.reset.seals.ledger = [] ∧ State.reset.pending = []

/-! ### Macro-operations -/

/-- The ten tensor macro-operations, MATMUL, CONV, POOL, ELTWISE, MOVE/CONVERT, PAIR, PAIR_BWD, EXPAND, DECODE and RECUR: on an array that
stands ready at one, the run goes on and leaves its outputs in memory and one macro-operation in flight with the descriptor's TAG and the run's
counts; PC and STATE of every context stay, for the completion record comes later. The results are those of the meanings, with the readings of
logs 10, 12, 43 and 47 to 50. -/
def Obligations.TensorOpsLeaveTheirRun : Prop :=
  ∀ (s : State) (a ctx : Nat) (env : MopEnv),
    (MacroReady s a ctx 0x01 → (s.runMatmul (s.macroAt a ctx) (gangEnv [env])).fault = 0 →
      ∃ t, exec (.matmul a env) s = .next t ∧ LeavesRun s s t a ctx 0x01 (s.runMatmul (s.macroAt a ctx) (gangEnv [env]))) ∧
    (MacroReady s a ctx 0x02 → (s.runConv (s.macroAt a ctx) (gangEnv [env])).fault = 0 →
      ∃ t, exec (.conv a env) s = .next t ∧ LeavesRun s s t a ctx 0x02 (s.runConv (s.macroAt a ctx) (gangEnv [env]))) ∧
    (MacroReady s a ctx 0x03 → (s.runPool (s.macroAt a ctx) (gangEnv [env])).fault = 0 →
      ∃ t, exec (.pool a env) s = .next t ∧ LeavesRun s s t a ctx 0x03 (s.runPool (s.macroAt a ctx) (gangEnv [env]))) ∧
    (MacroReady s a ctx 0x04 → (s.runEltwise (s.macroAt a ctx) (gangEnv [env])).fault = 0 →
      ∃ t, exec (.eltwise a env) s = .next t ∧ LeavesRun s s t a ctx 0x04 (s.runEltwise (s.macroAt a ctx) (gangEnv [env]))) ∧
    (MacroReady s a ctx 0x05 → ∀ u e, u = s.moveStart (s.macroAt a ctx) env → e = s.moveEnv (s.macroAt a ctx) env →
      (u.runMove (s.macroAt a ctx) e).fault = 0 →
      ∃ t, exec (.moveConvert a env) s = .next t ∧ LeavesRun s u t a ctx 0x05 (u.runMove (s.macroAt a ctx) e)) ∧
    (MacroReady s a ctx 0x10 → (s.runPair (s.macroAt a ctx) env).1.fault = 0 →
      ∃ t, exec (.pair a env) s = .next t ∧ LeavesRun s s t a ctx 0x10 (s.runPair (s.macroAt a ctx) env).1) ∧
    (MacroReady s a ctx 0x11 → (s.runPairBwd (s.macroAt a ctx) (gangEnv [env])).fault = 0 →
      ∃ t, exec (.pairBwd a env) s = .next t ∧ LeavesRun s s t a ctx 0x11 (s.runPairBwd (s.macroAt a ctx) (gangEnv [env]))) ∧
    (MacroReady s a ctx 0x12 → (s.runMatmul (s.macroAt a ctx) (gangEnv [env])).fault = 0 →
      ∃ t, exec (.expand a env) s = .next t ∧ LeavesRun s s t a ctx 0x12 (s.runMatmul (s.macroAt a ctx) (gangEnv [env]))) ∧
    (MacroReady s a ctx 0x13 → (s.runDecode (s.macroAt a ctx) env).1.fault = 0 →
      ∃ t, exec (.decode a env) s = .next t ∧ LeavesRun s s t a ctx 0x13 (s.runDecode (s.macroAt a ctx) env).1) ∧
    (MacroReady s a ctx 0x14 → (s.runRecur (s.macroAt a ctx) (gangEnv [env])).1.fault = 0 →
      ∃ t, exec (.recur a env) s = .next t ∧ LeavesRun s s t a ctx 0x14 (s.runRecur (s.macroAt a ctx) (gangEnv [env])).1)

/-- Narrowing to INT4 and INT8 saturates to -7 to +7 and to -127 to +127 and never writes an escape code, whether an exact value or an integer
is narrowed: a code that is written reads as the same value with a side list and without one. -/
def Obligations.NarrowingSaturates : Prop :=
  ∀ (f m : Nat), (f = 0x4 ∧ m = 7) ∨ (f = 0x7 ∧ m = 127) → ∀ (x : Rat) (q : Int) (r : Narrowed),
    (r = narrow f x ∧ q = rhe x) ∨ r = narrowInt f q →
    r.v = (clampInt (-(m : Int)) m q : Int) ∧ -(m : Rat) ≤ r.v ∧ r.v ≤ m ∧ r.code ≠ escCode f ∧ r.code < 2 ^ fmtBits f ∧
      (r.sat = true ↔ q < -(m : Int) ∨ (m : Int) < q) ∧
      ∀ t : TD, t.fmt = f → cellOf t r.code = { c := { v := r.v } }

/-- TALLY: SUBOP 0 leaves a macro-operation that will signal its operand's tally by INC, a written 0 counting as 1; SUBOP 1 goes on once
the tally has released it, and otherwise joins the tally's waiters, with WAITING set. -/
def Obligations.TallyMacroOps : Prop :=
  ∀ (s : State) (a ctx : Nat), MacroReady s a ctx 0x20 →
    ((s.descAt a ctx).sub ≠ 1 → exec (.tallySignalOp a) s = .next (s.putMop a ctx { s.mopOf a ctx (s.descAt a ctx) with
      ac := 16, opSig := some (s.physTally a ctx ((s.descAt a ctx).os 0 0 13), max 1 ((s.descAt a ctx).os 0 16 16)) })) ∧
    ((s.descAt a ctx).sub = 1 → (s.arr a).released.contains ctx = true →
      exec (.tallyWaitOp a) s = .next (s.putMop a ctx { s.mopOf a ctx (s.descAt a ctx) with ac := 16 })) ∧
    ∀ i, i = s.physTally a ctx ((s.descAt a ctx).os 0 0 13) → (s.descAt a ctx).sub = 1 → (s.arr a).released.contains ctx = false →
      (s.waiters.any fun w => w.arr == a && !w.dma && w.ctx == ctx) = false → (s.tally i).count < (s.tally i).thresh →
      ∃ t, exec (.tallyWaitOp a) s = .next t ∧ t.waiters = s.waiters ++ [Waiter.mk a false ctx i s.now] ∧
        t.rd (.ma a) ctx Reg.Ma.WAITING = 1 ∧ t.rd (.ma a) ctx Reg.Ma.WAIT_PHYS = i % 2 ^ 13 ∧ t.mem = s.mem ∧ (t.arr a).mop = (s.arr a).mop

/-- LIFT: every score that passes its enabled threshold raises the record that THR_RECORD names, with its score, its index from the
base, the array as origin and the timestamp; with FIRST = 1 only the lowest passing one does. -/
def Obligations.LiftRaisesItsRecords : Prop :=
  ∀ (s : State) (a ctx : Nat) (d : Desc) (td : TD) (hits : List (Nat × Int)), MacroReady s a ctx 0x21 → d = s.descAt a ctx →
    td = (s.macroAt a ctx).tdD d.tdA →
    (s.port (s.macroAt a ctx) td [s.cellsAt (s.macroAt a ctx) td td.obj 0 0 0]).faults = [] →
    (∀ u ∈ s.struck (s.spans td), u.2 = false) →
    hits = s.passing (d.os 0 0 7) ((nth [] (s.port (s.macroAt a ctx) td [s.cellsAt (s.macroAt a ctx) td td.obj 0 0 0]).els 0).map
      fun e => rhe e.v - (if td.fmt = 0xE then 0 else d.za)) →
    ∃ t chosen, exec (.lift a) s = .next t ∧ chosen = (if d.os 0 7 1 = 1 then hits.take 1 else hits) ∧
      (∃ x, (t.arr a).mop = some x ∧ x.fault = 0 ∧ x.tag = d.tag ∧ x.ac = 16 + td.d0) ∧
      t.power.raises.length = s.power.raises.length + chosen.length ∧
      (∀ h ∈ chosen, ∃ r ∈ t.power.raises, r.record = s.rd .liftPage 0 (Reg.Lift.THR_RECORD h.1) ∧ r.score = h.2 ∧
        r.index = h.1 - d.os 0 0 7 ∧ r.origin = a ∧ r.ts = s.now) ∧
      t.power.doms = s.power.doms ∧ t.mem = s.mem

/-- SEAL: with a ledger entry free it appends one record of the image, the digests of its operands, a digest over them, the sequence
number and the timestamp, and IRQ_RAW bit 0 of the SEAL page sets. -/
def Obligations.SealAppendsOneRecord : Prop :=
  ∀ (s : State) (a ctx : Nat) (d : Desc) (m : MEnv) (body : List Byte), MacroReady s a ctx 0x22 → d = s.descAt a ctx →
    m = s.macroAt a ctx → s.domOn 26 = true → s.seals.waiters = [] → s.seals.ledger.length < 4096 → s.badFaults m = [] →
    s.upsets = [] →
    body = sealBody m.img (d.tdAux != 0) (sha256 (if d.tdA = 0 then [] else s.sealBytes (m.tdD d.tdA)))
      (if d.tdAux = 0 then List.replicate 32 0 else sha256 (s.sealBytes (m.tdD d.tdAux))) →
    ∃ t, exec (.sealOp a) s = .next t ∧
      t.seals.ledger = s.seals.ledger ++ [body ++ sha256 body ++ leBytes 4 s.seals.seq ++
        leBytes 4 (ctx % 8 + logicalOf m.img a % 16 * 8 + d.tag % 65536 * 65536) ++ leBytes 8 s.now] ∧
      t.seals.seq = (s.seals.seq + 1) % 2 ^ 32 ∧ IrqSet t .sealPage 0 0 ∧
      (∃ x, (t.arr a).mop = some x ∧ x.fault = 0 ∧ x.opcode = 0x22 ∧ x.tag = d.tag) ∧ t.mem = s.mem

/-- DOZE: with MODE 0 and REQ 0 nothing follows; with a MODE that is not refused, REQ takes it and step 1 of the domain's entry runs. (AC:
log 77.) -/
def Obligations.DozeBeginsEntry : Prop :=
  ∀ (s : State) (a ctx mode : Nat), MacroReady s a ctx 0x23 → mode = (s.descAt a ctx).os 0 0 2 →
    (mode = 0 → (s.dom (arrDomain a)).req = 0 →
      exec (.doze a) s = .next (s.putMop a ctx { s.mopOf a ctx (s.descAt a ctx) with ac := 16 })) ∧
    (mode ≠ 0 → s.refusal (arrDomain a) mode (some ctx) = 0 →
      ∃ t, exec (.doze a) s = .next t ∧ (t.dom (arrDomain a)).st = .entering 1 mode ∧ (t.dom (arrDomain a)).req = mode ∧
        (∃ x, (t.arr a).mop = some x ∧ x.opcode = 0x23 ∧ x.dozeStop = true ∧ 16 ≤ x.ac) ∧
        (∀ d, d ≠ arrDomain a → t.dom d = s.dom d) ∧ t.mem = s.mem ∧ t.regs = s.regs)

/-- MACRO_OP_COMPLETE: the completion record is stored at the index CMPL_WR of the ring, and only there; CMPL_WR moves on modulo CMPL_LEN;
nothing is in flight any more. A fault puts the page into FAULT with IRQ_RAW bit 11 and leaves PC; otherwise PC moves to the next
descriptor. -/
def Obligations.CompletionWritesItsRecord : Prop :=
  ∀ (s : State) (a : Nat) (x : Mop) (marks : Bool × Bool), a ≤ 8 → (s.arr a).mop = some x → s.mayComplete a x = true →
    marks = (if x.fault = 0 then scaleMiss (s.rd (.ma a) x.ctx Reg.Ma.MISS_FRAC) x.satCnt x.flushCnt x.nOut else (false, false)) →
    ∃ t, exec (.macroOpComplete a) s = .next t ∧
      t.mem = (s.store (t0Base a + 32 * s.rd (.ma a) x.ctx Reg.Ma.CMPL_BASE + 32 * s.rd (.ma a) x.ctx Reg.Ma.CMPL_WR)
        (cmplRecord x marks.1 marks.2)).mem ∧
      t.rd (.ma a) x.ctx Reg.Ma.CMPL_WR =
        (s.rd (.ma a) x.ctx Reg.Ma.CMPL_WR + 1) % s.rd (.ma a) x.ctx Reg.Ma.CMPL_LEN % 2 ^ 12 ∧
      (t.arr a).mop = none ∧ (t.arr a).last = some x.ctx ∧
      (x.fault ≠ 0 → t.st (.ma a) x.ctx = 3 ∧ IrqSet t (.ma a) 0 11 ∧
        t.rd (.ma a) x.ctx Reg.Ma.PC = s.rd (.ma a) x.ctx Reg.Ma.PC) ∧
      (x.fault = 0 → s.rd (.ma a) x.ctx Reg.Ma.PC + 1 < s.rd (.ma a) x.ctx Reg.Ma.SCHED_LEN →
        t.rd (.ma a) x.ctx Reg.Ma.PC = (s.rd (.ma a) x.ctx Reg.Ma.PC + 1) % 2 ^ 16)

/-- GANG_BARRIER_START: once every member has reached the gang macro-operation at the same position of its schedule, with GANG set in one of
the descriptors there, equal descriptors, a matching GANG and equal clocks let every member run; different descriptors leave every member
with the fault GANG. -/
def Obligations.GangBarrier : Prop :=
  ∀ (s : State) (leader ctx : Nat) (chain : List Nat), s.atStart leader = some ctx → chain = s.gangOf leader ctx →
    1 < chain.length → chain.head? = some leader → (∀ b ∈ chain, s.reached leader b ctx = true) → (∃ b ∈ chain, (s.descAt b ctx).gang ≠ 0) →
    ((∀ b ∈ chain, (s.descAt b ctx).raw = (s.descAt leader ctx).raw ∧
        s.rd (.ma b) 0 Reg.Ma.OPP_ACT = s.rd (.ma leader) 0 Reg.Ma.OPP_ACT) → chain.length = (s.descAt leader ctx).gangSize →
      ∃ t, exec (.gangBarrierStart leader) s = .next t ∧ (∀ b ∈ chain, (t.arr b).gangGo.contains ctx = true) ∧
        (∀ b, (t.arr b).mop = (s.arr b).mop) ∧ t.regs = s.regs ∧ t.mem = s.mem) ∧
    ((∃ b ∈ chain, (s.descAt b ctx).raw ≠ (s.descAt leader ctx).raw) →
      ∃ t, exec (.gangBarrierStart leader) s = .next t ∧
        (∀ b ∈ chain, ∃ x, (t.arr b).mop = some x ∧ x.fault = 9 ∧ x.ctx = ctx) ∧ t.regs = s.regs ∧ t.mem = s.mem)

/-- WEIGHT_REFETCH of a macro-operation that met damaged page i, with the LPDDR domain ON: where the enabled weirs of the source page's
partition have tokens for its lines, a repair rewrites i's frame in an array or the cistern, and the source page's cistern copy where it has
one, from the sealed well copy, notes the source page as refetched, counts in REFETCHES, sets IRQ_RAW bit 1 and lets the macro-operation
complete; where the well line cannot be read the source page becomes BAD instead, the loss counts in LPDDR's ERR_CNT1, and no byte of memory
changes. A weir without tokens holds the lines, and the macro-operation still waits. -/
def Obligations.RefetchRepairsOrMarksBad : Prop :=
  ∀ (s : State) (a i j : Nat) (x : Mop), a ≤ 8 → (s.arr a).mop = some x → x.crcPage = some i → s.wellSource i = some j →
    s.domOn 21 = true →
    ((∀ k, k < 2 → SMap.get false s.parts.weirEn (ottPart (s.ott j) * 3 + k) = true → (1024 : Int) ≤ s.tokens (ottPart (s.ott j)) k) →
      s.wellErrs = [] →
      (∀ home u, home = frameAddr (frameWell (ottHome (s.ott j))) →
        u = (if ottPlace (s.ott i) < 2 then s.copyPage home (ottAddr (s.ott i)) else s) →
        ∃ t, exec (.weightRefetch a true) s = .next t ∧ (t.arr a).mop = some { x with crcPage := none, refetchLine := 0 } ∧
          t.tier.refetched = insAsc j s.tier.refetched ∧ t.tier.ott = s.tier.ott ∧
          t.rd .ott 0 Reg.Ott.REFETCHES = (count31 (s.rd .ott 0 Reg.Ott.REFETCHES) 1).1 ∧ IrqSet t .ott 0 1 ∧
          t.mem = (if ottPlace (s.ott j) = 2 ∧ ottRes (s.ott j) = true then (u.copyPage home (ottAddr (s.ott j))).mem else u.mem)) ∧
      ∃ t, exec (.weightRefetch a false) s = .next t ∧ (t.arr a).mop = some { x with crcPage := none, refetchLine := 0 } ∧
        ottBad (t.ott j) = true ∧ (∀ k, k ≠ j → t.ott k = s.ott k) ∧ t.mem = s.mem ∧ t.tier.refetched = s.tier.refetched ∧
        t.rd .lpddr 0 (Reg.Hdr.ERR_CNT 1) = (count31 (s.rd .lpddr 0 (Reg.Hdr.ERR_CNT 1)) 1).1) ∧
    (s.weirHolds (ottPart (s.ott j)) 0 = true → x.refetchLine < 1024 → ∀ ok,
      ∃ t, exec (.weightRefetch a ok) s = .next t ∧ (t.arr a).mop = some x ∧ t.tier = s.tier ∧ t.mem = s.mem ∧ t.regs = s.regs)

/-- The register commands of an array's page: CMPL_RD takes the written index; RES_CLR, SEQ_CLR and CNT_CLR clear their counters and leave
their SAT bits; a requested operating point is staged, and the reserved ones 29 to 31 only count in ERR_CNT3. The named bit or code is what
the row says (log 60). -/
def Obligations.ArrayRegisterCommands : Prop :=
  ∀ (s : State) (v : View) (a bank : Nat) (w : Word), a ≤ 8 →
    (Reaches s v (.ma a) 0x1CC bank →
      exec (.cmplRd v a w) s = .next (s.wr (.ma a) bank Reg.Ma.CMPL_RD (field w.toNat 0 12))) ∧
    (Reaches s v (.ma a) 0x1B8 bank →
      exec (.resClr v a w) s = .next ((s.wr (.ma a) bank Reg.Ma.RES_MISMATCH 0).wr (.ma a) bank Reg.Ma.REPLAY_AC 0)) ∧
    (Reaches s v (.ma a) 0x1DC bank →
      exec (.seqClr v a w) s = .next ((s.wr (.ma a) bank Reg.Ma.EMPTY_ROWS 0).wr (.ma a) bank Reg.Ma.STATE_SAT 0)) ∧
    (Reaches s v (.ma a) 0x190 bank →
      exec (.cntClr v ((Page.ma a).base + 0x190) w) s = .next ((((s.wr (.ma a) bank Reg.Ma.NAN_IN 0).wr (.ma a) bank Reg.Ma.INF_IN 0).wr
        (.ma a) bank Reg.Ma.ESC_ORPHAN 0).wr (.ma a) bank Reg.Ma.SCALE_BAD 0)) ∧
    (Reaches s v (.ma a) 0x100 bank → a < 8 → View.isVf v = false → field w.toNat 0 5 ≤ 28 →
      ∃ t, exec (.oppReq v a w) s = .next t ∧ t.rd (.ma a) 0 Reg.Ma.OPP_REQ = field w.toNat 0 5 ∧ t.mem = s.mem) ∧
    (Reaches s v (.ma a) 0x100 bank → a < 8 → 28 < field w.toNat 0 5 →
      exec (.oppReq v a w) s = .next (s.errCount (.ma a) 0 3 1))

/-- ARBITER_CHOICE: on a SHARED array at a boundary, with the gates of the running members open, the ready member that the rule of shares
picks gets the turn; where it is not the one that ran last, SWITCHES counts and the switch scrub leaves no accumulator, statistic, residue
or recurrent state behind. -/
def Obligations.ArbiterChooses : Prop :=
  ∀ (s : State) (a p : Nat) (members running : List Nat), a ≤ 8 → s.assignOf a = .shared members → (s.arr a).mop = none →
    (s.arr a).turn = none → s.domOn (arrDomain a) = true → running = members.filter (fun c => s.st (.ma a) c == 1) →
    (∀ c ∈ running, s.memberGate a c = (s, true)) →
    (s.arr a).choose (running.filter fun c => !s.ringFull a c) = some p →
    ((s.arr a).last = none ∨ (s.arr a).last = some p →
      exec (.arbiterChoice a) s = .next (s.modArr a fun x => { x with turn := some p })) ∧
    ∀ q, (s.arr a).last = some q → p ≠ q →
      ∃ t, exec (.arbiterChoice a) s = .next t ∧ (t.arr a).turn = some p ∧ (t.arr a).acc = [] ∧ (t.arr a).stats = [] ∧
        (t.arr a).residues = [] ∧ (∀ c, c < 9 → t.rdB (.ma a) c Reg.Ma.RECUR_VALID = false) ∧
        t.rd .part a Reg.Part.SWITCHES = (count31 (s.rd .part a Reg.Part.SWITCHES) 1).1 ∧ t.mem = s.mem

/-- EPOCH_BOUNDARY clears E_p of every member of every SHARED array and makes the staged weights active; WEIR_WINDOW_START sets the tokens
of every weir to its budget and makes the staged enables active, where no outbound TLP waits for the window. Neither touches memory. That
these commands move the timestamp to the boundary is a DESIGN CHOICE (log 7). -/
def Obligations.EpochsAndWindows : Prop :=
  (∀ s : State, ∃ t, exec .epochBoundary s = .next t ∧
    (∀ a members p, a < 8 → s.assignOf a = .shared members → p ∈ members →
      SMap.get 0 (t.arr a).eP p = 0 ∧ SMap.get 0 (t.arr a).wAct p = s.shareW p a) ∧
    (∀ a, (∀ members, s.assignOf a ≠ .shared members) → t.arr a = s.arr a) ∧
    t.regs = s.regs ∧ t.mem = s.mem ∧ t.now % 1000000 = 0 ∧ s.now < t.now) ∧
  ∀ s : State, s.ports.heldTlps = [] → ∃ t, exec .weirWindowStart s = .next t ∧
    (∀ p k, p < 8 → k < 3 → t.tokens p k = (s.rd .part p (weirRegs k).2.2.1 : Nat) ∧
      SMap.get false t.parts.weirEn (p * 3 + k) = s.rdB .part p (weirRegs k).2.2.2) ∧
    t.parts.held = [] ∧ t.parts.assign = s.parts.assign ∧ t.mem = s.mem ∧ t.now % 1000 = 0 ∧ s.now < t.now

/-! ### Tallies -/

/-- TALLY_SIGNAL adds the signals of one moment as one sum; a sum above 0xFFFF leaves COUNT at 0xFFFF before any release, sets the sticky
OVF, counts in ERR_CNT0 of the TALLY page and sets its IRQ_RAW bit 0. Then CONSUME mode takes THRESH from COUNT for every waiter that it
releases and LEVEL mode leaves COUNT. No other tally moves. -/
def Obligations.TallySignalCounts : Prop :=
  ∀ (s : State) (i : Nat) (incs : List Nat) (t0 : Tally) (tot n : Nat), i < 8192 → t0 = s.tally i →
    tot = min 0xFFFF (t0.count + sumNat incs) → n = (s.waiters.filter fun w => w.tally == i).length →
    ∃ t, exec (.tallySignal i incs) s = .next t ∧
      (t.tally i).count = (if t0.level then tot else tot - dueWaiters { t0 with count := tot } n * t0.thresh) ∧
      (t.tally i).ovf = (t0.ovf || decide (0xFFFF < t0.count + sumNat incs)) ∧ (t.tally i).thresh = t0.thresh ∧
      (t.tally i).level = t0.level ∧ (t.tally i).owner = t0.owner ∧ (t.tally i).alloc = t0.alloc ∧
      (∀ j, j ≠ i → t.tally j = s.tally j) ∧ (n = 0 → t.waiters = s.waiters) ∧ t.mem = s.mem ∧
      (0xFFFF < t0.count + sumNat incs → IrqSet t .tallyPf 0 0 ∧
        t.rd .tallyPf 0 (Reg.Hdr.ERR_CNT 0) = (count31 (s.rd .tallyPf 0 (Reg.Hdr.ERR_CNT 0)) 1).1)

/-- The TALLY page: SIG_INC signals SIG_IDX, a written 0 counting as 1; INIT sets COUNT, THRESH and MODE of an allocated tally without a
waiter, and with a waiter, with THRESH 0 or on a tally that is not allocated changes no tally and counts in ERR_CNT1; A_GO allocates a free
run at its reset contents, and releases a run on which nothing waits; an empty run, one beyond 8,192, one with an allocated tally or, for a
release, one with a waiter fails, changes no tally and counts in ERR_CNT1; the view of a virtual function allocates and releases nothing.
The named bit is what the row says (log 60). -/
def Obligations.TallyPageCommands : Prop :=
  ∀ (s : State) (v : View) (w : Word) (p : Page) (pv : Option Nat), p = (tallyView v).1 → pv = (tallyView v).2 →
    (Reaches s v p 0x10C 0 → s.reaches pv (field w.toNat 0 13) = true →
      exec (.sigInc v w) s = .next (((s.wr p 0 Reg.Tally.SIG_IDX (field w.toNat 0 13)).wr p 0 Reg.Tally.SIG_INC
        (field w.toNat 16 16)).signalTally (field w.toNat 0 13) (max 1 (field w.toNat 16 16)))) ∧
    (Reaches s v p 0x110 0 → ∀ i, i = s.rd p 0 Reg.Tally.TSEL → s.reaches pv i = true → s.hasWaiter i = false →
      field w.toNat 16 16 ≠ 0 → (s.tally i).alloc = true →
      ∃ t, exec (.initThresh v w) s = .next t ∧
        t.tally i = { s.tally i with count := field w.toNat 0 16, thresh := field w.toNat 16 16, level := s.rdB p 0 Reg.Tally.INIT_MODE } ∧
        (∀ j, j ≠ i → t.tally j = s.tally j) ∧ t.waiters = s.waiters ∧ t.mem = s.mem) ∧
    (Reaches s v p 0x110 0 → ∀ i, i = s.rd p 0 Reg.Tally.TSEL → s.reaches pv i = true →
      s.hasWaiter i = true ∨ field w.toNat 16 16 = 0 ∨ (s.tally i).alloc = false →
      ∃ t, exec (.initThresh v w) s = .next t ∧ t.tallies = s.tallies ∧ t.waiters = s.waiters ∧ t.mem = s.mem ∧
        t.rd p 0 (Reg.Hdr.ERR_CNT 1) = (count31 (s.rd p 0 (Reg.Hdr.ERR_CNT 1)) 1).1) ∧
    (Reaches s v p 0x120 0 → pv = none → ∀ base len, base = field w.toNat 0 13 → len = field w.toNat 16 14 → 0 < len →
      base + len ≤ 8192 →
      ((∀ i, base ≤ i → i < base + len → (s.tally i).alloc = false) →
        ∃ t, exec (.tallyAllocate v w) s = .next t ∧ (∀ j, t.tally j = if base ≤ j ∧ j < base + len then
          { owner := field w.toNat 13 3, alloc := true } else s.tally j) ∧ t.mem = s.mem) ∧
      ((∀ i, base ≤ i → i < base + len → s.hasWaiter i = false) →
        ∃ t, exec (.tallyFree v w) s = .next t ∧ (∀ j, t.tally j = if base ≤ j ∧ j < base + len then {} else s.tally j) ∧
          t.mem = s.mem)) ∧
    (Reaches s v p 0x120 0 → ∀ base len, base = field w.toNat 0 13 → len = field w.toNat 16 14 →
      (pv = none → len = 0 ∨ 8192 < base + len ∨ (∃ i, base ≤ i ∧ i < base + len ∧ (s.tally i).alloc = true) →
        ∃ t, exec (.tallyAllocate v w) s = .next t ∧ t.tallies = s.tallies ∧ t.waiters = s.waiters ∧ t.mem = s.mem ∧
          t.rd p 0 (Reg.Hdr.ERR_CNT 1) = (count31 (s.rd p 0 (Reg.Hdr.ERR_CNT 1)) 1).1) ∧
      (pv = none → len = 0 ∨ 8192 < base + len ∨ (∃ i, base ≤ i ∧ i < base + len ∧ s.hasWaiter i = true) →
        ∃ t, exec (.tallyFree v w) s = .next t ∧ t.tallies = s.tallies ∧ t.waiters = s.waiters ∧ t.mem = s.mem ∧
          t.rd p 0 (Reg.Hdr.ERR_CNT 1) = (count31 (s.rd p 0 (Reg.Hdr.ERR_CNT 1)) 1).1) ∧
      (pv ≠ none → ∀ c, c = .tallyAllocate v w ∨ c = .tallyFree v w →
        ∃ t, exec c s = .next t ∧ t.tallies = s.tallies ∧ t.waiters = s.waiters ∧ t.mem = s.mem))

/-! ### Images -/

/-- LOAD for an enabled partition answers 0 for an image that the partition holds already, and the code of the first failing check otherwise,
and changes nothing in either case: the checks of the image, of its keys, that a variant fits (0x44, with the record of what is short), and
that the well has writes left (0x59). Where all pass, a commit that is refused answers its code, and changes nothing but ALLOC_REFUSED where
its cistern pages were refused; a commit that succeeds adds one image of the partition with that variant and answers 0 with it. A partition
that is not enabled gets no answer. IMAGE_UNLOAD takes a quiet image away with its OTT entries and its tallies, and no other image. Which
code of two failing checks is reported, and where things are placed, follows logs 24, 66 and 14. -/
def Obligations.LoadAndUnload : Prop :=
  (∀ (s : State) (part : Nat) (image : List Byte), s.partOn part = false → exec (.load part image) s = .next s) ∧
  (∀ (s : State) (part : Nat) (image : List Byte) (found : Option Image), s.partOn part = true →
    found = s.images.find? (fun i => i.part == part && i.hdrDigest == sha256 (image.take (64 + 64 * imgSections image))) →
    (∀ i, found = some i → exec (.load part image) s = .next (s.emit (.loadResult part 0 i.variant []))) ∧
    (found = none → ∀ c, loadCheck image = some c → exec (.load part image) s = .next (s.emit (.loadResult part c 0 []))) ∧
    (found = none → loadCheck image = none →
      (∀ c, s.keysCheck image = .inl c → exec (.load part image) s = .next (s.emit (.loadResult part c 0 []))) ∧
      ∀ key owner, s.keysCheck image = .inr (key, owner) →
        (s.chooseVariant part image = none →
          exec (.load part image) s = .next (s.emit (.loadResult part 0x44 0 (s.shortRecord part image)))) ∧
        ∀ q bind, s.chooseVariant part image = some (q, bind) →
          (q.well ≠ 0 → 2 ^ 47 ≤ s.sec.wellCtr → exec (.load part image) s = .next (s.emit (.loadResult part 0x59 0 []))) ∧
          ∀ c, (q.well = 0 ∨ s.sec.wellCtr < 2 ^ 47) → AllOn s (loadDomains q bind) → s.commit part image q bind key owner = .inl c →
            exec (.load part image) s = .next ((if c = 0x44 ∧ s.pinsRefused part image q.variant key = true then s.allocRefused part
              else s).emit (.loadResult part c 0 (if c = 0x44 then s.shortRecord part image else [])))) ∧
    (found = none → loadCheck image = none → ∀ key owner q bind u, s.keysCheck image = .inr (key, owner) →
      s.chooseVariant part image = some (q, bind) → (q.well = 0 ∨ s.sec.wellCtr < 2 ^ 47) → AllOn s (loadDomains q bind) →
      s.commit part image q bind key owner = .inr u →
      exec (.load part image) s = .next (u.emit (.loadResult part 0 q.variant [])) ∧
        ∃ i, u.images = s.images ++ [i] ∧ i.part = part ∧ i.imageId = imgId image ∧ i.variant = q.variant ∧ i.bind = bind)) ∧
  ∀ (s : State) (part id : Nat) (i : Image), s.images.find? (fun i => i.part == part && i.imageId == id) = some i →
    s.imageQuiet i = true →
    ∃ t, exec (.imageUnload part id) s = .next t ∧ t.images = (s.images.filter fun x => !(x == i)) ∧
      (∀ k, i.ottBase ≤ k → k < i.ottBase + i.ottLen → t.ott k = 0) ∧
      (∀ k, i.tallyBase ≤ k → k < i.tallyBase + i.tallyLen → t.tally k = {}) ∧ t.mem = s.mem

/-! ### The tiers -/

/-- The OTT page's commands through a view of the physical function: ALLOC takes a free run of entries and refuses one in use; RELEASE frees
a run whose arrays are STOPPED, leaving its entries invalid, and waits otherwise; SET rewrites an entry; MOVE of a cistern page to a free
frame begins its copy, with MIG set. The named code is what the row says (log 60). -/
def Obligations.OttCommands : Prop :=
  ∀ (s : State) (v : View) (w : Word) (i len : Nat), Reaches s v .ott 0x12C 0 → View.isVf v = false →
    s.rdB .ott 0 Reg.Ott.C_GO = false → i = s.rd .ott 0 Reg.Ott.C_IDX → len = s.rd .ott 0 Reg.Ott.C_LEN →
    (0 < len → i + len ≤ 2 ^ 20 → s.ottInUse i len = false →
      ∃ t, exec (.ottAlloc v w) s = .next t ∧ t.tier.runs = insRun (i, len, field w.toNat 2 3) s.tier.runs ∧ t.tier.ott = s.tier.ott ∧
        t.rd .ott 0 Reg.Ott.C_STATUS = 0 ∧ t.rd .ott 0 Reg.Ott.C_GO = 0 ∧ t.mem = s.mem) ∧
    (0 < len → i + len ≤ 2 ^ 20 → s.ottInUse i len = true →
      ∃ t, exec (.ottAlloc v w) s = .next t ∧ t.tier = s.tier ∧ t.rd .ott 0 Reg.Ott.C_STATUS = 1 ∧ t.rd .ott 0 Reg.Ott.C_GO = 0 ∧
        t.mem = s.mem) ∧
    (0 < len → i + len ≤ 2 ^ 20 → s.ottQuiet i len = true →
      ∃ t, exec (.ottRelease v w) s = .next t ∧ (∀ k, t.ott k = if i ≤ k ∧ k < i + len then 0 else s.ott k) ∧
        (∀ r ∈ t.tier.runs, r.1 + r.2.1 ≤ i ∨ i + len ≤ r.1) ∧ t.rd .ott 0 Reg.Ott.C_STATUS = 0 ∧ t.mem = s.mem) ∧
    (0 < len → i + len ≤ 2 ^ 20 → s.ottQuiet i len = false →
      ∃ t, exec (.ottRelease v w) s = .next t ∧ t.tier = { s.tier with release := some (i, len) } ∧
        t.rd .ott 0 Reg.Ott.C_STATUS = 4 ∧ t.rd .ott 0 Reg.Ott.C_GO = 1 ∧ t.mem = s.mem) ∧
    (∀ e, e = s.rd2 .ott 0 Reg.Ott.C_DATA_LO Reg.Ott.C_DATA_HI →
      ((List.range 9).any fun a => (s.arr a).pageMap.any fun q => q.2.ott == some i) = false →
      ¬ (ottValid (s.ott i) = true ∧ ottValid e = true ∧ (ottPlace e = 2 ∨ ottHomeV e = true)) →
      ∃ t, exec (.ottSet v w) s = .next t ∧ t.ott i = e % 2 ^ 64 ∧ (∀ k, k ≠ i → t.ott k = s.ott k) ∧
        t.rd .ott 0 Reg.Ott.C_STATUS = 0 ∧ t.rd .ott 0 Reg.Ott.C_GO = 0) ∧
    (∀ f, f = s.rd .ott 0 Reg.Ott.C_DATA_LO % 1024 → ottValid (s.ott i) = true → ottPlace (s.ott i) ≠ 0 → ottMig (s.ott i) = false →
      ottBad (s.ott i) = false → ottWr (s.ott i) = false → (ottPlace (s.ott i) = 1 ∨ ottRes (s.ott i) = true) →
      f ∈ s.cisFrames → s.frameNamed (frameT1 f) = false → f ∉ s.ispFrames →
      ∃ t, exec (.ottMove v w) s = .next t ∧ t.tier.moves = s.tier.moves ++ [PageMove.mk i f false 0] ∧ ottMig (t.ott i) = true ∧
        (∀ k, k ≠ i → t.ott k = s.ott k))

/-- A RELEASE that waits completes once its arrays are STOPPED; a released frame reads as zeros after its zeroing, and nothing else changes,
while one that an entry names again is left alone; a page copy that completes leaves the page in its new frame, no longer migrating, with RES set where it was a fill; and what a page copy
does to memory: the new frame reads what the old one held, and every other byte as before. The order of events is that of logs 67 and 68. -/
def Obligations.TierEvents : Prop :=
  (∀ (s : State) (i len : Nat), s.tier.release = some (i, len) → s.ottQuiet i len = true →
    ∃ t, exec .ottReleaseResume s = .next t ∧ t.tier.release = none ∧ (∀ k, t.ott k = if i ≤ k ∧ k < i + len then 0 else s.ott k) ∧
      t.rd .ott 0 Reg.Ott.C_STATUS = 0 ∧ t.rd .ott 0 Reg.Ott.C_GO = 0 ∧ t.mem = s.mem) ∧
  (∀ (s : State) (k : Nat), s.tier.dirty.contains k = true →
    (s.frameNamed k = false → ∃ t, exec (.frameZeroing k) s = .next t ∧
      (∀ x, t.byte x = if frameAddr k ≤ x ∧ x < frameAddr k + pageBytes then 0 else s.byte x) ∧
      t.tier.dirty.contains k = false ∧ t.tier.ott = s.tier.ott ∧ t.regs = s.regs) ∧
    (s.frameNamed k = true → exec (.frameZeroing k) s = .next s)) ∧
  (∀ (s : State) (i : Nat) (m : PageMove) (src : Nat), s.tier.moves.find? (fun m => m.page == i) = some m →
    ((List.range 8).any fun a => (s.dma a).runs.any fun r => r.page == some i) = false →
    src = (if m.fill then frameAddr (frameWell (ottHome (s.ott i))) else ottAddr (s.ott i)) →
    AllOn s [memDomain src, memDomain (frameAddr (frameT1 m.frame))] → (∀ k, SMap.get false s.parts.weirEn k = false) →
    s.upsets = [] → s.wellErrs = [] →
    ∃ t, exec (.pageMoveComplete i) s = .next t ∧ t.mem = (s.copyPage src (frameAddr (frameT1 m.frame))).mem ∧
      ottFrame (t.ott i) = m.frame % 2 ^ 13 ∧ ottMig (t.ott i) = false ∧ (m.fill = true → ottRes (t.ott i) = true) ∧
      (∀ k, k ≠ i → t.ott k = s.ott k) ∧ (∀ q ∈ t.tier.moves, q.page ≠ i)) ∧
  ∀ (s : State) (src dst x : Nat), MemInv s → src + pageBytes ≤ dst ∨ dst + pageBytes ≤ src →
    (s.copyPage src dst).byte x = if dst ≤ x ∧ x < dst + pageBytes then s.byte (x - dst + src) else s.byte x

/-! ### DMA -/

/-- DMA_COPY of a one-line descriptor between two pages: the 64 bytes at the destination read what the source held, no other byte of memory
changes, and the descriptor is done; a line whose source an entry refuses puts the list into FAULT with the code of Table 7.7, and nothing
is written. The engine has room for a line of this context. (Lines per command: logs 67 and 97.) -/
def Obligations.DmaCopyMovesItsLine : Prop :=
  ∀ (s : State) (a ctx : Nat) (d : DmaDesc), a < 8 → (s.ctxs a).contains ctx = true → s.st (.dma a) ctx = 1 → s.domOn (2 + a) = true →
    ((s.dma a).runs.find? fun r => r.ctx == ctx) = none → s.dmaDesc a ctx = some d → d.bad = false → d.mode = 0 → d.waitEn = false →
    d.rows = 1 → d.rowBytes = 64 → 0 < s.dmaBudget a ctx →
    (s.dmaEnd ctx d.src d.src false = none → s.dmaEnd ctx d.dst d.dst true = none → s.upsets = [] → s.wellErrs = [] →
      s.ownT0 a d.src = true ∨ s.ownT0 a d.dst = true → AllOn s [memDomain (s.transAddr d.src), memDomain (s.transAddr d.dst)] →
      (∀ p, s.ctxPart a ctx = some p → ∀ k, s.weirHolds p k = false) →
      d.src % pageBytes + 64 ≤ pageBytes → d.dst % pageBytes + 64 ≤ pageBytes →
      ∃ t, exec (.dmaCopy a ctx []) s = .next t ∧
        (∀ x, t.byte x = if s.transAddr d.dst ≤ x ∧ x < s.transAddr d.dst + 64 then s.byte (x - s.transAddr d.dst + s.transAddr d.src)
          else s.byte x) ∧
        (∃ r ∈ (t.dma a).runs, r.ctx = ctx ∧ r.fill = false ∧ r.line = 1 ∧ r.done = true) ∧ t.tier.ott = s.tier.ott ∧
        t.rd (.dma a) ctx Reg.Dma.DPC = s.rd (.dma a) ctx Reg.Dma.DPC) ∧
    (∀ c, s.dmaEnd ctx d.src d.src false = some c →
      ∃ t, exec (.dmaCopy a ctx []) s = .next t ∧ t.st (.dma a) ctx = 3 ∧ t.rd (.dma a) ctx Reg.Dma.DMA_FAULT = c % 2 ^ 8 ∧
        t.rd (.dma a) ctx Reg.Dma.FAULT_IDX = s.rd (.dma a) ctx Reg.Dma.DPC % 2 ^ 16 ∧ IrqSet t (.dma a) 0 1 ∧
        (∀ r ∈ (t.dma a).runs, r.ctx ≠ ctx) ∧ t.mem = s.mem)

/-- DMA_FILL of one page: a page that holds its RES copy is stamped; another one of the partition with room in its quota and a free frame
begins to fill into that frame, here with room in flight for all its lines. DMA_COMPLETE of a done descriptor without a signal moves DPC on and frees the engine. The frame is the
lowest free one (DESIGN CHOICE, log 14). -/
def Obligations.DmaFillAndComplete : Prop :=
  (∀ (s : State) (a ctx i p : Nat) (d : DmaDesc), a < 8 → (s.ctxs a).contains ctx = true → s.st (.dma a) ctx = 1 →
    s.domOn (2 + a) = true → ((s.dma a).runs.find? fun r => r.ctx == ctx) = none → s.dmaDesc a ctx = some d → d.bad = false →
    d.mode = 1 → d.waitEn = false → transBase ≤ d.src → touched d.src d.rows d.srcPitch d.rowBytes = [i] →
    s.dmaEnd ctx d.src (max d.src (transBase + i * pageBytes)) false = none → ottValid (s.ott i) = true → ottPlace (s.ott i) = 2 →
    p = ottPart (s.ott i) →
    (ottRes (s.ott i) = true → 0 < s.dmaBudget a ctx →
      ∃ t, exec (.dmaFill a ctx []) s = .next t ∧ SMap.get 0 t.tier.stamp i = SMap.get 0 s.tier.stampCtr p + 1 ∧
        (∃ r ∈ (t.dma a).runs, r.ctx = ctx ∧ r.fill = true ∧ r.done = true) ∧ t.tier.ott = s.tier.ott ∧ t.mem = s.mem) ∧
    (∀ f, ottRes (s.ott i) = false → ottMig (s.ott i) = false → s.overQuota p = false →
      s.useT1 p + s.filling p + 1 ≤ s.quota p → 1024 ≤ s.dmaBudget a ctx → s.upsets = [] → s.wellErrs = [] → s.freeT1 = some f → s.tier.dirty.contains (frameT1 f) = false → s.domOn 21 = true →
      (∀ k, SMap.get false s.parts.weirEn k = false) →
      ∃ t, exec (.dmaFill a ctx []) s = .next t ∧ t.tier.moves = s.tier.moves ++ [PageMove.mk i f true 1024] ∧ ottMig (t.ott i) = true ∧
        (∃ r ∈ (t.dma a).runs, r.ctx = ctx ∧ r.fill = true ∧ r.done = true) ∧ t.mem = s.mem)) ∧
  ∀ (s : State) (a ctx : Nat) (r : DmaRun) (d : DmaDesc), ((s.dma a).runs.find? fun r => r.ctx == ctx) = some r →
    s.dmaDesc a ctx = some d → r.done = true → (r.fill = true → s.fillSettled d = true) → d.sigEn = false → s.st (.dma a) ctx = 1 →
    s.rd (.dma a) ctx Reg.Dma.DPC + 1 < s.rd (.dma a) ctx Reg.Dma.LIST_LEN →
    ∃ t, exec (.dmaComplete a ctx) s = .next t ∧ t.rd (.dma a) ctx Reg.Dma.DPC = (s.rd (.dma a) ctx Reg.Dma.DPC + 1) % 2 ^ 16 ∧
      t.st (.dma a) ctx = 1 ∧ (∀ q ∈ (t.dma a).runs, q.ctx ≠ ctx) ∧ t.mem = s.mem ∧ t.tallies = s.tallies

/-! ### Partitions -/

/-- The assignment commands: an accepted RELEASE leaves the array UNASSIGNED with its local store zero, OWN gives it to the partition,
SHARE_ADD and SHARE_REMOVE move the partition into and out of the share set, the last member leaving it UNASSIGNED; a refused command leaves
every assignment alone, reports its reason in A_STATUS and counts in ERR_CNT0. An array that is scrubbed has its domain ON here, and while A_GO
reads 1 a command is ignored and counts in ERR_CNT0. The named code is what the row says (log 60). -/
def Obligations.AssignmentCommands : Prop :=
  ∀ (s : State) (v : View) (w : Word) (a p : Nat), Reaches s v .part 0x138 0 → View.isVf v = false → a = field w.toNat 2 4 →
    p = field w.toNat 6 3 →
    (s.rdB .part 0 Reg.Part.A_GO = true → ∀ c ∈ [Instr.assignRelease v w, .assignOwn v w, .shareAdd v w, .shareRemove v w],
      exec c s = .next (s.errCount .part 0 0 1)) ∧
    (s.rdB .part 0 Reg.Part.A_GO = false →
    (s.assignRefusal 0 a p = 0 → s.domOn (arrDomain a) = true → ∃ t, exec (.assignRelease v w) s = .next t ∧ t.assignOf a = .unassigned ∧
      (∀ b, b ≠ a → t.assignOf b = s.assignOf b) ∧ t.rd .part 0 Reg.Part.A_STATUS = 0 ∧
      (∀ x, t0Base a ≤ x → x < t0Base a + t0Frames a * pageBytes → t.byte x = 0)) ∧
    (s.assignRefusal 1 a p = 0 → ∃ t, exec (.assignOwn v w) s = .next t ∧ t.assignOf a = .owned p ∧
      (∀ b, b ≠ a → t.assignOf b = s.assignOf b) ∧ t.rd .part 0 Reg.Part.A_STATUS = 0 ∧ t.mem = s.mem ∧ t.arrays = s.arrays) ∧
    (∀ l, s.assignRefusal 2 a p = 0 → membersOf (s.assignOf a) = some l → ∃ t, exec (.shareAdd v w) s = .next t ∧
      t.assignOf a = .shared (insAsc p l) ∧ SMap.get 0 (t.arr a).wAct p = s.shareW p a ∧ SMap.get 0 (t.arr a).eP p = 0 ∧
      (∀ b, b ≠ a → t.assignOf b = s.assignOf b) ∧ t.rd .part 0 Reg.Part.A_STATUS = 0 ∧ t.mem = s.mem) ∧
    (∀ l, s.assignRefusal 3 a p = 0 → s.assignOf a = .shared l → s.domOn (arrDomain a) = true → ∃ t, exec (.shareRemove v w) s = .next t ∧
      t.assignOf a = (if (l.filter fun q => q != p).isEmpty then .unassigned else .shared (l.filter fun q => q != p)) ∧
      (∀ b, b ≠ a → t.assignOf b = s.assignOf b) ∧ t.rd .part 0 Reg.Part.A_STATUS = 0) ∧
    ∀ op c, (op, c) ∈ [(0, Instr.assignRelease v w), (1, .assignOwn v w), (2, .shareAdd v w), (3, .shareRemove v w)] →
      s.assignRefusal op a p ≠ 0 → ∃ t, exec c s = .next t ∧ t.rd .part 0 Reg.Part.A_STATUS = s.assignRefusal op a p ∧
        t.parts = s.parts ∧ t.arrays = s.arrays ∧ t.mem = s.mem ∧
        t.rd .part 0 (Reg.Hdr.ERR_CNT 0) = (count31 (s.rd .part 0 (Reg.Hdr.ERR_CNT 0)) 1).1)

/-- PART_EN ← 1 enables the partition that PSEL names, and only counts in ERR_CNT0 while that partition is being disabled; PART_EN ← 0 begins
its disabling, and none of its contexts on arrays, DMA engines and host DMA is RUNNING any more; a quota that fits is taken up, leaving the
cistern alone where the use is within it, and one that does not fit is refused and counted in ERR_CNT0; PARTITION_TEARDOWN of a partition that
is being disabled and quiet, with the domains of its own arrays ON, leaves it disabled, without an image, every array it owned UNASSIGNED, and
takes it out of every share set; a function-level reset begins the disabling of its partition and stops its host DMA context with HEAD, TAIL
and HD_FAULT 0. The named bit is what the row says (log 60). -/
def Obligations.PartitionLife : Prop :=
  (∀ (s : State) (v : View) (w : Word) (ps : Nat), Reaches s v .part 0x104 0 → View.isVf v = false → ps = s.rd .part 0 Reg.Part.PSEL →
    (s.parts.disabling.contains ps = false → ∃ t, exec (.partEnable v w) s = .next t ∧ t.partOn ps = true ∧ t.mem = s.mem) ∧
    (s.parts.disabling.contains ps = true → s.quotaFits ps (field w.toNat 16 11) = true → ∃ t, exec (.partEnable v w) s = .next t ∧
      t.partOn ps = s.partOn ps ∧ t.rd .part 0 (Reg.Hdr.ERR_CNT 0) = (count31 (s.rd .part 0 (Reg.Hdr.ERR_CNT 0)) 1).1) ∧
    (s.partOn ps = true → s.parts.disabling.contains ps = false → ∃ t, exec (.partDisable v w) s = .next t ∧
      t.parts.disabling.contains ps = true ∧ (∀ x ∈ s.partPages ps, t.st x.1 x.2 ≠ 1) ∧ t.partOn ps = true ∧ t.mem = s.mem) ∧
    (∀ n, n = field w.toNat 16 11 → bitAt w.toNat 0 = true → s.parts.disabling.contains ps = false →
      (s.quotaFits ps n = true → ∃ t, exec (.t1Quota v w) s = .next t ∧ t.quota ps = n ∧ t.partOn ps = true ∧ t.mem = s.mem ∧
        (s.useT1 ps ≤ n → t.tier = s.tier)) ∧
      (s.quotaFits ps n = false → ∃ t, exec (.t1Quota v w) s = .next t ∧ t.quota ps = s.quota ps ∧ t.tier = s.tier ∧ t.mem = s.mem ∧
        t.rd .part 0 (Reg.Hdr.ERR_CNT 0) = (count31 (s.rd .part 0 (Reg.Hdr.ERR_CNT 0)) 1).1))) ∧
  (∀ (s : State) (p : Nat), s.parts.disabling.contains p = true → s.partQuiet p = true →
    (∀ a, a ≤ 8 → s.assignOf a = .owned p → s.domOn (arrDomain a) = true) →
    ∃ t, exec (.partitionTeardown p) s = .next t ∧ t.partOn p = false ∧ t.parts.disabling.contains p = false ∧
      (∀ i ∈ t.images, i.part ≠ p) ∧ (∀ a, a ≤ 8 → s.assignOf a = .owned p → t.assignOf a = .unassigned) ∧
      ∀ a l, a ≤ 8 → s.assignOf a = .shared l → p ∈ l →
        t.assignOf a = (if (l.filter fun q => q != p).isEmpty then .unassigned else .shared (l.filter fun q => q != p))) ∧
  ∀ (s : State) (p : Nat), p < 8 → ∃ t, exec (.vfFlr p) s = .next t ∧ t.st .pcie (p + 1) = 0 ∧ t.rd .pcie (p + 1) Reg.Pcie.HEAD = 0 ∧
    t.rd .pcie (p + 1) Reg.Pcie.TAIL = 0 ∧ t.rd .pcie (p + 1) Reg.Pcie.HD_FAULT = 0 ∧ t.mem = s.mem ∧
    (s.partOn p = true → t.parts.disabling.contains p = true)

/-! ### Security -/

/-- The six commands of the SEC page, each of which ends with its status, CMD_GO 0 and IRQ_RAW bit 0. OWNER_PROG fills a free owner slot in
PROVISIONED, and ends with 3 on a programmed one. LC_ADVANCE from PROVISIONED, with an owner slot and no partition enabled, pends SEALED, and
ends with 3 otherwise; from SEALED, with a challenge whose signature verifies, it pends RMA. ROLLBACK_ADV raises a counter and never lowers
it. DBG_CHALLENGE forms a challenge from the DEVICE_ID, the DRBG's next output, the asked SCOPE and LC, and stores it in the block; in lockout
it ends with 3. DBG_RESPONSE takes the challenge away, opens its scope where the response verifies, and where it does not counts a failure in
ERR_CNT3, the eighth of which sets DBG_LOCKOUT; in SEALED a scope that reaches memory disables every enabled partition before it opens.
WELL_REKEY of an unused, stopped well draws a new key and clears its write counter, and ends with 3 otherwise. OWNER_PROG, LC_ADVANCE to
SEALED, ROLLBACK_ADV and DBG_CHALLENGE in another lifecycle state end with status 2 and change nothing. DBG_CHALLENGE and WELL_REKEY wait
while the DRBG is not seeded. Operand bytes are read as log 26 says, and signatures verify as opaque functions say (log 22). -/
def Obligations.SecPageCommands : Prop :=
  ∀ (s : State) (v : View) (w : Word) (addr : Nat) (b : List Byte), b = s.bytes addr 256 →
    (∀ slot, SecReady s v w addr 1 → slot = leAt b 8 1 → slot ≤ 3 → s.sec.lc = 1 → (SMap.get {} s.sec.owners slot).en = false →
      ∃ t, exec (.ownerProg v w) s = .next t ∧ SecEnded t 0 ∧ t.mem = s.mem ∧
        SMap.get {} t.sec.owners slot = Owner.mk (sliceBytes b 10 32) true (bitAt (leAt b 9 1) 0) ∧
        ∀ k, k ≠ slot → SMap.get {} t.sec.owners k = SMap.get {} s.sec.owners k) ∧
    (SecReady s v w addr 1 → leAt b 8 1 ≤ 3 → s.sec.lc ≠ 1 →
      ∃ t, exec (.ownerProg v w) s = .next t ∧ SecEnded t 2 ∧ t.sec = s.sec ∧ t.mem = s.mem) ∧
    (SecReady s v w addr 1 → leAt b 8 1 ≤ 3 → s.sec.lc = 1 → (SMap.get {} s.sec.owners (leAt b 8 1)).en = true →
      ∃ t, exec (.ownerProg v w) s = .next t ∧ SecEnded t 3 ∧ t.sec = s.sec ∧ t.mem = s.mem) ∧
    (SecReady s v w addr 2 → leAt b 8 1 = 2 → s.sec.lc = 1 → (List.range 4).any (fun i => (SMap.get {} s.sec.owners i).en) = true →
      (List.range 8).any s.partOn = false →
      ∃ t, exec (.lcAdvance v w) s = .next t ∧ SecEnded t 0 ∧ t.sec = { s.sec with lcPending := some 2 } ∧ t.mem = s.mem) ∧
    (SecReady s v w addr 2 → leAt b 8 1 = 2 → s.sec.lc = 1 →
      (List.range 4).any (fun i => (SMap.get {} s.sec.owners i).en) = false ∨ (List.range 8).any s.partOn = true →
      ∃ t, exec (.lcAdvance v w) s = .next t ∧ SecEnded t 3 ∧ t.sec = s.sec ∧ t.mem = s.mem) ∧
    (SecReady s v w addr 2 → leAt b 8 1 = 2 → s.sec.lc ≠ 1 →
      ∃ t, exec (.lcAdvance v w) s = .next t ∧ SecEnded t 2 ∧ t.sec = s.sec ∧ t.mem = s.mem) ∧
    (∀ c ok, SecReady s v w addr 2 → leAt b 8 1 = 3 → s.sec.lc = 2 → s.sec.challenge = some c →
      ok = Config.ecdsaOk Config.grenariPub (sha384 c) (sliceBytes b 9 96) →
      ∃ t, exec (.lcAdvance v w) s = .next t ∧ SecEnded t (if ok then 0 else 4) ∧ t.mem = s.mem ∧
        t.sec = { s.sec with challenge := none, lcPending := if ok then some 3 else s.sec.lcPending }) ∧
    (SecReady s v w addr 3 → leAt b 8 1 ≤ 15 → leAt b 9 1 ≤ 64 → (s.sec.lc = 1 ∨ s.sec.lc = 2) →
      ∃ t, exec (.rollbackAdv v w) s = .next t ∧ SecEnded t 0 ∧ t.mem = s.mem ∧
        SMap.get 0 t.sec.rollback (leAt b 8 1) = max (leAt b 9 1) (SMap.get 0 s.sec.rollback (leAt b 8 1)) ∧
        ∀ k, k ≠ leAt b 8 1 → SMap.get 0 t.sec.rollback k = SMap.get 0 s.sec.rollback k) ∧
    (SecReady s v w addr 3 → leAt b 8 1 ≤ 15 → leAt b 9 1 ≤ 64 → s.sec.lc ≠ 1 → s.sec.lc ≠ 2 →
      ∃ t, exec (.rollbackAdv v w) s = .next t ∧ SecEnded t 2 ∧ t.sec = s.sec ∧ t.mem = s.mem) ∧
    (∀ c, SecReady s v w addr 4 → s.sec.lc ≠ 0 → s.rdB .sec 0 Reg.Sec.DBG_LOCKOUT = false → s.seeded = true → s.sec.generates < 2 ^ 20 →
      c = s.deviceId ++ leBytes 16 (Config.drbgOut s.sec.drbg) ++ sliceBytes b 8 4 ++ leBytes 1 s.sec.lc ++ List.replicate 11 0 →
      ∃ t, exec (.dbgChallenge v w) s = .next t ∧ SecEnded t 0 ∧ t.sec.challenge = some c ∧
        t.sec.drbg = Config.drbgNext s.sec.drbg ∧ t.mem = (s.dstore (addr + 8) c).mem) ∧
    (SecReady s v w addr 4 → s.sec.lc = 0 → s.seeded = true →
      ∃ t, exec (.dbgChallenge v w) s = .next t ∧ SecEnded t 2 ∧ t.sec = s.sec ∧ t.mem = s.mem) ∧
    (SecReady s v w addr 4 → s.sec.lc ≠ 0 → s.rdB .sec 0 Reg.Sec.DBG_LOCKOUT = true → s.seeded = true →
      ∃ t, exec (.dbgChallenge v w) s = .next t ∧ SecEnded t 3 ∧ t.sec = s.sec ∧ t.mem = s.mem) ∧
    (∀ code c, (code, c) ∈ [(4, Instr.dbgChallenge v w), (6, .wellRekey v w)] → SecReady s v w addr code → s.seeded = false →
      ∃ t, exec c s = .next t ∧ t.rd .sec 0 Reg.Sec.CMD_GO = 1 ∧ t.rd .sec 0 Reg.Sec.CMD_STATUS = 1 ∧ t.sec = s.sec ∧ t.mem = s.mem) ∧
    (SecReady s v w addr 5 → s.sec.challenge = none →
      ∃ t, exec (.dbgResponse v w) s = .next t ∧ SecEnded t 3 ∧ t.sec = s.sec ∧ t.mem = s.mem) ∧
    (∀ c ok, SecReady s v w addr 5 → s.sec.challenge = some c →
      (s.sec.lc = 2 → and32 (leAt c 48 4 % 16) 0xB = 0 ∨ ok = false) →
      ok = (s.debugKeyOk (sha256 (sliceBytes b 8 96)) && Config.ecdsaOk (sliceBytes b 8 96) (sha384 c) (sliceBytes b 104 96)) →
      ∃ t, exec (.dbgResponse v w) s = .next t ∧ SecEnded t (if ok then 0 else 4) ∧ t.sec.challenge = none ∧
        t.sec.dbgScope = (if ok then or32 s.sec.dbgScope (leAt c 48 4 % 16) else s.sec.dbgScope) ∧
        t.sec.dbgFails = (if ok then s.sec.dbgFails else s.sec.dbgFails + 1) ∧ t.mem = s.mem ∧
        (ok = false → t.rd .sec 0 (Reg.Hdr.ERR_CNT 3) = (count31 (s.rd .sec 0 (Reg.Hdr.ERR_CNT 3)) 1).1 ∧
          (8 ≤ s.sec.dbgFails + 1 → t.rdB .sec 0 Reg.Sec.DBG_LOCKOUT = true))) ∧
    (∀ c scope, SecReady s v w addr 5 → s.sec.challenge = some c → s.sec.lc = 2 → scope = leAt c 48 4 % 16 → and32 scope 0xB ≠ 0 →
      (s.debugKeyOk (sha256 (sliceBytes b 8 96)) && Config.ecdsaOk (sliceBytes b 8 96) (sha384 c) (sliceBytes b 104 96)) = true →
      ∃ t, exec (.dbgResponse v w) s = .next t ∧ SecEnded t 0 ∧ t.sec.challenge = none ∧ t.mem = s.mem ∧
        (∀ p, p < 8 → s.partOn p = true → t.parts.disabling.contains p = true ∧ t.sec.dbgScope = s.sec.dbgScope ∧
          t.sec.dbgOpening = some scope) ∧
        ((List.range 8).any s.partOn = false → t.sec.dbgScope = or32 s.sec.dbgScope scope ∧ t.sec.dbgOpening = none ∧ IrqSet t .sec 0 4)) ∧
    (SecReady s v w addr 6 → s.st .lpddr 0 = 0 → s.wellUsed = [] → s.seeded = true → s.sec.generates < 2 ^ 20 →
      ∃ t, exec (.wellRekey v w) s = .next t ∧ SecEnded t 0 ∧ t.sec.wellKey = Config.drbgOut s.sec.drbg ∧ t.sec.wellCtr = 0 ∧
        t.rd .sec 0 Reg.Sec.REKEY_DUE = 0 ∧ t.mem = s.mem) ∧
    (SecReady s v w addr 6 → s.st .lpddr 0 ≠ 0 ∨ s.wellUsed ≠ [] → s.seeded = true →
      ∃ t, exec (.wellRekey v w) s = .next t ∧ SecEnded t 3 ∧ t.sec = s.sec ∧ t.mem = s.mem)

/-- The SPDM requests, with SEC's domain ON, in the order of a connection: what each answers, and how the session moves. A request out of
its order answers an error and changes nothing else. Cryptographic functions are opaque (log 22); details are those of log 70. -/
def Obligations.SpdmRequests : Prop :=
  ∀ s : State, s.domOn 26 = true →
    exec .getVersion s = .next ((s.setSpdm { version := true, keyGen := s.sec.spdm.keyGen }).emit .spdmVersion) ∧
    exec .getCapabilities s = .next (if s.sec.spdm.version then (s.setSpdm { s.sec.spdm with caps := true }).emit .spdmCapabilities
      else s.emit .spdmError) ∧
    exec .negotiateAlgorithms s = .next (if s.sec.spdm.caps then (s.setSpdm { s.sec.spdm with algs := true }).emit .spdmAlgorithms
      else s.emit .spdmError) ∧
    exec .getDigests s = .next (s.emit (if s.sec.spdm.algs then
      .spdmDigests (if s.sec.certChain = [] then [] else sha384 s.sec.certChain) else .spdmError)) ∧
    (∀ slot off len, exec (.getCertificate slot off len) s = .next (s.emit
      (if s.sec.spdm.algs = true ∧ slot = 0 ∧ off < s.sec.certChain.length then
        .spdmCertificate ((s.sec.certChain.drop off).take len) else .spdmError))) ∧
    (∀ slot nonce, s.sec.spdm.algs = true → slot = 0 → s.sec.certChain ≠ [] → ∃ t g, exec (.challenge slot nonce) s = .next t ∧
      t.out = s.out ++ [.spdmChallengeAuth (sha384 s.sec.certChain) g] ∧ g.length = 96 ∧ t.sec = s.sec ∧ t.regs = s.regs) ∧
    (∀ nonce, s.sec.spdm.algs = true →
      exec (.getMeasurements 255 false nonce) s = .next (s.emit (.spdmMeasurements s.measurements [])) ∧
      ∃ t g, exec (.getMeasurements 255 true nonce) s = .next t ∧ t.out = s.out ++ [.spdmMeasurements s.measurements g] ∧
        g.length = 96 ∧ t.sec = s.sec ∧ t.regs = s.regs) ∧
    (∀ pub, s.sec.spdm.algs = true → s.sec.spdm.session = 0 → ∃ t g, exec (.keyExchange pub) s = .next t ∧
      t.sec.spdm = { s.sec.spdm with session := 1, keyGen := s.sec.spdm.keyGen + 1 } ∧ t.out = s.out ++ [.spdmKeyExchange g] ∧
      g.length = 96) ∧
    (∀ mac, s.sec.spdm.session = 1 → exec (.finish mac) s = .next (if Config.finishOk s.sec.spdm.keyGen mac then
      (s.setSpdm { s.sec.spdm with session := 2 }).emit .spdmAck else (s.setSpdm { s.sec.spdm with session := 0 }).emit .spdmError)) ∧
    (s.sec.spdm.session = 2 →
      exec .heartbeat s = .next (s.emit .spdmAck) ∧
      exec .keyUpdate s = .next ((s.setSpdm { s.sec.spdm with keyGen := s.sec.spdm.keyGen + 1 }).emit .spdmAck) ∧
      exec .endSession s = .next ((s.setSpdm { s.sec.spdm with session := 0 }).emit .spdmAck)) ∧
    (s.sec.spdm.session ≠ 2 → exec .heartbeat s = .next (s.emit .spdmError) ∧ exec .keyUpdate s = .next (s.emit .spdmError) ∧
      exec .endSession s = .next (s.emit .spdmError))

/-- IDE: keys are programmed in a secured session and taken up by K_SET_GO, which also ends the Insecure state; an integrity failure makes
the stream Insecure, counts, and sets IRQ_RAW bit 1 of SEC; a TLP on an Insecure stream, or one that IDE_REQ or SEALED wants on a secure
stream and that is not, is never accepted, and any other is. -/
def Obligations.IdeStreams : Prop :=
  (∀ (s : State) (k key : Nat) (rids : List Nat), s.domOn 26 = true → s.sec.spdm.session = 2 →
    exec (.ideKm (.keyProg k key rids)) s = .next ((s.setIde k { s.ide k with nextKey := some key, rids := rids }).emit .spdmAck) ∧
    ((s.ide k).nextKey = some key →
      exec (.ideKm (.kSetGo k)) s =
        .next ((s.setIde k { s.ide k with key := key, nextKey := none, secure := true, insecure := false }).emit .spdmAck))) ∧
  (∀ (s : State) (k : Nat), ∃ t, exec (.ideIntegrityFailure k) s = .next t ∧ (t.ide k).secure = false ∧ (t.ide k).insecure = true ∧
    (∀ j, j ≠ k → t.ide j = s.ide j) ∧ IrqSet t .sec 0 1 ∧
    t.rd .sec 0 (Reg.Hdr.ERR_CNT 1) = (count31 (s.rd .sec 0 (Reg.Hdr.ERR_CNT 1)) 1).1 ∧ t.mem = s.mem) ∧
  ∀ (s : State) (x : Tlp) (bad : Prop), s.ports.link = .up → x.fn ≤ 8 →
    (bad ↔ (∃ k, x.stream = some k ∧ (s.ide k).insecure = true) ∨
      ((s.rdB .sec 0 Reg.Sec.IDE_REQ = true ∨ s.sec.lc = 2) ∧ s.tlpSecure x = false)) →
    (bad → exec (.tlpReceived x) s = .next (s.emit (if x.request then .tlpUnsupported x.fn else .tlpDropped x.fn))) ∧
    (¬ bad → exec (.tlpReceived x) s = .next ((s.chargeTlp x.fn x.payload).emit (.tlpAccepted x.fn)))

/-- Random numbers: a read of DATA while seeded takes one output of the DRBG, and while not seeded reads 0; VALID of the requester follows
either. A passed seed sets SEEDED; a failed health test clears it, with HEALTH_FAIL and IRQ_RAW bit 0; a reseed counts. The DRBG is opaque
(log 22); the first seeding is no reseed (log 70). -/
def Obligations.RandomNumbers : Prop :=
  (∀ (s : State) (v : View) (bank : Nat), Reaches s v .trng 0x100 bank →
    (s.seeded = true → s.sec.generates < 2 ^ 20 → exec (.trngDataRead v) s = .next ({ s with sec := { s.sec with
      drbg := Config.drbgNext s.sec.drbg, generates := s.sec.generates + 1, valid := SMap.set false s.sec.valid (View.num v) true } }.answer
        v 0x0A1100 (Config.drbgOut s.sec.drbg % 2 ^ 32))) ∧
    (s.seeded = false → exec (.trngDataRead v) s = .next ({ s with sec := { s.sec with
      valid := SMap.set false s.sec.valid (View.num v) false } }.answer v 0x0A1100 0))) ∧
  ∀ s : State, s.domOn 26 = true →
    (s.rdB .sec 0 Reg.Sec.CMD_GO = false → ∃ t, exec .trngSeeded s = .next t ∧ t.seeded = true ∧ t.sec.generates = 0 ∧ t.mem = s.mem) ∧
    (∃ t, exec .healthFail s = .next t ∧ t.seeded = false ∧ t.rd .trng 0 Reg.Trng.HEALTH_FAIL = 1 ∧ IrqSet t .trng 0 0 ∧
      t.sec = s.sec ∧ t.mem = s.mem) ∧
    (s.seeded = true → ∃ t, exec .drbgReseed s = .next t ∧ t.sec.generates = 0 ∧ t.seeded = true ∧
      t.rd .trng 0 Reg.Trng.RESEEDS = (count31 (s.rd .trng 0 Reg.Trng.RESEEDS) 1).1)

/-! ### Power -/

/-- PWR_REQ and DOMAIN_ENTRY: a request is held while the domain's wait does not hold, and begins step 1 where it does and nothing refuses;
a refusal clears REQ, counts, and reports its domain and reason; each further step follows; the last one leaves the domain OFF, with the
memory it held zero, or in RETENTION with memory as it was. One command is one step (log 21). -/
def Obligations.DomainEntry : Prop :=
  (∀ (s : State) (v : View) (w : Word) (p : Page) (bank d r : Nat), Reaches s v p 0x040 bank → d = p.domain → d ≠ 0 → d ≠ 22 → d ≠ 23 →
    (s.dom d).st = .on → r = field w.toNat 0 2 → r = 1 ∨ r = 2 → bitAt w.toNat 7 = false →
    (s.waitHolds d = false →
      exec (.pwrReq v (p.base + 0x040) w) s = .next (s.setDom d { s.dom d with req := r })) ∧
    (s.waitHolds d = true → s.refusal d r none = 0 →
      ∃ t, exec (.pwrReq v (p.base + 0x040) w) s = .next t ∧ (t.dom d).st = .entering 1 r ∧ (t.dom d).req = r ∧ t.regs = s.regs)) ∧
  ∀ (s : State) (d : Nat), 1 ≤ d → d ≤ 26 →
    ((s.dom d).st = .on → (s.dom d).req ≠ 0 → s.waitHolds d = true → s.refusal d (s.dom d).req none = 0 →
      exec (.domainEntry d) s = .next (s.setDom d { s.dom d with st := .entering 1 (s.dom d).req })) ∧
    ((s.dom d).st = .on → (s.dom d).req ≠ 0 → s.waitHolds d = true → s.refusal d (s.dom d).req none ≠ 0 → s.power.seq = none →
      ∃ t, exec (.domainEntry d) s = .next t ∧ (t.dom d).st = .on ∧ (t.dom d).req = 0 ∧ t.rd .power 0 Reg.Power.LAST_REFUSER = d ∧
        t.rd .power 0 Reg.Power.LAST_REASON = s.refusal d (s.dom d).req none ∧ IrqSet t .power 0 0 ∧
        t.rd .power 0 (Reg.Power.REFUSALS d) = (count31 (s.rd .power 0 (Reg.Power.REFUSALS d)) 1).1 ∧ t.mem = s.mem) ∧
    (∀ k target, (s.dom d).st = .entering k target → (∀ a, domArray d = some a → (s.arr a).mop = none) →
      (k < 5 → exec (.domainEntry d) s = .next (s.setDom d { s.dom d with st := .entering (k + 1) target })) ∧
      (5 ≤ k → target = 2 → (s.dom d).wakeAfter = false → s.power.seq = none →
        ∃ t, exec (.domainEntry d) s = .next t ∧ (t.dom d).st = .off ∧
          ∀ x, t.byte x = if (domainMemory d).1 ≤ x ∧ x < (domainMemory d).1 + (domainMemory d).2 then 0 else s.byte x) ∧
      (5 ≤ k → target ≠ 2 → (s.dom d).wakeAfter = false → s.power.seq = none →
        ∃ t, exec (.domainEntry d) s = .next t ∧ (t.dom d).st = .retention ∧ t.mem = s.mem))

/-- DOMAIN_WAKE starts the exit of a domain from RETENTION or OFF, abandons an entry before step 4, and leaves an ON domain alone; PCIE
leaves OFF only by the host, and a removed unit never. DOMAIN_READY leaves the domain ON with REQ 0, COLD where it came from OFF. An
abandoned entry leaves REQ 0 (log 40). -/
def Obligations.DomainExit : Prop :=
  ∀ (s : State) (d : Nat), 1 ≤ d → d ≤ 26 →
    ((s.dom d).removed = false → (s.dom d).st = .retention ∨ ((s.dom d).st = .off ∧ d ≠ 22) →
      ∃ t, exec (.domainWake d) s = .next t ∧ (t.dom d).st = .waking ((s.dom d).st == .off) ∧ (∀ e, e ≠ d → t.dom e = s.dom e) ∧
        t.mem = s.mem) ∧
    ((s.dom d).removed = true ∨ (s.dom d).st = .on ∨ ((s.dom d).st = .off ∧ d = 22) → exec (.domainWake d) s = .next s) ∧
    (∀ k target, (s.dom d).removed = false → (s.dom d).st = .entering k target → k < 4 →
      ∃ t, exec (.domainWake d) s = .next t ∧ (t.dom d).st = .on ∧ (t.dom d).req = 0 ∧
        t.rd .power 0 (Reg.Power.ABORTS d) = (count31 (s.rd .power 0 (Reg.Power.ABORTS d)) 1).1 ∧ t.mem = s.mem) ∧
    (∀ fromOff, (s.dom d).st = .waking fromOff → s.power.rampWait.contains d = false → s.railsOn d = true →
      (∀ x ∈ s.stalled, x.dom ≠ d) →
      ∃ t, exec (.domainReady d) s = .next t ∧ (t.dom d).st = .on ∧ (t.dom d).req = 0 ∧
        (t.dom d).cold = ((s.dom d).cold || fromOff) ∧ t.mem = s.mem)

/-- SEQ_GO with no domain of its mask ON ends at once with SEQ_STATUS 2; otherwise the first domain of the drop order that is ON gets the
mode as its REQ, here for a domain without pages to stop whose wait does not hold. A mask with AON, PCIE or STEWARD, or a mode that is none,
only counts. SEQ_TIMEOUT ends a sequence with the domain that holds it out and reason 6. Domains that are not ON are passed over (log 20).
-/
def Obligations.SequencedDrop : Prop :=
  (∀ (s : State) (v : View) (w : Word) (mode mask : Nat) (l : List Nat), Reaches s v .power 0x104 0 →
    s.rd .power 0 Reg.Power.SEQ_STATUS ≠ 1 → mode = field w.toNat 0 2 → mask = s.rd .power 0 Reg.Power.SEQ_MASK →
    l = dropOrder.filter (fun d => bitAt mask d) →
    (mode = 1 ∨ mode = 2 → bitAt mask 0 = false → bitAt mask 22 = false → bitAt mask 23 = false →
      (l.any s.domOn = false → ∃ t, exec (.seqGo v w) s = .next t ∧ t.rd .power 0 Reg.Power.SEQ_STATUS = 2 ∧ t.power.seq = none ∧
        t.power.doms = s.power.doms ∧ IrqSet t .power 0 1 ∧ t.mem = s.mem) ∧
      (∀ d, l.find? s.domOn = some d → s.domPages d = [] → s.waitHolds d = false → ∃ t, exec (.seqGo v w) s = .next t ∧
        t.rd .power 0 Reg.Power.SEQ_STATUS = 1 ∧ (∃ q, t.power.seq = some q ∧ q.left.head? = some d ∧ q.mode = mode) ∧
        (t.dom d).req = mode ∧ (t.dom d).st = (s.dom d).st ∧ t.mem = s.mem)) ∧
    (mode = 0 ∨ mode = 3 ∨ bitAt mask 0 = true ∨ bitAt mask 22 = true ∨ bitAt mask 23 = true →
      ∃ t, exec (.seqGo v w) s = .next t ∧ t.power = s.power ∧
        t.rd .power 0 (Reg.Hdr.ERR_CNT 0) = (count31 (s.rd .power 0 (Reg.Hdr.ERR_CNT 0)) 1).1 ∧ t.mem = s.mem)) ∧
  ∀ (s : State) (q : SeqRun) (d : Nat), s.power.seq = some q → q.left.head? = some d → s.domOn d = true → d ≤ 26 →
    ∃ t, exec .seqTimeout s = .next t ∧ t.rd .power 0 Reg.Power.SEQ_STATUS = 3 ∧ t.rd .power 0 Reg.Power.SEQ_HELD = d ∧
      t.rd .power 0 Reg.Power.SEQ_REASON = 6 ∧ (t.dom d).req = 0 ∧ t.power.seq = none ∧ IrqSet t .power 0 1 ∧ t.mem = s.mem

/-- LIFT_RAISE makes the first waiting raise a lift in progress, with its record's words, and counts it in RAISED; LIFT_PROCEED of a lift
that names no array, stream or context to start writes its hand-over descriptor and ends the lift. Details are those of log 69. -/
def Obligations.Lifts : Prop :=
  (∀ (s : State) (r : Raise) (rest : List Raise), s.power.raises = r :: rest → s.ready = true → s.power.lifts.length < 16 →
    ∃ t run, exec .liftRaise s = .next t ∧ t.power.raises = rest ∧ t.power.lifts = s.power.lifts ++ [run] ∧ run.raise = r ∧
      run.words = (List.range 16).map (s.liftWord (r.record % 32)) ∧
      t.rd .liftPage 0 (Reg.Lift.RAISED (r.record % 32)) = (s.rd .liftPage 0 (Reg.Lift.RAISED (r.record % 32)) + 1) % 2 ^ 32 ∧
      t.mem = s.mem) ∧
  ∀ (s : State) (i : Nat) (x : LiftRun), s.power.lifts[i]? = some x →
    (∀ d ∈ x.doms, d = 23 ∨ (s.dom d).removed = true ∨ s.domOn d = true) → s.liftFirst i x = true → x.restoreAt = 0 → x.word 1 = 0 →
    x.word 2 = 0 →
    s.domOn (memDomain x.hoSlot) = true →
    ∃ t, exec (.liftProceed i) s = .next t ∧ t.power.lifts = s.power.lifts.eraseIdx i ∧
      t.mem = (s.dstore x.hoSlot (x.descriptor (x.fromOff.filter fun d => d != 23 || s.domOn d) [] false false)).mem ∧
      (bitAt (x.word 3) 13 = true → t.tallies = (s.signalTally (field (x.word 3) 0 13) 1).tallies)

/-! ### The acoustic front end -/

/-- PCM_SAMPLE adds one sample to the open block and moves SIDX on by one; BLOCK_CLOSE of a full block empties it, puts it into the sump
from READY on under its first sample index, and makes the staged gain, channels and calibration active. A full block waits for its close
(log 30), and the filters are opaque (log 28). -/
def Obligations.SamplesAndBlocks : Prop :=
  (∀ (s : State) (bits : List (List Bool)), s.audio.openMix.length < 256 →
    ∃ t, exec (.pcmSample bits) s = .next t ∧ t.audio.sidx = (s.audio.sidx + 1) % 2 ^ 64 ∧
      t.audio.openMix.length = s.audio.openMix.length + 1 ∧ (∀ c, c < 8 → (nth [] t.audio.openLanes c).length =
        (nth [] s.audio.openLanes c).length + 1) ∧ t.audio.sump = s.audio.sump ∧ t.mem = s.mem) ∧
  ∀ (s : State) (r : CopyResult), 256 ≤ s.audio.openMix.length →
    ∃ t, exec (.blockClose r) s = .next t ∧ t.audio.openMix = [] ∧ t.audio.openLanes = [] ∧ t.audio.sidx = s.audio.sidx ∧
      t.audio.gainOld = s.audio.gainNew ∧ t.audio.gainNew = s.rd .audio 0 Reg.Audio.GAIN_REQ ∧
      t.audio.chEn = s.rd .audio 0 Reg.Audio.CH_EN ∧ t.audio.cal = s.audio.calNext.getD s.audio.cal ∧ t.audio.calNext = none ∧
      (s.ready = true → (SMap.get {} t.audio.sump ((s.audio.sidx - 256) / 256 % 128)).hdr.sidx = s.audio.sidx - 256 ∧
        (SMap.get {} t.audio.sump ((s.audio.sidx - 256) / 256 % 128)).lanes = s.audio.openLanes) ∧
      (s.ready = false → t.audio.sump = s.audio.sump) ∧ t.mem = s.mem

/-- A detector event that the last block close has decided fires once: its bit of DET_EVT and IRQ_RAW bit 0 set, DET_SIDX is the block's
first sample index, and the record that DET_LIFT names is raised where its bit is enabled, the events of one close that name one record
together; a microphone that is muted fires nothing. (Log 57, log 58, log 84.) -/
def Obligations.DetectorEvents : Prop :=
  ∀ (s : State) (c : Instr) (e : Nat),
    (c, e) ∈ [(Instr.vadStart, 0), (.vadEnd, 1), (.glass, 2), (.alarmT3, 3), (.alarmCont, 4)] → bitAt s.audio.due e = true →
    (s.audio.muted = false → ∃ t, exec c s = .next t ∧ bitAt (t.rd .audio 0 Reg.Audio.DET_EVT) e = true ∧
      t.rd2 .audio 0 Reg.Audio.DET_SIDX_LO Reg.Audio.DET_SIDX_HI = s.audio.dueSidx % 2 ^ 64 ∧ IrqSet t .audio 0 0 ∧
      bitAt t.audio.due e = false ∧
      t.power.raises.length = s.power.raises.length + b2n (s.rdB .liftPage 0 (Reg.Lift.EN e) && !(s.power.raises.any fun r =>
        r.origin == 15 && r.sidx == s.audio.dueSidx && r.record == s.rd .liftPage 0 (Reg.Lift.RECORD e))) ∧
      (s.rdB .liftPage 0 (Reg.Lift.EN e) = true → ∃ r ∈ t.power.raises, r.origin = 15 ∧ r.sidx = s.audio.dueSidx ∧
        r.record = s.rd .liftPage 0 (Reg.Lift.RECORD e) ∧ bitAt r.events e = true) ∧
      t.mem = s.mem) ∧
    (s.audio.muted = true → exec c s = .next (s.setAudio { s.audio with due := clr32 s.audio.due (2 ^ e) }))

/-- A stream's EN ← 1 starts it where its settings are accepted, and otherwise counts and leaves EN 0; EN ← 0 ends a stream at rest and
lets one that is delivering finish its block; a delivery writes the block's data, its record and its digest record into the slot of its
block number, and counts it. -/
def Obligations.AudioStreams : Prop :=
  (∀ (s : State) (v : View) (st : Nat) (w : Word) (u : State), Reaches s v .audio (0x200 + 0x40 * st) 0 → st < 4 →
    (s.rdB .audio 0 (Reg.Audio.EN st) = false →
      u = s.wrFields .audio 0 (0x200 + 0x40 * st) (setField (setField w.toNat 0 1 1) 0 1 0) Reg.Audio.all →
      ((u.streamStart st).2 = false → ∃ t, exec (.audioStreamStart v st w) s = .next t ∧ (t.stream st).active = true ∧
        t.rd .audio 0 (Reg.Audio.EN st) = 1 ∧ t.rd .audio 0 (Reg.Audio.ACTIVE st) = 1 ∧ t.rd .audio 0 (Reg.Audio.BLK_NUM st) = 0 ∧
        t.mem = s.mem) ∧
      ((u.streamStart st).2 = true → ∃ t, exec (.audioStreamStart v st w) s = .next t ∧ t.audio = s.audio ∧
        t.rd .audio 0 (Reg.Audio.EN st) = 0 ∧
        t.rd .audio 0 (Reg.Hdr.ERR_CNT 0) = (count31 (s.rd .audio 0 (Reg.Hdr.ERR_CNT 0)) 1).1 ∧ t.mem = s.mem)) ∧
    (s.rdB .audio 0 (Reg.Audio.EN st) = true → (s.stream st).active = true →
      ((s.stream st).past = [] → (s.stream st).live = [] → ∃ t, exec (.audioStreamStop v st w) s = .next t ∧ t.stream st = {} ∧
        t.rd .audio 0 (Reg.Audio.EN st) = 0 ∧ t.rd .audio 0 (Reg.Audio.ACTIVE st) = 0 ∧ t.mem = s.mem) ∧
      ((s.stream st).past ≠ [] ∨ (s.stream st).live ≠ [] →
        exec (.audioStreamStop v st w) s = .next (s.setStream st { s.stream st with stopAfter := some 1 })))) ∧
  ∀ (s : State) (st n nbuf slot recs : Nat) (b : Blk) (x : StreamS) (lost : Bool), st < 4 → (s.stream st).active = true →
    s.nextBlock st = some (b, x, lost) → nbuf = s.rd .audio 0 (Reg.Audio.NBUF_M1 st) + 1 → n = s.rd .audio 0 (Reg.Audio.BLK_NUM st) →
    slot = s.streamDst st + n % nbuf * s.rd .audio 0 (Reg.Audio.SLOT_PITCH st) → recs = s.streamRec st →
    AllOn s [memDomain slot, memDomain recs] → s.rdB .audio 0 (Reg.Audio.SIG_EN st) = false → s.upsets = [] →
    ∃ t, exec (.audioBlockDelivery st) s = .next t ∧
      t.mem = (((s.dstore slot (s.streamData st b)).dstore (recs + 32 * (n % nbuf)) (blockRecord { b.hdr with
        ch := s.rd .audio 0 (Reg.Audio.CH st), stream := st, blkNum := n })).dstore (recs + 32 * nbuf + 48 * (n % nbuf))
          (ingestRecord 1 st b.hdr.sidx (s.streamData st b))).mem ∧
      t.rd .audio 0 (Reg.Audio.BLK_NUM st) = (n + 1) % 2 ^ 32 ∧ t.tallies = s.tallies

/-- HQ_EN ← 1 asks for AUDHQ's clock, noting the moment where the domain is ON; HQ_EN ← 0 takes a start back that waits for its boundary;
CAL_LOAD takes a valid calibration image for the next boundary, and reports another one in CAL_BAD. The moments are those of log 58. -/
def Obligations.HighQualityAndCalibration : Prop :=
  ∀ (s : State) (v : View) (w : Word),
    (Reaches s v .audio 0x100 0 → s.rdB .audio 0 Reg.Audio.HQ_EN = false →
      ∃ t, exec (.hqStart v w) s = .next t ∧ t.rdB .audio 0 Reg.Audio.HQ_EN = true ∧ t.rd .audio 0 Reg.Audio.CH_EN = field w.toNat 0 8 ∧
        (s.domOn 24 = true → t.audio.hqReady = some s.audio.sidx) ∧ t.mem = s.mem) ∧
    (Reaches s v .audio 0x100 0 → s.rdB .audio 0 Reg.Audio.HQ_EN = true →
      ∃ t, exec (.hqStop v w) s = .next t ∧ t.rdB .audio 0 Reg.Audio.HQ_EN = false ∧ t.audio.hqReady = none ∧ t.power = s.power ∧
        t.mem = s.mem) ∧
    (Reaches s v .audio 0x124 0 → ∀ addr u, u = s.wrFields .audio 0 0x124 (setField w.toNat 31 1 1) Reg.Audio.all →
      addr = u.rd .audio 0 Reg.Audio.CAL_LO + u.rd .audio 0 Reg.Audio.CAL_HI * 2 ^ 32 → addr < transBase →
      s.domOn (memDomain addr) = true → s.upsets = [] →
      ∃ t, exec (.calLoad v w) s = .next t ∧
        t.audio.calNext = (match parseCal (s.bytes addr 0x800) with | some c => some c | none => s.audio.calNext) ∧
        (parseCal (s.bytes addr 0x800) = none → t.rd .audio 0 Reg.Audio.CAL_BAD = 1 ∧ IrqSet t .audio 0 3) ∧
        t.audio.cal = s.audio.cal ∧ t.mem = s.mem)

/-- An underrun of a channel marks it, with its UNDERRUN bit and IRQ_RAW bit 2; it resumes no sooner than 24 samples after its data moves
again; MUTE_N low mutes at once: the peaks read 0, microphone power is off and the mute lamp on, until it rises. (Log 58.) -/
def Obligations.ChannelsAndMute : Prop :=
  ∀ s : State,
    (∀ c, c < 8 → ∃ t, exec (.channelUnderrun c) s = .next t ∧ (SMap.get {} t.audio.chans c).under = true ∧
      (∀ k, k ≠ c → SMap.get {} t.audio.chans k = SMap.get {} s.audio.chans k) ∧ t.mem = s.mem ∧
      ((SMap.get {} s.audio.chans c).under = false → bitAt (t.rd .audio 0 Reg.Audio.UNDERRUN) c = true ∧ IrqSet t .audio 0 2)) ∧
    (∀ c, c < 8 → (SMap.get {} s.audio.chans c).under = true → exec (.channelResume c) s = .next (s.setAudio { s.audio with
      chans := SMap.set {} s.audio.chans c { SMap.get {} s.audio.chans c with resume := some (s.audio.sidx + 24) } })) ∧
    (∃ t, exec .muteAssert s = .next t ∧ t.audio.muted = true ∧ t.audio.muteLow = true ∧ t.audio.micPwr = false ∧
      t.audio.muteInd = true ∧ t.audio.sidx = s.audio.sidx ∧ t.mem = s.mem ∧
      (s.audio.muted = false → t.rd .audio 0 Reg.Audio.MUTED = 1 ∧ IrqSet t .audio 0 1) ∧
      ∀ c, c < 8 → t.rd .audio 0 (Reg.Audio.PEAK_PLAIN c) = 0 ∧ t.rd .audio 0 (Reg.Audio.PEAK_GAINED c) = 0) ∧
    (s.audio.muteLow = true → exec .muteRelease s = .next (s.setAudio
      { s.audio with muteLow := false, unmuteWait := true, micPwr := true, muteInd := false }))

/-- An audio output port: EN is accepted where its clock divides and refused, with a count, where it does not; a frame takes the next frame
of the ring and moves RD on, or sends zeros and counts an underflow; PERIOD frames signal the port's tally and start the count again. (Log
59.) -/
def Obligations.AudioOutputs : Prop :=
  (∀ (s : State) (v : View) (port : Nat) (w : Word) (u : State), port < 2 → Reaches s v .aout (0x100 + 0x40 * port) 0 →
    s.rdB .aout 0 (Reg.Aout.EN port) = false →
    u = s.wrFields .aout 0 (0x100 + 0x40 * port) (setField (setField w.toNat 10 1 1) 10 1 0) Reg.Aout.all →
    (u.aoutOk port = true → ∃ t, exec (.aoutEnable v port w) s = .next t ∧ t.rd .aout 0 (Reg.Aout.EN port) = 1 ∧
      SMap.get 0 t.audio.aoutCount port = 0 ∧ t.mem = s.mem) ∧
    (u.aoutOk port = false → exec (.aoutEnable v port w) s = .next (u.errCount .aout 0 0 1))) ∧
  ∀ (s : State) (port : Nat), port < 2 →
    (∀ n rd sz addr, s.domOn 24 = true → s.rdB .aout 0 (Reg.Aout.EN port) = true → n = s.aoutSlots port →
      rd = s.rd .aout 0 (Reg.Aout.RD port) → sz = (if s.rdB .aout 0 (Reg.Aout.DATA_W port) then 4 else 2) →
      addr = s.rd2 .aout 0 (Reg.Aout.SRC_LO port) (Reg.Aout.SRC_HI port) + rd * n * sz →
      (rd = s.rd .aout 0 (Reg.Aout.WR port) → ∃ t, exec (.aoutFrame port) s = .next t ∧
        t.out = s.out ++ [.audioFrame port (List.replicate n 0)] ∧
        t.rd .aout 0 (Reg.Aout.UNDERFLOW port) = (count31 (s.rd .aout 0 (Reg.Aout.UNDERFLOW port)) 1).1 ∧
        t.rd .aout 0 (Reg.Aout.RD port) = rd ∧ t.mem = s.mem) ∧
      (rd ≠ s.rd .aout 0 (Reg.Aout.WR port) → s.domOn (memDomain addr) = true → s.upsets = [] → ∃ t, exec (.aoutFrame port) s = .next t ∧
        t.out = s.out ++ [.audioFrame port ((List.range n).map fun i => s.num (addr + i * sz) sz /
          (if s.rdB .aout 0 (Reg.Aout.DATA_W port) then 256 else 1))] ∧
        t.rd .aout 0 (Reg.Aout.RD port) = (if s.rd .aout 0 (Reg.Aout.FRAMES port) ≤ rd + 1 then 0 else rd + 1) % 2 ^ 16 ∧
        SMap.get 0 t.audio.aoutCount port = SMap.get 0 s.audio.aoutCount port + 1 ∧ t.mem = s.mem)) ∧
    (∀ per, per = s.rd .aout 0 (Reg.Aout.PERIOD port) → per ≠ 0 → per ≤ SMap.get 0 s.audio.aoutCount port →
      ∃ t, exec (.aoutPeriodSignal port) s = .next t ∧
        SMap.get 0 t.audio.aoutCount port = SMap.get 0 s.audio.aoutCount port - per ∧
        t.tallies = (if s.rdB .aout 0 (Reg.Aout.SIG_EN port) then (s.signalTally (s.rd .aout 0 (Reg.Aout.TALLY port)) 1).tallies
          else s.tallies) ∧ t.mem = s.mem)

/-! ### Cameras -/

/-- Packets of a channel that a receiver takes: FS opens the channel's frame and FE closes it; a second FS and a lone FE count in ERR_CNT3;
a corrected header counts in ERR_CNT0 and an uncorrectable one in ERR_CNT1, with the packet dropped; line packets are accepted and change
nothing; a deskew is noted. -/
def Obligations.PacketsOfAChannel : Prop :=
  ∀ (s : State) (port vc : Nat), s.rxReady port = true →
    (bitAt (s.rd (.csi port) 0 Reg.Csi.VC_EN) vc = true → vc < 16 →
      (∃ t, exec (.frameStart port vc .clean) s = .next t ∧ SMap.get false t.cams.opened (port * 16 + vc) = true ∧
        (∀ k, k ≠ port * 16 + vc → SMap.get false t.cams.opened k = SMap.get false s.cams.opened k) ∧
        (SMap.get false s.cams.opened (port * 16 + vc) = false →
          t.rd (.csi port) 0 (Reg.Hdr.ERR_CNT 3) = s.rd (.csi port) 0 (Reg.Hdr.ERR_CNT 3))) ∧
      (SMap.get false s.cams.opened (port * 16 + vc) = true → ∃ t, exec (.frameEnd port vc .clean) s = .next t ∧
        SMap.get false t.cams.opened (port * 16 + vc) = false) ∧
      (SMap.get false s.cams.opened (port * 16 + vc) = false →
        exec (.frameEnd port vc .clean) s = .next (s.errCount (.csi port) 0 3 1)) ∧
      exec (.lineShortPacket port vc .clean) s = .next s ∧
      exec (.lineShortPacket port vc .corrected) s = .next (s.errCount (.csi port) 0 0 1)) ∧
    (∀ c, c ∈ [Instr.frameStart port vc .uncorrectable, .frameEnd port vc .uncorrectable, .lineShortPacket port vc .uncorrectable] →
      exec c s = .next (s.errCount (.csi port) 0 1 1)) ∧
    (bitAt (s.rd (.csi port) 0 Reg.Csi.VC_EN) vc = false → ∀ c,
      c ∈ [Instr.frameStart port vc .clean, .frameEnd port vc .clean, .lineShortPacket port vc .clean] →
      exec c s = .next (s.errCount (.csi port) 0 2 1)) ∧
    (s.domOn 20 = true → port < 6 → s.st (.csi port) 0 = 1 →
      exec (.deskewReceived port) s = .next (s.setCams { s.cams with deskewed := SMap.set false s.cams.deskewed port true }))

/-- A long packet: a data type that no unit takes counts in ERR_CNT2; a failed CRC counts in the channel's CRC counter, here of a channel
that no unit takes; a pixel line of a context's own data type joins its open frame, while the frame has room, padded or cut to WIDTH.
Details are those of logs 32 and 62. -/
def Obligations.LongPackets : Prop :=
  ∀ (s : State) (p : LongPkt), s.rxReady p.port = true → p.hdr = .clean → bitAt (s.rd (.csi p.port) 0 Reg.Csi.VC_EN) p.vc = true →
    (p.dt ≠ 0x12 → dtBits p.dt = none → exec (.longPacket p) s = .next (s.errCount (.csi p.port) 0 2 1)) ∧
    (p.crcOk = false → (p.dt = 0x12 ∨ dtBits p.dt ≠ none) → s.boundCtx p.port p.vc = [] → s.binTakes p.port p.vc = false →
      exec (.longPacket p) s = .next (s.count (.csi p.port) 0 (Reg.Csi.CRC_VC (p.vc % 16)) (Reg.Csi.CRC_VC_SAT (p.vc % 16)) 1)) ∧
    (∀ c f fs, s.boundCtx p.port p.vc = [c] → c < 32 → p.crcOk = true → s.rd (.ctx c) 0 Reg.Ctx.DT = p.dt → p.dt ≠ 0x12 →
      dtBits p.dt ≠ none → (s.cam c).frames = fs ++ [f] → f.ended = false → (s.cam c).dropping = false → f.lines.length ≠ s.ctxH c →
      (s.cam c).held < s.ringLines c → s.binTakes p.port p.vc = false →
      ∃ t row, exec (.longPacket p) s = .next t ∧ row = (fitLine (s.ctxW c) (fun i => s.padPixel c f.bank i f.lines.length)
          (unpackLine p.dt p.payload)).1 ∧
        (∃ g, (t.cam c).frames = fs ++ [g] ∧ g.lines = f.lines ++ [row] ∧ g.received = f.received + 1 ∧ g.crcLines = f.crcLines) ∧
        (∀ d, d ≠ c → t.cam d = s.cam d) ∧ t.regs = s.regs ∧ t.mem = s.mem)

/-- COMMIT pends the shadow bank of a context; CIS_RES takes a reservation that fits beside the quotas and covers the running contexts, and
otherwise only counts. -/
def Obligations.ContextRegisters : Prop :=
  ∀ (s : State) (v : View) (w : Word),
    (∀ c, c < 32 → Reaches s v (.ctx c) 0x154 0 → exec (.shadowCommit v c w) s = .next (s.wr (.ctx c) 0 Reg.Ctx.PENDING 1)) ∧
    (∀ p n u, p < 2 → Reaches s v (.isp p) 0x104 0 → n = field w.toNat 16 11 →
      u = s.wrFields (.isp p) 0 0x104 (setField w.toNat 16 11 (s.rd (.isp p) 0 Reg.Isp.CIS_RES)) Reg.Isp.all →
      ((sumNat ((List.range 8).map u.quota) + n + u.rd (.isp (1 - p)) 0 Reg.Isp.CIS_RES ≤ u.cisFrames.length ∧ u.needSum p ≤ n →
        exec (.cisRes v p w) s = .next (u.wr (.isp p) 0 Reg.Isp.CIS_RES n)) ∧
       (¬ (sumNat ((List.range 8).map u.quota) + n + u.rd (.isp (1 - p)) 0 Reg.Isp.CIS_RES ≤ u.cisFrames.length ∧ u.needSum p ≤ n) →
        exec (.cisRes v p w) s = .next (u.errCount (.isp p) 0 0 1))))

/-- WORK_ITEM takes the item of the context that the pipeline picks, reported in ACTIVE_CTX, and counts a switch where the item before was
another context's. A whole frame whose FE has not arrived is only taken; a stripe with more of its frame to come leaves the frame first, with
one stripe more; the last stripe, or a whole frame with its FE, delivers the frame, which leaves the queue and counts. A deadline that passes without an FS skips a
frame: the deadline's reference moves on and the next frame is late; a window that passes without a member's FS marks that member absent.
Details are those of log 62. -/
def Obligations.CameraEvents : Prop :=
  (∀ (s : State) (p c : Nat) (f : FrameS) (rest : List FrameS), p < 2 → s.domOn (18 + p) = true → s.pick p = some c → c < 32 →
    (s.cam c).frames = f :: rest →
    ((s.mux c = false → f.ended = false → ∃ t, exec (.workItem p) s = .next t ∧ SMap.get 0 t.cams.lastCtx p = c + 1 ∧
        t.rd (.isp p) 0 Reg.Isp.ACTIVE_CTX = c ∧ (t.cam c).frames = { f with taken := true } :: rest ∧
        (∀ d, d ≠ c → t.cam d = s.cam d) ∧ t.power = s.power ∧ t.mem = s.mem ∧
        t.rd (.isp p) 0 Reg.Isp.SWITCHES = (if SMap.get 0 s.cams.lastCtx p = 0 ∨ SMap.get 0 s.cams.lastCtx p = c + 1 then
          s.rd (.isp p) 0 Reg.Isp.SWITCHES else (count31 (s.rd (.isp p) 0 Reg.Isp.SWITCHES) 1).1)) ∧
     ((s.mux c = true ∨ f.ended = true) → AllOn s [memDomain (s.ctxOut c), memDomain (s.ctxStat c)] →
      ∃ t, exec (.workItem p) s = .next t ∧ SMap.get 0 t.cams.lastCtx p = c + 1 ∧ t.rd (.isp p) 0 Reg.Isp.ACTIVE_CTX = c ∧
        t.power = s.power ∧
        (s.mux c = true → f.stripes + 1 < s.stripeCount c → (t.cam c).delivered = (s.cam c).delivered ∧
          ∃ g, (t.cam c).frames = g :: rest ∧ g.stripes = f.stripes + 1 ∧ g.taken = false ∧ g.lines = f.lines) ∧
        (s.mux c = false ∨ s.stripeCount c ≤ f.stripes + 1 → (t.cam c).frames = rest ∧
          (t.cam c).delivered = (s.cam c).delivered + 1)))) ∧
  (∀ (s : State) (c d t0 : Nat), c < 32 → s.st (.ctx c) 0 = 1 → d = s.rd (.ctx c) 0 Reg.Ctx.DEADLINE → d ≠ 0 → s.groupNo c = 0 →
    (s.cam c).tRef = some t0 →
    ∃ t, exec (.deadlineSkip c) s = .next t ∧ (t.cam c).tRef = some (t0 + d * 1000) ∧ (t.cam c).skipped = true ∧
      (t.cam c).freshRef = true ∧ (t.cam c).frames = (s.cam c).frames ∧ t0 + d * 1000 ≤ t.now) ∧
  ∀ (s : State) (g c m d : Nat), g < 8 → (s.group g).started = true → (s.group g).centre = some m → c < 32 →
    bitAt (s.rd (.isp 0) 0 (Reg.Isp.MEMBERS g)) c = true → bitAt (s.rd (.isp 0) 0 (Reg.Isp.MEMBERS g)) d = true → d < 32 → d ≠ c →
    (s.group g).absent = [] → (s.group g).present = [] → (s.group g).waiting = [] →
    ∃ t, exec (.groupAbsent g c) s = .next t ∧ c ∈ (t.group g).absent ∧ (t.group g).slot = (s.group g).slot ∧
      (t.cam c).freshRef = true ∧ m + s.rd (.isp 0) 0 (Reg.Isp.TOL g) * 1000 ≤ t.now

/-! ### Host and service ports -/

/-- The PCIe link: PERST_N rising trains it once step 5e has passed, and falling resets the PCIE domain only; D3cold leaves the domain OFF with COLD;
link up makes an OFF domain ON with COLD; replays count in ERR_CNT0, and a fourth one retrains the link and counts in ERR_CNT1. Unmasking an
MSI-X vector sends its pending message, at once where no weir of its function holds it, unless IDE drops it (R342). (Log 4.) -/
def Obligations.PcieLink : Prop :=
  (∀ s : State, exec .perstNRise s = .next { s with ports := { s.ports with
      perstN := true, link := if s.ports.lanesOk = true ∧ (s.ports.link = .down ∨ s.ports.link = .d3cold) then .training else s.ports.link } }) ∧
  (∀ s : State, ∃ t, exec .perstNFall s = .next t ∧ t.ports.perstN = false ∧ t.ports.link = .down ∧ t.sec.ide = [] ∧ t.power = s.power ∧
    t.mem = s.mem ∧ t.tallies = s.tallies ∧ t.arrays = s.arrays ∧ t.audio = s.audio ∧
    ∀ fn f, f.off < 0x1000 → f.lsb < 32 → t.rd .pcie fn f = f.reset) ∧
  (∀ s : State, ∃ t, exec .hostD3cold s = .next t ∧ (t.dom 22).st = .off ∧ (t.dom 22).req = 0 ∧ (t.dom 22).cold = true ∧ t.ports.link = .d3cold ∧ t.mem = s.mem ∧
    ∀ d, d ≠ 22 → t.dom d = s.dom d) ∧
  (∀ s : State, (s.ports.link = .training → ∃ t, exec .pcieLinkUp s = .next t ∧ t.ports.link = .up ∧ (t.dom 22).st = .on ∧
      (t.dom 22).cold = ((s.dom 22).cold || (s.dom 22).st == .off) ∧ (∀ d, d ≠ 22 → t.dom d = s.dom d) ∧ t.regs = s.regs ∧ t.mem = s.mem) ∧
    (s.ports.link = .recovery → exec .pcieLinkUp s = .next { s with ports := { s.ports with link := .up } })) ∧
  (∀ s : State, s.domOn 22 = true → exec .pcieTlpReplay s = .next (s.errCount .pcie 0 0 1) ∧
    (s.ports.link = .up → ∃ t, exec .pcieLinkRecovery s = .next t ∧ t.ports.link = .recovery ∧ t.mem = s.mem ∧ t.power = s.power ∧
      t.rd .pcie 0 (Reg.Hdr.ERR_CNT 1) = (count31 (s.rd .pcie 0 (Reg.Hdr.ERR_CNT 1)) 1).1)) ∧
  ∀ (s : State) (fn k : Nat), fn ≤ 8 → k < 16 → ∃ t, exec (.msixUnmask fn k) s = .next t ∧
    (SMap.get {} t.ports.msix (msixKey fn k)) = { masked := false, pendingBit := false } ∧ t.regs = s.regs ∧ t.mem = s.mem ∧
    (fn = 0 ∨ ((s.ports.heldTlps.any fun h => h.1 == fn) = false ∧ s.weirHolds (fn - 1) 2 = false) →
      t.out = (if (SMap.get {} s.ports.msix (msixKey fn k)).masked && (SMap.get {} s.ports.msix (msixKey fn k)).pendingBit &&
        !s.ideDrops fn then s.out ++ [.msixMessage fn k] else s.out))

/-- Host DMA: a write of TAIL is taken while no fault stands and counted otherwise; a bad descriptor faults the context with code 1, and
with code 8 where IDE drops its reads (R342); one
line outbound leaves as a host write, and one line inbound is stored with its ingest digest record, HEAD and XFERS moving on; a completion
timeout faults the context with code 8. The contexts here are those of the physical function, but for the faults. (Log 63.) -/
def Obligations.HostDma : Prop :=
  (∀ (s : State) (v : View) (w : Word) (fn : Nat), Reaches s v .pcie 0x10C fn →
    (s.rd .pcie fn Reg.Pcie.HD_FAULT = 0 → exec (.hostDmaTail v w) s = .next (s.wr .pcie fn Reg.Pcie.TAIL w.toNat)) ∧
    (s.rd .pcie fn Reg.Pcie.HD_FAULT ≠ 0 → exec (.hostDmaTail v w) s = .next (s.errCount .pcie 0 0 1))) ∧
  (∀ (s : State) (fn : Nat) (desc data : List Byte) (e : Bool) (c : Instr) (code : Nat), s.hdReady fn = true →
    (c = .hostDmaDescriptor fn desc data e ∧ s.ideDrops fn = false ∧ (decodeHostDesc desc).bad = true ∧ code = 1) ∨
      (c = .hostDmaDescriptor fn desc data e ∧ s.ideDrops fn = true ∧ code = 8) ∨ (c = .completionTimeout fn ∧ code = 8) →
    ∃ t, exec c s = .next t ∧ t.st .pcie fn = 3 ∧ t.rd .pcie fn Reg.Pcie.HD_FAULT = code ∧
      t.rd .pcie fn Reg.Pcie.FAULT_IDX = s.rd .pcie fn Reg.Pcie.HEAD % 2 ^ 12 ∧ t.rd .pcie fn Reg.Pcie.HEAD = s.rd .pcie fn Reg.Pcie.HEAD ∧
      IrqSet t .pcie 0 0 ∧ t.mem = s.mem ∧ t.tier = s.tier) ∧
  ∀ (s : State) (desc data : List Byte) (d : HostDesc) (n len dig : Nat), s.hdReady 0 = true → s.ideDrops 0 = false → d = decodeHostDesc desc → d.bad = false →
    d.len = 64 → SMap.get 0 s.ports.hdLine 0 = 0 → n = SMap.get 0 s.ports.hdXfer 0 → len = max 1 (s.rd .pcie 0 Reg.Pcie.RING_LEN) →
    dig = s.rd2 .pcie 0 Reg.Pcie.DIG_LO Reg.Pcie.DIG_HI + 48 * (n % len) → s.hdLineFault 0 d.obj d.obj (!d.out) = none →
    AllOn s (s.hdDomains d.obj 64 ++ s.hdDomains (s.rd2 .pcie 0 Reg.Pcie.DIG_LO Reg.Pcie.DIG_HI) 1) →
    (d.out = true → s.upsets = [] → s.wellErrs = [] → ∃ t, exec (.hostDmaDescriptor 0 desc data false) s = .next t ∧
      t.out = s.out ++ [.hostWrite 0 d.host (s.bytes (s.addrOf d.obj) 64)] ∧ t.mem = s.mem ∧
      t.rd .pcie 0 Reg.Pcie.HEAD = (s.rd .pcie 0 Reg.Pcie.HEAD + 1) % len % 2 ^ 12 ∧ SMap.get 0 t.ports.hdXfer 0 = n + 1 ∧
      t.rd .pcie 0 Reg.Pcie.XFERS = (count31 (s.rd .pcie 0 Reg.Pcie.XFERS) 1).1) ∧
    (d.out = false → s.hdLineFault 0 dig dig true = none → s.hdLineFault 0 dig (dig + 47) true = none → dig % pageBytes + 48 ≤ pageBytes →
      ∃ t, exec (.hostDmaDescriptor 0 desc data false) s = .next t ∧
        t.mem = ((s.dstore (s.addrOf d.obj) (sliceBytes data 0 64)).dstore (s.addrOf dig)
          ((ingestRecord 2 8 n (sliceBytes data 0 64)).take 48)).mem ∧
        t.rd .pcie 0 Reg.Pcie.HEAD = (s.rd .pcie 0 Reg.Pcie.HEAD + 1) % len % 2 ^ 12 ∧ SMap.get 0 t.ports.hdXfer 0 = n + 1 ∧ t.out = s.out)

/-- Flash, I3C, UART and JTAG, with STEWARD ON: in READY a program or erase command changes its range of the flash and nothing else, or is
counted where the SEALED device refuses it; an I3C interrupt or hot-join request is queued with at most 4 bytes and acknowledged, or NACKed and
counted while 16 wait; in standpipe the service answers reads and "query" from the failure record, and outside it neither answers; a character
is queued, or dropped with the overrun mark while 64 wait, a framing error or a break counts, and "restart" with CR restarts the device. JTAG:
BYPASS selects the bypass register and IDCODE answers the identification; the two debug modules and EXTEST are selected, and bus reads and
writes are done, where their bit of DBG_SCOPE grants them, and otherwise the bypass register is selected; a bus access to a direct address
that is not populated does nothing, and a write does not change a well frame that an entry names. The queues and the bypass are those of logs
61 and 63. -/
def Obligations.ServicePorts : Prop :=
  (∀ (s : State) (addr len : Nat) (data : List Byte) (u : Bool), s.rd .sys 0 Reg.Sys.STAGE = 6 → s.domOn 23 = true →
    (s.sec.lc = 2 → inBootCopy addr data.length = true → u = false →
      exec (.xspiCommand (.program addr data u)) s = .next (s.errCount .xspi 0 0 1)) ∧
    (s.sec.lc ≠ 2 ∨ inBootCopy addr data.length = false ∨ u = true → ∃ t, exec (.xspiCommand (.program addr data u)) s = .next t ∧
      (∀ x, SMap.get 0xFF t.ports.flash x = if addr ≤ x ∧ x < addr + data.length then nth 0 data (x - addr) else
        SMap.get 0xFF s.ports.flash x) ∧ t.regs = s.regs ∧ t.mem = s.mem) ∧
    (s.sec.lc ≠ 2 ∨ inBootCopy addr len = false ∨ u = true → ∃ t, exec (.xspiCommand (.erase addr len u)) s = .next t ∧
      (∀ x, SMap.get 0xFF t.ports.flash x = if addr ≤ x ∧ x < addr + len then 0xFF else SMap.get 0xFF s.ports.flash x) ∧
      t.regs = s.regs ∧ t.mem = s.mem) ∧
    (s.sec.lc = 2 → inBootCopy addr len = true → u = false →
      exec (.xspiCommand (.erase addr len u)) s = .next (s.errCount .xspi 0 0 1))) ∧
  (∀ (s : State) (target : Nat) (p : List Byte) (c : Instr), s.domOn 23 = true → s.st .i3c 0 ≠ 0 → s.rd .sys 0 Reg.Sys.STAGE ≠ 15 →
    c = .i3cIbi target p ∨ (c = .i3cHotJoin target ∧ p = []) →
    (s.ports.ibi.length < 16 → exec c s = .next ({ s with ports := { s.ports with ibi := s.ports.ibi ++ [(target, p.take 4)] } }.emit
      (.i3cIbiAck target))) ∧
    (16 ≤ s.ports.ibi.length → exec c s = .next ((s.errCount .i3c 0 1 1).emit (.i3cNack target)))) ∧
  (∀ s : State, s.rd .sys 0 Reg.Sys.STAGE = 15 →
    (∀ n, exec (.i3cPrivateRead n) s = .next (s.emit (.i3cData ((List.range n).map s.recordByte)))) ∧
    exec .uartQuery s = .next { s with out := s.out ++ s.standpipeLines.map Out.uartLine }) ∧
  (∀ s : State, s.rd .sys 0 Reg.Sys.STAGE ≠ 15 → (∀ n, exec (.i3cPrivateRead n) s = .next s) ∧ exec .uartQuery s = .next s) ∧
  (∀ (s : State) (c : Nat), s.uartOn = true →
    ((s.ports.uartCmd ++ [c]).drop ((s.ports.uartCmd ++ [c]).length - 8) ≠ restartString → s.rd .sys 0 Reg.Sys.STAGE ≠ 15 →
      ∃ t, exec (.uartReceive (.char c)) s = .next t ∧ t.ports.uartRx = (if 64 ≤ s.ports.uartRx.length then s.ports.uartRx else
        s.ports.uartRx ++ [c]) ∧ t.ports.uartOverrun = (s.ports.uartOverrun || decide (64 ≤ s.ports.uartRx.length)) ∧ t.regs = s.regs ∧
        t.mem = s.mem) ∧
    ((s.ports.uartCmd ++ [c]).drop ((s.ports.uartCmd ++ [c]).length - 8) = restartString →
      s.rd .sys 0 Reg.Sys.STAGE = 6 ∨ s.rd .sys 0 Reg.Sys.STAGE = 15 →
      ∃ t, exec (.uartReceive (.char c)) s = .next t ∧ t.boot.running = true ∧ t.boot.runs = (s.boot.runs + 1) % 2 ^ 32 ∧
        t.rd .sys 0 Reg.Sys.STAGE = 4 ∧ t.audio.sidx = s.audio.sidx ∧ t.mem = []) ∧
    exec (.uartReceive .framingError) s = .next (s.errCount .uart 0 0 1) ∧ exec (.uartReceive .brk) s = .next (s.errCount .uart 0 0 1)) ∧
  ∀ (s : State) (addr : Nat) (d : Byte),
    exec (.jtagAccess .bypass) s = .next { s with ports := { s.ports with jtagBypass := true } } ∧
    exec (.jtagAccess .idcode) s = .next ({ s with ports := { s.ports with jtagBypass := false } }.emit (.jtagData 0x17A079DD)) ∧
    exec (.jtagAccess .stewardDm) s = .next { s with ports := { s.ports with jtagBypass := !bitAt s.sec.dbgScope 0 } } ∧
    exec (.jtagAccess .aon) s = .next { s with ports := { s.ports with jtagBypass := !bitAt s.sec.dbgScope 1 } } ∧
    exec (.jtagAccess .extest) s = .next { s with ports := { s.ports with jtagBypass := !bitAt s.sec.dbgScope 2 } } ∧
    (bitAt s.sec.dbgScope 3 = false → exec (.jtagAccess (.busRead addr)) s = .next { s with ports := { s.ports with jtagBypass := true } } ∧
      exec (.jtagAccess (.busWrite addr d)) s = .next { s with ports := { s.ports with jtagBypass := true } }) ∧
    (bitAt s.sec.dbgScope 3 = true → s.populated addr = false →
      exec (.jtagAccess (.busRead addr)) s = .next { s with ports := { s.ports with jtagBypass := false } } ∧
      exec (.jtagAccess (.busWrite addr d)) s = .next { s with ports := { s.ports with jtagBypass := false } }) ∧
    (bitAt s.sec.dbgScope 3 = true → s.populated addr = true → addr < transBase → s.domOn (memDomain addr) = true →
      (s.upsets = [] → ∃ t, exec (.jtagAccess (.busRead addr)) s = .next t ∧ t.out = s.out ++ [.jtagData (s.byte addr).toNat] ∧
        t.mem = s.mem ∧ t.regs = s.regs) ∧
      (s.tier.dirty = [] → addr < wellBase ∨ s.frameNamed (pageFrame (addr / pageBytes)) = false →
        ∃ t, exec (.jtagAccess (.busWrite addr d)) s = .next t ∧ (∀ x, t.byte x = if x = addr then d else s.byte x) ∧
          t.regs = s.regs) ∧
      (s.tier.dirty = [] → wellBase ≤ addr → s.frameNamed (pageFrame (addr / pageBytes)) = true →
        ∃ t, exec (.jtagAccess (.busWrite addr d)) s = .next t ∧ t.mem = s.mem ∧ t.regs = s.regs))

/-- The auxiliary stream port: a word enters the sluice of 8192, or is dropped and counted; DRAIN_GO takes a length that the sluice holds and
counts another one; the end of a drain stores its words into the ring and its digest record, and moves the ring and the transfer number on. -/
def Obligations.AuxiliaryStreamPort : Prop :=
  (∀ (s : State) (d : BitVec 64), s.domOn 23 = true → s.st .asp 0 = 1 →
    (s.ports.sluice.length < 8192 → ∃ t, exec (.aspWord d) s = .next t ∧ t.ports.sluice = s.ports.sluice ++ [d] ∧ t.mem = s.mem ∧
      t.rd .asp 0 Reg.Asp.DROPPED = s.rd .asp 0 Reg.Asp.DROPPED) ∧
    (8192 ≤ s.ports.sluice.length → ∃ t, exec (.aspWord d) s = .next t ∧ t.ports.sluice = s.ports.sluice ∧ t.mem = s.mem ∧
      t.rd .asp 0 Reg.Asp.DROPPED = (count31 (s.rd .asp 0 Reg.Asp.DROPPED) 1).1 ∧ t.rd .asp 0 Reg.Asp.OVERRUN = 1 ∧ IrqSet t .asp 0 1)) ∧
  (∀ (s : State) (v : View) (w : Word), Reaches s v .asp 0x10C 0 → s.ports.drain = none →
    (field w.toNat 0 14 ≤ s.ports.sluice.length → ∃ t, exec (.drainGo v w) s = .next t ∧ t.ports.drain = some (field w.toNat 0 14) ∧
      t.rd .asp 0 Reg.Asp.DRAIN_GO = 1 ∧ t.rd .asp 0 Reg.Asp.DRAIN_LEN = field w.toNat 0 14 ∧ t.ports.sluice = s.ports.sluice ∧ t.mem = s.mem) ∧
    (s.ports.sluice.length < field w.toNat 0 14 → ∃ t, exec (.drainGo v w) s = .next t ∧ t.ports.drain = none ∧ t.mem = s.mem ∧
      t.ports.sluice = s.ports.sluice ∧ t.rd .asp 0 (Reg.Hdr.ERR_CNT 1) = (count31 (s.rd .asp 0 (Reg.Hdr.ERR_CNT 1)) 1).1)) ∧
  ∀ (s : State) (n k len off dst dig : Nat) (data : List Byte), s.ports.drain = some n → (∀ d, s.domOn d = true) →
    k = s.rd .asp 0 Reg.Asp.XFER_NUM → len = max 1 (s.rd .asp 0 Reg.Asp.DST_LEN) → off = s.rd .asp 0 Reg.Asp.DST_OFF →
    dst = s.rd2 .asp 0 Reg.Asp.DST_LO Reg.Asp.DST_HI →
    dig = s.rd2 .asp 0 Reg.Asp.DIG_LO Reg.Asp.DIG_HI + 48 * (k % (s.rd .asp 0 Reg.Asp.DIG_SLOTS_M1 + 1)) →
    data = ((s.ports.sluice.take n).flatMap fun w => leBytes 8 w.toNat) →
    ∃ t, exec .aspDrainEnd s = .next t ∧ t.ports.sluice = s.ports.sluice.drop n ∧ t.ports.drain = none ∧
      t.mem = ((s.aspStore dst (data.zipIdx.map fun x => (dst + (off + x.2) % len, x.1))).aspStore dig
        ((ingestRecord 3 0 k data).zipIdx.map fun x => (dig + x.2, x.1))).mem ∧
      t.rd .asp 0 Reg.Asp.DST_OFF = (off + data.length) % len % 2 ^ 24 ∧ t.rd .asp 0 Reg.Asp.XFER_NUM = (k + 1) % 2 ^ 32 ∧
      t.rd .asp 0 Reg.Asp.DRAIN_GO = 0 ∧ IrqSet t .asp 0 0

/-! ### The high-voltage side -/

/-- The coulomb counter: a settled sample of value e, with the settling ones before it, adds e for each to the accumulator, which stays
within its limits; a lost frame counts and takes the last value; a settling sample waits for the first valid one; four samples out of range
change RANGE, with two samples to settle. A waiting Q_LOAD is applied first. (Log 64.) -/
def Obligations.GaugeCurrent : Prop :=
  (∀ (s : State) (c c1 e acc x : Int) (n : Nat), s.gauge.settle = 0 → c1 = clampInt (-(2 ^ 23)) (2 ^ 23 - 1) c →
    e = (if s.rdB .hv 0 Reg.Hv.RANGE then 8 * c1 else c1) → n = s.gauge.unsettled + 1 →
    acc = (if s.rdB .hv 0 Reg.Hv.Q_LOAD then toInt 48 (s.rd2 .hv 0 Reg.Hv.QSET_LO Reg.Hv.QSET_HI) * 256 else s.gauge.acc) → x = acc + e * n →
    ∃ t, exec (.gaugeCurrentSample (.code c)) s = .next t ∧
      t.gauge.acc = (if qLim < x / 256 then qLim * 256 else if x / 256 < -qLim then -qLim * 256 else x) ∧
      t.gauge.lastE = e ∧ t.gauge.unsettled = 0 ∧ t.rdB .hv 0 Reg.Hv.Q_LOAD = false ∧ t.rd .hv 0 Reg.Hv.I_CODE = ofInt 27 e ∧
      t.gauge.outRun = (if s.rdB .hv 0 Reg.Hv.RANGE then (if c1.natAbs ≤ 786432 then s.gauge.outRun + 1 else 0)
        else if 7864320 ≤ c1.natAbs then s.gauge.outRun + 1 else 0) ∧ t.mem = s.mem) ∧
  (∀ s : State, s.rdB .hv 0 Reg.Hv.Q_LOAD = false →
    (∀ c, 0 < s.gauge.settle → exec (.gaugeCurrentSample (.code c)) s = .next { s with gauge := { s.gauge with
      settle := s.gauge.settle - 1, unsettled := s.gauge.unsettled + 1, outRun := 0 } }) ∧
    ∃ t, exec (.gaugeCurrentSample .lost) s = .next t ∧
      t.rd .hv 0 (Reg.Hdr.ERR_CNT 0) = (count31 (s.rd .hv 0 (Reg.Hdr.ERR_CNT 0)) 1).1 ∧
      t.rd .hv 0 Reg.Hv.Q_UNC = (count31 (s.rd .hv 0 Reg.Hv.Q_UNC) 524288).1 ∧ t.gauge.lastE = s.gauge.lastE ∧ t.mem = s.mem ∧
      (0 < s.gauge.settle → t.gauge.acc = s.gauge.acc ∧ t.gauge.unsettled = s.gauge.unsettled + 1)) ∧
  ∀ s : State, 4 ≤ s.gauge.outRun → ∃ t, exec .gaugeRangeChange s = .next t ∧
    t.rdB .hv 0 Reg.Hv.RANGE = !s.rdB .hv 0 Reg.Hv.RANGE ∧ t.gauge.settle = 2 ∧ t.gauge.outRun = 0 ∧ t.gauge.rest = 0 ∧
    t.gauge.acc = s.gauge.acc ∧ t.rd .hv 0 Reg.Hv.Q_UNC =
      (count31 (s.rd .hv 0 Reg.Hv.Q_UNC) (if s.rdB .hv 0 Reg.Hv.RANGE then 1048576 else 2097152)).1 ∧ t.mem = s.mem

/-- The gauge's estimates: a voltage sample sets VPACK_MV, and both estimates or TABLE_BAD, and GAUGE_DISAGREE follows their difference;
EMPTY sets after eight samples of a condition and clears after eight of neither; a long rest re-anchors the counter at SOC_V; Q_LOAD waits
for the next current sample. The re-anchor and Q_LOAD follow log 64. -/
def Obligations.GaugeEstimates : Prop :=
  (∀ (s : State) (mv ntc : Nat) (f : Bool), ∃ t, exec (.gaugeVoltageSample mv ntc f) s = .next t ∧
    t.rd .hv 0 Reg.Hv.VPACK_MV = min mv 65535 ∧ t.gauge.acc = s.gauge.acc ∧ t.mem = s.mem ∧
    (s.tableBad = true → t.rd .hv 0 Reg.Hv.TABLE_BAD = 1 ∧ t.rd .hv 0 Reg.Hv.SOC_Q = 0 ∧ t.rd .hv 0 Reg.Hv.SOC_V = 0) ∧
    (s.tableBad = false → t.rd .hv 0 Reg.Hv.TABLE_BAD = 0 ∧ t.rd .hv 0 Reg.Hv.SOC_Q = s.socQ.toNat ∧
      t.rd .hv 0 Reg.Hv.SOC_V = (s.socV (min mv 65535)).toNat ∧ (t.rdB .hv 0 Reg.Hv.GAUGE_DISAGREE =
        decide (s.rd .hv 0 Reg.Hv.DIS_TH < (s.socQ - s.socV (min mv 65535)).natAbs)) ∧
      (s.rdB .hv 0 Reg.Hv.GAUGE_DISAGREE = false → t.rdB .hv 0 Reg.Hv.GAUGE_DISAGREE = true → IrqSet t .hv 0 0) ∧
      t.gauge.holdQ = (if s.socQ = 0 ∧ s.socV (min mv 65535) ≤ s.rd .hv 0 Reg.Hv.EMPTY_SOC then s.gauge.holdQ + 1 else 0) ∧
      t.gauge.holdV = (if min mv 65535 ≤ s.rd .hv 0 Reg.Hv.CUTOFF_MV then s.gauge.holdV + 1 else 0) ∧
      t.gauge.clearHold = (if t.gauge.holdQ = 0 ∧ t.gauge.holdV = 0 then s.gauge.clearHold + 1 else 0))) ∧
  ∀ s : State,
    (s.rdB .hv 0 Reg.Hv.EMPTY = false → 8 ≤ s.gauge.holdQ ∨ 8 ≤ s.gauge.holdV →
      ∃ t, exec .gaugeEmptySet s = .next t ∧ t.rd .hv 0 Reg.Hv.EMPTY = 1 ∧ IrqSet t .hv 0 1 ∧ t.gauge = s.gauge ∧ t.mem = s.mem) ∧
    (8 ≤ s.gauge.clearHold → exec .gaugeEmptyClear s = .next (s.wr .hv 0 Reg.Hv.EMPTY 0)) ∧
    (180000 < s.gauge.rest → s.rdB .hv 0 Reg.Hv.TABLE_BAD = false → s.rdB .hv 0 Reg.Hv.Q_LOAD = false →
      ∃ t, exec .gaugeReanchor s = .next t ∧ t.gauge.acc = (s.rd .hv 0 Reg.Hv.SOC_V * s.capacity / 65536 : Nat) * 256 ∧ t.gauge.rest = 0 ∧
        t.rd .hv 0 Reg.Hv.Q_UNC = 0 ∧ t.rd .hv 0 Reg.Hv.ANCHORS = (count31 (s.rd .hv 0 Reg.Hv.ANCHORS) 1).1 ∧ IrqSet t .hv 0 2 ∧
        t.mem = s.mem) ∧
    ∀ (v : View) (w : Word), Reaches s v .hv 0x120 0 → ∃ t, exec (.qLoad v w) s = .next t ∧ t.rd .hv 0 Reg.Hv.Q_LOAD = 1 ∧
      t.rd .hv 0 Reg.Hv.QSET_HI = field w.toNat 0 16 ∧ t.gauge = s.gauge ∧ t.mem = s.mem

/-- The panel: an accepted GO starts the pumps with BUSY, a refused one only reports its reason; with the pumps ready the journal is set and
phase 0 drives the outputs; each phase end begins the next one, and the last one moves TARGET into IMAGE within REGION and parks the panel; a
supply that falls through 2.9 V stops the pumps and parks every output, and during an update it sets JRN_SFAIL, keeps the rest of the journal
and IMAGE, adds JRN_REGION to CLEAN_REQ, counts in ERR_CNT2 and sets IRQ_RAW bit 4, while without an update nothing is recorded; a level of
2.9 V or more resumes nothing. -/
def Obligations.Panel : Prop :=
  (∀ (s : State) (v : View) (w : Word), Reaches s v .hv 0x200 0 →
    (s.panelRefusal (field w.toNat 0 2) = 0 → ∃ t, exec (.panelGo v w) s = .next t ∧ t.rd .hv 0 Reg.Hv.BUSY = 1 ∧
      t.rd .hv 0 Reg.Hv.WAVE = field w.toNat 0 2 ∧ t.rd .hv 0 Reg.Hv.PHASE = 0 ∧ t.panel = { s.panel with pumps := true, phases := false } ∧
      t.mem = s.mem) ∧
    (s.panelRefusal (field w.toNat 0 2) ≠ 0 → ∃ t, exec (.panelGo v w) s = .next t ∧
      t.rd .hv 0 Reg.Hv.P_ERR = s.panelRefusal (field w.toNat 0 2) ∧ t.panel = s.panel ∧ IrqSet t .hv 0 5 ∧
      t.rd .hv 0 (Reg.Hdr.ERR_CNT 1) = (count31 (s.rd .hv 0 (Reg.Hdr.ERR_CNT 1)) 1).1 ∧ t.mem = s.mem)) ∧
  (∀ (s : State) (e : Nat), s.domOn 25 = true → s.panel.pumps = true → s.panel.phases = false → s.rdB .hv 0 Reg.Hv.BUSY = true →
    e = s.phaseEntry (s.rd .hv 0 Reg.Hv.WAVE) 0 → s.rd .hv 0 Reg.Hv.WAVE < 4 → ∃ t, exec .panelPumpsReady s = .next t ∧
      t.rd .hv 0 Reg.Hv.JRN_VALID = 1 ∧ t.rd .hv 0 Reg.Hv.JRN_WAVE = s.rd .hv 0 Reg.Hv.WAVE ∧
      (∀ i, i < 3 → t.rd .hv 0 (Reg.Hv.JRN_REGION i) = s.rd .hv 0 (Reg.Hv.REGION i) % 2 ^ 32) ∧
      t.panel.phases = true ∧ t.panel.segs = (List.range 96).map (s.segLevel e) ∧ t.panel.com = field e 10 2 ∧ t.mem = s.mem) ∧
  (∀ (s : State) (w i : Nat), s.domOn 25 = true → s.panel.phases = true → w = s.rd .hv 0 Reg.Hv.WAVE → i = s.rd .hv 0 Reg.Hv.PHASE →
    (i + 1 < s.rd .hv 0 (Reg.Hv.NPHASE w) → ∃ t, exec .panelPhaseEnd s = .next t ∧ t.rd .hv 0 Reg.Hv.PHASE = (i + 1) % 2 ^ 5 ∧
      t.rd .hv 0 Reg.Hv.JRN_PHASE = (i + 1) % 2 ^ 5 ∧ t.panel.segs = (List.range 96).map (s.segLevel (s.phaseEntry w (i + 1))) ∧
      t.panel.com = field (s.phaseEntry w (i + 1)) 10 2 ∧ t.mem = s.mem) ∧
    (s.rd .hv 0 (Reg.Hv.NPHASE w) ≤ i + 1 → ∃ t, exec .panelPhaseEnd s = .next t ∧ t.rd .hv 0 Reg.Hv.BUSY = 0 ∧
      t.rd .hv 0 Reg.Hv.JRN_VALID = 0 ∧ t.panel.pumps = false ∧ t.panel.phases = false ∧ t.panel.segs = List.replicate 96 0 ∧
      (∀ k, k < 3 → t.rd .hv 0 (Reg.Hv.IMAGE k) = or32 (clr32 (s.rd .hv 0 (Reg.Hv.IMAGE k)) (s.rd .hv 0 (Reg.Hv.REGION k)))
        (and32 (s.rd .hv 0 (Reg.Hv.TARGET k)) (s.rd .hv 0 (Reg.Hv.REGION k)))) ∧ IrqSet t .hv 0 3 ∧ t.mem = s.mem)) ∧
  ∀ (s : State) (mv : Nat),
    (2900 ≤ mv → exec (.hvSupplyFail mv) s = .next { s with panel := { s.panel with vddHv := mv } }) ∧
    (mv < 2900 → 2900 ≤ s.panel.vddHv → s.rdB .hv 0 Reg.Hv.BUSY = true → ∃ t, exec (.hvSupplyFail mv) s = .next t ∧
      t.rd .hv 0 Reg.Hv.BUSY = 0 ∧ t.rd .hv 0 Reg.Hv.JRN_SFAIL = 1 ∧ t.panel.segs = List.replicate 96 0 ∧ t.panel.pumps = false ∧
      t.panel.com = 0 ∧ t.panel.vddHv = mv ∧ (∀ k, k < 3 → t.rd .hv 0 (Reg.Hv.CLEAN_REQ k) =
        or32 (s.rd .hv 0 (Reg.Hv.CLEAN_REQ k)) (s.rd .hv 0 (Reg.Hv.JRN_REGION k)) ∧
        t.rd .hv 0 (Reg.Hv.JRN_REGION k) = s.rd .hv 0 (Reg.Hv.JRN_REGION k) ∧
        t.rd .hv 0 (Reg.Hv.IMAGE k) = s.rd .hv 0 (Reg.Hv.IMAGE k)) ∧ t.rd .hv 0 Reg.Hv.JRN_WAVE = s.rd .hv 0 Reg.Hv.JRN_WAVE ∧
      t.rd .hv 0 Reg.Hv.JRN_PHASE = s.rd .hv 0 Reg.Hv.JRN_PHASE ∧ IrqSet t .hv 0 4 ∧ t.mem = s.mem ∧
      t.rd .hv 0 (Reg.Hdr.ERR_CNT 2) = (count31 (s.rd .hv 0 (Reg.Hdr.ERR_CNT 2)) 1).1) ∧
    (mv < 2900 → 2900 ≤ s.panel.vddHv → s.rdB .hv 0 Reg.Hv.BUSY = false → ∃ t, exec (.hvSupplyFail mv) s = .next t ∧
      t.panel.pumps = false ∧ t.panel.segs = List.replicate 96 0 ∧ t.panel.com = 0 ∧ t.panel.vddHv = mv ∧ t.mem = s.mem ∧ t.out = s.out ∧
      ∀ p b f, regKey p b f ≠ regKey .hv 0 Reg.Hv.BUSY → regKey p b f ≠ regKey .hv 0 Reg.Hv.PHASE → t.rd p b f = s.rd p b f)

/-- The panel's journal, IMAGE and CLEAN_REQ hold through the RETENTION and OFF of EPD and through every reset but the AON power-on reset, which
sets CLEAN_REQ to all ones and IMAGE to zeros; while CLEAN_REQ is not zero only a cleanup refresh that covers it is taken, so that the first
update after that reset covers all 96 segments. -/
def Obligations.PanelJournalHolds : Prop :=
  (∀ (s t : State) (c : Instr) (v : View) (w : Word) (n : Nat) (tq : Int) (tqs : List Int) (f : Fld),
    c ∈ [.porstNFall, .restart v w, .thermalTrip n tq, .thermalTripRelease tqs, .perstNFall, .hostD3cold, .vfFlr n, .domainEntry 25,
      .domainWake 25, .domainReady 25] → s.stalled = [] → exec c s = .next t →
    f ∈ [Reg.Hv.JRN_VALID, Reg.Hv.JRN_SFAIL, Reg.Hv.JRN_WAVE, Reg.Hv.JRN_PHASE] ++ (List.range 3).map Reg.Hv.JRN_REGION ++
      (List.range 3).map Reg.Hv.IMAGE ++ (List.range 3).map Reg.Hv.CLEAN_REQ → t.rd .hv 0 f = s.rd .hv 0 f) ∧
  (∀ s : State, ∃ t, exec .aonPowerOnReset s = .next t ∧ ∀ k, k < 3 → t.rd .hv 0 (Reg.Hv.CLEAN_REQ k) = 0xFFFFFFFF ∧
    t.rd .hv 0 (Reg.Hv.IMAGE k) = 0) ∧
  ∀ (s : State) (k w : Nat), k < 3 → s.rd .hv 0 (Reg.Hv.CLEAN_REQ k) ≠ 0 → s.panelRefusal w = 0 →
    s.rdB .hv 0 (Reg.Hv.CLEAN w) = true ∧
      ∀ i j, i < 3 → j < 32 → bitAt (s.rd .hv 0 (Reg.Hv.CLEAN_REQ i)) j = true → bitAt (s.rd .hv 0 (Reg.Hv.REGION i)) j = true

/-! ### Resets and bring-up -/

/-- Bring-up and resets: PORST_N rising runs the sequence from step 1; falling loses memory and clears RUNS, and keeps SIDX, the gauge, the
flash and the operating points; the AON power-on reset keeps fuses and flash only; the verdict ends the sequence with a record of 256 bytes
in stage 6 or 15; RESTART is taken in those stages and counted in any other. What each reset keeps is the reading of logs 55 and 56. -/
def Obligations.ResetsAndBringUp : Prop :=
  (∀ (s : State) (x : SelfTest), s.boot.porstN = false → s.boot.tripped = false → ∃ t, exec (.porstNRise x) s = .next t ∧
    t.boot.porstN = true ∧ t.boot.running = true ∧ t.boot.runs = (s.boot.runs + 1) % 2 ^ 32 ∧ t.rd .sys 0 Reg.Sys.STAGE = 4 ∧
    t.rd .fuse 0 Reg.Fuse.FUSE_OK = b2n (x.fuseOk && s.countsOk) ∧ t.mem = s.mem ∧ t.audio = s.audio) ∧
  (∀ s : State, ∃ t, exec .porstNFall s = .next t ∧ t.boot.porstN = false ∧ t.boot.runs = 0 ∧ t.boot.running = false ∧ t.mem = [] ∧
    t.rd .sys 0 Reg.Sys.STAGE = 0 ∧ t.audio.sidx = s.audio.sidx ∧ t.gauge = s.gauge ∧ t.ports.flash = s.ports.flash ∧ t.images = [] ∧
    (∀ a, a ≤ 8 → t.rd (.ma a) 0 Reg.Ma.OPP_REQ = s.rd (.ma a) 0 Reg.Ma.OPP_REQ ∧ t.oppAct a = s.oppAct a) ∧
    t.rd .hv 0 Reg.Hv.JRN_VALID = s.rd .hv 0 Reg.Hv.JRN_VALID) ∧
  (∀ s : State, s.boot.porstN = false → ∃ t, exec .aonPowerOnReset s = .next t ∧ t.mem = [] ∧ t.audio.sidx = 0 ∧ t.gauge = {} ∧
    t.ports.flash = s.ports.flash ∧ t.tallies = [] ∧ t.images = [] ∧ t.rd .sys 0 Reg.Sys.STAGE = 0 ∧
    ∀ f, 0x100 ≤ f.off → f.off < 0x1000 → f.lsb < 32 → t.rd .fuse 0 f = s.rd .fuse 0 f) ∧
  (∀ s : State, s.boot.running = true → ∃ t, exec .selfTestVerdict s = .next t ∧ t.boot.running = false ∧ t.boot.record.length = 256 ∧
    t.rd .floor 0 Reg.Floor.ARR_PRESENT = ((s.failed s.boot.test.defects).arrPresent + 256) % 2 ^ 9 ∧ t.mem = s.mem ∧
    (t.rd .sys 0 Reg.Sys.STAGE = 6 ∨ (t.rd .sys 0 Reg.Sys.STAGE = 15 ∧ t.boot.faultN = true))) ∧
  ∀ (s : State) (v : View) (w : Word), Reaches s v .sys 0x108 0 →
    (s.rd .sys 0 Reg.Sys.STAGE = 6 ∨ s.rd .sys 0 Reg.Sys.STAGE = 15 → ∃ t, exec (.restart v w) s = .next t ∧ t.boot.running = true ∧
      t.boot.runs = (s.boot.runs + 1) % 2 ^ 32 ∧ t.rd .sys 0 Reg.Sys.STAGE = 4 ∧ t.audio.sidx = s.audio.sidx ∧ t.mem = []) ∧
    (s.rd .sys 0 Reg.Sys.STAGE ≠ 6 → s.rd .sys 0 Reg.Sys.STAGE ≠ 15 → exec (.restart v w) s = .next (s.errCount .sys 0 0 1))

/-! ### Temperature, supplies and clocks -/

/-- Temperature and supplies: at 112 °C the device trips into its reset, and leaves it below 95 °C; a throttle step goes four points down
and back by one, with THROTTLED in between; VDD_MA without headroom marks the island and takes a step down; its collapse leaves every ON main array OFF, COLD
and in FAULT; a rail that is restored counts as there again. (Logs 52 and 54.) -/
def Obligations.TemperatureAndSupplies : Prop :=
  (∀ (s : State) (k : Nat) (q : Int), k ≤ 10 → 448 ≤ q → s.boot.tripped = false → ∃ t, exec (.thermalTrip k q) s = .next t ∧
    t.boot.tripped = true ∧ t.rd .therm 0 Reg.Therm.TRIPPED = 1 ∧ t.mem = [] ∧ t.boot.runs = s.boot.runs ∧ t.rd .sys 0 Reg.Sys.STAGE = 0) ∧
  (∀ (s : State) (q : List Int), s.boot.tripped = true → q.length = 11 → (∀ x ∈ q, x < 380) → s.boot.porstN = true →
    ∃ t, exec (.thermalTripRelease q) s = .next t ∧ t.boot.tripped = false ∧ t.boot.running = true ∧ t.rd .sys 0 Reg.Sys.STAGE = 4 ∧
      (∀ i, i < 11 → t.rd .therm 0 (Reg.Therm.TJ_Q i) = ofInt 11 (nth 0 q i)) ∧ t.mem = s.mem) ∧
  (∀ (s : State) (a x stall : Nat), a ≤ 8 → s.domOn (arrDomain a) = true →
    (s.oppAct a ≠ 0 → ∃ t, exec (.throttleStepDown a stall) s = .next t ∧ t.oppAct a = (s.oppAct a - 4) % 2 ^ 5 ∧
      t.rdB (.ma a) 0 Reg.Ma.THROTTLED = true ∧ t.mem = s.mem ∧
      t.rd (.ma a) 0 Reg.Ma.THROT_STEPS = (count31 (s.rd (.ma a) 0 Reg.Ma.THROT_STEPS) 1).1) ∧
    (x = (if s.oppAct a < s.oppWant a then (s.oppAct a + 1) % 2 ^ 5 else s.oppAct a) → s.rdB (.ma a) 0 Reg.Ma.THROTTLED = true →
      ∃ t, exec (.throttleStepUp a stall) s = .next t ∧ t.oppAct a = x ∧
        t.rdB (.ma a) 0 Reg.Ma.THROTTLED = decide (x < s.oppWant a) ∧ t.mem = s.mem)) ∧
  (∀ (s : State) (a mv stall : Nat), a ≤ 8 → s.domOn (arrDomain a) = true → ∃ t, exec (.headroomLow a mv stall) s = .next t ∧
    t.rd .therm 0 Reg.Therm.VMA_MV = min mv 1023 ∧ t.mem = s.mem ∧
    (t.rdB (.ma a) 0 Reg.Ma.HEADROOM_LOW = (s.rdB (.ma a) 0 Reg.Ma.HEADROOM_LOW || decide (mv < islandMv a (s.oppAct a) + 25))) ∧
    (mv < islandMv a (s.oppAct a) + 25 → t.oppAct a = (s.oppAct a - 4) % 2 ^ 5)) ∧
  (∀ (s : State) (mv : Nat), (580 ≤ mv → exec (.vddMaCollapse mv) s = .next (s.wr .therm 0 Reg.Therm.VMA_MV (min mv 1023))) ∧
    (mv < 580 → s.power.seq = none → ∀ a, a < 8 → (s.dom (arrDomain a)).st = .on → ∃ t, exec (.vddMaCollapse mv) s = .next t ∧
      (t.dom (arrDomain a)).st = .off ∧ (t.dom (arrDomain a)).cold = true ∧ (∀ c ∈ s.ctxs a, t.st (.ma a) c = 3) ∧
      (∀ x, t0Base a ≤ x → x < t0Base a + 384 * pageBytes → t.byte x = 0) ∧ IrqSet t .sys 0 1)) ∧
  ∀ (s : State) (mv : Nat),
    exec (.supplyRailRestored .lpddr mv) s = .next { s with supply := { s.supply with lpRemoved := false } } ∧
    ∃ t, exec (.supplyRailRestored .vddMa mv) s = .next t ∧ t.supply.vmaRemoved = false ∧ t.rd .therm 0 Reg.Therm.VMA_MV = min mv 1023 ∧
      t.power = s.power ∧ t.mem = s.mem

/-- Clocks, training and telemetry: a settled operating point, the fallback of the real-time clock, a hot channel, a retraining of present
channels while the LPDDR page is STOPPED, and the end of a telemetry window, with what each leaves. (Log 53.) -/
def Obligations.ClocksAndTelemetry : Prop :=
  ∀ s : State,
    (∀ a, a < 8 → ∃ t, exec (.oppSettled a) s = .next t ∧ (t.arr a).oppSettling = false ∧ t.regs = s.regs ∧ t.mem = s.mem ∧
      ∀ b, b ≠ a → t.arr b = s.arr b) ∧
    exec .rtcFallback s = .next { s with supply := { s.supply with rtcInternal := true } } ∧
    (∀ c hot, c < 8 → exec (.lpddrHot c hot) s = .next (s.wr .lpddr 0 Reg.Lpddr.HOT
      (if hot then or32 (s.rd .lpddr 0 Reg.Lpddr.HOT) (2 ^ c) else clr32 (s.rd .lpddr 0 Reg.Lpddr.HOT) (2 ^ c)))) ∧
    (∀ (v : View) (w : Word) (ok chs : Nat), Reaches s v .phy 0x104 0 →
      (s.st .lpddr 0 = 0 → chs = and32 (field w.toNat 0 8) (s.rd .floor 0 Reg.Floor.CH_PRESENT) →
        ∃ t, exec (.retrain v w ok) s = .next t ∧
          t.rd .lpddr 0 Reg.Lpddr.CH_READY = or32 (clr32 (s.rd .lpddr 0 Reg.Lpddr.CH_READY) chs) (and32 chs (ok % 256)) % 2 ^ 8 ∧
          t.rd .phy 0 Reg.Phy.TRAIN_DONE = or32 (clr32 (s.rd .phy 0 Reg.Phy.TRAIN_DONE) chs) (and32 chs (ok % 256)) % 2 ^ 8 ∧
          t.rd .phy 0 Reg.Phy.TRAIN_FAIL = or32 (clr32 (s.rd .phy 0 Reg.Phy.TRAIN_FAIL) chs) (and32 chs (clr32 255 ok)) % 2 ^ 8 ∧
          t.mem = s.mem) ∧
      (s.st .lpddr 0 ≠ 0 → exec (.retrain v w ok) s = .next (s.errCount .phy 0 0 1))) ∧
    ∀ mw, ∃ t, exec (.telemWindowEnd mw) s = .next t ∧ t.now = (s.now / 10 ^ 8 + 1) * 10 ^ 8 ∧
      t.rd .therm 0 Reg.Therm.WINDOW = s.now / 10 ^ 8 % 2 ^ 32 ∧ t.rd .therm 0 Reg.Therm.PWR_HALF_W = min (rheDiv (mw : Int) 500).toNat 255 ∧
      t.rd .therm 0 Reg.Therm.THROTTLE = b2n (s.throttled != 0) ∧ t.supply.energy = s.supply.energy + mw ∧ t.mem = s.mem

/-! ### Register pages -/

/-- The header's commands on an array's page: RUN of a STOPPED context of a present array with a schedule runs it from PC 0, and a context
that is not STOPPED only marks START_REFUSED; STOP_REQ stops a context at its boundary at once, and lets another one reach it; PAGE_STOPPED
ends that wait; CFG_OPEN opens configuration on any page that stops, and only marks CFG_WHILE_RUN where it does not stand STOPPED; ERR_CLR
clears the four counters. (Logs 60 and 78.) -/
def Obligations.HeaderCommands : Prop :=
  (∀ (s : State) (v : View) (w : Word) (a bank : Nat), a ≤ 8 → Reaches s v (.ma a) 0x008 bank → bitAt w.toNat 2 = false →
    bitAt w.toNat 3 = false →
    (bitAt w.toNat 1 = false → s.st (.ma a) bank = 0 → s.rdB .floor 0 (Reg.Floor.PRESENT a) = true →
      s.rd (.ma a) bank Reg.Ma.SCHED_LEN ≠ 0 → ∃ t, exec (.run v ((Page.ma a).base + 0x008) w) s = .next t ∧ t.st (.ma a) bank = 1 ∧
        t.rd (.ma a) bank Reg.Ma.PC = 0 ∧ t.rd (.ma a) bank Reg.Ma.PASSES = 0 ∧ t.mem = s.mem) ∧
    (bitAt w.toNat 1 = false → s.st (.ma a) bank ≠ 0 → ∃ t, exec (.run v ((Page.ma a).base + 0x008) w) s = .next t ∧
      t.rd (.ma a) bank Reg.Hdr.START_REFUSED = 1 ∧ t.st (.ma a) bank = s.st (.ma a) bank ∧ t.mem = s.mem) ∧
    (bitAt w.toNat 0 = false → s.st (.ma a) bank = 1 → (s.atBoundary (.ma a) bank = true →
        ∃ t, exec (.stopReq v ((Page.ma a).base + 0x008) w) s = .next t ∧ t.st (.ma a) bank = 0 ∧
          t.rd (.ma a) bank Reg.Hdr.STOP_REQ = 0 ∧ (t.arr a).mop = (s.arr a).mop ∧ t.mem = s.mem) ∧
      (s.atBoundary (.ma a) bank = false → ∃ t, exec (.stopReq v ((Page.ma a).base + 0x008) w) s = .next t ∧ t.st (.ma a) bank = 2 ∧
        t.rd (.ma a) bank Reg.Hdr.STOP_REQ = 1 ∧ t.arrays = s.arrays ∧ t.mem = s.mem))) ∧
  (∀ (s : State) (a ctx : Nat), a ≤ 8 → s.st (.ma a) ctx = 2 → s.atBoundary (.ma a) ctx = true →
    ∃ t, exec (.pageStopped (Page.ma a).base ctx) s = .next t ∧ t.st (.ma a) ctx = 0 ∧ t.rd (.ma a) ctx Reg.Hdr.STOP_REQ = 0 ∧
      t.mem = s.mem) ∧
  ∀ (s : State) (v : View) (w : Word) (p : Page) (bank : Nat), Reaches s v p 0x008 bank → bitAt w.toNat 0 = false → bitAt w.toNat 1 = false →
    (p.stops = true → bitAt w.toNat 3 = false → bitAt w.toNat 2 = true →
      (s.st p bank = 0 → exec (.cfgOpen v (p.base + 0x008) w) s = .next (s.wr p bank Reg.Hdr.CFG_OPEN 1)) ∧
      (s.st p bank ≠ 0 → ∃ t, exec (.cfgOpen v (p.base + 0x008) w) s = .next t ∧ t.rd p bank Reg.Hdr.CFG_WHILE_RUN = 1 ∧
        t.rd p bank Reg.Hdr.CFG_OPEN = s.rd p bank Reg.Hdr.CFG_OPEN ∧ IrqSet t p 0 31 ∧ t.mem = s.mem)) ∧
    (p.stops = true → bitAt w.toNat 3 = false → bitAt w.toNat 2 = false →
      exec (.cfgOpen v (p.base + 0x008) w) s = .next (s.wr p bank Reg.Hdr.CFG_OPEN 0)) ∧
    (View.isVf v = false → bitAt w.toNat 2 = false → ∃ t, exec (.errClr v (p.base + 0x008) w) s = .next t ∧
      (∀ i, i < 4 → t.rd p 0 (Reg.Hdr.ERR_CNT i) = 0) ∧ t.st p bank = s.st p bank ∧ t.mem = s.mem)

/-- Interrupts: IRQ_FORCE sets bits of IRQ_RAW (bits 24 to 29 are reserved), IRQ_CLR clears them, IRQ_MASK takes the word, each in the view of its requester alone; no
other register moves. A vector that rises sends its message at once where it is not masked and no weir of its function holds it, unless IDE drops it (R342). The SEAL page's ledger bit follows its
condition. (Log 73.) -/
def Obligations.Interrupts : Prop :=
  ∀ (s : State) (v : View) (w : Word) (p : Page) (bank fn raw : Nat), fn = View.fn v → raw = s.rd p fn Reg.Hdr.IRQ_RAW →
    (Reaches s v p 0x01C bank → ∃ t, exec (.irqForce v (p.base + 0x01C) w) s = .next t ∧
      t.rd p fn Reg.Hdr.IRQ_RAW = or32 raw (irqBits w.toNat) ∧ t.mem = s.mem ∧ t.power = s.power ∧
      (∀ q b f, regKey q b f ≠ regKey p fn Reg.Hdr.IRQ_RAW → t.rd q b f = s.rd q b f) ∧
      (s.vec fn (p.base / 0x10000) = false → and32 (or32 raw (irqBits w.toNat)) (s.rd p fn Reg.Hdr.IRQ_MASK) ≠ 0 →
        (SMap.get {} s.ports.msix (msixKey fn (p.base / 0x10000))).masked = false →
        fn = 0 ∨ ((s.ports.heldTlps.any fun h => h.1 == fn) = false ∧ s.weirHolds (fn - 1) 2 = false) →
        t.out = (if s.ideDrops fn then s.out else s.out ++ [.msixMessage fn (p.base / 0x10000)]))) ∧
    (Reaches s v p 0x018 bank → p ≠ .sealPage ∨ s.seals.ledger.length ≠ 4096 ∨ bitAt w.toNat 1 = false →
      ∃ t, exec (.irqClr v (p.base + 0x018) w) s = .next t ∧ t.rd p fn Reg.Hdr.IRQ_RAW = clr32 raw w.toNat ∧ t.mem = s.mem ∧
        t.power = s.power ∧ ∀ q b f, regKey q b f ≠ regKey p fn Reg.Hdr.IRQ_RAW → t.rd q b f = s.rd q b f) ∧
    (Reaches s v .sealPage 0x018 bank → s.seals.ledger.length = 4096 → bitAt w.toNat 1 = true →
      ∃ t, exec (.irqClr v (Page.sealPage.base + 0x018) w) s = .next t ∧ IrqSet t .sealPage fn 1 ∧ t.mem = s.mem) ∧
    (Reaches s v p 0x014 bank → ∃ t, exec (.irqMask v (p.base + 0x014) w) s = .next t ∧
      t.rd p fn Reg.Hdr.IRQ_MASK = w.toNat ∧ t.rd p fn Reg.Hdr.IRQ_RAW = raw ∧ t.mem = s.mem ∧ t.power = s.power ∧
      ∀ q b f, regKey q b f ≠ regKey p fn Reg.Hdr.IRQ_MASK → t.rd q b f = s.rd q b f)

/-- Plain accesses: the answer of a read leaves as its data, to a virtual function as a completion that its PCIE weir counts; the first header
word reads the page's TYPE, INSTANCE and view; a read of SIDX's low word latches its high word for its
requester, and the high word then reads what was latched; an address without a page reads 0; a misaligned access changes nothing; LPDDR's RATE
is taken only while the page is STOPPED with CFG_OPEN, and marks CFG_WHILE_RUN otherwise. ACK_N frees that many oldest records, and a number
above those held only counts. -/
def Obligations.Accesses : Prop :=
  ∀ (s : State) (v : View),
    (∀ addr w, View.isVf v = false → s.answer v addr w = s.emit (.readData v addr (BitVec.ofNat 32 w))) ∧
    (∀ addr w q, v = .vf q → (s.ports.heldTlps.any fun h => h.1 == q + 1) = false → s.weirHolds q 2 = false →
      s.answer v addr w = (s.chargeWeir (some q) 2 1).emit (.readData v addr (BitVec.ofNat 32 w))) ∧
    (∀ (p : Page) (bank : Nat), Reaches s v p 0 bank → exec (.latchedRead v p.base) s = .next (s.answer v p.base
      (p.type + p.inst * 65536 + View.fn v * 2 ^ 24))) ∧
    (Reaches s v .audio 0x108 0 → exec (.latchedRead v 0x080108) s = .next (State.answer { s with
      latches := SMap.set 0 s.latches (latchKey v 0x08010C) (s.audio.sidx / 2 ^ 32 % 2 ^ 32) } v 0x080108 s.audio.sidx)) ∧
    (Reaches s v .audio 0x10C 0 → exec (.latchedRead v 0x08010C) s = .next (s.answer v 0x08010C
      (SMap.get 0 s.latches (latchKey v 0x08010C)))) ∧
    (∀ addr, addr % 4 = 0 → pageAt addr = none → exec (.latchedRead v addr) s = .next (s.answer v addr 0)) ∧
    (∀ addr size w, addr % 4 ≠ 0 ∨ size ≠ 4 → exec (.registerWrite v addr size w) s = .next s) ∧
    (∀ w : Word, Reaches s v .lpddr 0x100 0 →
      (s.st .lpddr 0 = 0 → s.rdB .lpddr 0 Reg.Hdr.CFG_OPEN = true →
        exec (.registerWrite v 0x0D0100 4 w) s = .next (s.wr .lpddr 0 Reg.Lpddr.RATE (field w.toNat 0 14))) ∧
      (s.st .lpddr 0 ≠ 0 ∨ s.rdB .lpddr 0 Reg.Hdr.CFG_OPEN = false → ∃ t, exec (.registerWrite v 0x0D0100 4 w) s = .next t ∧
        t.rd .lpddr 0 Reg.Lpddr.RATE = s.rd .lpddr 0 Reg.Lpddr.RATE ∧ t.rd .lpddr 0 Reg.Hdr.CFG_WHILE_RUN = 1 ∧ IrqSet t .lpddr 0 31 ∧
        t.mem = s.mem)) ∧
    ∀ w : Word, Reaches s v .sealPage 0x108 0 →
      (field w.toNat 0 13 ≤ s.seals.ledger.length → ∃ t, exec (.ackN v w) s = .next t ∧
        t.seals.ledger = s.seals.ledger.drop (field w.toNat 0 13) ∧ t.seals.seq = s.seals.seq ∧
        t.rd .sealPage 0 Reg.Seal.HEAD = (s.rd .sealPage 0 Reg.Seal.HEAD + field w.toNat 0 13) % 2 ^ 12 ∧ t.mem = s.mem) ∧
      (s.seals.ledger.length < field w.toNat 0 13 → exec (.ackN v w) s = .next (s.errCount .sealPage 0 0 1))

/-- A view that has no bank of a page changes nothing by any write to it and reads 0 there: the pages of Table 17.2 that a virtual function
does not see, arrays of other partitions, and every page for the function of a disabled partition. (Log 51.) -/
def Obligations.NoAccessNoEffect : Prop :=
  ∀ (s : State) (v : View) (p : Page) (off addr size : Nat) (w : Word), pageAt addr = some (p, off) → s.viewBank v p = none →
    exec (.registerWrite v addr size w) s = .next s ∧ exec (.run v addr w) s = .next s ∧ exec (.stopReq v addr w) s = .next s ∧
    exec (.cfgOpen v addr w) s = .next s ∧ exec (.errClr v addr w) s = .next s ∧ exec (.irqClr v addr w) s = .next s ∧
    exec (.irqForce v addr w) s = .next s ∧ exec (.irqMask v addr w) s = .next s ∧ exec (.pwrReq v addr w) s = .next s ∧
    exec (.cntClr v addr w) s = .next s ∧
    (addr % 4 = 0 → s.pageRemoved p = false → exec (.latchedRead v addr) s = .next (s.answer v addr 0))
end

