-- ==== Sys2Proof/Laws/Tables.lean ====
section
/-! SUPPORT. The laws of sparse tables: a read after a write, and the canonical form. -/

namespace Sys2Proof.Machine

variable {α : Type}

@[simp] theorem SMap.get_nil (d : α) (k : Nat) : SMap.get d [] k = d := rfl

theorem SMap.get_without_self (d : α) (m : SMap α) (k : Nat) : SMap.get d (SMap.without k m) k = d := by
  induction m with
  | nil => rfl
  | cons e t ih =>
    obtain ⟨k', v⟩ := e
    by_cases h : k' = k
    · simp [SMap.without, h, ih]
    · simp [SMap.without, SMap.get, h, ih]

theorem SMap.get_without_other (d : α) (m : SMap α) {k j : Nat} (h : j ≠ k) :
    SMap.get d (SMap.without k m) j = SMap.get d m j := by
  induction m with
  | nil => rfl
  | cons e t ih =>
    obtain ⟨k', v⟩ := e
    by_cases hk : k' = k
    · subst hk
      simp [SMap.without, SMap.get, ih, h.symm]
    · simp [SMap.without, SMap.get, hk, ih]

theorem SMap.get_ins_self (d : α) (m : SMap α) (k : Nat) (v : α) :
    SMap.get d (SMap.ins k v (SMap.without k m)) k = v := by

  induction m with
  | nil => simp [SMap.without, SMap.ins, SMap.get]
  | cons e t ih =>
    obtain ⟨k', v'⟩ := e
    by_cases hk : k' = k
    · simp [SMap.without, hk, ih]
    · by_cases hl : k < k'
      · simp [SMap.without, SMap.ins, SMap.get, hk, hl]
      · simp [SMap.without, SMap.ins, SMap.get, hk, hl, ih]

theorem SMap.get_ins_other (d : α) (m : SMap α) {k j : Nat} (v : α) (h : j ≠ k) :
    SMap.get d (SMap.ins k v m) j = SMap.get d m j := by
  induction m with
  | nil => simp [SMap.ins, SMap.get, h.symm]
  | cons e t ih =>
    obtain ⟨k', v'⟩ := e
    by_cases hl : k < k'
    · simp [SMap.ins, SMap.get, hl, h.symm]
    · simp [SMap.ins, SMap.get, hl, ih]

variable [DecidableEq α]

/-- A key reads what was last written to it. -/
@[simp] theorem SMap.get_set_self (d : α) (m : SMap α) (k : Nat) (v : α) : SMap.get d (SMap.set d m k v) k = v := by
  unfold SMap.set
  split
  · next h => rw [h, SMap.get_without_self]
  · exact SMap.get_ins_self d m k v

/-- A write leaves every other key alone, whatever default the reader takes. -/
theorem SMap.get_set_other (d d' : α) (m : SMap α) {k j : Nat} (v : α) (h : j ≠ k) :
    SMap.get d' (SMap.set d m k v) j = SMap.get d' m j := by
  unfold SMap.set
  split
  · exact SMap.get_without_other d' m h
  · rw [SMap.get_ins_other d' _ v h, SMap.get_without_other d' m h]

theorem SMap.get_set (d : α) (m : SMap α) (k j : Nat) (v : α) :
    SMap.get d (SMap.set d m k v) j = if j = k then v else SMap.get d m j := by
  split
  · next h => rw [h, SMap.get_set_self]
  · next h => exact SMap.get_set_other d d m v h

/-! ### The canonical form -/

/-- A bound below which no key lies may be lowered. -/
theorem SMap.wfFrom_mono (d : α) (m : SMap α) {lo hi : Option Nat}
    (hl : ∀ x, lo = some x → ∃ y, hi = some y ∧ x ≤ y) (h : SMap.wfFrom d hi m = true) : SMap.wfFrom d lo m = true := by
  cases m with
  | nil => rfl
  | cons e t =>
    obtain ⟨k, v⟩ := e
    simp only [SMap.wfFrom, Bool.and_eq_true] at h ⊢
    refine ⟨⟨?_, h.1.2⟩, h.2⟩
    cases lo with
    | none => rfl
    | some x =>
      obtain ⟨y, rfl, hy⟩ := hl x rfl
      simp at h ⊢
      omega

theorem SMap.wfFrom_without (d : α) (m : SMap α) (k : Nat) {lo : Option Nat} (h : SMap.wfFrom d lo m = true) :
    SMap.wfFrom d lo (SMap.without k m) = true := by
  induction m generalizing lo with
  | nil => rfl
  | cons e t ih =>
    obtain ⟨k', v⟩ := e
    simp only [SMap.wfFrom, Bool.and_eq_true] at h
    unfold SMap.without
    split
    · refine ih (SMap.wfFrom_mono d t ?_ h.2)
      intro x hx
      subst hx
      exact ⟨k', rfl, by simpa using Nat.le_of_lt (of_decide_eq_true h.1.1)⟩
    · simp only [SMap.wfFrom, Bool.and_eq_true]
      exact ⟨h.1, ih h.2⟩

theorem SMap.wfFrom_ins (d : α) (m : SMap α) (k : Nat) (v : α) {lo : Option Nat} (hv : v ≠ d)
    (hlo : ∀ x, lo = some x → x < k) (h : SMap.wfFrom d lo (SMap.without k m) = true) :
    SMap.wfFrom d lo (SMap.ins k v (SMap.without k m)) = true := by
  induction m generalizing lo with
  | nil =>
    cases lo with
    | none => simp [SMap.without, SMap.ins, SMap.wfFrom, hv]
    | some x => simp [SMap.without, SMap.ins, SMap.wfFrom, hv, hlo x rfl]
  | cons e t ih =>
    obtain ⟨k', v'⟩ := e
    by_cases hk : k' = k
    · simp only [SMap.without, hk, if_true] at h ⊢
      exact ih hlo h
    · simp only [SMap.without, hk, if_false] at h ⊢
      simp only [SMap.wfFrom, Bool.and_eq_true] at h
      unfold SMap.ins
      split
      · next hl =>
        simp only [SMap.wfFrom, Bool.and_eq_true]
        refine ⟨⟨?_, by simp [hv]⟩, ⟨by simpa using hl, h.1.2⟩, h.2⟩
        cases lo with
        | none => rfl
        | some x => simpa using hlo x rfl
      · next hl =>
        simp only [SMap.wfFrom, Bool.and_eq_true]
        refine ⟨h.1, ih ?_ h.2⟩
        intro x hx
        cases hx
        omega

/-- A write keeps the canonical form. -/
theorem SMap.wf_set (d : α) (m : SMap α) (k : Nat) (v : α) (h : SMap.wf d m = true) : SMap.wf d (SMap.set d m k v) = true := by
  unfold SMap.set SMap.wf
  split
  · exact SMap.wfFrom_without d m k h
  · next hv => exact SMap.wfFrom_ins d m k v hv (by simp) (SMap.wfFrom_without d m k h)

theorem SMap.wfFrom_filter (d : α) (p : Nat × α → Bool) (m : SMap α) {lo : Option Nat} (h : SMap.wfFrom d lo m = true) :
    SMap.wfFrom d lo (m.filter p) = true := by
  induction m generalizing lo with
  | nil => rfl
  | cons e t ih =>
    obtain ⟨k', v⟩ := e
    simp only [SMap.wfFrom, Bool.and_eq_true] at h
    simp only [List.filter_cons]
    split
    · simp only [SMap.wfFrom, Bool.and_eq_true]
      exact ⟨h.1, ih h.2⟩
    · refine ih (SMap.wfFrom_mono d t ?_ h.2)
      intro x hx
      subst hx
      exact ⟨k', rfl, by simpa using Nat.le_of_lt (of_decide_eq_true h.1.1)⟩

/-- Dropping entries keeps the canonical form. -/
theorem SMap.wf_filter (d : α) (p : Nat × α → Bool) (m : SMap α) (h : SMap.wf d m = true) : SMap.wf d (m.filter p) = true :=
  SMap.wfFrom_filter d p m h

end Sys2Proof.Machine
end

