-- ==== Sys2Proof/Laws/Memory.lean ====
section
/-! SUPPORT. The laws of memory under direct addresses: what a byte reads after a write, and that every operation on memory keeps
its canonical form. -/

namespace Sys2Proof.Machine

/-! ### Reads after writes -/

theorem Memory.byte_put (m : List Host.Cell) (a x : Nat) (b : Byte) :
    Memory.byte (Memory.put m a b) x = if x = a then b else Memory.byte m x := SMap.get_set 0 m a x b

theorem Memory.byte_puts_outside (d : List Byte) (m : List Host.Cell) (a x : Nat) (h : x < a ∨ a + d.length ≤ x) :
    Memory.byte (Memory.puts m a d) x = Memory.byte m x := by
  induction d generalizing m a with
  | nil => rfl
  | cons b t ih =>
    simp only [List.length_cons] at h
    rw [Memory.puts, ih _ _ (by omega), Memory.byte_put, if_neg (by omega)]

theorem Memory.byte_puts_inside (d : List Byte) (m : List Host.Cell) (a i : Nat) (h : i < d.length) :
    Memory.byte (Memory.puts m a d) (a + i) = d[i] := by
  induction d generalizing m a i with
  | nil => simp at h
  | cons b t ih =>
    cases i with
    | zero => rw [Memory.puts, Memory.byte_puts_outside _ _ _ _ (by omega), Memory.byte_put]; simp
    | succ j =>
      have := ih (Memory.put m a b) (a + 1) j (by simpa using h)
      rw [Memory.puts, show a + (j + 1) = a + 1 + j by omega, this]
      rfl

/-- Every byte after a store: the bytes stored where they were stored, and what was there before elsewhere. -/
theorem State.byte_store (s : State) (a x : Nat) (d : List Byte) :
    (s.store a d).byte x = if h : a ≤ x ∧ x < a + d.length then d[x - a]'(by omega) else s.byte x := by
  split
  · next h =>
    have := Memory.byte_puts_inside d s.mem a (x - a) (by omega)
    rw [show a + (x - a) = x by omega] at this
    exact this
  · next h => exact Memory.byte_puts_outside d s.mem a x (by omega)

theorem SMap.get_filter_key (p : Nat → Bool) (m : List Host.Cell) (x : Nat) :
    SMap.get (0 : Byte) (m.filter fun c => p c.1) x = if p x then SMap.get 0 m x else 0 := by
  induction m with
  | nil => simp
  | cons e t ih =>
    obtain ⟨k, v⟩ := e
    by_cases hp : p k = true
    · simp only [List.filter_cons, hp, if_true, SMap.get]
      split
      · next h => subst h; simp [hp]
      · exact ih
    · have hf : p k = false := by simpa using hp
      rw [List.filter_cons_of_neg (by simpa using hp), ih]
      by_cases hk : k = x
      · subst hk
        simp [hf]
      · simp [SMap.get, hk]

/-- Every byte after a range is zeroed. -/
theorem State.byte_zero (s : State) (a n x : Nat) : (s.zero a n).byte x = if a ≤ x ∧ x < a + n then 0 else s.byte x := by
  have := SMap.get_filter_key (fun k => decide (k < a) || decide (a + n ≤ k)) s.mem x
  simp only [State.byte, State.zero, Memory.byte] at this ⊢
  rw [this]
  by_cases h : a ≤ x ∧ x < a + n
  · simp [h]
  · rw [if_neg h, if_pos]
    simp only [Bool.or_eq_true, decide_eq_true_eq]
    omega

theorem Memory.length_bytes (m : List Host.Cell) (a n : Nat) : (Memory.bytes m a n).length = n := by
  induction n generalizing a with
  | zero => rfl
  | succ k ih => simp [Memory.bytes, ih]

theorem Memory.getElem_bytes (m : List Host.Cell) (a n i : Nat) (h : i < (Memory.bytes m a n).length) :
    (Memory.bytes m a n)[i] = Memory.byte m (a + i) := by
  induction n generalizing a i with
  | zero => simp [Memory.bytes] at h
  | succ k ih =>
    cases i with
    | zero => rfl
    | succ j =>
      have := ih (a + 1) j (by simpa [Memory.bytes] using h)
      simp only [Memory.bytes, List.getElem_cons_succ, this]
      congr 1
      omega

/-! ### The canonical form -/

theorem Memory.wf_put (m : List Host.Cell) (a : Nat) (b : Byte) (h : Memory.wf m = true) : Memory.wf (Memory.put m a b) = true :=
  SMap.wf_set 0 m a b h

theorem Memory.wf_puts (d : List Byte) (m : List Host.Cell) (a : Nat) (h : Memory.wf m = true) :
    Memory.wf (Memory.puts m a d) = true := by
  induction d generalizing m a with
  | nil => exact h
  | cons b t ih => exact ih _ _ (Memory.wf_put m a b h)

theorem Memory.wf_filter (p : Host.Cell → Bool) (m : List Host.Cell) (h : Memory.wf m = true) : Memory.wf (m.filter p) = true :=
  SMap.wf_filter 0 p m h

/-- A store keeps memory canonical. -/
theorem MemInv.store {s : State} (h : MemInv s) (a : Nat) (d : List Byte) : MemInv (s.store a d) := Memory.wf_puts d s.mem a h

/-- Zeroing keeps memory canonical. -/
theorem MemInv.zero {s : State} (h : MemInv s) (a n : Nat) : MemInv (s.zero a n) := Memory.wf_filter _ s.mem h

/-- What leaves memory alone keeps it canonical. -/
theorem MemInv.of_mem {s t : State} (h : MemInv s) (e : t.mem = s.mem) : MemInv t := by
  unfold MemInv at h ⊢
  rw [e]
  exact h

end Sys2Proof.Machine
end

