-- ==== Sys2Proof/Laws/State.lean ====
section
/-! SUPPORT. What each primitive update of State leaves alone: one lemma per field per update, true by rfl; and what a piece of State reads
after an update of it. -/

namespace Sys2Proof.Machine

variable (s : State)

/-! ### State.wr -/

@[simp] theorem State.wr_mem (p : Page) (b : Nat) (f : Fld) (v : Nat) : (s.wr p b f v).mem = s.mem := rfl
@[simp] theorem State.wr_now (p : Page) (b : Nat) (f : Fld) (v : Nat) : (s.wr p b f v).now = s.now := rfl
@[simp] theorem State.wr_free (p : Page) (b : Nat) (f : Fld) (v : Nat) : (s.wr p b f v).free = s.free := rfl
@[simp] theorem State.wr_out (p : Page) (b : Nat) (f : Fld) (v : Nat) : (s.wr p b f v).out = s.out := rfl
@[simp] theorem State.wr_stalled (p : Page) (b : Nat) (f : Fld) (v : Nat) : (s.wr p b f v).stalled = s.stalled := rfl
@[simp] theorem State.wr_latches (p : Page) (b : Nat) (f : Fld) (v : Nat) : (s.wr p b f v).latches = s.latches := rfl
@[simp] theorem State.wr_tallies (p : Page) (b : Nat) (f : Fld) (v : Nat) : (s.wr p b f v).tallies = s.tallies := rfl
@[simp] theorem State.wr_waiters (p : Page) (b : Nat) (f : Fld) (v : Nat) : (s.wr p b f v).waiters = s.waiters := rfl
@[simp] theorem State.wr_arrays (p : Page) (b : Nat) (f : Fld) (v : Nat) : (s.wr p b f v).arrays = s.arrays := rfl
@[simp] theorem State.wr_dmas (p : Page) (b : Nat) (f : Fld) (v : Nat) : (s.wr p b f v).dmas = s.dmas := rfl
@[simp] theorem State.wr_tier (p : Page) (b : Nat) (f : Fld) (v : Nat) : (s.wr p b f v).tier = s.tier := rfl
@[simp] theorem State.wr_parts (p : Page) (b : Nat) (f : Fld) (v : Nat) : (s.wr p b f v).parts = s.parts := rfl
@[simp] theorem State.wr_images (p : Page) (b : Nat) (f : Fld) (v : Nat) : (s.wr p b f v).images = s.images := rfl
@[simp] theorem State.wr_seals (p : Page) (b : Nat) (f : Fld) (v : Nat) : (s.wr p b f v).seals = s.seals := rfl
@[simp] theorem State.wr_power (p : Page) (b : Nat) (f : Fld) (v : Nat) : (s.wr p b f v).power = s.power := rfl
@[simp] theorem State.wr_audio (p : Page) (b : Nat) (f : Fld) (v : Nat) : (s.wr p b f v).audio = s.audio := rfl
@[simp] theorem State.wr_cams (p : Page) (b : Nat) (f : Fld) (v : Nat) : (s.wr p b f v).cams = s.cams := rfl
@[simp] theorem State.wr_sec (p : Page) (b : Nat) (f : Fld) (v : Nat) : (s.wr p b f v).sec = s.sec := rfl
@[simp] theorem State.wr_ports (p : Page) (b : Nat) (f : Fld) (v : Nat) : (s.wr p b f v).ports = s.ports := rfl
@[simp] theorem State.wr_gauge (p : Page) (b : Nat) (f : Fld) (v : Nat) : (s.wr p b f v).gauge = s.gauge := rfl
@[simp] theorem State.wr_panel (p : Page) (b : Nat) (f : Fld) (v : Nat) : (s.wr p b f v).panel = s.panel := rfl
@[simp] theorem State.wr_boot (p : Page) (b : Nat) (f : Fld) (v : Nat) : (s.wr p b f v).boot = s.boot := rfl
@[simp] theorem State.wr_supply (p : Page) (b : Nat) (f : Fld) (v : Nat) : (s.wr p b f v).supply = s.supply := rfl
@[simp] theorem State.wr_upsets (p : Page) (b : Nat) (f : Fld) (v : Nat) : (s.wr p b f v).upsets = s.upsets := rfl
@[simp] theorem State.wr_wellErrs (p : Page) (b : Nat) (f : Fld) (v : Nat) : (s.wr p b f v).wellErrs = s.wellErrs := rfl
@[simp] theorem State.wr_pending (p : Page) (b : Nat) (f : Fld) (v : Nat) : (s.wr p b f v).pending = s.pending := rfl

/-! ### State.wr2 -/

@[simp] theorem State.wr2_mem (p : Page) (b : Nat) (f g : Fld) (v : Nat) : (s.wr2 p b f g v).mem = s.mem := rfl
@[simp] theorem State.wr2_now (p : Page) (b : Nat) (f g : Fld) (v : Nat) : (s.wr2 p b f g v).now = s.now := rfl
@[simp] theorem State.wr2_free (p : Page) (b : Nat) (f g : Fld) (v : Nat) : (s.wr2 p b f g v).free = s.free := rfl
@[simp] theorem State.wr2_out (p : Page) (b : Nat) (f g : Fld) (v : Nat) : (s.wr2 p b f g v).out = s.out := rfl
@[simp] theorem State.wr2_stalled (p : Page) (b : Nat) (f g : Fld) (v : Nat) : (s.wr2 p b f g v).stalled = s.stalled := rfl
@[simp] theorem State.wr2_latches (p : Page) (b : Nat) (f g : Fld) (v : Nat) : (s.wr2 p b f g v).latches = s.latches := rfl
@[simp] theorem State.wr2_tallies (p : Page) (b : Nat) (f g : Fld) (v : Nat) : (s.wr2 p b f g v).tallies = s.tallies := rfl
@[simp] theorem State.wr2_waiters (p : Page) (b : Nat) (f g : Fld) (v : Nat) : (s.wr2 p b f g v).waiters = s.waiters := rfl
@[simp] theorem State.wr2_arrays (p : Page) (b : Nat) (f g : Fld) (v : Nat) : (s.wr2 p b f g v).arrays = s.arrays := rfl
@[simp] theorem State.wr2_dmas (p : Page) (b : Nat) (f g : Fld) (v : Nat) : (s.wr2 p b f g v).dmas = s.dmas := rfl
@[simp] theorem State.wr2_tier (p : Page) (b : Nat) (f g : Fld) (v : Nat) : (s.wr2 p b f g v).tier = s.tier := rfl
@[simp] theorem State.wr2_parts (p : Page) (b : Nat) (f g : Fld) (v : Nat) : (s.wr2 p b f g v).parts = s.parts := rfl
@[simp] theorem State.wr2_images (p : Page) (b : Nat) (f g : Fld) (v : Nat) : (s.wr2 p b f g v).images = s.images := rfl
@[simp] theorem State.wr2_seals (p : Page) (b : Nat) (f g : Fld) (v : Nat) : (s.wr2 p b f g v).seals = s.seals := rfl
@[simp] theorem State.wr2_power (p : Page) (b : Nat) (f g : Fld) (v : Nat) : (s.wr2 p b f g v).power = s.power := rfl
@[simp] theorem State.wr2_audio (p : Page) (b : Nat) (f g : Fld) (v : Nat) : (s.wr2 p b f g v).audio = s.audio := rfl
@[simp] theorem State.wr2_cams (p : Page) (b : Nat) (f g : Fld) (v : Nat) : (s.wr2 p b f g v).cams = s.cams := rfl
@[simp] theorem State.wr2_sec (p : Page) (b : Nat) (f g : Fld) (v : Nat) : (s.wr2 p b f g v).sec = s.sec := rfl
@[simp] theorem State.wr2_ports (p : Page) (b : Nat) (f g : Fld) (v : Nat) : (s.wr2 p b f g v).ports = s.ports := rfl
@[simp] theorem State.wr2_gauge (p : Page) (b : Nat) (f g : Fld) (v : Nat) : (s.wr2 p b f g v).gauge = s.gauge := rfl
@[simp] theorem State.wr2_panel (p : Page) (b : Nat) (f g : Fld) (v : Nat) : (s.wr2 p b f g v).panel = s.panel := rfl
@[simp] theorem State.wr2_boot (p : Page) (b : Nat) (f g : Fld) (v : Nat) : (s.wr2 p b f g v).boot = s.boot := rfl
@[simp] theorem State.wr2_supply (p : Page) (b : Nat) (f g : Fld) (v : Nat) : (s.wr2 p b f g v).supply = s.supply := rfl
@[simp] theorem State.wr2_upsets (p : Page) (b : Nat) (f g : Fld) (v : Nat) : (s.wr2 p b f g v).upsets = s.upsets := rfl
@[simp] theorem State.wr2_wellErrs (p : Page) (b : Nat) (f g : Fld) (v : Nat) : (s.wr2 p b f g v).wellErrs = s.wellErrs := rfl
@[simp] theorem State.wr2_pending (p : Page) (b : Nat) (f g : Fld) (v : Nat) : (s.wr2 p b f g v).pending = s.pending := rfl

/-! ### State.setSt -/

@[simp] theorem State.setSt_mem (p : Page) (b v : Nat) : (s.setSt p b v).mem = s.mem := rfl
@[simp] theorem State.setSt_now (p : Page) (b v : Nat) : (s.setSt p b v).now = s.now := rfl
@[simp] theorem State.setSt_free (p : Page) (b v : Nat) : (s.setSt p b v).free = s.free := rfl
@[simp] theorem State.setSt_out (p : Page) (b v : Nat) : (s.setSt p b v).out = s.out := rfl
@[simp] theorem State.setSt_stalled (p : Page) (b v : Nat) : (s.setSt p b v).stalled = s.stalled := rfl
@[simp] theorem State.setSt_latches (p : Page) (b v : Nat) : (s.setSt p b v).latches = s.latches := rfl
@[simp] theorem State.setSt_tallies (p : Page) (b v : Nat) : (s.setSt p b v).tallies = s.tallies := rfl
@[simp] theorem State.setSt_waiters (p : Page) (b v : Nat) : (s.setSt p b v).waiters = s.waiters := rfl
@[simp] theorem State.setSt_arrays (p : Page) (b v : Nat) : (s.setSt p b v).arrays = s.arrays := rfl
@[simp] theorem State.setSt_dmas (p : Page) (b v : Nat) : (s.setSt p b v).dmas = s.dmas := rfl
@[simp] theorem State.setSt_tier (p : Page) (b v : Nat) : (s.setSt p b v).tier = s.tier := rfl
@[simp] theorem State.setSt_parts (p : Page) (b v : Nat) : (s.setSt p b v).parts = s.parts := rfl
@[simp] theorem State.setSt_images (p : Page) (b v : Nat) : (s.setSt p b v).images = s.images := rfl
@[simp] theorem State.setSt_seals (p : Page) (b v : Nat) : (s.setSt p b v).seals = s.seals := rfl
@[simp] theorem State.setSt_power (p : Page) (b v : Nat) : (s.setSt p b v).power = s.power := rfl
@[simp] theorem State.setSt_audio (p : Page) (b v : Nat) : (s.setSt p b v).audio = s.audio := rfl
@[simp] theorem State.setSt_cams (p : Page) (b v : Nat) : (s.setSt p b v).cams = s.cams := rfl
@[simp] theorem State.setSt_sec (p : Page) (b v : Nat) : (s.setSt p b v).sec = s.sec := rfl
@[simp] theorem State.setSt_ports (p : Page) (b v : Nat) : (s.setSt p b v).ports = s.ports := rfl
@[simp] theorem State.setSt_gauge (p : Page) (b v : Nat) : (s.setSt p b v).gauge = s.gauge := rfl
@[simp] theorem State.setSt_panel (p : Page) (b v : Nat) : (s.setSt p b v).panel = s.panel := rfl
@[simp] theorem State.setSt_boot (p : Page) (b v : Nat) : (s.setSt p b v).boot = s.boot := rfl
@[simp] theorem State.setSt_supply (p : Page) (b v : Nat) : (s.setSt p b v).supply = s.supply := rfl
@[simp] theorem State.setSt_upsets (p : Page) (b v : Nat) : (s.setSt p b v).upsets = s.upsets := rfl
@[simp] theorem State.setSt_wellErrs (p : Page) (b v : Nat) : (s.setSt p b v).wellErrs = s.wellErrs := rfl
@[simp] theorem State.setSt_pending (p : Page) (b v : Nat) : (s.setSt p b v).pending = s.pending := rfl

/-! ### State.store -/

@[simp] theorem State.store_regs (a : Nat) (d : List Byte) : (s.store a d).regs = s.regs := rfl
@[simp] theorem State.store_now (a : Nat) (d : List Byte) : (s.store a d).now = s.now := rfl
@[simp] theorem State.store_free (a : Nat) (d : List Byte) : (s.store a d).free = s.free := rfl
@[simp] theorem State.store_out (a : Nat) (d : List Byte) : (s.store a d).out = s.out := rfl
@[simp] theorem State.store_stalled (a : Nat) (d : List Byte) : (s.store a d).stalled = s.stalled := rfl
@[simp] theorem State.store_latches (a : Nat) (d : List Byte) : (s.store a d).latches = s.latches := rfl
@[simp] theorem State.store_tallies (a : Nat) (d : List Byte) : (s.store a d).tallies = s.tallies := rfl
@[simp] theorem State.store_waiters (a : Nat) (d : List Byte) : (s.store a d).waiters = s.waiters := rfl
@[simp] theorem State.store_arrays (a : Nat) (d : List Byte) : (s.store a d).arrays = s.arrays := rfl
@[simp] theorem State.store_dmas (a : Nat) (d : List Byte) : (s.store a d).dmas = s.dmas := rfl
@[simp] theorem State.store_tier (a : Nat) (d : List Byte) : (s.store a d).tier = s.tier := rfl
@[simp] theorem State.store_parts (a : Nat) (d : List Byte) : (s.store a d).parts = s.parts := rfl
@[simp] theorem State.store_images (a : Nat) (d : List Byte) : (s.store a d).images = s.images := rfl
@[simp] theorem State.store_seals (a : Nat) (d : List Byte) : (s.store a d).seals = s.seals := rfl
@[simp] theorem State.store_power (a : Nat) (d : List Byte) : (s.store a d).power = s.power := rfl
@[simp] theorem State.store_audio (a : Nat) (d : List Byte) : (s.store a d).audio = s.audio := rfl
@[simp] theorem State.store_cams (a : Nat) (d : List Byte) : (s.store a d).cams = s.cams := rfl
@[simp] theorem State.store_sec (a : Nat) (d : List Byte) : (s.store a d).sec = s.sec := rfl
@[simp] theorem State.store_ports (a : Nat) (d : List Byte) : (s.store a d).ports = s.ports := rfl
@[simp] theorem State.store_gauge (a : Nat) (d : List Byte) : (s.store a d).gauge = s.gauge := rfl
@[simp] theorem State.store_panel (a : Nat) (d : List Byte) : (s.store a d).panel = s.panel := rfl
@[simp] theorem State.store_boot (a : Nat) (d : List Byte) : (s.store a d).boot = s.boot := rfl
@[simp] theorem State.store_supply (a : Nat) (d : List Byte) : (s.store a d).supply = s.supply := rfl
@[simp] theorem State.store_upsets (a : Nat) (d : List Byte) : (s.store a d).upsets = s.upsets := rfl
@[simp] theorem State.store_wellErrs (a : Nat) (d : List Byte) : (s.store a d).wellErrs = s.wellErrs := rfl
@[simp] theorem State.store_pending (a : Nat) (d : List Byte) : (s.store a d).pending = s.pending := rfl

/-! ### State.zero -/

@[simp] theorem State.zero_regs (a n : Nat) : (s.zero a n).regs = s.regs := rfl
@[simp] theorem State.zero_now (a n : Nat) : (s.zero a n).now = s.now := rfl
@[simp] theorem State.zero_free (a n : Nat) : (s.zero a n).free = s.free := rfl
@[simp] theorem State.zero_out (a n : Nat) : (s.zero a n).out = s.out := rfl
@[simp] theorem State.zero_stalled (a n : Nat) : (s.zero a n).stalled = s.stalled := rfl
@[simp] theorem State.zero_latches (a n : Nat) : (s.zero a n).latches = s.latches := rfl
@[simp] theorem State.zero_tallies (a n : Nat) : (s.zero a n).tallies = s.tallies := rfl
@[simp] theorem State.zero_waiters (a n : Nat) : (s.zero a n).waiters = s.waiters := rfl
@[simp] theorem State.zero_arrays (a n : Nat) : (s.zero a n).arrays = s.arrays := rfl
@[simp] theorem State.zero_dmas (a n : Nat) : (s.zero a n).dmas = s.dmas := rfl
@[simp] theorem State.zero_tier (a n : Nat) : (s.zero a n).tier = s.tier := rfl
@[simp] theorem State.zero_parts (a n : Nat) : (s.zero a n).parts = s.parts := rfl
@[simp] theorem State.zero_images (a n : Nat) : (s.zero a n).images = s.images := rfl
@[simp] theorem State.zero_seals (a n : Nat) : (s.zero a n).seals = s.seals := rfl
@[simp] theorem State.zero_power (a n : Nat) : (s.zero a n).power = s.power := rfl
@[simp] theorem State.zero_audio (a n : Nat) : (s.zero a n).audio = s.audio := rfl
@[simp] theorem State.zero_cams (a n : Nat) : (s.zero a n).cams = s.cams := rfl
@[simp] theorem State.zero_sec (a n : Nat) : (s.zero a n).sec = s.sec := rfl
@[simp] theorem State.zero_ports (a n : Nat) : (s.zero a n).ports = s.ports := rfl
@[simp] theorem State.zero_gauge (a n : Nat) : (s.zero a n).gauge = s.gauge := rfl
@[simp] theorem State.zero_panel (a n : Nat) : (s.zero a n).panel = s.panel := rfl
@[simp] theorem State.zero_boot (a n : Nat) : (s.zero a n).boot = s.boot := rfl
@[simp] theorem State.zero_supply (a n : Nat) : (s.zero a n).supply = s.supply := rfl
@[simp] theorem State.zero_upsets (a n : Nat) : (s.zero a n).upsets = s.upsets := rfl
@[simp] theorem State.zero_wellErrs (a n : Nat) : (s.zero a n).wellErrs = s.wellErrs := rfl
@[simp] theorem State.zero_pending (a n : Nat) : (s.zero a n).pending = s.pending := rfl

/-! ### State.emit -/

@[simp] theorem State.emit_regs (o : Out) : (s.emit o).regs = s.regs := rfl
@[simp] theorem State.emit_mem (o : Out) : (s.emit o).mem = s.mem := rfl
@[simp] theorem State.emit_now (o : Out) : (s.emit o).now = s.now := rfl
@[simp] theorem State.emit_free (o : Out) : (s.emit o).free = s.free := rfl
@[simp] theorem State.emit_stalled (o : Out) : (s.emit o).stalled = s.stalled := rfl
@[simp] theorem State.emit_latches (o : Out) : (s.emit o).latches = s.latches := rfl
@[simp] theorem State.emit_tallies (o : Out) : (s.emit o).tallies = s.tallies := rfl
@[simp] theorem State.emit_waiters (o : Out) : (s.emit o).waiters = s.waiters := rfl
@[simp] theorem State.emit_arrays (o : Out) : (s.emit o).arrays = s.arrays := rfl
@[simp] theorem State.emit_dmas (o : Out) : (s.emit o).dmas = s.dmas := rfl
@[simp] theorem State.emit_tier (o : Out) : (s.emit o).tier = s.tier := rfl
@[simp] theorem State.emit_parts (o : Out) : (s.emit o).parts = s.parts := rfl
@[simp] theorem State.emit_images (o : Out) : (s.emit o).images = s.images := rfl
@[simp] theorem State.emit_seals (o : Out) : (s.emit o).seals = s.seals := rfl
@[simp] theorem State.emit_power (o : Out) : (s.emit o).power = s.power := rfl
@[simp] theorem State.emit_audio (o : Out) : (s.emit o).audio = s.audio := rfl
@[simp] theorem State.emit_cams (o : Out) : (s.emit o).cams = s.cams := rfl
@[simp] theorem State.emit_sec (o : Out) : (s.emit o).sec = s.sec := rfl
@[simp] theorem State.emit_ports (o : Out) : (s.emit o).ports = s.ports := rfl
@[simp] theorem State.emit_gauge (o : Out) : (s.emit o).gauge = s.gauge := rfl
@[simp] theorem State.emit_panel (o : Out) : (s.emit o).panel = s.panel := rfl
@[simp] theorem State.emit_boot (o : Out) : (s.emit o).boot = s.boot := rfl
@[simp] theorem State.emit_supply (o : Out) : (s.emit o).supply = s.supply := rfl
@[simp] theorem State.emit_upsets (o : Out) : (s.emit o).upsets = s.upsets := rfl
@[simp] theorem State.emit_wellErrs (o : Out) : (s.emit o).wellErrs = s.wellErrs := rfl
@[simp] theorem State.emit_pending (o : Out) : (s.emit o).pending = s.pending := rfl

/-! ### State.setArr -/

@[simp] theorem State.setArr_regs (a : Nat) (x : ArrayS) : (s.setArr a x).regs = s.regs := rfl
@[simp] theorem State.setArr_mem (a : Nat) (x : ArrayS) : (s.setArr a x).mem = s.mem := rfl
@[simp] theorem State.setArr_now (a : Nat) (x : ArrayS) : (s.setArr a x).now = s.now := rfl
@[simp] theorem State.setArr_free (a : Nat) (x : ArrayS) : (s.setArr a x).free = s.free := rfl
@[simp] theorem State.setArr_out (a : Nat) (x : ArrayS) : (s.setArr a x).out = s.out := rfl
@[simp] theorem State.setArr_stalled (a : Nat) (x : ArrayS) : (s.setArr a x).stalled = s.stalled := rfl
@[simp] theorem State.setArr_latches (a : Nat) (x : ArrayS) : (s.setArr a x).latches = s.latches := rfl
@[simp] theorem State.setArr_tallies (a : Nat) (x : ArrayS) : (s.setArr a x).tallies = s.tallies := rfl
@[simp] theorem State.setArr_waiters (a : Nat) (x : ArrayS) : (s.setArr a x).waiters = s.waiters := rfl
@[simp] theorem State.setArr_dmas (a : Nat) (x : ArrayS) : (s.setArr a x).dmas = s.dmas := rfl
@[simp] theorem State.setArr_tier (a : Nat) (x : ArrayS) : (s.setArr a x).tier = s.tier := rfl
@[simp] theorem State.setArr_parts (a : Nat) (x : ArrayS) : (s.setArr a x).parts = s.parts := rfl
@[simp] theorem State.setArr_images (a : Nat) (x : ArrayS) : (s.setArr a x).images = s.images := rfl
@[simp] theorem State.setArr_seals (a : Nat) (x : ArrayS) : (s.setArr a x).seals = s.seals := rfl
@[simp] theorem State.setArr_power (a : Nat) (x : ArrayS) : (s.setArr a x).power = s.power := rfl
@[simp] theorem State.setArr_audio (a : Nat) (x : ArrayS) : (s.setArr a x).audio = s.audio := rfl
@[simp] theorem State.setArr_cams (a : Nat) (x : ArrayS) : (s.setArr a x).cams = s.cams := rfl
@[simp] theorem State.setArr_sec (a : Nat) (x : ArrayS) : (s.setArr a x).sec = s.sec := rfl
@[simp] theorem State.setArr_ports (a : Nat) (x : ArrayS) : (s.setArr a x).ports = s.ports := rfl
@[simp] theorem State.setArr_gauge (a : Nat) (x : ArrayS) : (s.setArr a x).gauge = s.gauge := rfl
@[simp] theorem State.setArr_panel (a : Nat) (x : ArrayS) : (s.setArr a x).panel = s.panel := rfl
@[simp] theorem State.setArr_boot (a : Nat) (x : ArrayS) : (s.setArr a x).boot = s.boot := rfl
@[simp] theorem State.setArr_supply (a : Nat) (x : ArrayS) : (s.setArr a x).supply = s.supply := rfl
@[simp] theorem State.setArr_upsets (a : Nat) (x : ArrayS) : (s.setArr a x).upsets = s.upsets := rfl
@[simp] theorem State.setArr_wellErrs (a : Nat) (x : ArrayS) : (s.setArr a x).wellErrs = s.wellErrs := rfl
@[simp] theorem State.setArr_pending (a : Nat) (x : ArrayS) : (s.setArr a x).pending = s.pending := rfl

/-! ### State.modArr -/

@[simp] theorem State.modArr_regs (a : Nat) (f : ArrayS → ArrayS) : (s.modArr a f).regs = s.regs := rfl
@[simp] theorem State.modArr_mem (a : Nat) (f : ArrayS → ArrayS) : (s.modArr a f).mem = s.mem := rfl
@[simp] theorem State.modArr_now (a : Nat) (f : ArrayS → ArrayS) : (s.modArr a f).now = s.now := rfl
@[simp] theorem State.modArr_free (a : Nat) (f : ArrayS → ArrayS) : (s.modArr a f).free = s.free := rfl
@[simp] theorem State.modArr_out (a : Nat) (f : ArrayS → ArrayS) : (s.modArr a f).out = s.out := rfl
@[simp] theorem State.modArr_stalled (a : Nat) (f : ArrayS → ArrayS) : (s.modArr a f).stalled = s.stalled := rfl
@[simp] theorem State.modArr_latches (a : Nat) (f : ArrayS → ArrayS) : (s.modArr a f).latches = s.latches := rfl
@[simp] theorem State.modArr_tallies (a : Nat) (f : ArrayS → ArrayS) : (s.modArr a f).tallies = s.tallies := rfl
@[simp] theorem State.modArr_waiters (a : Nat) (f : ArrayS → ArrayS) : (s.modArr a f).waiters = s.waiters := rfl
@[simp] theorem State.modArr_dmas (a : Nat) (f : ArrayS → ArrayS) : (s.modArr a f).dmas = s.dmas := rfl
@[simp] theorem State.modArr_tier (a : Nat) (f : ArrayS → ArrayS) : (s.modArr a f).tier = s.tier := rfl
@[simp] theorem State.modArr_parts (a : Nat) (f : ArrayS → ArrayS) : (s.modArr a f).parts = s.parts := rfl
@[simp] theorem State.modArr_images (a : Nat) (f : ArrayS → ArrayS) : (s.modArr a f).images = s.images := rfl
@[simp] theorem State.modArr_seals (a : Nat) (f : ArrayS → ArrayS) : (s.modArr a f).seals = s.seals := rfl
@[simp] theorem State.modArr_power (a : Nat) (f : ArrayS → ArrayS) : (s.modArr a f).power = s.power := rfl
@[simp] theorem State.modArr_audio (a : Nat) (f : ArrayS → ArrayS) : (s.modArr a f).audio = s.audio := rfl
@[simp] theorem State.modArr_cams (a : Nat) (f : ArrayS → ArrayS) : (s.modArr a f).cams = s.cams := rfl
@[simp] theorem State.modArr_sec (a : Nat) (f : ArrayS → ArrayS) : (s.modArr a f).sec = s.sec := rfl
@[simp] theorem State.modArr_ports (a : Nat) (f : ArrayS → ArrayS) : (s.modArr a f).ports = s.ports := rfl
@[simp] theorem State.modArr_gauge (a : Nat) (f : ArrayS → ArrayS) : (s.modArr a f).gauge = s.gauge := rfl
@[simp] theorem State.modArr_panel (a : Nat) (f : ArrayS → ArrayS) : (s.modArr a f).panel = s.panel := rfl
@[simp] theorem State.modArr_boot (a : Nat) (f : ArrayS → ArrayS) : (s.modArr a f).boot = s.boot := rfl
@[simp] theorem State.modArr_supply (a : Nat) (f : ArrayS → ArrayS) : (s.modArr a f).supply = s.supply := rfl
@[simp] theorem State.modArr_upsets (a : Nat) (f : ArrayS → ArrayS) : (s.modArr a f).upsets = s.upsets := rfl
@[simp] theorem State.modArr_wellErrs (a : Nat) (f : ArrayS → ArrayS) : (s.modArr a f).wellErrs = s.wellErrs := rfl
@[simp] theorem State.modArr_pending (a : Nat) (f : ArrayS → ArrayS) : (s.modArr a f).pending = s.pending := rfl

/-! ### State.setDma -/

@[simp] theorem State.setDma_regs (a : Nat) (x : DmaS) : (s.setDma a x).regs = s.regs := rfl
@[simp] theorem State.setDma_mem (a : Nat) (x : DmaS) : (s.setDma a x).mem = s.mem := rfl
@[simp] theorem State.setDma_now (a : Nat) (x : DmaS) : (s.setDma a x).now = s.now := rfl
@[simp] theorem State.setDma_free (a : Nat) (x : DmaS) : (s.setDma a x).free = s.free := rfl
@[simp] theorem State.setDma_out (a : Nat) (x : DmaS) : (s.setDma a x).out = s.out := rfl
@[simp] theorem State.setDma_stalled (a : Nat) (x : DmaS) : (s.setDma a x).stalled = s.stalled := rfl
@[simp] theorem State.setDma_latches (a : Nat) (x : DmaS) : (s.setDma a x).latches = s.latches := rfl
@[simp] theorem State.setDma_tallies (a : Nat) (x : DmaS) : (s.setDma a x).tallies = s.tallies := rfl
@[simp] theorem State.setDma_waiters (a : Nat) (x : DmaS) : (s.setDma a x).waiters = s.waiters := rfl
@[simp] theorem State.setDma_arrays (a : Nat) (x : DmaS) : (s.setDma a x).arrays = s.arrays := rfl
@[simp] theorem State.setDma_tier (a : Nat) (x : DmaS) : (s.setDma a x).tier = s.tier := rfl
@[simp] theorem State.setDma_parts (a : Nat) (x : DmaS) : (s.setDma a x).parts = s.parts := rfl
@[simp] theorem State.setDma_images (a : Nat) (x : DmaS) : (s.setDma a x).images = s.images := rfl
@[simp] theorem State.setDma_seals (a : Nat) (x : DmaS) : (s.setDma a x).seals = s.seals := rfl
@[simp] theorem State.setDma_power (a : Nat) (x : DmaS) : (s.setDma a x).power = s.power := rfl
@[simp] theorem State.setDma_audio (a : Nat) (x : DmaS) : (s.setDma a x).audio = s.audio := rfl
@[simp] theorem State.setDma_cams (a : Nat) (x : DmaS) : (s.setDma a x).cams = s.cams := rfl
@[simp] theorem State.setDma_sec (a : Nat) (x : DmaS) : (s.setDma a x).sec = s.sec := rfl
@[simp] theorem State.setDma_ports (a : Nat) (x : DmaS) : (s.setDma a x).ports = s.ports := rfl
@[simp] theorem State.setDma_gauge (a : Nat) (x : DmaS) : (s.setDma a x).gauge = s.gauge := rfl
@[simp] theorem State.setDma_panel (a : Nat) (x : DmaS) : (s.setDma a x).panel = s.panel := rfl
@[simp] theorem State.setDma_boot (a : Nat) (x : DmaS) : (s.setDma a x).boot = s.boot := rfl
@[simp] theorem State.setDma_supply (a : Nat) (x : DmaS) : (s.setDma a x).supply = s.supply := rfl
@[simp] theorem State.setDma_upsets (a : Nat) (x : DmaS) : (s.setDma a x).upsets = s.upsets := rfl
@[simp] theorem State.setDma_wellErrs (a : Nat) (x : DmaS) : (s.setDma a x).wellErrs = s.wellErrs := rfl
@[simp] theorem State.setDma_pending (a : Nat) (x : DmaS) : (s.setDma a x).pending = s.pending := rfl

/-! ### State.setDom -/

@[simp] theorem State.setDom_regs (d : Nat) (x : Dom) : (s.setDom d x).regs = s.regs := rfl
@[simp] theorem State.setDom_mem (d : Nat) (x : Dom) : (s.setDom d x).mem = s.mem := rfl
@[simp] theorem State.setDom_now (d : Nat) (x : Dom) : (s.setDom d x).now = s.now := rfl
@[simp] theorem State.setDom_free (d : Nat) (x : Dom) : (s.setDom d x).free = s.free := rfl
@[simp] theorem State.setDom_out (d : Nat) (x : Dom) : (s.setDom d x).out = s.out := rfl
@[simp] theorem State.setDom_stalled (d : Nat) (x : Dom) : (s.setDom d x).stalled = s.stalled := rfl
@[simp] theorem State.setDom_latches (d : Nat) (x : Dom) : (s.setDom d x).latches = s.latches := rfl
@[simp] theorem State.setDom_tallies (d : Nat) (x : Dom) : (s.setDom d x).tallies = s.tallies := rfl
@[simp] theorem State.setDom_waiters (d : Nat) (x : Dom) : (s.setDom d x).waiters = s.waiters := rfl
@[simp] theorem State.setDom_arrays (d : Nat) (x : Dom) : (s.setDom d x).arrays = s.arrays := rfl
@[simp] theorem State.setDom_dmas (d : Nat) (x : Dom) : (s.setDom d x).dmas = s.dmas := rfl
@[simp] theorem State.setDom_tier (d : Nat) (x : Dom) : (s.setDom d x).tier = s.tier := rfl
@[simp] theorem State.setDom_parts (d : Nat) (x : Dom) : (s.setDom d x).parts = s.parts := rfl
@[simp] theorem State.setDom_images (d : Nat) (x : Dom) : (s.setDom d x).images = s.images := rfl
@[simp] theorem State.setDom_seals (d : Nat) (x : Dom) : (s.setDom d x).seals = s.seals := rfl
@[simp] theorem State.setDom_audio (d : Nat) (x : Dom) : (s.setDom d x).audio = s.audio := rfl
@[simp] theorem State.setDom_cams (d : Nat) (x : Dom) : (s.setDom d x).cams = s.cams := rfl
@[simp] theorem State.setDom_sec (d : Nat) (x : Dom) : (s.setDom d x).sec = s.sec := rfl
@[simp] theorem State.setDom_ports (d : Nat) (x : Dom) : (s.setDom d x).ports = s.ports := rfl
@[simp] theorem State.setDom_gauge (d : Nat) (x : Dom) : (s.setDom d x).gauge = s.gauge := rfl
@[simp] theorem State.setDom_panel (d : Nat) (x : Dom) : (s.setDom d x).panel = s.panel := rfl
@[simp] theorem State.setDom_boot (d : Nat) (x : Dom) : (s.setDom d x).boot = s.boot := rfl
@[simp] theorem State.setDom_supply (d : Nat) (x : Dom) : (s.setDom d x).supply = s.supply := rfl
@[simp] theorem State.setDom_upsets (d : Nat) (x : Dom) : (s.setDom d x).upsets = s.upsets := rfl
@[simp] theorem State.setDom_wellErrs (d : Nat) (x : Dom) : (s.setDom d x).wellErrs = s.wellErrs := rfl
@[simp] theorem State.setDom_pending (d : Nat) (x : Dom) : (s.setDom d x).pending = s.pending := rfl

/-! ### State.setTally -/

@[simp] theorem State.setTally_regs (i : Nat) (x : Tally) : (s.setTally i x).regs = s.regs := rfl
@[simp] theorem State.setTally_mem (i : Nat) (x : Tally) : (s.setTally i x).mem = s.mem := rfl
@[simp] theorem State.setTally_now (i : Nat) (x : Tally) : (s.setTally i x).now = s.now := rfl
@[simp] theorem State.setTally_free (i : Nat) (x : Tally) : (s.setTally i x).free = s.free := rfl
@[simp] theorem State.setTally_out (i : Nat) (x : Tally) : (s.setTally i x).out = s.out := rfl
@[simp] theorem State.setTally_stalled (i : Nat) (x : Tally) : (s.setTally i x).stalled = s.stalled := rfl
@[simp] theorem State.setTally_latches (i : Nat) (x : Tally) : (s.setTally i x).latches = s.latches := rfl
@[simp] theorem State.setTally_waiters (i : Nat) (x : Tally) : (s.setTally i x).waiters = s.waiters := rfl
@[simp] theorem State.setTally_arrays (i : Nat) (x : Tally) : (s.setTally i x).arrays = s.arrays := rfl
@[simp] theorem State.setTally_dmas (i : Nat) (x : Tally) : (s.setTally i x).dmas = s.dmas := rfl
@[simp] theorem State.setTally_tier (i : Nat) (x : Tally) : (s.setTally i x).tier = s.tier := rfl
@[simp] theorem State.setTally_parts (i : Nat) (x : Tally) : (s.setTally i x).parts = s.parts := rfl
@[simp] theorem State.setTally_images (i : Nat) (x : Tally) : (s.setTally i x).images = s.images := rfl
@[simp] theorem State.setTally_seals (i : Nat) (x : Tally) : (s.setTally i x).seals = s.seals := rfl
@[simp] theorem State.setTally_power (i : Nat) (x : Tally) : (s.setTally i x).power = s.power := rfl
@[simp] theorem State.setTally_audio (i : Nat) (x : Tally) : (s.setTally i x).audio = s.audio := rfl
@[simp] theorem State.setTally_cams (i : Nat) (x : Tally) : (s.setTally i x).cams = s.cams := rfl
@[simp] theorem State.setTally_sec (i : Nat) (x : Tally) : (s.setTally i x).sec = s.sec := rfl
@[simp] theorem State.setTally_ports (i : Nat) (x : Tally) : (s.setTally i x).ports = s.ports := rfl
@[simp] theorem State.setTally_gauge (i : Nat) (x : Tally) : (s.setTally i x).gauge = s.gauge := rfl
@[simp] theorem State.setTally_panel (i : Nat) (x : Tally) : (s.setTally i x).panel = s.panel := rfl
@[simp] theorem State.setTally_boot (i : Nat) (x : Tally) : (s.setTally i x).boot = s.boot := rfl
@[simp] theorem State.setTally_supply (i : Nat) (x : Tally) : (s.setTally i x).supply = s.supply := rfl
@[simp] theorem State.setTally_upsets (i : Nat) (x : Tally) : (s.setTally i x).upsets = s.upsets := rfl
@[simp] theorem State.setTally_wellErrs (i : Nat) (x : Tally) : (s.setTally i x).wellErrs = s.wellErrs := rfl
@[simp] theorem State.setTally_pending (i : Nat) (x : Tally) : (s.setTally i x).pending = s.pending := rfl

/-! ### State.setOtt -/

@[simp] theorem State.setOtt_regs (i e : Nat) : (s.setOtt i e).regs = s.regs := rfl
@[simp] theorem State.setOtt_mem (i e : Nat) : (s.setOtt i e).mem = s.mem := rfl
@[simp] theorem State.setOtt_now (i e : Nat) : (s.setOtt i e).now = s.now := rfl
@[simp] theorem State.setOtt_free (i e : Nat) : (s.setOtt i e).free = s.free := rfl
@[simp] theorem State.setOtt_out (i e : Nat) : (s.setOtt i e).out = s.out := rfl
@[simp] theorem State.setOtt_stalled (i e : Nat) : (s.setOtt i e).stalled = s.stalled := rfl
@[simp] theorem State.setOtt_latches (i e : Nat) : (s.setOtt i e).latches = s.latches := rfl
@[simp] theorem State.setOtt_tallies (i e : Nat) : (s.setOtt i e).tallies = s.tallies := rfl
@[simp] theorem State.setOtt_waiters (i e : Nat) : (s.setOtt i e).waiters = s.waiters := rfl
@[simp] theorem State.setOtt_arrays (i e : Nat) : (s.setOtt i e).arrays = s.arrays := rfl
@[simp] theorem State.setOtt_dmas (i e : Nat) : (s.setOtt i e).dmas = s.dmas := rfl
@[simp] theorem State.setOtt_parts (i e : Nat) : (s.setOtt i e).parts = s.parts := rfl
@[simp] theorem State.setOtt_images (i e : Nat) : (s.setOtt i e).images = s.images := rfl
@[simp] theorem State.setOtt_seals (i e : Nat) : (s.setOtt i e).seals = s.seals := rfl
@[simp] theorem State.setOtt_power (i e : Nat) : (s.setOtt i e).power = s.power := rfl
@[simp] theorem State.setOtt_audio (i e : Nat) : (s.setOtt i e).audio = s.audio := rfl
@[simp] theorem State.setOtt_cams (i e : Nat) : (s.setOtt i e).cams = s.cams := rfl
@[simp] theorem State.setOtt_sec (i e : Nat) : (s.setOtt i e).sec = s.sec := rfl
@[simp] theorem State.setOtt_ports (i e : Nat) : (s.setOtt i e).ports = s.ports := rfl
@[simp] theorem State.setOtt_gauge (i e : Nat) : (s.setOtt i e).gauge = s.gauge := rfl
@[simp] theorem State.setOtt_panel (i e : Nat) : (s.setOtt i e).panel = s.panel := rfl
@[simp] theorem State.setOtt_boot (i e : Nat) : (s.setOtt i e).boot = s.boot := rfl
@[simp] theorem State.setOtt_supply (i e : Nat) : (s.setOtt i e).supply = s.supply := rfl
@[simp] theorem State.setOtt_upsets (i e : Nat) : (s.setOtt i e).upsets = s.upsets := rfl
@[simp] theorem State.setOtt_wellErrs (i e : Nat) : (s.setOtt i e).wellErrs = s.wellErrs := rfl
@[simp] theorem State.setOtt_pending (i e : Nat) : (s.setOtt i e).pending = s.pending := rfl

/-! ### State.setAssign -/

@[simp] theorem State.setAssign_regs (a : Nat) (x : Assign) : (s.setAssign a x).regs = s.regs := rfl
@[simp] theorem State.setAssign_mem (a : Nat) (x : Assign) : (s.setAssign a x).mem = s.mem := rfl
@[simp] theorem State.setAssign_now (a : Nat) (x : Assign) : (s.setAssign a x).now = s.now := rfl
@[simp] theorem State.setAssign_free (a : Nat) (x : Assign) : (s.setAssign a x).free = s.free := rfl
@[simp] theorem State.setAssign_out (a : Nat) (x : Assign) : (s.setAssign a x).out = s.out := rfl
@[simp] theorem State.setAssign_stalled (a : Nat) (x : Assign) : (s.setAssign a x).stalled = s.stalled := rfl
@[simp] theorem State.setAssign_latches (a : Nat) (x : Assign) : (s.setAssign a x).latches = s.latches := rfl
@[simp] theorem State.setAssign_tallies (a : Nat) (x : Assign) : (s.setAssign a x).tallies = s.tallies := rfl
@[simp] theorem State.setAssign_waiters (a : Nat) (x : Assign) : (s.setAssign a x).waiters = s.waiters := rfl
@[simp] theorem State.setAssign_arrays (a : Nat) (x : Assign) : (s.setAssign a x).arrays = s.arrays := rfl
@[simp] theorem State.setAssign_dmas (a : Nat) (x : Assign) : (s.setAssign a x).dmas = s.dmas := rfl
@[simp] theorem State.setAssign_tier (a : Nat) (x : Assign) : (s.setAssign a x).tier = s.tier := rfl
@[simp] theorem State.setAssign_images (a : Nat) (x : Assign) : (s.setAssign a x).images = s.images := rfl
@[simp] theorem State.setAssign_seals (a : Nat) (x : Assign) : (s.setAssign a x).seals = s.seals := rfl
@[simp] theorem State.setAssign_power (a : Nat) (x : Assign) : (s.setAssign a x).power = s.power := rfl
@[simp] theorem State.setAssign_audio (a : Nat) (x : Assign) : (s.setAssign a x).audio = s.audio := rfl
@[simp] theorem State.setAssign_cams (a : Nat) (x : Assign) : (s.setAssign a x).cams = s.cams := rfl
@[simp] theorem State.setAssign_sec (a : Nat) (x : Assign) : (s.setAssign a x).sec = s.sec := rfl
@[simp] theorem State.setAssign_ports (a : Nat) (x : Assign) : (s.setAssign a x).ports = s.ports := rfl
@[simp] theorem State.setAssign_gauge (a : Nat) (x : Assign) : (s.setAssign a x).gauge = s.gauge := rfl
@[simp] theorem State.setAssign_panel (a : Nat) (x : Assign) : (s.setAssign a x).panel = s.panel := rfl
@[simp] theorem State.setAssign_boot (a : Nat) (x : Assign) : (s.setAssign a x).boot = s.boot := rfl
@[simp] theorem State.setAssign_supply (a : Nat) (x : Assign) : (s.setAssign a x).supply = s.supply := rfl
@[simp] theorem State.setAssign_upsets (a : Nat) (x : Assign) : (s.setAssign a x).upsets = s.upsets := rfl
@[simp] theorem State.setAssign_wellErrs (a : Nat) (x : Assign) : (s.setAssign a x).wellErrs = s.wellErrs := rfl
@[simp] theorem State.setAssign_pending (a : Nat) (x : Assign) : (s.setAssign a x).pending = s.pending := rfl

/-! ### State.setAudio -/

@[simp] theorem State.setAudio_regs (x : AudioS) : (s.setAudio x).regs = s.regs := rfl
@[simp] theorem State.setAudio_mem (x : AudioS) : (s.setAudio x).mem = s.mem := rfl
@[simp] theorem State.setAudio_now (x : AudioS) : (s.setAudio x).now = s.now := rfl
@[simp] theorem State.setAudio_free (x : AudioS) : (s.setAudio x).free = s.free := rfl
@[simp] theorem State.setAudio_out (x : AudioS) : (s.setAudio x).out = s.out := rfl
@[simp] theorem State.setAudio_stalled (x : AudioS) : (s.setAudio x).stalled = s.stalled := rfl
@[simp] theorem State.setAudio_latches (x : AudioS) : (s.setAudio x).latches = s.latches := rfl
@[simp] theorem State.setAudio_tallies (x : AudioS) : (s.setAudio x).tallies = s.tallies := rfl
@[simp] theorem State.setAudio_waiters (x : AudioS) : (s.setAudio x).waiters = s.waiters := rfl
@[simp] theorem State.setAudio_arrays (x : AudioS) : (s.setAudio x).arrays = s.arrays := rfl
@[simp] theorem State.setAudio_dmas (x : AudioS) : (s.setAudio x).dmas = s.dmas := rfl
@[simp] theorem State.setAudio_tier (x : AudioS) : (s.setAudio x).tier = s.tier := rfl
@[simp] theorem State.setAudio_parts (x : AudioS) : (s.setAudio x).parts = s.parts := rfl
@[simp] theorem State.setAudio_images (x : AudioS) : (s.setAudio x).images = s.images := rfl
@[simp] theorem State.setAudio_seals (x : AudioS) : (s.setAudio x).seals = s.seals := rfl
@[simp] theorem State.setAudio_power (x : AudioS) : (s.setAudio x).power = s.power := rfl
@[simp] theorem State.setAudio_cams (x : AudioS) : (s.setAudio x).cams = s.cams := rfl
@[simp] theorem State.setAudio_sec (x : AudioS) : (s.setAudio x).sec = s.sec := rfl
@[simp] theorem State.setAudio_ports (x : AudioS) : (s.setAudio x).ports = s.ports := rfl
@[simp] theorem State.setAudio_gauge (x : AudioS) : (s.setAudio x).gauge = s.gauge := rfl
@[simp] theorem State.setAudio_panel (x : AudioS) : (s.setAudio x).panel = s.panel := rfl
@[simp] theorem State.setAudio_boot (x : AudioS) : (s.setAudio x).boot = s.boot := rfl
@[simp] theorem State.setAudio_supply (x : AudioS) : (s.setAudio x).supply = s.supply := rfl
@[simp] theorem State.setAudio_upsets (x : AudioS) : (s.setAudio x).upsets = s.upsets := rfl
@[simp] theorem State.setAudio_wellErrs (x : AudioS) : (s.setAudio x).wellErrs = s.wellErrs := rfl
@[simp] theorem State.setAudio_pending (x : AudioS) : (s.setAudio x).pending = s.pending := rfl

/-! ### State.setStream -/

@[simp] theorem State.setStream_regs (i : Nat) (x : StreamS) : (s.setStream i x).regs = s.regs := rfl
@[simp] theorem State.setStream_mem (i : Nat) (x : StreamS) : (s.setStream i x).mem = s.mem := rfl
@[simp] theorem State.setStream_now (i : Nat) (x : StreamS) : (s.setStream i x).now = s.now := rfl
@[simp] theorem State.setStream_free (i : Nat) (x : StreamS) : (s.setStream i x).free = s.free := rfl
@[simp] theorem State.setStream_out (i : Nat) (x : StreamS) : (s.setStream i x).out = s.out := rfl
@[simp] theorem State.setStream_stalled (i : Nat) (x : StreamS) : (s.setStream i x).stalled = s.stalled := rfl
@[simp] theorem State.setStream_latches (i : Nat) (x : StreamS) : (s.setStream i x).latches = s.latches := rfl
@[simp] theorem State.setStream_tallies (i : Nat) (x : StreamS) : (s.setStream i x).tallies = s.tallies := rfl
@[simp] theorem State.setStream_waiters (i : Nat) (x : StreamS) : (s.setStream i x).waiters = s.waiters := rfl
@[simp] theorem State.setStream_arrays (i : Nat) (x : StreamS) : (s.setStream i x).arrays = s.arrays := rfl
@[simp] theorem State.setStream_dmas (i : Nat) (x : StreamS) : (s.setStream i x).dmas = s.dmas := rfl
@[simp] theorem State.setStream_tier (i : Nat) (x : StreamS) : (s.setStream i x).tier = s.tier := rfl
@[simp] theorem State.setStream_parts (i : Nat) (x : StreamS) : (s.setStream i x).parts = s.parts := rfl
@[simp] theorem State.setStream_images (i : Nat) (x : StreamS) : (s.setStream i x).images = s.images := rfl
@[simp] theorem State.setStream_seals (i : Nat) (x : StreamS) : (s.setStream i x).seals = s.seals := rfl
@[simp] theorem State.setStream_power (i : Nat) (x : StreamS) : (s.setStream i x).power = s.power := rfl
@[simp] theorem State.setStream_cams (i : Nat) (x : StreamS) : (s.setStream i x).cams = s.cams := rfl
@[simp] theorem State.setStream_sec (i : Nat) (x : StreamS) : (s.setStream i x).sec = s.sec := rfl
@[simp] theorem State.setStream_ports (i : Nat) (x : StreamS) : (s.setStream i x).ports = s.ports := rfl
@[simp] theorem State.setStream_gauge (i : Nat) (x : StreamS) : (s.setStream i x).gauge = s.gauge := rfl
@[simp] theorem State.setStream_panel (i : Nat) (x : StreamS) : (s.setStream i x).panel = s.panel := rfl
@[simp] theorem State.setStream_boot (i : Nat) (x : StreamS) : (s.setStream i x).boot = s.boot := rfl
@[simp] theorem State.setStream_supply (i : Nat) (x : StreamS) : (s.setStream i x).supply = s.supply := rfl
@[simp] theorem State.setStream_upsets (i : Nat) (x : StreamS) : (s.setStream i x).upsets = s.upsets := rfl
@[simp] theorem State.setStream_wellErrs (i : Nat) (x : StreamS) : (s.setStream i x).wellErrs = s.wellErrs := rfl
@[simp] theorem State.setStream_pending (i : Nat) (x : StreamS) : (s.setStream i x).pending = s.pending := rfl

/-! ### State.setCams -/

@[simp] theorem State.setCams_regs (x : CamerasS) : (s.setCams x).regs = s.regs := rfl
@[simp] theorem State.setCams_mem (x : CamerasS) : (s.setCams x).mem = s.mem := rfl
@[simp] theorem State.setCams_now (x : CamerasS) : (s.setCams x).now = s.now := rfl
@[simp] theorem State.setCams_free (x : CamerasS) : (s.setCams x).free = s.free := rfl
@[simp] theorem State.setCams_out (x : CamerasS) : (s.setCams x).out = s.out := rfl
@[simp] theorem State.setCams_stalled (x : CamerasS) : (s.setCams x).stalled = s.stalled := rfl
@[simp] theorem State.setCams_latches (x : CamerasS) : (s.setCams x).latches = s.latches := rfl
@[simp] theorem State.setCams_tallies (x : CamerasS) : (s.setCams x).tallies = s.tallies := rfl
@[simp] theorem State.setCams_waiters (x : CamerasS) : (s.setCams x).waiters = s.waiters := rfl
@[simp] theorem State.setCams_arrays (x : CamerasS) : (s.setCams x).arrays = s.arrays := rfl
@[simp] theorem State.setCams_dmas (x : CamerasS) : (s.setCams x).dmas = s.dmas := rfl
@[simp] theorem State.setCams_tier (x : CamerasS) : (s.setCams x).tier = s.tier := rfl
@[simp] theorem State.setCams_parts (x : CamerasS) : (s.setCams x).parts = s.parts := rfl
@[simp] theorem State.setCams_images (x : CamerasS) : (s.setCams x).images = s.images := rfl
@[simp] theorem State.setCams_seals (x : CamerasS) : (s.setCams x).seals = s.seals := rfl
@[simp] theorem State.setCams_power (x : CamerasS) : (s.setCams x).power = s.power := rfl
@[simp] theorem State.setCams_audio (x : CamerasS) : (s.setCams x).audio = s.audio := rfl
@[simp] theorem State.setCams_sec (x : CamerasS) : (s.setCams x).sec = s.sec := rfl
@[simp] theorem State.setCams_ports (x : CamerasS) : (s.setCams x).ports = s.ports := rfl
@[simp] theorem State.setCams_gauge (x : CamerasS) : (s.setCams x).gauge = s.gauge := rfl
@[simp] theorem State.setCams_panel (x : CamerasS) : (s.setCams x).panel = s.panel := rfl
@[simp] theorem State.setCams_boot (x : CamerasS) : (s.setCams x).boot = s.boot := rfl
@[simp] theorem State.setCams_supply (x : CamerasS) : (s.setCams x).supply = s.supply := rfl
@[simp] theorem State.setCams_upsets (x : CamerasS) : (s.setCams x).upsets = s.upsets := rfl
@[simp] theorem State.setCams_wellErrs (x : CamerasS) : (s.setCams x).wellErrs = s.wellErrs := rfl
@[simp] theorem State.setCams_pending (x : CamerasS) : (s.setCams x).pending = s.pending := rfl

/-! ### State.setCam -/

@[simp] theorem State.setCam_regs (c : Nat) (x : CamS) : (s.setCam c x).regs = s.regs := rfl
@[simp] theorem State.setCam_mem (c : Nat) (x : CamS) : (s.setCam c x).mem = s.mem := rfl
@[simp] theorem State.setCam_now (c : Nat) (x : CamS) : (s.setCam c x).now = s.now := rfl
@[simp] theorem State.setCam_free (c : Nat) (x : CamS) : (s.setCam c x).free = s.free := rfl
@[simp] theorem State.setCam_out (c : Nat) (x : CamS) : (s.setCam c x).out = s.out := rfl
@[simp] theorem State.setCam_stalled (c : Nat) (x : CamS) : (s.setCam c x).stalled = s.stalled := rfl
@[simp] theorem State.setCam_latches (c : Nat) (x : CamS) : (s.setCam c x).latches = s.latches := rfl
@[simp] theorem State.setCam_tallies (c : Nat) (x : CamS) : (s.setCam c x).tallies = s.tallies := rfl
@[simp] theorem State.setCam_waiters (c : Nat) (x : CamS) : (s.setCam c x).waiters = s.waiters := rfl
@[simp] theorem State.setCam_arrays (c : Nat) (x : CamS) : (s.setCam c x).arrays = s.arrays := rfl
@[simp] theorem State.setCam_dmas (c : Nat) (x : CamS) : (s.setCam c x).dmas = s.dmas := rfl
@[simp] theorem State.setCam_tier (c : Nat) (x : CamS) : (s.setCam c x).tier = s.tier := rfl
@[simp] theorem State.setCam_parts (c : Nat) (x : CamS) : (s.setCam c x).parts = s.parts := rfl
@[simp] theorem State.setCam_images (c : Nat) (x : CamS) : (s.setCam c x).images = s.images := rfl
@[simp] theorem State.setCam_seals (c : Nat) (x : CamS) : (s.setCam c x).seals = s.seals := rfl
@[simp] theorem State.setCam_power (c : Nat) (x : CamS) : (s.setCam c x).power = s.power := rfl
@[simp] theorem State.setCam_audio (c : Nat) (x : CamS) : (s.setCam c x).audio = s.audio := rfl
@[simp] theorem State.setCam_sec (c : Nat) (x : CamS) : (s.setCam c x).sec = s.sec := rfl
@[simp] theorem State.setCam_ports (c : Nat) (x : CamS) : (s.setCam c x).ports = s.ports := rfl
@[simp] theorem State.setCam_gauge (c : Nat) (x : CamS) : (s.setCam c x).gauge = s.gauge := rfl
@[simp] theorem State.setCam_panel (c : Nat) (x : CamS) : (s.setCam c x).panel = s.panel := rfl
@[simp] theorem State.setCam_boot (c : Nat) (x : CamS) : (s.setCam c x).boot = s.boot := rfl
@[simp] theorem State.setCam_supply (c : Nat) (x : CamS) : (s.setCam c x).supply = s.supply := rfl
@[simp] theorem State.setCam_upsets (c : Nat) (x : CamS) : (s.setCam c x).upsets = s.upsets := rfl
@[simp] theorem State.setCam_wellErrs (c : Nat) (x : CamS) : (s.setCam c x).wellErrs = s.wellErrs := rfl
@[simp] theorem State.setCam_pending (c : Nat) (x : CamS) : (s.setCam c x).pending = s.pending := rfl

/-! ### State.setGroup -/

@[simp] theorem State.setGroup_regs (g : Nat) (x : GroupS) : (s.setGroup g x).regs = s.regs := rfl
@[simp] theorem State.setGroup_mem (g : Nat) (x : GroupS) : (s.setGroup g x).mem = s.mem := rfl
@[simp] theorem State.setGroup_now (g : Nat) (x : GroupS) : (s.setGroup g x).now = s.now := rfl
@[simp] theorem State.setGroup_free (g : Nat) (x : GroupS) : (s.setGroup g x).free = s.free := rfl
@[simp] theorem State.setGroup_out (g : Nat) (x : GroupS) : (s.setGroup g x).out = s.out := rfl
@[simp] theorem State.setGroup_stalled (g : Nat) (x : GroupS) : (s.setGroup g x).stalled = s.stalled := rfl
@[simp] theorem State.setGroup_latches (g : Nat) (x : GroupS) : (s.setGroup g x).latches = s.latches := rfl
@[simp] theorem State.setGroup_tallies (g : Nat) (x : GroupS) : (s.setGroup g x).tallies = s.tallies := rfl
@[simp] theorem State.setGroup_waiters (g : Nat) (x : GroupS) : (s.setGroup g x).waiters = s.waiters := rfl
@[simp] theorem State.setGroup_arrays (g : Nat) (x : GroupS) : (s.setGroup g x).arrays = s.arrays := rfl
@[simp] theorem State.setGroup_dmas (g : Nat) (x : GroupS) : (s.setGroup g x).dmas = s.dmas := rfl
@[simp] theorem State.setGroup_tier (g : Nat) (x : GroupS) : (s.setGroup g x).tier = s.tier := rfl
@[simp] theorem State.setGroup_parts (g : Nat) (x : GroupS) : (s.setGroup g x).parts = s.parts := rfl
@[simp] theorem State.setGroup_images (g : Nat) (x : GroupS) : (s.setGroup g x).images = s.images := rfl
@[simp] theorem State.setGroup_seals (g : Nat) (x : GroupS) : (s.setGroup g x).seals = s.seals := rfl
@[simp] theorem State.setGroup_power (g : Nat) (x : GroupS) : (s.setGroup g x).power = s.power := rfl
@[simp] theorem State.setGroup_audio (g : Nat) (x : GroupS) : (s.setGroup g x).audio = s.audio := rfl
@[simp] theorem State.setGroup_sec (g : Nat) (x : GroupS) : (s.setGroup g x).sec = s.sec := rfl
@[simp] theorem State.setGroup_ports (g : Nat) (x : GroupS) : (s.setGroup g x).ports = s.ports := rfl
@[simp] theorem State.setGroup_gauge (g : Nat) (x : GroupS) : (s.setGroup g x).gauge = s.gauge := rfl
@[simp] theorem State.setGroup_panel (g : Nat) (x : GroupS) : (s.setGroup g x).panel = s.panel := rfl
@[simp] theorem State.setGroup_boot (g : Nat) (x : GroupS) : (s.setGroup g x).boot = s.boot := rfl
@[simp] theorem State.setGroup_supply (g : Nat) (x : GroupS) : (s.setGroup g x).supply = s.supply := rfl
@[simp] theorem State.setGroup_upsets (g : Nat) (x : GroupS) : (s.setGroup g x).upsets = s.upsets := rfl
@[simp] theorem State.setGroup_wellErrs (g : Nat) (x : GroupS) : (s.setGroup g x).wellErrs = s.wellErrs := rfl
@[simp] theorem State.setGroup_pending (g : Nat) (x : GroupS) : (s.setGroup g x).pending = s.pending := rfl

/-! ### State.setSpdm -/

@[simp] theorem State.setSpdm_regs (x : SpdmS) : (s.setSpdm x).regs = s.regs := rfl
@[simp] theorem State.setSpdm_mem (x : SpdmS) : (s.setSpdm x).mem = s.mem := rfl
@[simp] theorem State.setSpdm_now (x : SpdmS) : (s.setSpdm x).now = s.now := rfl
@[simp] theorem State.setSpdm_free (x : SpdmS) : (s.setSpdm x).free = s.free := rfl
@[simp] theorem State.setSpdm_out (x : SpdmS) : (s.setSpdm x).out = s.out := rfl
@[simp] theorem State.setSpdm_stalled (x : SpdmS) : (s.setSpdm x).stalled = s.stalled := rfl
@[simp] theorem State.setSpdm_latches (x : SpdmS) : (s.setSpdm x).latches = s.latches := rfl
@[simp] theorem State.setSpdm_tallies (x : SpdmS) : (s.setSpdm x).tallies = s.tallies := rfl
@[simp] theorem State.setSpdm_waiters (x : SpdmS) : (s.setSpdm x).waiters = s.waiters := rfl
@[simp] theorem State.setSpdm_arrays (x : SpdmS) : (s.setSpdm x).arrays = s.arrays := rfl
@[simp] theorem State.setSpdm_dmas (x : SpdmS) : (s.setSpdm x).dmas = s.dmas := rfl
@[simp] theorem State.setSpdm_tier (x : SpdmS) : (s.setSpdm x).tier = s.tier := rfl
@[simp] theorem State.setSpdm_parts (x : SpdmS) : (s.setSpdm x).parts = s.parts := rfl
@[simp] theorem State.setSpdm_images (x : SpdmS) : (s.setSpdm x).images = s.images := rfl
@[simp] theorem State.setSpdm_seals (x : SpdmS) : (s.setSpdm x).seals = s.seals := rfl
@[simp] theorem State.setSpdm_power (x : SpdmS) : (s.setSpdm x).power = s.power := rfl
@[simp] theorem State.setSpdm_audio (x : SpdmS) : (s.setSpdm x).audio = s.audio := rfl
@[simp] theorem State.setSpdm_cams (x : SpdmS) : (s.setSpdm x).cams = s.cams := rfl
@[simp] theorem State.setSpdm_ports (x : SpdmS) : (s.setSpdm x).ports = s.ports := rfl
@[simp] theorem State.setSpdm_gauge (x : SpdmS) : (s.setSpdm x).gauge = s.gauge := rfl
@[simp] theorem State.setSpdm_panel (x : SpdmS) : (s.setSpdm x).panel = s.panel := rfl
@[simp] theorem State.setSpdm_boot (x : SpdmS) : (s.setSpdm x).boot = s.boot := rfl
@[simp] theorem State.setSpdm_supply (x : SpdmS) : (s.setSpdm x).supply = s.supply := rfl
@[simp] theorem State.setSpdm_upsets (x : SpdmS) : (s.setSpdm x).upsets = s.upsets := rfl
@[simp] theorem State.setSpdm_wellErrs (x : SpdmS) : (s.setSpdm x).wellErrs = s.wellErrs := rfl
@[simp] theorem State.setSpdm_pending (x : SpdmS) : (s.setSpdm x).pending = s.pending := rfl

/-! ### State.setIde -/

@[simp] theorem State.setIde_regs (k : Nat) (x : IdeS) : (s.setIde k x).regs = s.regs := rfl
@[simp] theorem State.setIde_mem (k : Nat) (x : IdeS) : (s.setIde k x).mem = s.mem := rfl
@[simp] theorem State.setIde_now (k : Nat) (x : IdeS) : (s.setIde k x).now = s.now := rfl
@[simp] theorem State.setIde_free (k : Nat) (x : IdeS) : (s.setIde k x).free = s.free := rfl
@[simp] theorem State.setIde_out (k : Nat) (x : IdeS) : (s.setIde k x).out = s.out := rfl
@[simp] theorem State.setIde_stalled (k : Nat) (x : IdeS) : (s.setIde k x).stalled = s.stalled := rfl
@[simp] theorem State.setIde_latches (k : Nat) (x : IdeS) : (s.setIde k x).latches = s.latches := rfl
@[simp] theorem State.setIde_tallies (k : Nat) (x : IdeS) : (s.setIde k x).tallies = s.tallies := rfl
@[simp] theorem State.setIde_waiters (k : Nat) (x : IdeS) : (s.setIde k x).waiters = s.waiters := rfl
@[simp] theorem State.setIde_arrays (k : Nat) (x : IdeS) : (s.setIde k x).arrays = s.arrays := rfl
@[simp] theorem State.setIde_dmas (k : Nat) (x : IdeS) : (s.setIde k x).dmas = s.dmas := rfl
@[simp] theorem State.setIde_tier (k : Nat) (x : IdeS) : (s.setIde k x).tier = s.tier := rfl
@[simp] theorem State.setIde_parts (k : Nat) (x : IdeS) : (s.setIde k x).parts = s.parts := rfl
@[simp] theorem State.setIde_images (k : Nat) (x : IdeS) : (s.setIde k x).images = s.images := rfl
@[simp] theorem State.setIde_seals (k : Nat) (x : IdeS) : (s.setIde k x).seals = s.seals := rfl
@[simp] theorem State.setIde_power (k : Nat) (x : IdeS) : (s.setIde k x).power = s.power := rfl
@[simp] theorem State.setIde_audio (k : Nat) (x : IdeS) : (s.setIde k x).audio = s.audio := rfl
@[simp] theorem State.setIde_cams (k : Nat) (x : IdeS) : (s.setIde k x).cams = s.cams := rfl
@[simp] theorem State.setIde_ports (k : Nat) (x : IdeS) : (s.setIde k x).ports = s.ports := rfl
@[simp] theorem State.setIde_gauge (k : Nat) (x : IdeS) : (s.setIde k x).gauge = s.gauge := rfl
@[simp] theorem State.setIde_panel (k : Nat) (x : IdeS) : (s.setIde k x).panel = s.panel := rfl
@[simp] theorem State.setIde_boot (k : Nat) (x : IdeS) : (s.setIde k x).boot = s.boot := rfl
@[simp] theorem State.setIde_supply (k : Nat) (x : IdeS) : (s.setIde k x).supply = s.supply := rfl
@[simp] theorem State.setIde_upsets (k : Nat) (x : IdeS) : (s.setIde k x).upsets = s.upsets := rfl
@[simp] theorem State.setIde_wellErrs (k : Nat) (x : IdeS) : (s.setIde k x).wellErrs = s.wellErrs := rfl
@[simp] theorem State.setIde_pending (k : Nat) (x : IdeS) : (s.setIde k x).pending = s.pending := rfl

/-! ### State.setPorts -/

@[simp] theorem State.setPorts_regs (x : PortsS) : (s.setPorts x).regs = s.regs := rfl
@[simp] theorem State.setPorts_mem (x : PortsS) : (s.setPorts x).mem = s.mem := rfl
@[simp] theorem State.setPorts_now (x : PortsS) : (s.setPorts x).now = s.now := rfl
@[simp] theorem State.setPorts_free (x : PortsS) : (s.setPorts x).free = s.free := rfl
@[simp] theorem State.setPorts_out (x : PortsS) : (s.setPorts x).out = s.out := rfl
@[simp] theorem State.setPorts_stalled (x : PortsS) : (s.setPorts x).stalled = s.stalled := rfl
@[simp] theorem State.setPorts_latches (x : PortsS) : (s.setPorts x).latches = s.latches := rfl
@[simp] theorem State.setPorts_tallies (x : PortsS) : (s.setPorts x).tallies = s.tallies := rfl
@[simp] theorem State.setPorts_waiters (x : PortsS) : (s.setPorts x).waiters = s.waiters := rfl
@[simp] theorem State.setPorts_arrays (x : PortsS) : (s.setPorts x).arrays = s.arrays := rfl
@[simp] theorem State.setPorts_dmas (x : PortsS) : (s.setPorts x).dmas = s.dmas := rfl
@[simp] theorem State.setPorts_tier (x : PortsS) : (s.setPorts x).tier = s.tier := rfl
@[simp] theorem State.setPorts_parts (x : PortsS) : (s.setPorts x).parts = s.parts := rfl
@[simp] theorem State.setPorts_images (x : PortsS) : (s.setPorts x).images = s.images := rfl
@[simp] theorem State.setPorts_seals (x : PortsS) : (s.setPorts x).seals = s.seals := rfl
@[simp] theorem State.setPorts_power (x : PortsS) : (s.setPorts x).power = s.power := rfl
@[simp] theorem State.setPorts_audio (x : PortsS) : (s.setPorts x).audio = s.audio := rfl
@[simp] theorem State.setPorts_cams (x : PortsS) : (s.setPorts x).cams = s.cams := rfl
@[simp] theorem State.setPorts_sec (x : PortsS) : (s.setPorts x).sec = s.sec := rfl
@[simp] theorem State.setPorts_gauge (x : PortsS) : (s.setPorts x).gauge = s.gauge := rfl
@[simp] theorem State.setPorts_panel (x : PortsS) : (s.setPorts x).panel = s.panel := rfl
@[simp] theorem State.setPorts_boot (x : PortsS) : (s.setPorts x).boot = s.boot := rfl
@[simp] theorem State.setPorts_supply (x : PortsS) : (s.setPorts x).supply = s.supply := rfl
@[simp] theorem State.setPorts_upsets (x : PortsS) : (s.setPorts x).upsets = s.upsets := rfl
@[simp] theorem State.setPorts_wellErrs (x : PortsS) : (s.setPorts x).wellErrs = s.wellErrs := rfl
@[simp] theorem State.setPorts_pending (x : PortsS) : (s.setPorts x).pending = s.pending := rfl

/-! ### State.setGauge -/

@[simp] theorem State.setGauge_regs (x : GaugeS) : (s.setGauge x).regs = s.regs := rfl
@[simp] theorem State.setGauge_mem (x : GaugeS) : (s.setGauge x).mem = s.mem := rfl
@[simp] theorem State.setGauge_now (x : GaugeS) : (s.setGauge x).now = s.now := rfl
@[simp] theorem State.setGauge_free (x : GaugeS) : (s.setGauge x).free = s.free := rfl
@[simp] theorem State.setGauge_out (x : GaugeS) : (s.setGauge x).out = s.out := rfl
@[simp] theorem State.setGauge_stalled (x : GaugeS) : (s.setGauge x).stalled = s.stalled := rfl
@[simp] theorem State.setGauge_latches (x : GaugeS) : (s.setGauge x).latches = s.latches := rfl
@[simp] theorem State.setGauge_tallies (x : GaugeS) : (s.setGauge x).tallies = s.tallies := rfl
@[simp] theorem State.setGauge_waiters (x : GaugeS) : (s.setGauge x).waiters = s.waiters := rfl
@[simp] theorem State.setGauge_arrays (x : GaugeS) : (s.setGauge x).arrays = s.arrays := rfl
@[simp] theorem State.setGauge_dmas (x : GaugeS) : (s.setGauge x).dmas = s.dmas := rfl
@[simp] theorem State.setGauge_tier (x : GaugeS) : (s.setGauge x).tier = s.tier := rfl
@[simp] theorem State.setGauge_parts (x : GaugeS) : (s.setGauge x).parts = s.parts := rfl
@[simp] theorem State.setGauge_images (x : GaugeS) : (s.setGauge x).images = s.images := rfl
@[simp] theorem State.setGauge_seals (x : GaugeS) : (s.setGauge x).seals = s.seals := rfl
@[simp] theorem State.setGauge_power (x : GaugeS) : (s.setGauge x).power = s.power := rfl
@[simp] theorem State.setGauge_audio (x : GaugeS) : (s.setGauge x).audio = s.audio := rfl
@[simp] theorem State.setGauge_cams (x : GaugeS) : (s.setGauge x).cams = s.cams := rfl
@[simp] theorem State.setGauge_sec (x : GaugeS) : (s.setGauge x).sec = s.sec := rfl
@[simp] theorem State.setGauge_ports (x : GaugeS) : (s.setGauge x).ports = s.ports := rfl
@[simp] theorem State.setGauge_panel (x : GaugeS) : (s.setGauge x).panel = s.panel := rfl
@[simp] theorem State.setGauge_boot (x : GaugeS) : (s.setGauge x).boot = s.boot := rfl
@[simp] theorem State.setGauge_supply (x : GaugeS) : (s.setGauge x).supply = s.supply := rfl
@[simp] theorem State.setGauge_upsets (x : GaugeS) : (s.setGauge x).upsets = s.upsets := rfl
@[simp] theorem State.setGauge_wellErrs (x : GaugeS) : (s.setGauge x).wellErrs = s.wellErrs := rfl
@[simp] theorem State.setGauge_pending (x : GaugeS) : (s.setGauge x).pending = s.pending := rfl

/-! ### State.setPanel -/

@[simp] theorem State.setPanel_regs (x : PanelS) : (s.setPanel x).regs = s.regs := rfl
@[simp] theorem State.setPanel_mem (x : PanelS) : (s.setPanel x).mem = s.mem := rfl
@[simp] theorem State.setPanel_now (x : PanelS) : (s.setPanel x).now = s.now := rfl
@[simp] theorem State.setPanel_free (x : PanelS) : (s.setPanel x).free = s.free := rfl
@[simp] theorem State.setPanel_out (x : PanelS) : (s.setPanel x).out = s.out := rfl
@[simp] theorem State.setPanel_stalled (x : PanelS) : (s.setPanel x).stalled = s.stalled := rfl
@[simp] theorem State.setPanel_latches (x : PanelS) : (s.setPanel x).latches = s.latches := rfl
@[simp] theorem State.setPanel_tallies (x : PanelS) : (s.setPanel x).tallies = s.tallies := rfl
@[simp] theorem State.setPanel_waiters (x : PanelS) : (s.setPanel x).waiters = s.waiters := rfl
@[simp] theorem State.setPanel_arrays (x : PanelS) : (s.setPanel x).arrays = s.arrays := rfl
@[simp] theorem State.setPanel_dmas (x : PanelS) : (s.setPanel x).dmas = s.dmas := rfl
@[simp] theorem State.setPanel_tier (x : PanelS) : (s.setPanel x).tier = s.tier := rfl
@[simp] theorem State.setPanel_parts (x : PanelS) : (s.setPanel x).parts = s.parts := rfl
@[simp] theorem State.setPanel_images (x : PanelS) : (s.setPanel x).images = s.images := rfl
@[simp] theorem State.setPanel_seals (x : PanelS) : (s.setPanel x).seals = s.seals := rfl
@[simp] theorem State.setPanel_power (x : PanelS) : (s.setPanel x).power = s.power := rfl
@[simp] theorem State.setPanel_audio (x : PanelS) : (s.setPanel x).audio = s.audio := rfl
@[simp] theorem State.setPanel_cams (x : PanelS) : (s.setPanel x).cams = s.cams := rfl
@[simp] theorem State.setPanel_sec (x : PanelS) : (s.setPanel x).sec = s.sec := rfl
@[simp] theorem State.setPanel_ports (x : PanelS) : (s.setPanel x).ports = s.ports := rfl
@[simp] theorem State.setPanel_gauge (x : PanelS) : (s.setPanel x).gauge = s.gauge := rfl
@[simp] theorem State.setPanel_boot (x : PanelS) : (s.setPanel x).boot = s.boot := rfl
@[simp] theorem State.setPanel_supply (x : PanelS) : (s.setPanel x).supply = s.supply := rfl
@[simp] theorem State.setPanel_upsets (x : PanelS) : (s.setPanel x).upsets = s.upsets := rfl
@[simp] theorem State.setPanel_wellErrs (x : PanelS) : (s.setPanel x).wellErrs = s.wellErrs := rfl
@[simp] theorem State.setPanel_pending (x : PanelS) : (s.setPanel x).pending = s.pending := rfl

/-! ### Pieces -/

theorem State.rd_wr (p q : Page) (b c : Nat) (f g : Fld) (v : Nat) (h : regKey q c g = regKey p b f → g.reset = f.reset) :
    (s.wr p b f v).rd q c g = if regKey q c g = regKey p b f then v % 2 ^ f.width else s.rd q c g := by
  unfold State.rd State.wr
  split
  · next e => rw [h e, e, SMap.get_set_self]
  · next e => exact SMap.get_set_other _ _ _ _ e

@[simp] theorem State.rd_wr_self (p : Page) (b : Nat) (f : Fld) (v : Nat) : (s.wr p b f v).rd p b f = v % 2 ^ f.width := by
  rw [State.rd_wr _ _ _ _ _ _ _ _ fun _ => rfl, if_pos rfl]

/-- A field of another key is left alone. -/
theorem State.rd_wr_other {p q : Page} {b c : Nat} {f g : Fld} (v : Nat) (h : regKey q c g ≠ regKey p b f) :
    (s.wr p b f v).rd q c g = s.rd q c g := SMap.get_set_other _ _ _ _ h

theorem State.rd_of_regs {s t : State} (h : t.regs = s.regs) (p : Page) (b : Nat) (f : Fld) : t.rd p b f = s.rd p b f := by
  unfold State.rd
  rw [h]

theorem State.byte_of_mem {s t : State} (h : t.mem = s.mem) (a : Nat) : t.byte a = s.byte a := by
  unfold State.byte
  rw [h]

theorem State.arr_setArr (a b : Nat) (x : ArrayS) : (s.setArr a x).arr b = if b = a then x else s.arr b := by
  simp only [State.arr, State.setArr, SMap.get_set]

@[simp] theorem State.arr_setArr_self (a : Nat) (x : ArrayS) : (s.setArr a x).arr a = x := by
  simp only [State.arr, State.setArr, SMap.get_set_self]

@[simp] theorem State.arr_modArr_self (a : Nat) (f : ArrayS → ArrayS) : (s.modArr a f).arr a = f (s.arr a) := by
  simp only [State.modArr, State.arr, State.setArr, SMap.get_set_self]

theorem State.arr_modArr (a b : Nat) (f : ArrayS → ArrayS) : (s.modArr a f).arr b = if b = a then f (s.arr a) else s.arr b := by
  simp only [State.modArr, State.arr, State.setArr, SMap.get_set]

theorem State.arr_of_arrays {s t : State} (h : t.arrays = s.arrays) (a : Nat) : t.arr a = s.arr a := by
  unfold State.arr
  rw [h]

theorem State.dma_setDma (a b : Nat) (x : DmaS) : (s.setDma a x).dma b = if b = a then x else s.dma b := by
  simp only [State.dma, State.setDma, SMap.get_set]

@[simp] theorem State.dma_setDma_self (a : Nat) (x : DmaS) : (s.setDma a x).dma a = x := by
  simp only [State.dma, State.setDma, SMap.get_set_self]

theorem State.dom_setDom (d e : Nat) (x : Dom) : (s.setDom d x).dom e = if e = d then x else s.dom e := by
  simp only [State.dom, State.setDom, SMap.get_set]

@[simp] theorem State.dom_setDom_self (d : Nat) (x : Dom) : (s.setDom d x).dom d = x := by
  simp only [State.dom, State.setDom, SMap.get_set_self]

theorem State.tally_setTally (i j : Nat) (x : Tally) : (s.setTally i x).tally j = if j = i then x else s.tally j := by
  simp only [State.tally, State.setTally, SMap.get_set]

@[simp] theorem State.tally_setTally_self (i : Nat) (x : Tally) : (s.setTally i x).tally i = x := by
  simp only [State.tally, State.setTally, SMap.get_set_self]

theorem State.ott_setOtt (i j e : Nat) : (s.setOtt i e).ott j = if j = i then e % 2 ^ 64 else s.ott j := by
  simp only [State.ott, State.setOtt, SMap.get_set]

@[simp] theorem State.ott_setOtt_self (i e : Nat) : (s.setOtt i e).ott i = e % 2 ^ 64 := by
  simp only [State.ott, State.setOtt, SMap.get_set_self]

theorem State.assignOf_setAssign (a b : Nat) (x : Assign) : (s.setAssign a x).assignOf b = if b = a then x else s.assignOf b := by
  simp only [State.assignOf, State.setAssign, SMap.get_set]

theorem State.stream_setStream (i j : Nat) (x : StreamS) : (s.setStream i x).stream j = if j = i then x else s.stream j := by
  simp only [State.stream, State.setStream, State.setAudio, SMap.get_set]

theorem State.cam_setCam (c d : Nat) (x : CamS) : (s.setCam c x).cam d = if d = c then x else s.cam d := by
  simp only [State.cam, State.setCam, State.setCams, SMap.get_set]

theorem State.group_setGroup (g h : Nat) (x : GroupS) : (s.setGroup g x).group h = if h = g then x else s.group h := by
  simp only [State.group, State.setGroup, State.setCams, SMap.get_set]

theorem State.ide_setIde (k j : Nat) (x : IdeS) : (s.setIde k x).ide j = if j = k then x else s.ide j := by
  simp only [State.ide, State.setIde, SMap.get_set]

end Sys2Proof.Machine
end

