-- ==== Sys2Proof/WellFormed.lean ====
section
/-! DEFINITION. Which commands name things that exist: requesters, arrays, ports, contexts, domains and the like stay within
the numbers the spec gives them. A meaning leaves the state unchanged on a command that names nothing. -/

namespace Sys2Proof

/-- Virtual functions are 0 to 7 (R379). -/
def View.wf : View → Bool
  | .pf => true
  | .steward => true
  | .vf v => decide (v < 8)

/-- Arrays 0 to 7 are main arrays and 8 is the sentry (R10, Table 14.5). -/
def arrayWf (a : Nat) : Bool := decide (a < 9)

/-- Partitions 0 to 7 (R209). -/
def partWf (p : Nat) : Bool := decide (p < 8)

/-- The control window is 16 MiB (R379). -/
def addrWf (a : Nat) : Bool := decide (a < 2 ^ 24)

/-- Functions: 0 physical, 1 to 8 virtual (R379). -/
def fnWf (f : Nat) : Bool := decide (f < 9)

/-- Slices are 0 to 7 and hold 2^20 words of 64 bits each (R10, Table 7.1). -/
def MopEnv.wf (e : MopEnv) : Bool :=
  match e.slice, e.ue with
  | some n, some (_, w) => decide (n < 8 ∧ w < 2 ^ 20)
  | some n, none => decide (n < 8)
  | none, _ => true

/-- A command whose requester, array, partition, address, port, context, domain or function number is in range. -/
def Instr.wf : Instr → Bool
  | .matmul a e => arrayWf a && e.wf
  | .conv a e => arrayWf a && e.wf
  | .pool a e => arrayWf a && e.wf
  | .eltwise a e => arrayWf a && e.wf
  | .moveConvert a e => arrayWf a && e.wf
  | .pair a e => arrayWf a && e.wf
  | .pairBwd a e => arrayWf a && e.wf
  | .expand a e => arrayWf a && e.wf
  | .decode a e => arrayWf a && e.wf
  | .recur a e => arrayWf a && e.wf
  | .tallySignalOp a => arrayWf a
  | .tallyWaitOp a => arrayWf a
  | .lift a => arrayWf a
  | .sealOp a => arrayWf a
  | .doze a => arrayWf a
  | .weightRefetch a _ => arrayWf a
  | .macroOpComplete a => arrayWf a
  | .gangBarrierStart a => decide (a < 8)
  | .cmplRd v a _ => v.wf && arrayWf a
  | .arbiterChoice a => decide (a < 8)
  | .epochBoundary => true
  | .weirWindowStart => true
  | .tallySignal i _ => decide (i < 8192)
  | .sigInc v _ => v.wf
  | .initThresh v _ => v.wf
  | .tallyAllocate v _ => v.wf
  | .tallyFree v _ => v.wf
  | .load p _ => partWf p
  | .ottAlloc v _ => v.wf
  | .ottRelease v _ => v.wf
  | .ottReleaseResume => true
  | .ottSet v _ => v.wf
  | .ottMove v _ => v.wf
  | .pageMoveComplete _ => true
  | .frameZeroing _ => true
  | .dmaCopy a c _ => decide (a < 8) && decide (c < 8)
  | .dmaFill a c _ => decide (a < 8) && decide (c < 8)
  | .dmaComplete a c => decide (a < 8) && decide (c < 8)
  | .t1Quota v _ => v.wf
  | .partEnable v _ => v.wf
  | .partDisable v _ => v.wf
  | .partitionTeardown p => partWf p
  | .vfFlr p => partWf p
  | .assignRelease v _ => v.wf
  | .assignOwn v _ => v.wf
  | .shareAdd v _ => v.wf
  | .shareRemove v _ => v.wf
  | .ownerProg v _ => v.wf
  | .lcAdvance v _ => v.wf
  | .rollbackAdv v _ => v.wf
  | .dbgChallenge v _ => v.wf
  | .dbgResponse v _ => v.wf
  | .wellRekey v _ => v.wf
  | .getVersion => true
  | .getCapabilities => true
  | .negotiateAlgorithms => true
  | .getDigests => true
  | .getCertificate _ _ _ => true
  | .challenge _ n => n.length == 32
  | .getMeasurements _ _ n => n.length == 32
  | .keyExchange _ => true
  | .finish _ => true
  | .heartbeat => true
  | .keyUpdate => true
  | .endSession => true
  | .ideKm m =>
    match m with
    | .keyProg st _ rids => decide (st < 5) && rids.all fnWf
    | .kSetGo st => decide (st < 5)
  | .ideIntegrityFailure st => decide (st < 5)
  | .tlpReceived t => fnWf t.fn
  | .trngDataRead v => v.wf
  | .trngSeeded => true
  | .healthFail => true
  | .drbgReseed => true
  | .pwrReq v a _ => v.wf && addrWf a
  | .domainEntry d => decide (d < 27)
  | .domainWake d => decide (d < 27)
  | .domainReady d => decide (d < 27)
  | .seqGo v _ => v.wf
  | .seqTimeout => true
  | .liftRaise => true
  | .liftProceed _ => true
  | .pcmSample b => decide (b.length ≤ 8)
  | .blockClose _ => true
  | .vadStart => true
  | .vadEnd => true
  | .glass => true
  | .alarmT3 => true
  | .alarmCont => true
  | .audioStreamStart v st _ => v.wf && decide (st < 4)
  | .audioStreamStop v st _ => v.wf && decide (st < 4)
  | .audioBlockDelivery st => decide (st < 4)
  | .hqStart v _ => v.wf
  | .hqStop v _ => v.wf
  | .calLoad v _ => v.wf
  | .channelUnderrun c => decide (c < 8)
  | .channelResume c => decide (c < 8)
  | .muteAssert => true
  | .muteRelease => true
  | .aoutEnable v p _ => v.wf && decide (p < 2)
  | .aoutFrame p => decide (p < 2)
  | .aoutPeriodSignal p => decide (p < 2)
  | .frameStart p vc _ => decide (p < 6) && decide (vc < 16)
  | .frameEnd p vc _ => decide (p < 6) && decide (vc < 16)
  | .longPacket q => decide (q.port < 6) && decide (q.vc < 16) && decide (q.dt < 64)
  | .lineShortPacket p vc _ => decide (p < 6) && decide (vc < 16)
  | .deskewReceived p => decide (p < 6)
  | .shadowCommit v c _ => v.wf && decide (c < 32)
  | .cisRes v p _ => v.wf && decide (p < 2)
  | .workItem p => decide (p < 2)
  | .deadlineSkip c => decide (c < 32)
  | .groupAbsent g c => decide (g < 8) && decide (c < 32)
  | .hostDmaTail v _ => v.wf
  | .hostDmaDescriptor fn d _ _ => fnWf fn && d.length == 64
  | .perstNRise => true
  | .perstNFall => true
  | .hostD3cold => true
  | .pcieLinkRecovery => true
  | .msixUnmask fn k => fnWf fn && decide (k < 16)
  | .xspiCommand _ => true
  | .i3cIbi t p => decide (t < 128) && !p.isEmpty
  | .i3cHotJoin t => decide (t < 128)
  | .i3cPrivateRead _ => true
  | .uartReceive _ => true
  | .uartQuery => true
  | .aspWord _ => true
  | .drainGo v _ => v.wf
  | .aspDrainEnd => true
  | .gaugeCurrentSample _ => true
  | .gaugeVoltageSample _ _ _ => true
  | .gaugeRangeChange => true
  | .gaugeEmptySet => true
  | .gaugeEmptyClear => true
  | .gaugeReanchor => true
  | .qLoad v _ => v.wf
  | .panelGo v _ => v.wf
  | .panelPumpsReady => true
  | .panelPhaseEnd => true
  | .hvSupplyFail _ => true
  | .porstNRise _ => true
  | .porstNFall => true
  | .aonPowerOnReset => true
  | .selfTestVerdict => true
  | .restart v _ => v.wf
  | .thermalTrip n _ => decide (n < 11)
  | .thermalTripRelease q => q.length == 11
  | .throttleStepDown a _ => decide (a < 8)
  | .throttleStepUp a _ => decide (a < 8)
  | .headroomLow a _ _ => decide (a < 8)
  | .vddMaCollapse _ => true
  | .oppReq v a _ => v.wf && decide (a < 8)
  | .oppSettled a => decide (a < 8)
  | .rtcFallback => true
  | .retrain v _ _ => v.wf
  | .ackN v _ => v.wf
  | .run v a _ => v.wf && addrWf a
  | .stopReq v a _ => v.wf && addrWf a
  | .pageStopped a c => addrWf a && decide (c < 9)
  | .cfgOpen v a _ => v.wf && addrWf a
  | .errClr v a _ => v.wf && addrWf a
  | .irqClr v a _ => v.wf && addrWf a
  | .irqForce v a _ => v.wf && addrWf a
  | .irqMask v a _ => v.wf && addrWf a
  | .cntClr v a _ => v.wf && addrWf a
  | .resClr v a _ => v.wf && arrayWf a
  | .seqClr v a _ => v.wf && arrayWf a
  | .latchedRead v a => v.wf && addrWf a
  | .registerWrite v a _ _ => v.wf && addrWf a
  | .telemWindowEnd _ => true
  | .pcieTlpReplay => true
  | .pcieLinkUp => true
  | .completionTimeout fn => fnWf fn
  | .imageUnload p _ => partWf p
  | .supplyRailRestored _ _ => true
  | .lpddrHot c _ => decide (c < 8)
  | .jtagAccess _ => true

end Sys2Proof
end

