-- ==== Sys2Proof/Tests/Slice0.lean ====
section
/-! SUPPORT. Tests: the well-formedness check on an ill-formed command for each of its parts, small tests of commands against worked values
of spec/, and for every statement of Certificates/Slice0/Obligations.lean a named theorem that shows states and operands which meet its
hypotheses, clause by clause. -/

namespace Sys2Proof.Tests
open Sys2Proof.Machine

-- One theorem is elaborated at a time: a hundred kernel evaluations at once take more threads than the check's memory limit lets them have.
set_option Elab.async false

def nextOf (o : Ans) : State := match o with
  | .next t => t
  | _ => State.reset

/-- The device in READY with every array slot, link, cistern slice, camera port and LPDDR channel there. -/
def up : State :=
  let s := (State.reset.wr .sys 0 Reg.Sys.STAGE 6).wr .floor 0 Reg.Floor.CIS_PRESENT 0xFF
  let s1 := ((s.wr .floor 0 Reg.Floor.CSI_PRESENT 0x3F).wr .floor 0 Reg.Floor.CH_PRESENT 0xFF).wr .floor 0 Reg.Floor.LINK_PRESENT 0x3FF
  (List.range 9).foldl (fun s a => ((s.wr .floor 0 (Reg.Floor.PRESENT a) 1).wr .floor 0 (Reg.Floor.X a) (a % 4)).wr .floor 0 (Reg.Floor.Y a) (a / 4)) s1

/-- An OTT entry of a one-page object of partition 0: place, WR, HOME_V, FRAME and HOME. -/
def ottE (place wr homeV frame home : Nat) : Nat := 1 + place * 2 + wr * 64 + 128 + homeV * 2048 + frame * 4096 + home * 2 ^ 25 + 2 ^ 45

/-- A one-row tensor in object 1. -/
def tns (fmt off : Nat) : TD := { obj := 1, fmt := fmt, offset := off, s1 := 64, s2 := 64, s3 := 64 }

/-- Array 0, owned by partition 0, RUNNING at a descriptor; object 1 is frame 1 of its local store. Words 0, 0x08, 0x0C, 0x14, 0x24 and OPSPEC
of the descriptor; S_N and S_OUT are 1.0. -/
def macroState (w0 w8 wC w14 w24 ops : Nat) (tds : List TD) : State :=
  let d := w0 + w8 * 2 ^ 64 + wC * 2 ^ 96 + w14 * 2 ^ 160 + 0x3F800000 * 2 ^ 224 + 0x3F800000 * 2 ^ 256 + w24 * 2 ^ 288 + ops * 2 ^ 320
  let s0 := ((((up.setSt (.ma 0) 0 1).wr (.ma 0) 0 Reg.Ma.SCHED_LEN 2).wr (.ma 0) 0 Reg.Ma.CMPL_LEN 4).wr (.ma 0) 0 Reg.Ma.TALLY_LEN 8).wr
    (.ma 0) 0 Reg.Ma.CMPL_BASE 64
  let s1 := { s0 with
    parts := { s0.parts with assign := [(0, .owned 0)] }, tier := { s0.tier with ott := [(1, ottE 0 1 0 1 0)] },
    images := [{ arrays := 1, bind := [0], tensors := {} :: tds, objs := [{ ott := 1, pages := 1, wr := true }] }] }
  ((s1.store 0 (leBytes 64 d)).store pageBytes [3]).store (pageBytes + 64) [5]

def noEnv : MopEnv := ⟨[], none, 0, none⟩
def int8 : Nat := 2 ^ 13 + 2 ^ 15

def sMatmul : State := macroState (0x01 + int8) 0x20001 3 0x2000 0 0 [tns 7 0, tns 7 64, tns 0xE 128]
def sConv : State := macroState (0x02 + int8) 0x20001 3 0x2000 0 (2 ^ 64) [tns 7 0, tns 7 64, tns 0xE 128]
def sPool : State := macroState 0x03 1 3 0 0 0 [tns 7 0, tns 7 64, tns 7 128]
def sEltwise : State := macroState (0x04 + int8) 0x20001 3 0 0 0 [tns 7 0, tns 7 64, tns 7 128]
def sMove : State := macroState 0x05 1 3 0 0 0 [tns 7 0, tns 7 64, tns 7 128]
def one2 : Nat := 0x3F800000 * 2 ^ 64
def sPair : State := macroState (0x10 + 0x100 + int8) 0x20001 0x40003 0x2000 0 (2 + 7 * 2 ^ 32 + one2) [tns 7 0, tns 7 64, tns 0xE 128, tns 0xE 256]
def sPairBwd : State := (macroState (0x11 + 0x100 + int8) 0x20001 0x40003 0x2000 5 (2 + 2 * 65536 + 7 * 2 ^ 32 + one2)
  [tns 7 0, tns 7 64, tns 0xE 128, tns 0xE 256, tns 7 512]).store (pageBytes + 520) [1, 0, 1, 0]
def sExpand : State := macroState (0x12 + int8) 0x20001 0x40003 0x2000 0 1 [tns 7 0, tns 7 64, tns 0xE 128, tns 7 256]
def sDecode : State := (macroState (0x13 + int8) 0x20001 0x40003 0x2000 5 (2 + 8 * 2 ^ 32 + one2)
  [tns 7 0, tns 7 64, tns 0xE 128, tns 0xE 256, tns 7 512]).store (pageBytes + 512) [1]
def sRecur : State := macroState (0x14 + int8) 0x20001 0x40003 0x2004 0 1 [tns 7 0, tns 7 64, tns 0xE 128, tns 7 256]

/-! ### Witnesses: the whole machine and macro-operations -/

theorem witness_StepTakesTheFront :
    ({ State.reset with pending := [.rtcFallback, .heartbeat] }).pending = .rtcFallback :: [.heartbeat] ∧ State.reset.pending = [] := by decide

theorem witness_StepKeeps : MemInv State.reset ∧ QueueInv State.reset ∧ step State.reset = .next { State.reset with now := 1 } :=
  ⟨by decide, ⟨by decide, by decide, by decide, by decide, by decide, by decide, fun _ => Nat.zero_le _⟩, rfl⟩

theorem witness_CommandFrames :
    exec .rtcFallback State.reset = .next { State.reset with supply := { State.reset.supply with rtcInternal := true } } ∧
    exec .gaugeRangeChange State.reset = .next State.reset := ⟨rfl, rfl⟩

theorem witness_MatrixOps_ready : MacroReady sMatmul 0 0 0x01 ∧ MacroReady sConv 0 0 0x02 ∧ MacroReady sPool 0 0 0x03 ∧
    MacroReady sEltwise 0 0 0x04 ∧ MacroReady sMove 0 0 0x05 := by decide +kernel

theorem witness_MatrixOps_runs : (sMatmul.runMatmul (sMatmul.macroAt 0 0) (gangEnv [noEnv])).fault = 0 ∧
    (sConv.runConv (sConv.macroAt 0 0) (gangEnv [noEnv])).fault = 0 ∧ (sPool.runPool (sPool.macroAt 0 0) (gangEnv [noEnv])).fault = 0 ∧
    (sEltwise.runEltwise (sEltwise.macroAt 0 0) (gangEnv [noEnv])).fault = 0 ∧
    ((sMove.moveStart (sMove.macroAt 0 0) noEnv).runMove (sMove.macroAt 0 0) (sMove.moveEnv (sMove.macroAt 0 0) noEnv)).fault = 0 := by decide +kernel

theorem witness_SequenceOps_ready : MacroReady sPair 0 0 0x10 ∧ MacroReady sPairBwd 0 0 0x11 ∧ MacroReady sExpand 0 0 0x12 ∧
    MacroReady sDecode 0 0 0x13 ∧ MacroReady sRecur 0 0 0x14 := by decide +kernel

theorem witness_SequenceOps_runs : (sPair.runPair (sPair.macroAt 0 0) noEnv).1.fault = 0 ∧
    (sPairBwd.runPairBwd (sPairBwd.macroAt 0 0) (gangEnv [noEnv])).fault = 0 ∧
    (sExpand.runMatmul (sExpand.macroAt 0 0) (gangEnv [noEnv])).fault = 0 ∧ (sDecode.runDecode (sDecode.macroAt 0 0) noEnv).1.fault = 0 ∧
    (sRecur.runRecur (sRecur.macroAt 0 0) (gangEnv [noEnv])).1.fault = 0 := by decide +kernel

def sTallySig : State := macroState 0x20 0 0 0 0 (3 + 2 * 65536) []
def sTallyWait : State := macroState 0x120 0 0 0 0 7 []
def sTallyGo : State := sTallyWait.modArr 0 fun x => { x with released := [0] }

theorem witness_TallyMacroOps : (MacroReady sTallySig 0 0 0x20 ∧ (sTallySig.descAt 0 0).sub ≠ 1) ∧
    (MacroReady sTallyGo 0 0 0x20 ∧ (sTallyGo.descAt 0 0).sub = 1 ∧ (sTallyGo.arr 0).released.contains 0 = true) ∧
    MacroReady sTallyWait 0 0 0x20 ∧ (sTallyWait.descAt 0 0).sub = 1 ∧ (sTallyWait.arr 0).released.contains 0 = false ∧
    (sTallyWait.waiters.any fun w => w.arr == 0 && !w.dma && w.ctx == 0) = false ∧
    (sTallyWait.tally (sTallyWait.physTally 0 0 ((sTallyWait.descAt 0 0).os 0 0 13))).count <
      (sTallyWait.tally (sTallyWait.physTally 0 0 ((sTallyWait.descAt 0 0).os 0 0 13))).thresh := by decide +kernel

def sLift : State := ((macroState 0x21 1 0 0 0 0 [tns 7 0]).wr .liftPage 0 (Reg.Lift.THR_EN 0) 1).wr .liftPage 0 (Reg.Lift.THRESH 0) 2

theorem witness_LiftRaisesItsRecords : MacroReady sLift 0 0 0x21 ∧ sLift.struck (sLift.spans (tns 7 0)) = [] ∧
    (sLift.port (sLift.macroAt 0 0) (tns 7 0) [sLift.cellsAt (sLift.macroAt 0 0) (tns 7 0) 1 0 0 0]).faults = [] ∧
    sLift.passing 0 ((nth [] (sLift.port (sLift.macroAt 0 0) (tns 7 0) [sLift.cellsAt (sLift.macroAt 0 0) (tns 7 0) 1 0 0 0]).els 0).map
      fun e => rhe e.v) = [(0, 3)] := by decide +kernel

def sSeal : State := macroState 0x22 0 0x20000 0 0 0 [tns 7 0, tns 7 64]

theorem witness_SealAppendsOneRecord : MacroReady sSeal 0 0 0x22 ∧ sSeal.domOn 26 = true ∧ sSeal.seals.waiters = [] ∧
    sSeal.seals.ledger.length < 4096 ∧ sSeal.upsets = [] ∧ sSeal.badFaults (sSeal.macroAt 0 0) = [] := by decide +kernel

def sDoze0 : State := macroState 0x23 0 0 0 0 0 []
def sDoze2 : State := macroState 0x23 0 0 0 0 2 []

theorem witness_DozeBeginsEntry : (MacroReady sDoze0 0 0 0x23 ∧ (sDoze0.descAt 0 0).os 0 0 2 = 0 ∧ (sDoze0.dom (arrDomain 0)).req = 0) ∧
    MacroReady sDoze2 0 0 0x23 ∧ (sDoze2.descAt 0 0).os 0 0 2 = 2 ∧ sDoze2.refusal (arrDomain 0) 2 (some 0) = 0 := by decide +kernel

def sDone (fault : Nat) : State := sMatmul.modArr 0 fun x => { x with mop := some { opcode := 1, fault := fault } }

theorem witness_CompletionWritesItsRecord : ((sDone 0).mayComplete 0 { opcode := 1, fault := 0 } = true ∧
      ((sDone 0).arr 0).mop = some { opcode := 1, fault := 0 } ∧
      (sDone 0).rd (.ma 0) 0 Reg.Ma.PC + 1 < (sDone 0).rd (.ma 0) 0 Reg.Ma.SCHED_LEN) ∧
    (sDone 9).mayComplete 0 { opcode := 1, fault := 9 } = true ∧ ((sDone 9).arr 0).mop = some { opcode := 1, fault := 9 } := by decide +kernel

/-- Arrays 0 and 1 as one gang at a MATMUL; GANG of array 0's descriptor and TAG of array 1's are arguments. -/
def sGang (gang0 tag1 : Nat) : State :=
  let d := (0x01 + int8 + 2 ^ 19) + 0x20001 * 2 ^ 64 + 3 * 2 ^ 96 + 0x2000 * 2 ^ 160
  let p1 := Page.ma 1
  let s0 := ((sMatmul.setSt p1 0 1).wr p1 0 Reg.Ma.SCHED_LEN 2).wr p1 0 Reg.Ma.CMPL_LEN 4
  let s1 := { s0 with
    parts := { s0.parts with assign := [(0, .owned 0), (1, .owned 0)] },
    tier := { s0.tier with ott := [(1, ottE 0 1 0 1 0), (2, ottE 0 1 0 513 0), (3, ottE 0 1 0 2 0), (4, ottE 0 1 0 514 0), (5, ottE 0 1 0 3 0)] },
    images := [{ arrays := 2, bind := [0, 1], gangs := [[0, 1]],
                 tensors := [{}, { tns 7 0 with obj := 5 }, tns 7 0, { tns 0xE 0 with obj := 3 }],
                 objs := [{ ott := 1, pages := 1, gangHead := true, gangLen := 2 }, { ott := 2, pages := 1 },
                          { ott := 3, pages := 1, wr := true, gangHead := true, gangLen := 2 }, { ott := 4, pages := 1, wr := true },
                          { ott := 5, pages := 1 }] }] }
  (s1.store 0 (leBytes 64 (d - (1 - gang0) * 2 ^ 19))).store (t0Base 1) (leBytes 64 (d + tag1 * 2 ^ 48))

theorem witness_GangBarrier_equal : (sGang 1 0).atStart 0 = some 0 ∧ (sGang 1 0).gangOf 0 0 = [0, 1] ∧
    (∀ b ∈ [0, 1], (sGang 1 0).reached 0 b 0 = true) ∧ ((sGang 1 0).descAt 0 0).gang ≠ 0 ∧ ((sGang 1 0).descAt 0 0).gangSize = 2 ∧
    (∀ b ∈ [0, 1], ((sGang 1 0).descAt b 0).raw = ((sGang 1 0).descAt 0 0).raw ∧
      (sGang 1 0).rd (.ma b) 0 Reg.Ma.OPP_ACT = (sGang 1 0).rd (.ma 0) 0 Reg.Ma.OPP_ACT) := by decide +kernel

/-- Another TAG, and a leader whose GANG is 0 beside a member whose GANG is not. -/
theorem witness_GangBarrier_unequal : ∀ s ∈ [sGang 1 7, sGang 0 0], s.atStart 0 = some 0 ∧ s.gangOf 0 0 = [0, 1] ∧
    (∀ b ∈ [0, 1], s.reached 0 b 0 = true) ∧ (s.descAt 1 0).gang ≠ 0 ∧ (s.descAt 1 0).raw ≠ (s.descAt 0 0).raw := by decide +kernel

/-- Object 1 stands in frame 1 of array 0 with a well copy in well frame 5, and an array waits for its refetch. -/
def sRefetch : State :=
  let s := sMatmul.modArr 0 fun x => { x with mop := some { opcode := 1, crcPage := some 1 } }
  { s with tier := { s.tier with ott := [(1, ottE 0 1 1 1 5)] } }

theorem witness_RefetchRepairsOrMarksBad : (sRefetch.arr 0).mop = some { opcode := 1, crcPage := some 1 } ∧
    sRefetch.wellSource 1 = some 1 ∧ sRefetch.domOn 21 = true ∧
    (∀ k ∈ [0, 1], SMap.get false sRefetch.parts.weirEn (ottPart (sRefetch.ott 1) * 3 + k) = false) ∧ sRefetch.wellErrs = [] ∧
    ottPlace (sRefetch.ott 1) < 2 := by decide +kernel

/-- The LPDDR weir of partition 0 without tokens. -/
theorem witness_RefetchRepairsOrMarksBad_held : (let s := { sRefetch with parts := { sRefetch.parts with weirEn := [(0, true)], tokens := [(0, 0)] } }
    (s.arr 0).mop = some { opcode := 1, crcPage := some 1 } ∧ s.wellSource 1 = some 1 ∧ s.domOn 21 = true ∧
      s.weirHolds (ottPart (s.ott 1)) 0 = true) := by decide +kernel

theorem witness_ArrayRegisterCommands : (∀ a ∈ [0, 8], Reaches up .pf (.ma a) 0x1CC 0 ∧ Reaches up .steward (.ma a) 0x1B8 0 ∧
      Reaches up .pf (.ma a) 0x1DC 0 ∧ Reaches up .pf (.ma a) 0x190 0) ∧
    Reaches up .pf (.ma 7) 0x100 0 ∧ View.isVf .pf = false ∧ field (28 : Word).toNat 0 5 ≤ 28 ∧ 28 < field (29 : Word).toNat 0 5 := by
  decide +kernel

/-- Array 0 shared by partitions 0 and 1, both enabled and RUNNING at a MATMUL, with equal weights. -/
def sShared (last : Option Nat) : State :=
  let s0 := (((sMatmul.setSt (.ma 0) 1 1).wr (.ma 0) 1 Reg.Ma.CMPL_LEN 4).wr .part 0 Reg.Part.PART_EN 1).wr .part 1 Reg.Part.PART_EN 1
  { s0 with parts := { s0.parts with assign := [(0, .shared [0, 1])] },
            arrays := [(0, { wAct := [(0, 1), (1, 1)], eP := [(0, 5)], last := last })] }

theorem witness_ArbiterChooses : ∀ last ∈ [none, some 1, some 0], (sShared last).assignOf 0 = .shared [0, 1] ∧
    ((sShared last).arr 0).mop = none ∧ ((sShared last).arr 0).turn = none ∧ (sShared last).domOn (arrDomain 0) = true ∧
    ([0, 1].filter fun c => (sShared last).st (.ma 0) c == 1) = [0, 1] ∧
    (∀ c ∈ [0, 1], (sShared last).memberGate 0 c = (sShared last, true)) ∧
    ((sShared last).arr 0).choose ([0, 1].filter fun c => !(sShared last).ringFull 0 c) = some 1 ∧
    ((sShared last).arr 0).last = last := by decide +kernel

theorem witness_EpochsAndWindows : (sShared none).assignOf 0 = .shared [0, 1] ∧ 1 ∈ [0, 1] ∧ (sShared none).ports.heldTlps = [] ∧
    ∀ members, (sShared none).assignOf 1 ≠ .shared members := by
  refine ⟨by decide, by decide, by decide, ?_⟩; have h : (sShared none).assignOf 1 = .unassigned := by decide
  rw [h]; intro m hm; cases hm

/-! ### Witnesses: tallies, images, tiers -/

def sTal : State := { up with tallies := [(8191, { count := 0xFFFF, alloc := true })] }

theorem witness_TallyPageCommands : Reaches sTal .pf .tallyPf 0x10C 0 ∧ Reaches sTal .pf .tallyPf 0x110 0 ∧
    Reaches sTal .pf .tallyPf 0x120 0 ∧ sTal.reaches none 8191 = true ∧
    ((sTal.wr .tallyPf 0 Reg.Tally.TSEL 8191).hasWaiter 8191 = false ∧ (sTal.wr .tallyPf 0 Reg.Tally.TSEL 8191).rd .tallyPf 0 Reg.Tally.TSEL = 8191 ∧
      (sTal.tally 8191).alloc = true ∧ field (0x10000 : Word).toNat 16 16 ≠ 0) ∧
    (tallyView .pf).2 = none ∧ 0 < field (0x20000 : Word).toNat 16 14 ∧ field (0x20000 : Word).toNat 0 13 + field (0x20000 : Word).toNat 16 14 ≤ 8192 := by
  decide +kernel

theorem witness_TallyPageCommands_refused : Reaches sTal .pf .tallyPf 0x110 0 ∧ sTal.rd .tallyPf 0 Reg.Tally.TSEL = 0 ∧
    sTal.reaches none 0 = true ∧ field (5 : Word).toNat 16 16 = 0 ∧ (sTal.tally 0).alloc = false := by decide +kernel

theorem witness_TallyPageCommands_vf : (let s := (up.wr .part 3 Reg.Part.PART_EN 1)
    let s1 := { s with tallies := [(5, { alloc := true, owner := 3 })] }
    Reaches s1 (.vf 3) (.tallyVf 3) 0x10C 0 ∧ s1.reaches (some 3) 5 = true) := by decide +kernel

theorem witness_TallyRuns_fail : Reaches sTal .pf .tallyPf 0x120 0 ∧ field (0x1FFF + 1 * 65536 : Word).toNat 0 13 = 8191 ∧
    (sTal.tally 8191).alloc = true ∧ field (0 : Word).toNat 16 14 = 0 ∧ (tallyView (.vf 3)).2 = some 3 ∧
    Reaches (up.wr .part 3 Reg.Part.PART_EN 1) (.vf 3) (.tallyVf 3) 0x120 0 ∧
    ({ sTal with waiters := [Waiter.mk 0 false 0 8191 0] } : State).hasWaiter 8191 = true := by decide +kernel

theorem witness_TallyRuns : (∀ i, 0 ≤ i → i < 0 + 2 → (up.tally i).alloc = false) ∧ (∀ i, 0 ≤ i → i < 0 + 2 → up.hasWaiter i = false) :=
  ⟨fun _ _ _ => rfl, fun _ _ _ => rfl⟩

/-- Bytes of an image with one variant and one logical array, whose schedule is one MATMUL descriptor without a cost. Its frames of the well
and its tallies are arguments. -/
def imgReq (well tallies : Nat) : List Byte :=
  leBytes 4 0x100 ++ leBytes 4 (((sha256 [0]).headD 0).toNat) ++ leBytes 4 0 ++ leBytes 4 well ++ leBytes 4 1 ++ leBytes 4 tallies ++ leBytes 40 0 ++
    leBytes 4 0x10001 ++ leBytes 4 0

def imgSched : List Byte := leBytes 4 0 ++ leBytes 4 1 ++ leBytes 56 0 ++ leBytes 64 0x01

def imgHead : List Byte :=
  leBytes 4 0x4C504F56 ++ leBytes 2 1 ++ leBytes 2 2 ++ leBytes 4 0x200 ++ leBytes 4 0 ++ leBytes 8 77 ++ leBytes 8 448 ++ leBytes 32 0

def imgEnt (type off len : Nat) (d : List Byte) : List Byte :=
  leBytes 4 type ++ leBytes 4 0 ++ leBytes 8 off ++ leBytes 8 len ++ leBytes 8 0 ++ d

def imageOf (well tallies : Nat) : List Byte :=
  imgHead ++ imgEnt 1 192 72 (sha256 (imgReq well tallies)) ++ imgEnt 2 320 128 (sha256 imgSched) ++ imgReq well tallies ++ leBytes 56 0 ++ imgSched

def image1 : List Byte := imageOf 0 0

/-- Partition 0 owns array 0 in a PRODUCTION device. -/
def sLoad : State :=
  let s := up.wr .part 0 Reg.Part.PART_EN 1
  { s with sec := { s.sec with lc := 1 }, parts := { s.parts with assign := [(0, .owned 0)] } }

theorem witness_LoadAndUnload_checks : sLoad.partOn 0 = true ∧ loadCheck image1 = none := by decide +kernel

theorem witness_LoadAndUnload_bind : sLoad.chooseVariant 0 image1 = some (reqOf image1 0, [0]) ∧ (reqOf image1 0).well = 0 ∧
    AllOn sLoad (loadDomains (reqOf image1 0) [0]) ∧ sLoad.images.find? (fun i => i.part == 0 && i.hdrDigest == []) = none := by decide +kernel

theorem witness_LoadAndUnload_commits : sLoad.keysCheck image1 = .inr (none, []) ∧
    (match sLoad.commit 0 image1 (reqOf image1 0) [0] none [] with
      | .inr u => u.images.length == 1
      | .inl _ => false) = true := by decide +kernel

/-- A short string of bytes is no image; a SEALED device wants keys; without an array nothing fits; a partition is off. -/
theorem witness_LoadAndUnload_refused : loadCheck [0] = some 0x40 ∧
    { sLoad with sec := { sLoad.sec with lc := 2 } }.keysCheck image1 = .inl 0x52 ∧
    { sLoad with parts := { sLoad.parts with assign := [] } }.chooseVariant 0 image1 = none ∧ sLoad.partOn 5 = false := by decide +kernel

/-- An image with a well frame once the well's key is used up, and one that lists no contents for its tally. -/
theorem witness_LoadAndUnload_commit_refused :
    (let s := { sLoad.wr .floor 0 Reg.Floor.WELL_FRAMES 64 with sec := { sLoad.sec with wellCtr := 2 ^ 47 } }
     loadCheck (imageOf 1 0) = none ∧ s.keysCheck (imageOf 1 0) = .inr (none, []) ∧
       (s.chooseVariant 0 (imageOf 1 0)).map (fun x => x.1.well) = some 1) ∧
    loadCheck (imageOf 0 1) = none ∧ sLoad.keysCheck (imageOf 0 1) = .inr (none, []) ∧
    (match sLoad.commit 0 (imageOf 0 1) (reqOf (imageOf 0 1) 0) [0] none [] with
      | .inl c => c == 0x40
      | .inr _ => false) = true := by decide +kernel

theorem witness_LoadAndUnload_unload : (let s := { sLoad with images := [{ imageId := 77, arrays := 1, bind := [0], ottLen := 1, tallyLen := 1 }] }
    s.images.find? (fun i => i.part == 0 && i.imageId == 77) = s.images.head? ∧ s.imageQuiet (s.images.headD {}) = true) := by decide +kernel

/-! ### Witnesses: tiers, DMA, partitions -/

/-- The OTT page with a command word prepared: C_IDX 1048575, C_LEN 1. -/
def sOtt : State := (up.wr .ott 0 Reg.Ott.C_IDX 0xFFFFF).wr .ott 0 Reg.Ott.C_LEN 1

/-- Object 1 is a read-only page pinned in cistern frame 3. -/
def sPin : State :=
  let s := ((up.wr .ott 0 Reg.Ott.C_IDX 1).wr .ott 0 Reg.Ott.C_LEN 1).wr .ott 0 Reg.Ott.C_DATA_LO 1023
  { s with tier := { s.tier with ott := [(1, ottE 1 0 0 3 0)], runs := [(1, 1, 0)] } }

/-- An image whose array runs holds entry 1. -/
def sBusyOtt : State :=
  let s := sPin.setSt (.ma 0) 0 1
  { s with images := [{ arrays := 1, bind := [0], ottBase := 1, ottLen := 1 }] }

theorem witness_OttCommands : Reaches sOtt .pf .ott 0x12C 0 ∧ View.isVf .pf = false ∧ sOtt.rdB .ott 0 Reg.Ott.C_GO = false ∧
    (sOtt.rd .ott 0 Reg.Ott.C_IDX = 0xFFFFF ∧ sOtt.rd .ott 0 Reg.Ott.C_LEN = 1 ∧ sOtt.ottInUse 0xFFFFF 1 = false ∧
      sOtt.ottQuiet 0xFFFFF 1 = true) ∧
    (Reaches sPin .pf .ott 0x12C 0 ∧ sPin.ottInUse 1 1 = true) ∧ (Reaches sBusyOtt .pf .ott 0x12C 0 ∧ sBusyOtt.ottQuiet 1 1 = false) ∧
    (((List.range 9).any fun a => (sPin.arr a).pageMap.any fun q => q.2.ott == some 1) = false ∧
      ¬ (ottValid (sPin.ott 1) = true ∧ ottValid (sPin.rd2 .ott 0 Reg.Ott.C_DATA_LO Reg.Ott.C_DATA_HI) = true ∧
        (ottPlace (sPin.rd2 .ott 0 Reg.Ott.C_DATA_LO Reg.Ott.C_DATA_HI) = 2 ∨
          ottHomeV (sPin.rd2 .ott 0 Reg.Ott.C_DATA_LO Reg.Ott.C_DATA_HI) = true))) ∧
    sPin.rd .ott 0 Reg.Ott.C_DATA_LO % 1024 = 1023 ∧ ottValid (sPin.ott 1) = true ∧ ottPlace (sPin.ott 1) = 1 ∧ ottMig (sPin.ott 1) = false ∧
    ottBad (sPin.ott 1) = false ∧ ottWr (sPin.ott 1) = false ∧ 1023 ∈ sPin.cisFrames ∧ sPin.frameNamed (frameT1 1023) = false ∧
    1023 ∉ sPin.ispFrames := by decide +kernel

def sMoving : State := { sPin with tier := { sPin.tier with moves := [PageMove.mk 1 1023 false 1024] } }

theorem witness_TierEvents : (let s := { sPin with tier := { sPin.tier with release := some (1, 1) } }
      s.tier.release = some (1, 1) ∧ s.ottQuiet 1 1 = true) ∧
    (∀ x ∈ [(3, true), (4, false)], (let s := { sPin with tier := { sPin.tier with dirty := [frameT1 x.1] } }
      s.tier.dirty.contains (frameT1 x.1) = true ∧ s.frameNamed (frameT1 x.1) = x.2)) ∧
    sMoving.tier.moves.find? (fun m => m.page == 1) = some (PageMove.mk 1 1023 false 1024) ∧ sMoving.upsets = [] ∧ sMoving.wellErrs = [] ∧
    ((List.range 8).any fun a => (sMoving.dma a).runs.any fun r => r.page == some 1) = false ∧
    AllOn sMoving [memDomain (ottAddr (sMoving.ott 1)), memDomain (frameAddr (frameT1 1023))] ∧
    MemInv sMoving ∧ frameAddr (frameT1 3) + pageBytes ≤ frameAddr (frameT1 1023) := by decide +kernel

/-- A DMA descriptor: source, destination, words 0x10, 0x14, 0x18 and 0x1C. -/
def dmaBytes (src dst w10 : Nat) : List Byte := leBytes 8 src ++ leBytes 8 dst ++ leBytes 4 w10 ++ leBytes 12 0

/-- DMA 0 runs a list of two descriptors at offset 0; object 1 stands in array 0, object 2 in the cistern, object 3 in the well. -/
def sDma (desc : List Byte) : State :=
  let s := (((up.setSt (.dma 0) 0 1).wr (.dma 0) 0 Reg.Dma.LIST_LEN 2).wr .part 0 Reg.Part.T1_QUOTA 4)
  ({ s with parts := { s.parts with assign := [(0, .owned 0)] },
            tier := { s.tier with ott := [(1, ottE 0 1 0 1 0), (2, ottE 1 1 0 7 0), (3, ottE 2 0 0 0 9), (4, ottE 2 0 0 8 9 + 256)] } }).store 0 desc

def obj (i off : Nat) : Nat := transBase + i * pageBytes + off

def sCopy : State := sDma (dmaBytes (obj 1 0xFFC0) (obj 2 0) 64)
def sCopyBad : State := sDma (dmaBytes (obj 5 0) (obj 2 0) 64)

theorem witness_DmaCopyMovesItsLine : ∀ s ∈ [sCopy, sCopyBad], (s.ctxs 0).contains 0 = true ∧ s.st (.dma 0) 0 = 1 ∧ s.domOn 2 = true ∧
    ((s.dma 0).runs.find? fun r => r.ctx == 0) = none ∧ (s.dmaDesc 0 0).map (fun d => (d.bad, d.mode, d.waitEn, d.rows, d.rowBytes)) = some (false, 0, false, 1, 64) ∧
    0 < s.dmaBudget 0 0 ∧ s.upsets = [] ∧ s.wellErrs = [] := by decide +kernel

theorem witness_DmaCopyMovesItsLine_moves : sCopy.dmaEnd 0 (obj 1 0xFFC0) (obj 1 0xFFC0) false = none ∧
    sCopy.dmaEnd 0 (obj 2 0) (obj 2 0) true = none ∧ sCopy.ownT0 0 (obj 1 0xFFC0) = true ∧
    AllOn sCopy [memDomain (sCopy.transAddr (obj 1 0xFFC0)), memDomain (sCopy.transAddr (obj 2 0))] ∧
    sCopy.ctxPart 0 0 = some 0 ∧ obj 1 0xFFC0 % pageBytes + 64 ≤ pageBytes ∧ obj 2 0 % pageBytes + 64 ≤ pageBytes ∧
    sCopyBad.dmaEnd 0 (obj 5 0) (obj 5 0) false = some 2 := by decide +kernel

theorem witness_weirs_open (p k : Nat) : sCopy.weirHolds p k = false := rfl

def sFill (i : Nat) : State := sDma (dmaBytes (obj i 0) 0 (64 + 2 ^ 24))

theorem witness_DmaFill : ∀ i ∈ [3, 4], ((sFill i).ctxs 0).contains 0 = true ∧ (sFill i).st (.dma 0) 0 = 1 ∧ (sFill i).domOn 2 = true ∧
    (sFill i).dmaDesc 0 0 = some { src := obj i 0, rowBytes := 64, mode := 1 } ∧ touched (obj i 0) 1 0 64 = [i] ∧
    (sFill i).dmaEnd 0 (obj i 0) (max (obj i 0) (transBase + i * pageBytes)) false = none ∧ ottValid ((sFill i).ott i) = true ∧ ottPlace ((sFill i).ott i) = 2 ∧ ottRes ((sFill i).ott i) = (i == 4) ∧
    1024 ≤ (sFill i).dmaBudget 0 0 := by decide +kernel

theorem witness_DmaFill_room : ottMig ((sFill 3).ott 3) = false ∧ (sFill 3).overQuota 0 = false ∧ (sFill 3).useT1 0 + (sFill 3).filling 0 + 1 ≤ (sFill 3).quota 0 ∧
    (sFill 3).freeT1 = some 0 ∧ (sFill 3).tier.dirty.contains (frameT1 0) = false ∧ (sFill 3).domOn 21 = true := by decide +kernel

def sCopied : State := sCopy.setDma 0 { runs := [{ ctx := 0, line := 1, done := true }] }

theorem witness_DmaComplete : ((sCopied.dma 0).runs.find? fun r => r.ctx == 0) = some { ctx := 0, line := 1, done := true } ∧
    (sCopied.dmaDesc 0 0).map (fun d => d.sigEn) = some false ∧ sCopied.st (.dma 0) 0 = 1 ∧
    sCopied.rd (.dma 0) 0 Reg.Dma.DPC + 1 < sCopied.rd (.dma 0) 0 Reg.Dma.LIST_LEN := by decide +kernel

/-- Partitions 2 and 3 enabled, array 7 under a given assignment, share weights 1. -/
def sAsg (x : Assign) : State :=
  let s := ((((up.wr .floor 0 Reg.Floor.CIS_PRESENT 1).wr .part 2 Reg.Part.PART_EN 1).wr .part 3 Reg.Part.PART_EN 1).wr .part (2 * 16 + 7) Reg.Part.SHARE_W 1).wr .part
    (3 * 16 + 7) Reg.Part.SHARE_W 1
  { s with parts := { s.parts with assign := SMap.set .unassigned [] 7 x } }

def asgWord (a p : Nat) : Word := BitVec.ofNat 32 (a * 4 + p * 64)

theorem witness_AssignmentCommands : Reaches (sAsg .unassigned) .pf .part 0x138 0 ∧ field (asgWord 7 2).toNat 2 4 = 7 ∧
    field (asgWord 7 2).toNat 6 3 = 2 ∧ (sAsg (.owned 2)).assignRefusal 0 7 2 = 0 ∧ (sAsg .unassigned).assignRefusal 1 7 2 = 0 ∧
    (sAsg (.shared [3])).assignRefusal 2 7 2 = 0 ∧ membersOf ((sAsg (.shared [3])).assignOf 7) = some [3] ∧
    (sAsg (.shared [2])).assignRefusal 3 7 2 = 0 ∧ (sAsg (.shared [2, 3])).assignRefusal 3 7 2 = 0 ∧
    (sAsg .unassigned).assignRefusal 0 7 2 = 4 ∧ (sAsg .unassigned).assignRefusal 1 7 4 = 3 ∧ (sAsg (.owned 3)).assignRefusal 2 7 2 = 4 ∧
    (sAsg (.owned 3)).assignRefusal 3 7 2 = 4 ∧ (sAsg .unassigned).rdB .part 0 Reg.Part.A_GO = false ∧
    ((sAsg .unassigned).wr .part 0 Reg.Part.A_GO 1).rdB .part 0 Reg.Part.A_GO = true ∧ ∀ x ∈ [Assign.owned 2, .shared [2], .shared [2, 3]],
      (sAsg x).domOn (arrDomain 7) = true := by decide +kernel

theorem witness_PartitionLife : Reaches (sAsg (.owned 2)) .pf .part 0x104 0 ∧ (sAsg (.owned 2)).parts.disabling.contains 2 = false ∧
    (sAsg (.owned 2)).partOn 2 = true ∧ (sAsg (.owned 2)).partOn 5 = false ∧
    bitAt (0x00800001 : Word).toNat 0 = true ∧ bitAt (0x00810001 : Word).toNat 0 = true ∧
    (sAsg (.owned 2)).quotaFits 2 (field (0x00800001 : Word).toNat 16 11) = true ∧ (sAsg (.owned 2)).useT1 2 = 0 ∧
    (sAsg (.owned 2)).quotaFits 2 (field (0x00810001 : Word).toNat 16 11) = false ∧
    (let s := sAsg (.owned 2)
     let t := { s with parts := { s.parts with disabling := [2] } }
     t.parts.disabling.contains 2 = true ∧ t.partQuiet 2 = true ∧ t.assignOf 7 = .owned 2 ∧ t.domOn (arrDomain 7) = true) := by decide +kernel

/-- A partition that is being disabled, here with a share of an array. -/
theorem witness_PartitionLife_disabling : ∀ l ∈ [[2], [2, 3]], (let s := sAsg (.shared l)
    let t := { s with parts := { s.parts with disabling := [2] } }
    t.parts.disabling.contains 2 = true ∧ t.partQuiet 2 = true ∧ t.assignOf 7 = .shared l ∧ l.contains 2 = true ∧
      t.quotaFits 2 (field (0x00010001 : Word).toNat 16 11) = true ∧ (List.range 9).all (fun a => t.assignOf a != .owned 2) = true) := by decide +kernel

/-! ### Witnesses: security and power -/

/-- The SEC page with a command block of a CODE and operand bytes at address 0x40000, in a lifecycle state. -/
def sSec (lc code : Nat) (ops : List Byte) : State :=
  let s := (up.wr .sec 0 Reg.Sec.CMD_LO 0x40000).wr .trng 0 Reg.Trng.SEEDED 1
  ({ s with sec := { s.sec with lc := lc, dbgScope := 0 } }).store 0x40000 (leBytes 8 code ++ ops)

def withOwner (s : State) : State := { s with sec := { s.sec with owners := [(0, { en := true })] } }
def withChallenge (s : State) : State := { s with sec := { s.sec with challenge := some [1, 2, 3] } }

theorem witness_SecPageCommands_owners : (SecReady (sSec 1 1 [3]) .pf 0 0x40000 1 ∧ leAt ((sSec 1 1 [3]).bytes 0x40000 256) 8 1 = 3 ∧
      (sSec 1 1 [3]).sec.lc = 1 ∧ (SMap.get {} (sSec 1 1 [3]).sec.owners 3).en = false) ∧
    (SecReady (sSec 2 1 [3]) .pf 0 0x40000 1 ∧ (sSec 2 1 [3]).sec.lc ≠ 1) ∧
    SecReady (withOwner (sSec 1 1 [0])) .pf 0 0x40000 1 ∧
      (SMap.get {} (withOwner (sSec 1 1 [0])).sec.owners (leAt ((withOwner (sSec 1 1 [0])).bytes 0x40000 256) 8 1)).en = true := by decide +kernel

theorem witness_SecPageCommands_lifecycle : (SecReady (withOwner (sSec 1 2 [2])) .pf 0 0x40000 2 ∧
      leAt ((withOwner (sSec 1 2 [2])).bytes 0x40000 256) 8 1 = 2 ∧
      (List.range 4).any (fun i => (SMap.get {} (withOwner (sSec 1 2 [2])).sec.owners i).en) = true ∧
      (List.range 8).any (withOwner (sSec 1 2 [2])).partOn = false) ∧
    (SecReady (sSec 1 2 [2]) .pf 0 0x40000 2 ∧ (List.range 4).any (fun i => (SMap.get {} (sSec 1 2 [2]).sec.owners i).en) = false) ∧
    (List.range 8).any ((sSec 1 2 [2]).wr .part 7 Reg.Part.PART_EN 1).partOn = true := by decide +kernel

theorem witness_SecPageCommands_sealed : (SecReady (sSec 2 2 [2]) .pf 0 0x40000 2 ∧ leAt ((sSec 2 2 [2]).bytes 0x40000 256) 8 1 = 2 ∧
      (sSec 2 2 [2]).sec.lc ≠ 1) ∧
    SecReady (withChallenge (sSec 2 2 [3])) .pf 0 0x40000 2 ∧ leAt ((withChallenge (sSec 2 2 [3])).bytes 0x40000 256) 8 1 = 3 ∧
      (withChallenge (sSec 2 2 [3])).sec.lc = 2 ∧ (withChallenge (sSec 2 2 [3])).sec.challenge = some [1, 2, 3] := by decide +kernel

theorem witness_SecPageCommands_rollback : ∀ lc ∈ [0, 1, 2, 3], SecReady (sSec lc 3 [15, 64]) .pf 0 0x40000 3 ∧
    leAt ((sSec lc 3 [15, 64]).bytes 0x40000 256) 8 1 = 15 ∧ leAt ((sSec lc 3 [15, 64]).bytes 0x40000 256) 9 1 = 64 ∧
    (sSec lc 3 [15, 64]).sec.lc = lc := by decide +kernel

theorem witness_SecPageCommands_challenge : (∀ lc ∈ [0, 3], SecReady (sSec lc 4 []) .steward 0 0x40000 4 ∧ (sSec lc 4 []).sec.lc = lc ∧
      (sSec lc 4 []).rdB .sec 0 Reg.Sec.DBG_LOCKOUT = false ∧ (sSec lc 4 []).seeded = true ∧ (sSec lc 4 []).sec.generates < 2 ^ 20) ∧
    (let s := (sSec 3 4 []).wr .sec 0 Reg.Sec.DBG_LOCKOUT 1
     SecReady s .steward 0 0x40000 4 ∧ s.rdB .sec 0 Reg.Sec.DBG_LOCKOUT = true ∧ s.seeded = true) ∧
    ∀ c ∈ [4, 6], (let s := (sSec 3 c []).wr .trng 0 Reg.Trng.SEEDED 0
     SecReady s .steward 0 0x40000 c ∧ s.seeded = false) := by decide +kernel

/-- A SEALED device whose pending challenge has SCOPE 8, without a partition and with one. -/
def sOpening (on : Nat) : State :=
  let s := (sSec 2 5 []).wr .part 1 Reg.Part.PART_EN on
  { s with sec := { s.sec with challenge := some (List.replicate 48 0 ++ leBytes 4 8),
                               owners := [(0, { hash := sha256 (List.replicate 96 0), en := true, dbg := true })] } }

theorem witness_SecPageCommands_response : (SecReady (sSec 3 5 []) .pf 0 0x40000 5 ∧ (sSec 3 5 []).sec.challenge = none) ∧
    (∀ lc ∈ [2, 3], SecReady (withChallenge (sSec lc 5 [])) .pf 0 0x40000 5 ∧
      (withChallenge (sSec lc 5 [])).sec.challenge = some [1, 2, 3] ∧ and32 (leAt ([1, 2, 3] : List Byte) 48 4 % 16) 0xB = 0) ∧
    ∀ on ∈ [0, 1], SecReady (sOpening on) .pf 0 0x40000 5 ∧ (sOpening on).sec.lc = 2 ∧ (sOpening on).partOn 1 = (on == 1) ∧
      and32 (leAt (List.replicate 48 0 ++ leBytes 4 8) 48 4 % 16) 0xB ≠ 0 ∧
      (sOpening on).debugKeyOk (sha256 (sliceBytes ((sOpening on).bytes 0x40000 256) 8 96)) = true := by decide +kernel

theorem witness_SecPageCommands_rekey : (SecReady (sSec 1 6 []) .pf 0 0x40000 6 ∧ (sSec 1 6 []).st .lpddr 0 = 0 ∧
      (sSec 1 6 []).wellUsed = [] ∧ (sSec 1 6 []).seeded = true ∧ (sSec 1 6 []).sec.generates < 2 ^ 20) ∧
    (let s := (sSec 1 6 []).setSt .lpddr 0 1
     SecReady s .pf 0 0x40000 6 ∧ s.st .lpddr 0 ≠ 0 ∧ s.seeded = true) := by decide +kernel

/-- SPDM at a point of a connection. -/
def sSpdm (algs : Bool) (session : Nat) : State :=
  { up with sec := { up.sec with certChain := [7, 8], spdm := { version := algs, caps := algs, algs := algs, session := session } } }

theorem witness_SpdmRequests : up.domOn 26 = true ∧ (sSpdm true 0).domOn 26 = true ∧ (sSpdm true 0).sec.spdm.algs = true ∧
    (sSpdm true 0).sec.certChain ≠ [] ∧ (sSpdm true 0).sec.spdm.session = 0 ∧ (sSpdm true 1).sec.spdm.session = 1 ∧
    (sSpdm true 2).sec.spdm.session = 2 ∧ (sSpdm false 0).sec.spdm.session ≠ 2 := by decide +kernel

def sIde (insecure : Bool) : State :=
  { sSpdm true 2 with ports := { up.ports with link := .up },
                      sec := { (sSpdm true 2).sec with ide := [(4, { nextKey := some 9, insecure := insecure })] } }

theorem witness_IdeStreams : (sIde true).domOn 26 = true ∧ (sIde true).sec.spdm.session = 2 ∧ ((sIde true).ide 4).nextKey = some 9 ∧
    (sIde true).ports.link = .up ∧ ((sIde true).ide 4).insecure = true ∧
    ((sIde false).ide 4).insecure = false ∧ (sIde false).rdB .sec 0 Reg.Sec.IDE_REQ = false ∧ (sIde false).sec.lc ≠ 2 := by decide +kernel

theorem witness_RandomNumbers : Reaches (sSec 1 0 []) (.pf) .trng 0x100 0 ∧ (sSec 1 0 []).seeded = true ∧ (sSec 1 0 []).sec.generates < 2 ^ 20 ∧
    Reaches up .steward .trng 0x100 0 ∧ up.seeded = false ∧ up.domOn 26 = true ∧ up.rdB .sec 0 Reg.Sec.CMD_GO = false := by decide +kernel

/-- A domain in a state with a request. -/
def sDom (d : Nat) (x : Dom) : State := up.setDom d x

theorem witness_DomainEntry_request : (Reaches up .pf (.ma 8) 0x040 0 ∧ (Page.ma 8).domain = 1 ∧ (up.dom 1).st = .on ∧ up.waitHolds 1 = true ∧
      up.refusal 1 2 none = 0 ∧ field (2 : Word).toNat 0 2 = 2 ∧ bitAt (2 : Word).toNat 7 = false) ∧
    (Reaches (up.setSt (.ma 7) 0 1) .pf (.dma 7) 0x040 0 ∧ (Page.dma 7).domain = 9 ∧ (up.setSt (.ma 7) 0 1).waitHolds 9 = false ∧
      field (1 : Word).toNat 0 2 = 1) := by decide +kernel

theorem witness_DomainEntry_steps : (∀ d ∈ [1, 26], ((sDom d { req := 2 }).dom d).st = .on ∧ ((sDom d { req := 2 }).dom d).req ≠ 0 ∧
      (sDom d { req := 2 }).waitHolds d = true ∧ (sDom d { req := 2 }).refusal d 2 none = 0) ∧
    (let s := (sDom 26 { req := 2 })
     let t := { s with seals := { s.seals with ledger := [[]] } }
     (t.dom 26).st = .on ∧ t.waitHolds 26 = true ∧ t.refusal 26 (t.dom 26).req none ≠ 0 ∧ t.power.seq = none) ∧
    (∀ k ∈ [1, 4, 5], ((sDom 2 { st := .entering k 2, req := 2 }).dom 2).st = .entering k 2 ∧
      ((sDom 2 { st := .entering k 2, req := 2 }).arr 0).mop = none ∧ ((sDom 2 { st := .entering k 2, req := 2 }).dom 2).wakeAfter = false) ∧
    ((sDom 21 { st := .entering 5 1, req := 1 }).dom 21).st = .entering 5 1 ∧ domArray 21 = none ∧ domArray 2 = some 0 := by decide +kernel

theorem witness_DomainExit : (((sDom 1 { st := .retention }).dom 1).st = .retention ∧ ((sDom 26 { st := .off }).dom 26).st = .off) ∧
    (((sDom 2 { removed := true }).dom 2).removed = true ∧ (up.dom 2).st = .on ∧ ((sDom 22 { st := .off }).dom 22).st = .off) ∧
    ((sDom 2 { st := .entering 3 1, req := 1 }).dom 2).st = .entering 3 1 ∧
    (((sDom 2 { st := .waking true }).dom 2).st = .waking true ∧ (sDom 2 { st := .waking true }).power.rampWait.contains 2 = false ∧
      (sDom 2 { st := .waking true }).railsOn 2 = true ∧ (sDom 2 { st := .waking true }).stalled = []) := by decide +kernel

/-- SEQ_MASK names SEC and LPDDR. -/
def sSeq : State := up.wr .power 0 Reg.Power.SEQ_MASK (2 ^ 26 + 2 ^ 21)
def sSeqOff : State := (sSeq.setDom 26 { st := .off }).setDom 21 { st := .off }
def sSeqIsp : State := (up.wr .power 0 Reg.Power.SEQ_MASK (2 ^ 26)).wr .sec 0 Reg.Sec.CMD_GO 0

theorem witness_SequencedDrop : (Reaches sSeqOff .pf .power 0x104 0 ∧ sSeqOff.rd .power 0 Reg.Power.SEQ_STATUS ≠ 1 ∧
      field (1 : Word).toNat 0 2 = 1 ∧ bitAt (sSeqOff.rd .power 0 Reg.Power.SEQ_MASK) 0 = false ∧
      bitAt (sSeqOff.rd .power 0 Reg.Power.SEQ_MASK) 22 = false ∧ bitAt (sSeqOff.rd .power 0 Reg.Power.SEQ_MASK) 23 = false ∧
      (dropOrder.filter fun d => bitAt (sSeqOff.rd .power 0 Reg.Power.SEQ_MASK) d) = [26, 21] ∧ [26, 21].any sSeqOff.domOn = false) ∧
    (let s := (up.wr .power 0 Reg.Power.SEQ_MASK (2 ^ 24)).wr .audio 0 Reg.Audio.HQ_EN 1
     Reaches s .pf .power 0x104 0 ∧ (dropOrder.filter fun d => bitAt (s.rd .power 0 Reg.Power.SEQ_MASK) d).find? s.domOn = some 24 ∧
       s.domPages 24 = [] ∧ s.waitHolds 24 = false) ∧
    (bitAt ((up.wr .power 0 Reg.Power.SEQ_MASK (2 ^ 22)).rd .power 0 Reg.Power.SEQ_MASK) 22 = true ∧ field (3 : Word).toNat 0 2 = 3) ∧
    (let s := { up with power := { up.power with seq := some { left := [26], mode := 1 } } }
     s.power.seq = some { left := [26], mode := 1 } ∧ s.domOn 26 = true) := by decide +kernel

def sLifts : State := { up with power := { up.power with raises := [{ record := 31 }] } }
def liftX : LiftRun := { words := [4, 0, 0, 2 ^ 13 + 5, 0x40000, 0, 0, 0] }
def sLifting : State := { up with power := { up.power with lifts := [liftX] } }

theorem witness_Lifts : (sLifts.power.raises = [{ record := 31 }] ∧ sLifts.ready = true ∧ sLifts.power.lifts.length < 16) ∧
    (sLifting.power.lifts[0]? = some liftX ∧ sLifting.liftFirst 0 liftX = true ∧ liftX.doms = [2] ∧ sLifting.domOn 2 = true ∧ liftX.restoreAt = 0 ∧ liftX.word 1 = 0 ∧
      liftX.word 2 = 0 ∧ sLifting.domOn (memDomain liftX.hoSlot) = true ∧ bitAt (liftX.word 3) 13 = true) := by decide +kernel

/-! ### Witnesses: the acoustic front end and the cameras -/

/-- An open block of n samples, detectors and microphones idle. -/
def sBlock (n : Nat) : State :=
  { up with audio := { up.audio with sidx := n, openMix := List.replicate n (0, false) } }

theorem witness_SamplesAndBlocks : (sBlock 255).audio.openMix.length < 256 ∧ 256 ≤ (sBlock 256).audio.openMix.length ∧
    (sBlock 256).ready = true ∧ State.reset.ready = false := by decide +kernel

theorem witness_DetectorEvents : (∀ e ∈ [0, 1, 2, 3, 4], bitAt ({ up.audio with due := 31 } : AudioS).due e = true) ∧
    up.audio.muted = false ∧ ({ up with audio := { up.audio with due := 31, muteLow := true } }).audio.muted = true := by decide +kernel

/-- Stream 3 with its settings: all in the local store of array 0, one channel. -/
def sStream (on : Bool) (past : List Nat) : State :=
  let p := Page.audio
  let s := (((up.wr p 0 (Reg.Audio.CH 3) 1).wr p 0 (Reg.Audio.REC_LO 3) 0x8000).wr p 0 (Reg.Audio.SLOT_PITCH 3) 0x400).wr p 0 (Reg.Audio.EN 3) (b2n on)
  if on then s.setStream 3 { active := true, past := past } else s

theorem witness_AudioStreams_start : Reaches (sStream false []) .pf .audio (0x200 + 0x40 * 3) 0 ∧
    (sStream false []).rdB .audio 0 (Reg.Audio.EN 3) = false ∧
    (((sStream false []).wrFields .audio 0 (0x200 + 0x40 * 3) (setField (setField (0x100 : Word).toNat 0 1 1) 0 1 0) Reg.Audio.all).streamStart 3).2 = false ∧
    ((up.wrFields .audio 0 (0x200 + 0x40 * 3) (setField (setField (0x18 : Word).toNat 0 1 1) 0 1 0) Reg.Audio.all).streamStart 3).2 = true := by
  decide +kernel

theorem witness_AudioStreams_stop : (sStream true []).rdB .audio 0 (Reg.Audio.EN 3) = true ∧ ((sStream true []).stream 3).active = true ∧
    ((sStream true []).stream 3).past = [] ∧ ((sStream true []).stream 3).live = [] ∧ ((sStream true [0]).stream 3).past ≠ [] := by decide +kernel

theorem witness_AudioStreams_delivery : ((sStream true [0]).stream 3).active = true ∧ (sStream true [0]).upsets = [] ∧ ((sStream true [0]).nextBlock 3).isSome = true ∧
    (sStream true [0]).streamRec 3 = 0x8000 ∧ AllOn (sStream true [0]) [memDomain ((sStream true [0]).streamDst 3), memDomain 0x8000] ∧
    (sStream true [0]).rdB .audio 0 (Reg.Audio.SIG_EN 3) = false := by decide +kernel

theorem witness_HighQuality : Reaches up .pf .audio 0x100 0 ∧ up.rdB .audio 0 Reg.Audio.HQ_EN = false ∧ up.domOn 24 = true ∧
    Reaches up .pf .audio 0x124 0 ∧ (up.wr .audio 0 Reg.Audio.HQ_EN 1).rdB .audio 0 Reg.Audio.HQ_EN = true ∧
    (let u := up.wrFields .audio 0 0x124 (setField (0 : Word).toNat 31 1 1) Reg.Audio.all
     u.rd .audio 0 Reg.Audio.CAL_LO + u.rd .audio 0 Reg.Audio.CAL_HI * 2 ^ 32 = 0) ∧
    (0 < transBase ∧ up.domOn (memDomain 0) = true ∧ up.upsets = []) ∧
    parseCal (up.bytes 0 16) = none := by decide +kernel

theorem witness_ChannelsAndMute : (SMap.get {} up.audio.chans 7).under = false ∧
    (SMap.get {} ({ up.audio with chans := [(7, { under := true })] } : AudioS).chans 7).under = true ∧ up.audio.muted = false ∧
    ({ up.audio with muteLow := true } : AudioS).muteLow = true := by decide +kernel

/-- Port 1 of the audio output, with a ring of 4 frames. -/
def sAout (wr : Nat) : State :=
  let p := Page.aout
  (((up.wr p 0 (Reg.Aout.EN 1) 1).wr p 0 (Reg.Aout.FRAMES 1) 4).wr p 0 (Reg.Aout.WR 1) wr).wr p 0 (Reg.Aout.PERIOD 1) 2

theorem witness_AudioOutputs : Reaches up .pf .aout (0x100 + 0x40 * 1) 0 ∧ up.rdB .aout 0 (Reg.Aout.EN 1) = false ∧
    (up.wrFields .aout 0 (0x100 + 0x40 * 1) (setField (setField (0x18 : Word).toNat 10 1 1) 10 1 0) Reg.Aout.all).aoutOk 1 = true ∧
    (up.wrFields .aout 0 (0x100 + 0x40 * 1) (setField (setField (3 : Word).toNat 10 1 1) 10 1 0) Reg.Aout.all).aoutOk 1 = false ∧
    (sAout 0).domOn 24 = true ∧ (sAout 0).rdB .aout 0 (Reg.Aout.EN 1) = true ∧ (sAout 0).rd .aout 0 (Reg.Aout.RD 1) = (sAout 0).rd .aout 0 (Reg.Aout.WR 1) ∧
    (sAout 3).rd .aout 0 (Reg.Aout.RD 1) ≠ (sAout 3).rd .aout 0 (Reg.Aout.WR 1) ∧ (sAout 3).domOn (memDomain 0) = true ∧ (sAout 3).upsets = [] ∧
    (sAout 3).rd .aout 0 (Reg.Aout.PERIOD 1) = 2 ∧
    2 ≤ SMap.get 0 ({ (sAout 3).audio with aoutCount := [(1, 2)] } : AudioS).aoutCount 1 := by decide +kernel

/-- Port 5 receives on virtual channel 15, slow enough to need no deskew. -/
def sRx : State := ((up.setSt (.csi 5) 0 1).wr (.csi 5) 0 Reg.Csi.VC_EN 0x8000).wr (.csi 5) 0 Reg.Csi.RATE 1500

/-- Context 31 takes 2 × 2 pixels of type RAW8 from it, with an open frame. -/
def sCam : State :=
  let p := Page.ctx 31
  let s := (((((sRx.setSt p 0 1).wr p 0 Reg.Ctx.PORT 5).wr p 0 Reg.Ctx.VC 15).wr p 0 Reg.Ctx.DT 0x2A).wr p 0 Reg.Ctx.WIDTH_M1 1).wr p 0 Reg.Ctx.HEIGHT_M1 1
  { s with cams := { s.cams with opened := [(5 * 16 + 15, true)], ctx := [(31, { frames := [{}], tRef := some 7 })] } }

theorem witness_PacketsOfAChannel : sRx.rxReady 5 = true ∧ bitAt (sRx.rd (.csi 5) 0 Reg.Csi.VC_EN) 15 = true ∧
    SMap.get false sRx.cams.opened (5 * 16 + 15) = false ∧ sCam.rxReady 5 = true ∧ SMap.get false sCam.cams.opened (5 * 16 + 15) = true ∧
    bitAt (sRx.rd (.csi 5) 0 Reg.Csi.VC_EN) 0 = false ∧ sRx.domOn 20 = true ∧ sRx.st (.csi 5) 0 = 1 := by decide +kernel

theorem witness_LongPackets : (sRx.boundCtx 5 15 = [] ∧ sRx.binTakes 5 15 = false ∧ dtBits 0x10 = none ∧ dtBits 0x2A = some 8) ∧
    (sCam.boundCtx 5 15 = [31] ∧ sCam.rd (.ctx 31) 0 Reg.Ctx.DT = 0x2A ∧ (sCam.cam 31).frames = [({ } : FrameS)] ∧ (sCam.cam 31).dropping = false ∧
      (({ } : FrameS)).lines.length ≠ sCam.ctxH 31 ∧ (sCam.cam 31).held < sCam.ringLines 31 ∧ sCam.binTakes 5 15 = false) := by decide +kernel

theorem witness_ContextRegisters : Reaches up .pf (.ctx 31) 0x154 0 ∧ Reaches up .pf (.isp 1) 0x104 0 ∧
    (let u := fun (w : Word) => up.wrFields (.isp 1) 0 0x104 (setField w.toNat 16 11 (up.rd (.isp 1) 0 Reg.Isp.CIS_RES)) Reg.Isp.all
     (sumNat ((List.range 8).map (u 0x00100000).quota) + 16 + (u 0x00100000).rd (.isp 0) 0 Reg.Isp.CIS_RES ≤ (u 0x00100000).cisFrames.length ∧
       (u 0x00100000).needSum 1 ≤ 16)) ∧
    (let u := (up.wr .floor 0 Reg.Floor.CIS_PRESENT 0)
     ¬ sumNat ((List.range 8).map u.quota) + 16 + u.rd (.isp 0) 0 Reg.Isp.CIS_RES ≤ u.cisFrames.length) := by decide +kernel

theorem witness_CameraEvents : (let s := { sCam with cams := { sCam.cams with ctx := [(31, { frames := [{ ended := true }] })] } }
      s.domOn 19 = true ∧ s.pick 1 = some 31 ∧ (s.cam 31).frames = [{ ended := true }] ∧ AllOn s [memDomain (s.ctxOut 31), memDomain (s.ctxStat 31)]) ∧
    (sCam.domOn 19 = true ∧ sCam.pick 1 = some 31 ∧ sCam.mux 31 = false ∧ (sCam.cam 31).frames = [({ } : FrameS)] ∧ ({ } : FrameS).ended = false) ∧
    ((sCam.wr (.ctx 31) 0 Reg.Ctx.DEADLINE 5).rd (.ctx 31) 0 Reg.Ctx.DEADLINE ≠ 0 ∧ (sCam.wr (.ctx 31) 0 Reg.Ctx.DEADLINE 5).groupNo 31 = 0 ∧
      ((sCam.wr (.ctx 31) 0 Reg.Ctx.DEADLINE 5).cam 31).tRef = some 7) ∧
    (let s := (up.wr (.isp 0) 0 (Reg.Isp.MEMBERS 7) (2 ^ 31 + 1)).setGroup 7 { started := true, centre := some 1000 }
     (s.group 7).started = true ∧ (s.group 7).centre = some 1000 ∧ bitAt (s.rd (.isp 0) 0 (Reg.Isp.MEMBERS 7)) 31 = true ∧
       bitAt (s.rd (.isp 0) 0 (Reg.Isp.MEMBERS 7)) 0 = true ∧ (s.group 7).absent = [] ∧ (s.group 7).present = [] ∧ (s.group 7).waiting = []) := by
  decide +kernel

/-- A multiplexed context in the first of its two stripes, and in its only one. -/
theorem witness_CameraEvents_mux : ∀ x ∈ [(127, 2), (1, 1)], (let s0 := (sCam.wr (.isp 1) 0 Reg.Isp.MUX 1).wr (.ctx 31) 0 Reg.Ctx.HEIGHT_M1 x.1
    let s := { s0 with cams := { s0.cams with ctx := [(31, { frames := [{ ended := true }] })] } }
    s.domOn 19 = true ∧ s.pick 1 = some 31 ∧ s.mux 31 = true ∧ (s.cam 31).frames = [{ ended := true }] ∧ s.stripeCount 31 = x.2 ∧
      AllOn s [memDomain (s.ctxOut 31), memDomain (s.ctxStat 31)]) := by decide +kernel

/-! ### Witnesses: host and service ports, the high-voltage side -/

theorem witness_PcieLink : ({ up.ports with link := .training } : PortsS).link = .training ∧
    ({ up.ports with link := .recovery } : PortsS).link = .recovery ∧ up.domOn 22 = true ∧ ({ up.ports with link := .up } : PortsS).link = .up ∧
    (∀ fn ∈ [0, 8], (up.ports.heldTlps.any fun h => h.1 == fn) = false ∧ up.weirHolds (fn - 1) 2 = false) := by decide

/-- The host DMA context of the physical function runs one descriptor on an up link; a digest ring at 0x9000. -/
def sHost : State :=
  let p := Page.pcie
  let s := (((up.setSt p 0 1).wr p 0 Reg.Pcie.RING_LEN 4).wr p 0 Reg.Pcie.TAIL 1).wr p 0 Reg.Pcie.DIG_LO 0x9000
  { s with ports := { s.ports with link := .up } }

/-- A host descriptor: host and object addresses, direction, length. -/
def hostDesc (host objAddr out len : Nat) : List Byte := leBytes 8 host ++ leBytes 8 (objAddr + out * 2 ^ 40) ++ leBytes 4 len ++ leBytes 12 0

theorem witness_HostDma : (Reaches up (.pf) .pcie 0x10C 0 ∧ up.rd .pcie 0 Reg.Pcie.HD_FAULT = 0 ∧
      (up.wr .pcie 0 Reg.Pcie.HD_FAULT 8).rd .pcie 0 Reg.Pcie.HD_FAULT ≠ 0) ∧
    (sHost.hdReady 0 = true ∧ sHost.ideDrops 0 = false ∧ (sHost.wr .sec 0 Reg.Sec.IDE_REQ 1).ideDrops 0 = true ∧
      (sHost.wr .sec 0 Reg.Sec.IDE_REQ 1).hdReady 0 = true ∧ (decodeHostDesc (hostDesc 0x1000 0x40000 1 65)).bad = true) ∧
    (∀ out ∈ [0, 1], decodeHostDesc (hostDesc 0x1000 0x4FFC0 out 64) = { host := 0x1000, obj := 0x4FFC0, out := out == 1, len := 64, bad := false }) ∧
    sHost.upsets = [] ∧ sHost.wellErrs = [] ∧ SMap.get 0 sHost.ports.hdLine 0 = 0 ∧ SMap.get 0 sHost.ports.hdXfer 0 = 0 ∧ sHost.hdLineFault 0 0x4FFC0 0x4FFC0 false = none ∧
    sHost.hdLineFault 0 0x4FFC0 0x4FFC0 true = none ∧ AllOn sHost (sHost.hdDomains 0x4FFC0 64 ++ sHost.hdDomains 0x9000 1) ∧
    sHost.rd2 .pcie 0 Reg.Pcie.DIG_LO Reg.Pcie.DIG_HI = 0x9000 ∧ sHost.hdLineFault 0 0x9000 0x9000 true = none ∧
    sHost.hdLineFault 0 0x9000 (0x9000 + 47) true = none ∧ 0x9000 % pageBytes + 48 ≤ pageBytes := by decide +kernel

theorem witness_HostDma_vf : (let s := ((up.wr .part 7 Reg.Part.PART_EN 1).setSt .pcie 8 1).wr .pcie 8 Reg.Pcie.TAIL 1
    Reaches s (.vf 7) .pcie 0x10C 8 ∧ ({ s with ports := { s.ports with link := .up } }).hdReady 8 = true) := by decide +kernel

def sSealed : State := { up with sec := { up.sec with lc := 2 } }
def sStandpipe : State := up.wr .sys 0 Reg.Sys.STAGE 15
def sIbi (n : Nat) : State :=
  { up.setSt .i3c 0 1 with ports := { up.ports with ibi := List.replicate n (8, []), uartCmd := [114, 101, 115, 116, 97, 114, 116] } }

theorem witness_ServicePorts : up.rd .sys 0 Reg.Sys.STAGE = 6 ∧ up.domOn 23 = true ∧
    (sSealed.rd .sys 0 Reg.Sys.STAGE = 6 ∧ sSealed.domOn 23 = true ∧ sSealed.sec.lc = 2 ∧ inBootCopy 0x1FFFFFF 1 = true ∧
      inBootCopy 0x1FFFFFF 0 = false ∧ inBootCopy 0x2000000 1 = false) ∧ up.sec.lc ≠ 2 ∧
    ((sIbi 15).st .i3c 0 ≠ 0 ∧ (sIbi 15).rd .sys 0 Reg.Sys.STAGE ≠ 15 ∧ (sIbi 15).domOn 23 = true ∧ (sIbi 15).ports.ibi.length < 16 ∧
      (sIbi 16).st .i3c 0 ≠ 0 ∧ 16 ≤ (sIbi 16).ports.ibi.length) ∧ sStandpipe.rd .sys 0 Reg.Sys.STAGE = 15 := by decide +kernel

theorem witness_ServicePorts_uart : ((sIbi 0).setSt .uart 0 1).uartOn = true ∧ sStandpipe.uartOn = true ∧
    ((sIbi 0).ports.uartCmd ++ [13]).drop (((sIbi 0).ports.uartCmd ++ [13]).length - 8) = restartString ∧
    ((sIbi 0).ports.uartCmd ++ [12]).drop (((sIbi 0).ports.uartCmd ++ [12]).length - 8) ≠ restartString ∧
    ((sIbi 0).setSt .uart 0 1).rd .sys 0 Reg.Sys.STAGE = 6 ∧
    bitAt ({ up.sec with dbgScope := 0 } : SecS).dbgScope 3 = false ∧ bitAt up.sec.dbgScope 3 = true := by decide +kernel

/-- The last populated byte of array 0's and of the sentry's store, a byte past each, and well frame 5, which an entry names and does not. -/
theorem witness_ServicePorts_jtag : (∀ a ∈ [0x17FFFFF, 0x100FFFFF], up.populated a = true ∧ a < wellBase ∧ up.domOn (memDomain a) = true) ∧
    (∀ a ∈ [0x1800000, 0x10100000], up.populated a = false) ∧ up.upsets = [] ∧ up.tier.dirty = [] ∧
    ∀ x ∈ [(ottE 0 1 1 1 5, true), (ottE 0 1 1 1 6, false)], (let s0 := up.wr .floor 0 Reg.Floor.WELL_FRAMES 64
      let s := { s0 with tier := { s0.tier with ott := [(1, x.1)] } }
      s.populated (frameAddr (frameWell 5)) = true ∧ wellBase ≤ frameAddr (frameWell 5) ∧ frameAddr (frameWell 5) < transBase ∧
        s.domOn (memDomain (frameAddr (frameWell 5))) = true ∧
        s.frameNamed (pageFrame (frameAddr (frameWell 5) / pageBytes)) = x.2) := by decide +kernel

def sAsp (n : Nat) (drain : Option Nat) : State :=
  { up.setSt .asp 0 1 with ports := { up.ports with sluice := List.replicate n 5, drain := drain } }

theorem witness_AuxiliaryStreamPort : (sAsp 8191 none).domOn 23 = true ∧ (sAsp 8191 none).st .asp 0 = 1 ∧
    Reaches (sAsp 3 none) .pf .asp 0x10C 0 ∧ (sAsp 3 none).ports.drain = none ∧
    field (3 : Word).toNat 0 14 ≤ (sAsp 3 none).ports.sluice.length ∧ (sAsp 3 none).ports.sluice.length < field (4 : Word).toNat 0 14 ∧
    (sAsp 3 (some 2)).ports.drain = some 2 := by decide +kernel

theorem witness_AuxiliaryStreamPort_depth : (sAsp 8191 none).ports.sluice.length < 8192 ∧ 8192 ≤ (sAsp 8192 none).ports.sluice.length :=
  ⟨Nat.lt_of_le_of_lt (Nat.le_of_eq List.length_replicate) (by decide), Nat.le_of_eq List.length_replicate.symm⟩

theorem witness_all_domains_on (d : Nat) : (sAsp 3 (some 2)).domOn d = true := Bool.or_true _

def sGauge (x : GaugeS) : State := { up with gauge := x }

theorem witness_GaugeCurrent : (sGauge {}).gauge.settle = 0 ∧ 0 < (sGauge { settle := 2 }).gauge.settle ∧ up.rdB .hv 0 Reg.Hv.Q_LOAD = false ∧
    4 ≤ (sGauge { outRun := 4 }).gauge.outRun := by decide +kernel

/-- A gauge with one cell, a two-point table and a capacity. -/
def sPack : State :=
  let p := Page.hv
  ((((((up.wr p 0 Reg.Hv.CELLS 1).wr p 0 Reg.Hv.CAP_LO 65536).wr p 0 Reg.Hv.SHUNT_UOHM 1000).wr p 0 Reg.Hv.OCV_N 2).wr p 0 (Reg.Hv.OCV_MV 0) 3000).wr
    p 0 (Reg.Hv.OCV_MV 1) 4000).wr p 0 (Reg.Hv.OCV_SOC 1) 65535

theorem witness_GaugeEstimates : up.tableBad = true ∧ sPack.tableBad = false ∧ up.rdB .hv 0 Reg.Hv.EMPTY = false ∧
    8 ≤ (sGauge { holdQ := 8 }).gauge.holdQ ∧ 8 ≤ (sGauge { holdV := 8 }).gauge.holdV ∧ 8 ≤ (sGauge { clearHold := 8 }).gauge.clearHold ∧
    180000 < (sGauge { rest := 180001 }).gauge.rest ∧ up.rdB .hv 0 Reg.Hv.TABLE_BAD = false ∧ up.rdB .hv 0 Reg.Hv.Q_LOAD = false ∧
    Reaches up .pf .hv 0x120 0 := by decide +kernel

/-- Waveform 3 cleans the whole panel in two phases of LEN 5. -/
def sPanel (busy pumps phases : Bool) (phase : Nat) : State :=
  let p := Page.hv
  let s := ((((((up.wr p 0 (Reg.Hv.NPHASE 3) 2).wr p 0 (Reg.Hv.PHASE_ENTRY 96) 5).wr p 0 (Reg.Hv.PHASE_ENTRY 97) 5).wr p 0 Reg.Hv.WAVE 3).wr p 0
    Reg.Hv.BUSY (b2n busy)).wr p 0 Reg.Hv.PHASE phase)
  let s := (List.range 3).foldl (fun s i => s.wr p 0 (Reg.Hv.REGION i) 0xFFFFFFFF) (s.wr p 0 (Reg.Hv.CLEAN 3) 1)
  s.setPanel { s.panel with pumps := pumps, phases := phases }

theorem witness_Panel : Reaches (sPanel false false false 0) .pf .hv 0x200 0 ∧ (sPanel false false false 0).panelRefusal (field (3 : Word).toNat 0 2) = 0 ∧
    (sPanel false false false 0).panelRefusal (field (0 : Word).toNat 0 2) ≠ 0 ∧
    ((sPanel true true false 0).domOn 25 = true ∧ (sPanel true true false 0).panel.pumps = true ∧ (sPanel true true false 0).panel.phases = false ∧
      (sPanel true true false 0).rdB .hv 0 Reg.Hv.BUSY = true ∧ (sPanel true true false 0).rd .hv 0 Reg.Hv.WAVE = 3) ∧
    (∀ i ∈ [0, 1], (sPanel true true true i).panel.phases = true ∧ (sPanel true true true i).rd .hv 0 Reg.Hv.PHASE = i ∧
      (sPanel true true true i).rd .hv 0 (Reg.Hv.NPHASE 3) = 2) ∧
    2900 ≤ (sPanel true true true 0).panel.vddHv := by decide +kernel

theorem witness_Panel_idle : 2900 ≤ (sPanel false true false 1).panel.vddHv ∧ (sPanel false true false 1).rdB .hv 0 Reg.Hv.BUSY = false ∧
    (sPanel true true true 0).rdB .hv 0 Reg.Hv.BUSY = true := by decide +kernel

theorem witness_NarrowingSaturates : (narrow 0x4 (-15 / 2)).v = -7 ∧ (narrow 0x4 (-15 / 2)).code = 9 ∧ rhe (-15 / 2) = -8 ∧
    (narrowInt 0x7 128).code = 0x7F ∧ (narrowInt 0x7 128).sat = true := by decide +kernel

theorem witness_PanelJournalHolds : (∃ t, exec .porstNFall (sPanel true true true 0) = .next t) ∧ (sPanel true true true 0).stalled = [] ∧
    (State.reset.rd .hv 0 (Reg.Hv.CLEAN_REQ 2) ≠ 0 ∧ (sPanel false false false 0).rd .hv 0 (Reg.Hv.CLEAN_REQ 2) ≠ 0 ∧
      (sPanel false false false 0).panelRefusal 3 = 0) := ⟨⟨_, rfl⟩, by decide +kernel, by decide +kernel⟩

/-! ### Witnesses: resets, temperature, clocks, pages -/

theorem witness_ResetsAndBringUp : State.reset.boot.porstN = false ∧ State.reset.boot.tripped = false ∧
    ({ up.boot with running := true } : BootS).running = true ∧ Reaches up .pf .sys 0x108 0 ∧ up.rd .sys 0 Reg.Sys.STAGE = 6 ∧
    Reaches sStandpipe .pf .sys 0x108 0 ∧ sStandpipe.rd .sys 0 Reg.Sys.STAGE = 15 ∧
    Reaches (up.wr .sys 0 Reg.Sys.STAGE 5) .pf .sys 0x108 0 ∧ (up.wr .sys 0 Reg.Sys.STAGE 5).rd .sys 0 Reg.Sys.STAGE ≠ 6 := by decide +kernel

theorem witness_TemperatureAndSupplies : up.boot.tripped = false ∧
    ({ up.boot with tripped := true, porstN := true } : BootS).tripped = true ∧ (List.replicate 11 (379 : Int)).length = 11 ∧
    (∀ x ∈ List.replicate 11 (379 : Int), x < 380) ∧ (∀ a ∈ [0, 8], up.domOn (arrDomain a) = true) ∧ up.oppAct 8 ≠ 0 ∧
    (up.wr (.ma 0) 0 Reg.Ma.THROTTLED 1).rdB (.ma 0) 0 Reg.Ma.THROTTLED = true ∧ up.power.seq = none ∧ (up.dom (arrDomain 7)).st = .on := by
  decide +kernel

theorem witness_ClocksAndTelemetry : Reaches up .pf .phy 0x104 0 ∧ up.st .lpddr 0 = 0 ∧ (up.setSt .lpddr 0 1).st .lpddr 0 ≠ 0 := by decide +kernel

def sRun (st : Nat) : State := (up.setSt (.ma 8) 0 st).wr (.ma 8) 0 Reg.Ma.SCHED_LEN 1
def sInFlight (st : Nat) : State := (sRun st).modArr 8 fun x => { x with mop := some {} }

theorem witness_HeaderCommands : (Reaches (sRun 0) .pf (.ma 8) 0x008 0 ∧ (sRun 0).st (.ma 8) 0 = 0 ∧
      (sRun 0).rdB .floor 0 (Reg.Floor.PRESENT 8) = true ∧ (sRun 0).rd (.ma 8) 0 Reg.Ma.SCHED_LEN ≠ 0) ∧
    (Reaches (sRun 1) .pf (.ma 8) 0x008 0 ∧ (sRun 1).st (.ma 8) 0 = 1 ∧ (sRun 1).atBoundary (.ma 8) 0 = true) ∧
    (Reaches (sInFlight 1) .pf (.ma 8) 0x008 0 ∧ (sInFlight 1).st (.ma 8) 0 = 1 ∧ (sInFlight 1).atBoundary (.ma 8) 0 = false) ∧
    ((sRun 2).st (.ma 8) 0 = 2 ∧ (sRun 2).atBoundary (.ma 8) 0 = true) ∧
    (Reaches up .pf .i3c 0x008 0 ∧ Page.i3c.stops = true ∧ up.st .i3c 0 = 0 ∧ (up.setSt .i3c 0 1).st .i3c 0 ≠ 0) ∧
    bitAt (4 : Word).toNat 2 = true ∧ bitAt (0 : Word).toNat 0 = false ∧ View.isVf .pf = false := by decide +kernel

theorem witness_Interrupts : Reaches up .pf .hv 0x01C 0 ∧ Reaches up .pf .hv 0x018 0 ∧ Reaches up .pf .hv 0x014 0 ∧
    Page.hv ≠ Page.sealPage ∧ up.seals.ledger.length ≠ 4096 ∧
    (let s := { up.wr .hv 0 Reg.Hdr.IRQ_MASK 1 with ports := { up.ports with msix := [(msixKey 0 0xC, { masked := false })] } }
     Reaches s .pf .hv 0x01C 0 ∧ s.vec 0 0xC = false ∧ and32 (or32 0 (irqBits 1)) (s.rd .hv 0 Reg.Hdr.IRQ_MASK) ≠ 0 ∧
       (SMap.get {} s.ports.msix (msixKey 0 (Page.hv.base / 0x10000))).masked = false) := by decide +kernel

theorem witness_Interrupts_full : (let s := { up with seals := { up.seals with ledger := List.replicate 4096 [] } }
    Reaches s .pf .sealPage 0x018 0) ∧ (List.replicate 4096 ([] : List Byte)).length = 4096 ∧ bitAt (2 : Word).toNat 1 = true :=
  ⟨by decide +kernel, List.length_replicate, by decide⟩

/-- A virtual function without a held completion. -/
theorem witness_Accesses_vf : (up.ports.heldTlps.any fun h => h.1 == 3 + 1) = false ∧ up.weirHolds 3 2 = false := by decide

theorem witness_Accesses : Reaches up .pf .hv 0 0 ∧ Reaches up .pf .audio 0x108 0 ∧ Reaches up .pf .audio 0x10C 0 ∧ pageAt 0x100000 = none ∧
    0x100000 % 4 = 0 ∧ Reaches up .pf .lpddr 0x100 0 ∧ up.st .lpddr 0 = 0 ∧
    (up.wr .lpddr 0 Reg.Hdr.CFG_OPEN 1).rdB .lpddr 0 Reg.Hdr.CFG_OPEN = true ∧ up.rdB .lpddr 0 Reg.Hdr.CFG_OPEN = false ∧
    Reaches up .pf .sealPage 0x108 0 ∧ field (0 : Word).toNat 0 13 ≤ up.seals.ledger.length ∧
    up.seals.ledger.length < field (1 : Word).toNat 0 13 := by decide +kernel

theorem witness_NoAccessNoEffect : pageAt 0x0A0144 = some (.sec, 0x144) ∧ up.viewBank (.vf 0) .sec = none ∧
    (up.wr .part 0 Reg.Part.PART_EN 1).viewBank (.vf 0) .sec = none ∧ (up.wr .part 0 Reg.Part.PART_EN 1).viewBank (.vf 0) (.ma 0) = none ∧
    up.pageRemoved .sec = false := by decide +kernel

theorem witness_TallySignalCounts : 8191 < 8192 ∧ (sTal.tally 8191).count = 0xFFFF ∧ sTal.waiters = [] ∧
    0xFFFF < (sTal.tally 8191).count + sumNat [1] := by decide +kernel

/-! ### The well-formedness check refuses an ill-formed command for each of its parts -/

theorem test_wf_view : (Instr.sigInc (.vf 8) 0).wf = false ∧ (Instr.sigInc (.vf 7) 0).wf = true := by decide
theorem test_wf_array : (Instr.matmul 9 noEnv).wf = false ∧ (Instr.matmul 8 noEnv).wf = true := by decide
theorem test_wf_main_array : (Instr.gangBarrierStart 8).wf = false ∧ (Instr.dmaCopy 8 0 []).wf = false ∧ (Instr.dmaCopy 7 8 []).wf = false := by decide
theorem test_wf_partition : (Instr.load 8 []).wf = false ∧ (Instr.vfFlr 8).wf = false ∧ (Instr.vfFlr 7).wf = true := by decide
theorem test_wf_address : (Instr.run .pf 0x1000000 0).wf = false ∧ (Instr.run .pf 0xFFFFFC 0).wf = true := by decide
theorem test_wf_function : (Instr.msixUnmask 9 0).wf = false ∧ (Instr.msixUnmask 8 16).wf = false ∧ (Instr.msixUnmask 8 15).wf = true := by decide
theorem test_wf_tally : (Instr.tallySignal 8192 [1]).wf = false := by decide
theorem test_wf_domain : (Instr.domainEntry 27).wf = false ∧ (Instr.domainEntry 26).wf = true := by decide
theorem test_wf_stream : (Instr.audioStreamStart .pf 4 0).wf = false ∧ (Instr.ideIntegrityFailure 5).wf = false := by decide
theorem test_wf_channel : (Instr.channelUnderrun 8).wf = false ∧ (Instr.lpddrHot 8 true).wf = false := by decide
theorem test_wf_port : (Instr.frameStart 6 0 .clean).wf = false ∧ (Instr.frameStart 5 16 .clean).wf = false ∧ (Instr.aoutFrame 2).wf = false := by decide
theorem test_wf_context : (Instr.deadlineSkip 32).wf = false ∧ (Instr.groupAbsent 8 0).wf = false := by decide
theorem test_wf_nonce : (Instr.challenge 0 [0]).wf = false := by decide
theorem test_wf_target : (Instr.i3cIbi 128 [0]).wf = false ∧ (Instr.i3cIbi 127 []).wf = false := by decide
theorem test_wf_stop_context : (Instr.pageStopped 0 9).wf = false := by decide
theorem test_wf_sensors : (Instr.thermalTrip 11 0).wf = false ∧ (Instr.thermalTripRelease [0]).wf = false := by decide

/-! ### Worked values of spec/ -/

/-- A product of one activation 3 and one weight 5 exports 15. -/
theorem test_matmul_product : (nextOf (exec (.matmul 0 noEnv) sMatmul)).byte (pageBytes + 128) = 15 := by decide +kernel

/-- MOVE and POOL of one INT8 element with unit scales. -/
theorem test_move_copies : (nextOf (exec (.moveConvert 0 noEnv) sMove)).byte (pageBytes + 128) = 3 := by decide +kernel
theorem test_pool_of_one : (nextOf (exec (.pool 0 noEnv) sPool)).byte (pageBytes + 128) = 3 := by decide +kernel

/-- R51, worked example: 17 − 26 + 112 + 32 = 135. -/
theorem test_zero_points : dot [3, 15, 8, 0] [2, -3, 7, -20] = 17 ∧ zpTerm 17 8 1 26 (-14) 4 = 135 := by decide +kernel

/-- R61 and R70, worked example: x = [3.25, −0.375, 2^−7, 1.0] aligns to [104, −12, 0, 32] at X = −5; P = 404; C = 101 at L = −6 and 25 at
L = −4. -/
theorem test_align_block : alignBlock [13 / 4, -3 / 8, 1 / 128, 1] 8 false = (-5, [104, -12, 0, 32]) := by decide +kernel
theorem test_block_combine : (blockCombine 404 (-5) 0 (some 1) (some (1 / 8)) (-6)).v = 101 ∧
    (blockCombine 404 (-5) 0 (some 1) (some (1 / 8)) (-4)).v = 25 := by decide +kernel

/-- R72 to R76, worked example of the post pipeline: 1,080, then 1,032, then 29. -/
def postEx : Post :=
  { l := 0, g := -8, scale := true, table := true, sout := 8, zo := -3, fmt := 7,
    tab := { x0 := -2048, step := 5, t := List.replicate 97 0 ++ [1000, 1042] ++ List.replicate 413 0 } }

theorem test_post_scale : (postScale postEx {} 135 (1 / 32)).v = 1080 := by decide +kernel
theorem test_post_tail : (postTail postEx { v := 1080 } 1).1 = 1032 ∧ (postTail postEx { v := 1080 } 1).2.code = 29 := by decide +kernel

/-- R116, worked example: BASE −10, SHIFT 3; the code 17 is stored as 3 and read back as 14. -/
def cmpTd : TD := { fmt := 7, cmp := 1, d0 := 64 }
def cmpBlk : Nat := leNat (cmpEncode cmpTd ([-10, 40, 17] ++ List.replicate 61 0))
theorem test_compression : field cmpBlk 0 8 = ofInt 8 (-10) ∧ field cmpBlk 8 4 = 3 ∧ cmpElem cmpTd cmpBlk 2 = 14 := by decide +kernel

/-- R123 and R125, worked example: the row's drain forms 104. -/
theorem test_soft_drain : (softDrain { g := -8, sout := 4, fmt := 7 } { g2 := -8 } 0 { mrun := 768, l := 290, o := [{ v := 7505 }] } (fun _ => 0)
    (fun _ => 1)).map (fun e => e.code) = [104] := by decide +kernel

/-- R139, worked example of LIN: 0.75 × 1,002 + 40 = 792. -/
theorem test_recur_lin : ((recurStep 0 [402653184] { w1 := { v := 1002 } } 40).2).v = 792 := by decide +kernel

/-- R216, worked example: MA2 shared by partition 1 with W = 3 and partition 2 with W = 1, the nine boundaries of epoch 0. -/
theorem test_arbiter_choices : ([((0 : Nat), (0 : Nat)), (100, 0), (100, 100), (200, 100), (300, 100), (400, 100), (400, 200), (500, 200),
      (600, 200)].map fun e => ArrayS.choose { wAct := [(1, 3), (2, 1)], eP := [(1, e.1), (2, e.2)] } [1, 2]) =
    [some 1, some 2, some 1, some 1, some 1, some 2, some 1, some 1, some 1] := by decide +kernel

/-- R394, worked example: SOC_V at 3,418 mV is 7,733, and at 3,450 mV it is 9,830. -/
theorem test_gauge_ocv : ocv [(3400, 6554), (3450, 9830)] 3418 = 7733 ∧ ocv [(3400, 6554), (3450, 9830)] 3450 = 9830 := by decide +kernel

/-- R343: an integrity failure of stream 2 marks it Insecure. -/
theorem test_ide_failure : ((nextOf (exec (.ideIntegrityFailure 2) up)).ide 2).insecure = true := by decide +kernel

end Sys2Proof.Tests
end

section
/-! Narrowing to the signed integer formats INT4 and INT8 (R29 to R31, R43, R76): two's-complement codes, the symmetric clamp, and the
escape code as the one code below the symmetric range. -/

namespace Sys2Proof.Machine

/-! ### Two's-complement codes -/

theorem ofInt_lt (w : Nat) (x : Int) : ofInt w x < 2 ^ w := by
  have hpos : 0 < ((2 ^ w : Nat) : Int) := by positivity
  have hlt := Int.emod_lt_of_pos x hpos
  have hnonneg := Int.emod_nonneg x hpos.ne'
  unfold ofInt
  omega

theorem toInt_succ_eq_bmod (w n : Nat) : toInt (w + 1) n = (n : Int).bmod (2 ^ (w + 1)) := by
  simp only [toInt, Int.bmod_def, Nat.add_sub_cancel, pow_succ, Nat.cast_mul, Nat.cast_ofNat]
  norm_cast
  split <;> split <;> omega

/-- A number of w + 1 bits in two's complement reads back from its code. -/
theorem toInt_ofInt (w : Nat) {x : Int} (hlo : -(2 ^ w : Nat) ≤ x) (hhi : x < (2 ^ w : Nat)) :
    toInt (w + 1) (ofInt (w + 1) x) = x := by
  have hnonneg : 0 ≤ x % ((2 ^ (w + 1) : Nat) : Int) := Int.emod_nonneg x (by positivity)
  rw [toInt_succ_eq_bmod, ofInt, Int.toNat_of_nonneg hnonneg, Int.emod_bmod]
  apply Int.bmod_eq_of_le <;> rw [pow_succ] <;> omega

/-- The code with only the sign bit set reads as the least number of w + 1 bits. -/
theorem toInt_signBit (w : Nat) : toInt (w + 1) (2 ^ w) = -(2 ^ w : Nat) := by
  have hlt : 2 ^ w < 2 ^ (w + 1) := Nat.pow_lt_pow_succ one_lt_two
  simp only [toInt, Nat.mod_eq_of_lt hlt, Nat.add_sub_cancel, lt_irrefl, if_false]
  rw [pow_succ]
  omega

/-! ### Clamping -/

theorem le_clampInt {lo hi : Int} (h : lo ≤ hi) (x : Int) : lo ≤ clampInt lo hi x := by
  unfold clampInt
  split_ifs <;> omega

theorem clampInt_le {lo hi : Int} (h : lo ≤ hi) (x : Int) : clampInt lo hi x ≤ hi := by
  unfold clampInt
  split_ifs <;> omega

theorem clampInt_symmetric_bounds (m : Nat) (q : Int) : -(m : Int) ≤ clampInt (-m) m q ∧ clampInt (-m) m q ≤ m :=
  ⟨le_clampInt (by omega) q, clampInt_le (by omega) q⟩

theorem outside_iff (lo hi x : Int) : outside lo hi x = true ↔ x < lo ∨ hi < x := by
  simp [outside]

/-! ### The symmetric formats -/

/-- f is a format whose codes are two's complement of w + 1 bits and whose written range is symmetric, -m to +m: INT4 and INT8. -/
structure SymmetricFormat (f w m : Nat) : Prop where
  bits : fmtBits f = w + 1
  range : fmtWriteRange f = (-(m : Int), (m : Int))
  bound : m + 1 = 2 ^ w
  esc : escCode f = 2 ^ w
  not_fp : fmtFp f = false
  not_sgn : f ≠ 0
  not_ter : f ≠ 1
  signed : fmtSigned f = true

theorem symmetricFormat_int4 : SymmetricFormat 0x4 3 7 := by constructor <;> decide

theorem symmetricFormat_int8 : SymmetricFormat 0x7 7 127 := by constructor <;> decide

section
variable {f w m : Nat} (hf : SymmetricFormat f w m)
include hf

theorem SymmetricFormat.decodeCode_eq (c : Nat) : decodeCode f c = { v := toInt (w + 1) c } := by
  simp [decodeCode, intDecode, hf.not_fp, hf.not_sgn, hf.not_ter, hf.signed, hf.bits]

theorem SymmetricFormat.narrowInt_eq (q : Int) : narrowInt f q =
    { code := ofInt (w + 1) (clampInt (-m) m q), v := clampInt (-m) m q, sat := outside (-m) m q } := by
  simp [narrowInt, intEncode, hf.range, hf.not_sgn, hf.bits]

/-- Narrowing an exact value rounds it and narrows the integer; only the flush mark is its own. -/
theorem SymmetricFormat.narrow_eq (x : Rat) :
    narrow f x = { narrowInt f (rhe x) with flush := decide (rhe x = 0 ∧ x ≠ 0) } := by
  simp [narrow, narrowInt, hf.not_fp, hf.not_sgn, hf.not_ter]

/-- A code that narrowing writes decodes to the value it was written for. -/
theorem SymmetricFormat.toInt_code (q : Int) :
    toInt (w + 1) (ofInt (w + 1) (clampInt (-m) m q)) = clampInt (-m) m q := by
  obtain ⟨hlo, hhi⟩ := clampInt_symmetric_bounds m q
  have hbound := hf.bound
  exact toInt_ofInt w (by omega) (by omega)

/-- The escape code reads as -(m + 1), below everything that narrowing writes (R30, R31). -/
theorem SymmetricFormat.code_ne_escCode (q : Int) : ofInt (w + 1) (clampInt (-m) m q) ≠ escCode f := by
  intro hcode
  have hval : clampInt (-m) m q = -(2 ^ w : Nat) := by
    rw [← hf.toInt_code q, hcode, hf.esc, toInt_signBit]
  obtain ⟨hlo, -⟩ := clampInt_symmetric_bounds m q
  have hbound := hf.bound
  omega

/-- With a side list or without one, a code other than the escape code is read as its number (R30). -/
theorem SymmetricFormat.cellOf_of_ne_escCode {t : TD} (ht : t.fmt = f) {c : Nat} (hc : c ≠ escCode f) :
    cellOf t c = { c := { v := toInt (w + 1) c } } := by
  simp [cellOf, ht, hc, hf.decodeCode_eq]

end

/-- Settles O8: both kinds of narrowing write the code of the clamped integer, and the escape code is the one number below the clamp. -/
theorem narrowingSaturates : Obligations.NarrowingSaturates := by
  unfold Obligations.NarrowingSaturates
  intro f m hfm x q r hr
  obtain ⟨w, hf⟩ : ∃ w, SymmetricFormat f w m := by
    obtain ⟨rfl, rfl⟩ | ⟨rfl, rfl⟩ := hfm
    · exact ⟨3, symmetricFormat_int4⟩
    · exact ⟨7, symmetricFormat_int8⟩
  obtain ⟨hcode, hv, hsat⟩ : r.code = ofInt (w + 1) (clampInt (-m) m q) ∧ r.v = (clampInt (-m) m q : Int) ∧
      r.sat = outside (-m) m q := by
    obtain ⟨rfl, rfl⟩ | rfl := hr
    · simp [hf.narrow_eq, hf.narrowInt_eq]
    · simp [hf.narrowInt_eq]
  obtain ⟨hlo, hhi⟩ := clampInt_symmetric_bounds m q
  have hesc := hf.code_ne_escCode q
  rw [hcode, hv, hsat, hf.bits]
  refine ⟨rfl, by exact_mod_cast hlo, by exact_mod_cast hhi, hesc, ofInt_lt .., outside_iff .., fun t ht => ?_⟩
  rw [hf.cellOf_of_ne_escCode ht hesc, hf.toInt_code]

end Sys2Proof.Machine
end

section
/-! What an event leaves alone: an interrupt and an error count touch registers and outbound messages and nothing else (R412, R414). -/

namespace Sys2Proof.Machine

/-! ### Outbound messages -/

/-- t is s but for what has left the device, what its ports hold and the tokens of the weirs. -/
abbrev State.OutboundOnly (s t : State) : Prop := t = { s with parts := t.parts, ports := t.ports, out := t.out }

theorem State.outboundOnly_holdWeir (s : State) (p k : Nat) : s.OutboundOnly (s.holdWeir p k) := by
  unfold State.holdWeir
  split <;> rfl

theorem State.outboundOnly_emitTlp (s : State) (fn bytes : Nat) (o : Out) : s.OutboundOnly (s.emitTlp fn bytes o) := by
  unfold State.emitTlp State.OutboundOnly
  split_ifs
  · rfl
  · rw [s.outboundOnly_holdWeir (fn - 1) 2]
  · rfl

theorem State.outboundOnly_sendMsix (s : State) (fn k : Nat) : s.OutboundOnly (s.sendMsix fn k) := by
  unfold State.sendMsix
  split
  · rfl
  · exact s.outboundOnly_emitTlp fn 4 _

theorem State.outboundOnly_vecEdge (s : State) (fn k : Nat) (was : Bool) : s.OutboundOnly (s.vecEdge fn k was) := by
  unfold State.vecEdge
  dsimp only
  split_ifs
  · rfl
  · exact s.outboundOnly_sendMsix fn k
  · rfl
  · rfl

@[simp] theorem State.vecEdge_regs (s : State) (fn k : Nat) (was : Bool) : (s.vecEdge fn k was).regs = s.regs :=
  (congrArg State.regs (s.outboundOnly_vecEdge fn k was) :)

/-! ### Registers and outbound messages -/

/-- t is s but for its registers and what leaves the device. -/
abbrev State.RegistersOnly (s t : State) : Prop := State.OutboundOnly { s with regs := t.regs } t

namespace State.RegistersOnly
variable {s t u : State}

theorem trans (hst : s.RegistersOnly t) (htu : t.RegistersOnly u) : s.RegistersOnly u := by
  unfold State.RegistersOnly State.OutboundOnly at *
  rw [htu, hst]

theorem mem_eq (h : s.RegistersOnly t) : t.mem = s.mem := (congrArg State.mem h :)
theorem tallies_eq (h : s.RegistersOnly t) : t.tallies = s.tallies := (congrArg State.tallies h :)
theorem waiters_eq (h : s.RegistersOnly t) : t.waiters = s.waiters := (congrArg State.waiters h :)

theorem tally_eq (h : s.RegistersOnly t) (i : Nat) : t.tally i = s.tally i := by
  unfold State.tally
  rw [h.tallies_eq]

end State.RegistersOnly

theorem State.registersOnly_wr (s : State) (p : Page) (b : Nat) (f : Fld) (v : Nat) : s.RegistersOnly (s.wr p b f v) := rfl

theorem State.registersOnly_orRaw (s : State) (p : Page) (fn bits : Nat) : s.RegistersOnly (s.orRaw p fn bits) := by
  unfold State.RegistersOnly State.orRaw State.setRaw
  rw [State.vecEdge_regs]
  exact State.outboundOnly_vecEdge _ fn _ _

theorem State.registersOnly_irq (s : State) (p : Page) (part : Option Nat) (bit : Nat) : s.RegistersOnly (s.irq p part bit) := by
  cases part with
  | none => exact s.registersOnly_orRaw p 0 _
  | some v => exact (s.registersOnly_orRaw p 0 _).trans (State.registersOnly_orRaw _ p (v + 1) _)

theorem State.registersOnly_errCount (s : State) (p : Page) (b i n : Nat) : s.RegistersOnly (s.errCount p b i n) := by
  unfold State.errCount
  dsimp only
  split
  · exact ((s.registersOnly_wr p b _ _).trans (State.registersOnly_wr _ p b _ 1)).trans (State.registersOnly_irq _ p none 30)
  · exact s.registersOnly_wr p b _ _

theorem State.registersOnly_tallyErr (s : State) (v : Option Nat) (i : Nat) : s.RegistersOnly (s.tallyErr v i) := by
  cases v with
  | none => exact s.registersOnly_errCount .tallyPf 0 i 1
  | some v =>
    unfold State.tallyErr
    dsimp only
    split
    · exact ((s.registersOnly_wr _ 0 _ _).trans (State.registersOnly_wr _ _ 0 _ 1)).trans (State.registersOnly_orRaw _ _ _ _)
    · exact s.registersOnly_wr _ 0 _ _

/-! ### What an interrupt and an error count leave in the registers -/

theorem or32_toNat (a b : Nat) : or32 a b = a % 2 ^ 32 ||| b % 2 ^ 32 := by
  simp [or32]

theorem bitAt_eq_testBit (w i : Nat) : bitAt w i = w.testBit i := by
  rw [bitAt, Nat.testBit_eq_decide_div_mod_eq, beq_eq_decide]

theorem bitAt_or32_self (a : Nat) {i : Nat} (hi : i < 32) : bitAt (or32 a (2 ^ i)) i = true := by
  have hpow : 2 ^ i % 2 ^ 32 = 2 ^ i := Nat.mod_eq_of_lt (Nat.pow_lt_pow_right one_lt_two hi)
  simp only [bitAt_eq_testBit, or32_toNat, hpow, Nat.testBit_or, Nat.testBit_two_pow_self, Bool.or_true]

theorem State.orRaw_regs (s : State) (p : Page) (fn bits : Nat) :
    (s.orRaw p fn bits).regs = (s.wr p fn Reg.Hdr.IRQ_RAW (or32 (s.rd p fn Reg.Hdr.IRQ_RAW) bits)).regs :=
  State.vecEdge_regs _ _ _ _

theorem State.rd_orRaw_self (s : State) (p : Page) (fn bits : Nat) :
    (s.orRaw p fn bits).rd p fn Reg.Hdr.IRQ_RAW = or32 (s.rd p fn Reg.Hdr.IRQ_RAW) bits := by
  have hlt : or32 (s.rd p fn Reg.Hdr.IRQ_RAW) bits < 2 ^ 32 := BitVec.isLt _
  rw [State.rd_of_regs (s.orRaw_regs p fn bits), State.rd_wr_self]
  exact Nat.mod_eq_of_lt hlt

theorem State.rd_orRaw_other (s : State) {p q : Page} {fn c bits : Nat} {g : Fld}
    (h : regKey q c g ≠ regKey p fn Reg.Hdr.IRQ_RAW) : (s.orRaw p fn bits).rd q c g = s.rd q c g := by
  rw [State.rd_of_regs (s.orRaw_regs p fn bits), State.rd_wr_other s _ h]

theorem State.irqSet_irq (s : State) (p : Page) {bit : Nat} (h : bit < 32) : IrqSet (s.irq p none bit) p 0 bit := by
  show bitAt ((s.orRaw p 0 (2 ^ bit)).rd p 0 Reg.Hdr.IRQ_RAW) bit = true
  rw [State.rd_orRaw_self, bitAt_or32_self _ h]

theorem count31_lt (c n : Nat) : (count31 c n).1 < 2 ^ 31 := by
  unfold count31
  split <;> simp_all

theorem regKey_errCnt_ne_irqRaw (p : Page) (b i : Nat) : regKey p b (Reg.Hdr.ERR_CNT i) ≠ regKey p 0 Reg.Hdr.IRQ_RAW := by
  simp only [regKey]
  omega

theorem State.rd_irq_errCnt (s : State) (p : Page) (b i bit : Nat) :
    (s.irq p none bit).rd p b (Reg.Hdr.ERR_CNT i) = s.rd p b (Reg.Hdr.ERR_CNT i) :=
  s.rd_orRaw_other (regKey_errCnt_ne_irqRaw p b i)

theorem State.rd_errCount_self (s : State) (p : Page) (b i n : Nat) :
    (s.errCount p b i n).rd p b (Reg.Hdr.ERR_CNT i) = (count31 (s.rd p b (Reg.Hdr.ERR_CNT i)) n).1 := by
  have hne : regKey p b (Reg.Hdr.ERR_CNT i) ≠ regKey p b (Reg.Hdr.ERR_CNT_SAT i) := by
    simp only [regKey]
    omega
  have hmod := Nat.mod_eq_of_lt (count31_lt (s.rd p b (Reg.Hdr.ERR_CNT i)) n)
  unfold State.errCount
  dsimp only
  split
  · rw [State.rd_irq_errCnt, State.rd_wr_other _ _ hne, State.rd_wr_self, hmod]
  · rw [State.rd_wr_self, hmod]

end Sys2Proof.Machine
end

section
/-! The tally unit: one sum of the signals of a moment, then release by the mode of the tally (R152 to R154). -/

namespace Sys2Proof.Machine

/-! ### Updates outside the tally unit -/

/-- t has the tallies, the memory and the TALLY page of s. -/
structure State.KeepsTallyUnit (s t : State) : Prop where
  tally : ∀ j, t.tally j = s.tally j
  mem : t.mem = s.mem
  rd : ∀ f : Fld, f.off < 0x1000 → f.lsb < 32 → t.rd .tallyPf 0 f = s.rd .tallyPf 0 f

namespace State.KeepsTallyUnit
variable {s t u : State}

theorem refl (s : State) : s.KeepsTallyUnit s := ⟨fun _ => rfl, rfl, fun _ _ _ => rfl⟩

theorem trans (hst : s.KeepsTallyUnit t) (htu : t.KeepsTallyUnit u) : s.KeepsTallyUnit u :=
  ⟨fun j => (htu.tally j).trans (hst.tally j), htu.mem.trans hst.mem, fun f ho hl => (htu.rd f ho hl).trans (hst.rd f ho hl)⟩

theorem of_regs (htal : t.tallies = s.tallies) (hmem : t.mem = s.mem) (hregs : t.regs = s.regs) : s.KeepsTallyUnit t :=
  ⟨fun j => by rw [State.tally, State.tally, htal], hmem, fun f _ _ => State.rd_of_regs hregs .tallyPf 0 f⟩

theorem irqSet (h : s.KeepsTallyUnit t) {bit : Nat} (hs : IrqSet s .tallyPf 0 bit) : IrqSet t .tallyPf 0 bit := by
  rw [IrqSet, h.rd _ (by decide) (by decide)]
  exact hs

end State.KeepsTallyUnit

/-- A field that lies outside the physical-function view of the TALLY page. -/
def OutsideTallyPf (p : Page) (g : Fld) : Prop :=
  g.lsb < 32 ∧ (p.base + g.off < Page.base .tallyPf ∨ Page.base .tallyPf + 0x1000 ≤ p.base + g.off)

theorem outsideTallyPf_tallyVf (v : Nat) {g : Fld} (h : g.lsb < 32) : OutsideTallyPf (.tallyVf v) g := by
  refine ⟨h, .inr ?_⟩
  simp only [Page.base]
  omega

theorem outsideTallyPf_ma {a : Nat} (ha : a ≤ 8) {g : Fld} (hoff : g.off < 0x1000) (h : g.lsb < 32) : OutsideTallyPf (.ma a) g := by
  refine ⟨h, .inl ?_⟩
  simp only [Page.base]
  omega

theorem OutsideTallyPf.regKey_ne {p : Page} {g : Fld} (h : OutsideTallyPf p g) (b : Nat) {f : Fld} (hoff : f.off < 0x1000)
    (hlsb : f.lsb < 32) : regKey .tallyPf 0 f ≠ regKey p b g := by
  obtain ⟨hg, hout⟩ := h
  simp only [regKey, Page.base] at hout ⊢
  omega

theorem State.keepsTallyUnit_wr (s : State) {p : Page} {g : Fld} (h : OutsideTallyPf p g) (b v : Nat) :
    s.KeepsTallyUnit (s.wr p b g v) :=
  ⟨fun _ => rfl, rfl, fun _ ho hl => s.rd_wr_other v (h.regKey_ne b ho hl)⟩

theorem State.keepsTallyUnit_orRaw (s : State) {p : Page} (h : OutsideTallyPf p Reg.Hdr.IRQ_RAW) (fn bits : Nat) :
    s.KeepsTallyUnit (s.orRaw p fn bits) :=
  have hregs := s.registersOnly_orRaw p fn bits
  ⟨hregs.tally_eq, hregs.mem_eq, fun _ ho hl => s.rd_orRaw_other (h.regKey_ne fn ho hl)⟩

theorem State.keepsTallyUnit_count (s : State) {p : Page} {f sat : Fld} (hf : OutsideTallyPf p f) (hsat : OutsideTallyPf p sat)
    (b n : Nat) : s.KeepsTallyUnit (s.count p b f sat n) := by
  unfold State.count
  dsimp only
  split
  · exact (s.keepsTallyUnit_wr hf b _).trans (State.keepsTallyUnit_wr _ hsat b 1)
  · exact s.keepsTallyUnit_wr hf b _

/-- An error in the view of a partition leaves the physical-function view alone (R159). -/
theorem State.keepsTallyUnit_tallyErr_vf (s : State) (v i : Nat) : s.KeepsTallyUnit (s.tallyErr (some v) i) := by
  have hvf {g : Fld} (h : g.lsb < 32) : OutsideTallyPf (.tallyVf v) g := outsideTallyPf_tallyVf v h
  have hcnt := s.keepsTallyUnit_wr (g := Reg.Hdr.ERR_CNT i) (hvf (by simp)) 0
    (count31 (s.rd (.tallyVf v) 0 (Reg.Hdr.ERR_CNT i)) 1).1
  unfold State.tallyErr
  dsimp only
  split
  · exact (hcnt.trans (State.keepsTallyUnit_wr _ (hvf (by simp)) 0 1)).trans (State.keepsTallyUnit_orRaw _ (hvf (by simp)) _ _)
  · exact hcnt

/-! ### Release -/

theorem State.keepsTallyUnit_endWait (s : State) (w : Waiter) : s.KeepsTallyUnit (s.endWait w) := by
  have hdrop : s.KeepsTallyUnit { s with waiters := s.waiters.filter fun x => !(x == w) } := .of_regs rfl rfl rfl
  unfold State.endWait
  dsimp only
  split
  · exact hdrop
  · next harr =>
    have ha : w.arr ≤ 8 := by
      simp only [Bool.or_eq_true, decide_eq_true_eq, not_or, not_lt] at harr
      exact harr.2
    have hma {g : Fld} (ho : g.off < 0x1000) (h : g.lsb < 32) : OutsideTallyPf (.ma w.arr) g := outsideTallyPf_ma ha ho h
    exact (hdrop.trans (State.keepsTallyUnit_wr _ (hma (by decide) (by decide)) w.ctx 0)).trans
      (State.keepsTallyUnit_count _ (hma (by decide) (by decide)) (hma (by decide) (by decide)) w.ctx _)

theorem State.keepsTallyUnit_releaseWaiter (s : State) (w : Waiter) : s.KeepsTallyUnit (s.releaseWaiter w) := by
  have hend := s.keepsTallyUnit_endWait w
  unfold State.releaseWaiter
  dsimp only
  split <;> exact hend.trans (.of_regs rfl rfl rfl)

theorem State.keepsTallyUnit_releaseWaiters (ws : List Waiter) (s : State) :
    s.KeepsTallyUnit (ws.foldl State.releaseWaiter s) := by
  induction ws generalizing s with
  | nil => exact .refl s
  | cons w ws ih => exact (s.keepsTallyUnit_releaseWaiter w).trans (ih _)

/-- A tally on which n contexts wait, after its due waiters are released (R153). -/
def Tally.released (t : Tally) (n : Nat) : Tally :=
  { t with count := if t.level then t.count else t.count - dueWaiters t n * t.thresh }

theorem Tally.released_of_level {t : Tally} (h : t.level = true) (n : Nat) : t.released n = t := by
  rw [Tally.released, if_pos h]

/-- The waiters of a tally, in the order of their waits. -/
def State.waitersOf (s : State) (i : Nat) : List Waiter := s.waiters.filter fun w => w.tally == i

/-- The waiters that release lets go now, oldest first. -/
def State.dueOf (s : State) (i : Nat) : List Waiter :=
  (s.waitersOf i).take (dueWaiters (s.tally i) (s.waitersOf i).length)

theorem State.evalRelease_eq (s : State) (i : Nat) : s.evalRelease i = (s.dueOf i).foldl State.releaseWaiter
    (if (s.tally i).level then s else s.setTally i ((s.tally i).released (s.waitersOf i).length)) := by
  by_cases hlev : (s.tally i).level <;>
    simp [State.evalRelease, State.dueOf, State.waitersOf, Tally.released, hlev]

/-- Writing back the tally that is there changes no tally. -/
theorem State.setTally_tally_keeps (s : State) (i : Nat) : (s.setTally i (s.tally i)).KeepsTallyUnit s := by
  refine ⟨fun j => ?_, rfl, fun _ _ _ => rfl⟩
  rw [State.tally_setTally]
  split_ifs with hj
  · rw [hj]
  · rfl

/-- Release moves the tally's COUNT; the waiters that leave touch nothing of the tally unit. -/
theorem State.evalRelease_keeps (s : State) (i : Nat) :
    (s.setTally i ((s.tally i).released (s.waitersOf i).length)).KeepsTallyUnit (s.evalRelease i) := by
  rw [State.evalRelease_eq]
  refine .trans ?_ (State.keepsTallyUnit_releaseWaiters _ _)
  split_ifs with hlev
  · rw [Tally.released_of_level hlev]
    exact s.setTally_tally_keeps i
  · exact .refl _

/-- A tally without waiters releases nobody. -/
theorem State.evalRelease_waiters (s : State) {i : Nat} (h : s.waitersOf i = []) : (s.evalRelease i).waiters = s.waiters := by
  rw [State.evalRelease_eq, State.dueOf, h, List.take_nil, List.foldl_nil]
  split <;> rfl

/-! ### Signals -/

/-- A tally after inc signals of one moment, before any release (R152). -/
def Tally.signalled (t : Tally) (inc : Nat) : Tally :=
  { t with count := min 0xFFFF (t.count + inc), ovf := t.ovf || decide (0xFFFF < t.count + inc) }

/-- The sum overflows: COUNT stays at its end with OVF set, the error counts in the TALLY page and its interrupt is raised (R152). -/
def State.overflowTally (s : State) (i : Nat) : State :=
  ((s.setTally i { s.tally i with count := 0xFFFF, ovf := true }).tallyErr none 0).irq .tallyPf none 0

/-- The state in which release is evaluated, and what the signals have done to it by then (R152, R154). -/
structure State.Signalled (s : State) (i inc : Nat) (t : State) : Prop where
  tally : ∀ j, t.tally j = if j = i then (s.tally i).signalled inc else s.tally j
  waiters : t.waiters = s.waiters
  mem : t.mem = s.mem
  overflow : 0xFFFF < (s.tally i).count + inc → IrqSet t .tallyPf 0 0 ∧
    t.rd .tallyPf 0 (Reg.Hdr.ERR_CNT 0) = (count31 (s.rd .tallyPf 0 (Reg.Hdr.ERR_CNT 0)) 1).1

theorem Tally.signalled_of_le {t : Tally} {inc : Nat} (h : t.count + inc ≤ 0xFFFF) :
    t.signalled inc = { t with count := t.count + inc } := by
  simp [Tally.signalled, Nat.min_eq_right h, Nat.not_lt.mpr h]

theorem Tally.signalled_of_lt {t : Tally} {inc : Nat} (h : 0xFFFF < t.count + inc) :
    t.signalled inc = { t with count := 0xFFFF, ovf := true } := by
  simp [Tally.signalled, Nat.min_eq_left h.le, h]

theorem State.signalled_setTally (s : State) {i inc : Nat} (h : (s.tally i).count + inc ≤ 0xFFFF) :
    s.Signalled i inc (s.setTally i { s.tally i with count := (s.tally i).count + inc }) where
  tally j := by rw [State.tally_setTally, Tally.signalled_of_le h]
  waiters := rfl
  mem := rfl
  overflow hlt := absurd h (by omega)

theorem State.signalled_overflowTally (s : State) {i inc : Nat} (h : 0xFFFF < (s.tally i).count + inc) :
    s.Signalled i inc (s.overflowTally i) := by
  have honly : (s.setTally i { s.tally i with count := 0xFFFF, ovf := true }).RegistersOnly (s.overflowTally i) :=
    (State.registersOnly_tallyErr _ none 0).trans (State.registersOnly_irq _ .tallyPf none 0)
  refine ⟨fun j => ?_, honly.waiters_eq, honly.mem_eq, fun _ => ⟨State.irqSet_irq _ _ (by decide), ?_⟩⟩
  · rw [honly.tally_eq, State.tally_setTally, Tally.signalled_of_lt h]
  · exact (State.rd_irq_errCnt ..).trans (State.rd_errCount_self ..)

theorem State.Signalled.keeps {s t u : State} {i inc : Nat} (h : s.Signalled i inc t) (hkeep : t.KeepsTallyUnit u)
    (hw : u.waiters = t.waiters) : s.Signalled i inc u where
  tally j := (hkeep.tally j).trans (h.tally j)
  waiters := hw.trans h.waiters
  mem := hkeep.mem.trans h.mem
  overflow hlt := by
    obtain ⟨hirq, hcnt⟩ := h.overflow hlt
    exact ⟨hkeep.irqSet hirq, (hkeep.rd _ (by decide) (by decide)).trans hcnt⟩

/-- The overflow as the partition that holds the tally sees it: counted and raised in the TALLY page of its virtual function (R159). -/
def State.vfOverflow (s : State) (v : Nat) : State := (s.tallyErr (some v) 0).orRaw (.tallyVf v) (v + 1) 1

theorem State.registersOnly_vfOverflow (s : State) (v : Nat) : s.RegistersOnly (s.vfOverflow v) :=
  (s.registersOnly_tallyErr (some v) 0).trans (State.registersOnly_orRaw ..)

theorem State.keepsTallyUnit_vfOverflow (s : State) (v : Nat) : s.KeepsTallyUnit (s.vfOverflow v) :=
  (s.keepsTallyUnit_tallyErr_vf v 0).trans (State.keepsTallyUnit_orRaw _ (outsideTallyPf_tallyVf v (by decide)) (v + 1) 1)

/-- TALLY_SIGNAL adds the sum, and then evaluates release (R154). -/
theorem State.signalTally_eq (s : State) {i : Nat} (inc : Nat) (hi : i < 8192) :
    ∃ t, s.Signalled i inc t ∧ s.signalTally i inc = t.evalRelease i := by
  have hsig : s.signalTally i inc = State.evalRelease
      (if 0xFFFF < (s.tally i).count + inc then
        if (s.tally i).alloc then (s.overflowTally i).vfOverflow ((s.tally i).owner % 8) else s.overflowTally i
      else s.setTally i { s.tally i with count := (s.tally i).count + inc }) i := by
    rw [State.signalTally, if_neg (Nat.not_le.mpr hi)]
    rfl
  refine ⟨_, ?_, hsig⟩
  split_ifs with hover halloc
  · exact (s.signalled_overflowTally hover).keeps (State.keepsTallyUnit_vfOverflow ..) (State.registersOnly_vfOverflow ..).waiters_eq
  · exact s.signalled_overflowTally hover
  · exact s.signalled_setTally (Nat.not_lt.mp hover)

theorem exec_tallySignal (s : State) (i : Nat) (incs : List Nat) :
    exec (.tallySignal i incs) s = .next (s.signalTally i (sumNat incs)) := rfl

/-- Settles O19: release is evaluated in a state that holds the saturated sum, and it leaves the other tallies and the TALLY page alone. -/
theorem tallySignalCounts : Obligations.TallySignalCounts := by
  unfold Obligations.TallySignalCounts
  rintro s i incs t0 tot n hi rfl rfl rfl
  obtain ⟨t, hsig, heq⟩ := s.signalTally_eq (sumNat incs) hi
  have hkeep := t.evalRelease_keeps i
  have hws : t.waitersOf i = s.waiters.filter fun w => w.tally == i := by rw [State.waitersOf, hsig.waiters]
  have htally (j : Nat) : (t.evalRelease i).tally j = if j = i then
      ((s.tally i).signalled (sumNat incs)).released (s.waiters.filter fun w => w.tally == i).length else s.tally j := by
    rw [hkeep.tally, State.tally_setTally, hsig.tally, hsig.tally, if_pos rfl, hws]
    split <;> rfl
  have hself := (htally i).trans (if_pos rfl)
  refine ⟨t.evalRelease i, by rw [exec_tallySignal, heq], ?_⟩
  rw [hself]
  refine ⟨rfl, rfl, rfl, rfl, rfl, rfl, fun j hj => ?_, fun hn => ?_, hkeep.mem.trans hsig.mem, fun hover => ?_⟩
  · exact (htally j).trans (if_neg hj)
  · rw [t.evalRelease_waiters (hws.trans (List.length_eq_zero_iff.mp hn)), hsig.waiters]
  · obtain ⟨hirq, hcnt⟩ := hsig.overflow hover
    exact ⟨hkeep.irqSet hirq, (hkeep.rd _ (by decide) (by decide)).trans hcnt⟩

end Sys2Proof.Machine
end

section
/-! What SEC does for a request that reaches it while its domain is ON (R323, R352). -/

namespace Sys2Proof.Machine

/-- A wake event leaves a domain that is ON alone (R323). -/
theorem State.wake_of_domOn {s : State} {d : Nat} (h : s.domOn d = true) : s.wake d = s := by
  obtain rfl | hst : d = 0 ∨ (s.dom d).st = .on := by simpa [State.domOn] using h
  · simp [State.wake]
  · simp [State.wake, hst]

theorem State.foldl_wake_of_allOn {s : State} {l : List Nat} (h : AllOn s l) : l.foldl State.wake s = s :=
  List.foldlRecOn l State.wake (motive := (· = s)) rfl fun t ht d hd => by
    rw [ht, State.wake_of_domOn (List.all_eq_true.mp h d hd)]

theorem State.wakeAll_of_allOn {s : State} {l : List Nat} (h : AllOn s l) : s.wakeAll l = (s, true) := by
  rw [State.wakeAll, State.foldl_wake_of_allOn h, h]

/-- While SEC is ON, an SPDM request is served or refused at once. -/
theorem State.spdm_of_domOn {s : State} (h : s.domOn 26 = true) (ok : Bool) (go : State → State) :
    s.spdm ok go = if ok then go s else s.emit .spdmError := by
  have hall : AllOn s [26] := by simpa using h
  simp [State.spdm, State.wakeAll_of_allOn hall]

end Sys2Proof.Machine
end

section
/-! IDE streams: keying, an integrity failure, and which received TLPs are refused (R342, R343). -/

namespace Sys2Proof.Machine

/-! ### Keying -/

/-- What an IDE_KM message does in a secured session (R342). -/
def State.ideKeyed (s : State) : IdeKm → State
  | .keyProg k key rids => (s.setIde k { s.ide k with nextKey := some key, rids := rids }).emit .spdmAck
  | .kSetGo k =>
    match (s.ide k).nextKey with
    | none => s.emit .spdmError
    | some key => (s.setIde k { s.ide k with key := key, nextKey := none, secure := true, insecure := false }).emit .spdmAck

theorem State.ideKeyed_kSetGo {s : State} {k key : Nat} (h : (s.ide k).nextKey = some key) : s.ideKeyed (.kSetGo k) =
    (s.setIde k { s.ide k with key := key, nextKey := none, secure := true, insecure := false }).emit .spdmAck := by
  rw [State.ideKeyed, h]

theorem exec_ideKm {s : State} (hon : s.domOn 26 = true) (hsession : s.sec.spdm.session = 2) (m : IdeKm) :
    exec (.ideKm m) s = .next (s.ideKeyed m) := by
  show execIdeKm m s = _
  rw [execIdeKm, State.spdm_of_domOn hon, if_pos (beq_iff_eq.mpr hsession)]
  cases m <;> rfl

/-! ### Integrity failures -/

theorem State.RegistersOnly.ide_eq {s t : State} (h : s.RegistersOnly t) (k : Nat) : t.ide k = s.ide k := by
  have hsec : t.sec = s.sec := (congrArg State.sec h :)
  rw [State.ide, State.ide, hsec]

/-- The stream goes Insecure, before the failure is counted and reported. -/
def State.loseIde (s : State) (k : Nat) : State := s.setIde k { s.ide k with secure := false, insecure := true }

theorem State.ide_loseIde (s : State) (k j : Nat) :
    (s.loseIde k).ide j = if j = k then { s.ide k with secure := false, insecure := true } else s.ide j :=
  State.ide_setIde ..

theorem exec_ideIntegrityFailure (s : State) (k : Nat) :
    exec (.ideIntegrityFailure k) s = .next (((s.loseIde k).errCount .sec 0 1 1).irq .sec none 1) := rfl

/-- Counting and reporting an error of a page leaves all but registers and outbound messages alone. -/
theorem State.registersOnly_errCount_irq (s : State) (p : Page) (b i n : Nat) (part : Option Nat) (bit : Nat) :
    s.RegistersOnly ((s.errCount p b i n).irq p part bit) :=
  (s.registersOnly_errCount p b i n).trans (State.registersOnly_irq _ p part bit)

/-! ### Received TLPs -/

/-- A TLP names a stream that is Insecure (R343). -/
def State.onInsecure (s : State) (t : Tlp) : Bool :=
  match t.stream with
  | some k => (s.ide k).insecure
  | none => false

/-- A TLP is not accepted: its stream is Insecure (R343), or it needs a secure stream and travels on none (R342). -/
def State.refusesTlp (s : State) (t : Tlp) : Bool :=
  s.onInsecure t || ((s.rdB .sec 0 Reg.Sec.IDE_REQ || s.sec.lc == 2) && !s.tlpSecure t)

theorem State.onInsecure_iff (s : State) (t : Tlp) :
    s.onInsecure t = true ↔ ∃ k, t.stream = some k ∧ (s.ide k).insecure = true := by
  unfold State.onInsecure
  cases t.stream <;> simp

theorem State.refusesTlp_iff (s : State) (t : Tlp) : s.refusesTlp t = true ↔
    (∃ k, t.stream = some k ∧ (s.ide k).insecure = true) ∨
      ((s.rdB .sec 0 Reg.Sec.IDE_REQ = true ∨ s.sec.lc = 2) ∧ s.tlpSecure t = false) := by
  simp [State.refusesTlp, State.onInsecure_iff]

theorem exec_tlpReceived {s : State} {t : Tlp} (hup : s.ports.link = .up) (hfn : t.fn ≤ 8) :
    exec (.tlpReceived t) s = .next (if s.refusesTlp t then s.emit (if t.request then .tlpUnsupported t.fn else .tlpDropped t.fn)
      else (s.chargeTlp t.fn t.payload).emit (.tlpAccepted t.fn)) := by
  have hserved : ¬ (s.ports.link != .up || decide (8 < t.fn)) = true := by simp [hup, hfn]
  show execTlpReceived t s = _
  rw [execTlpReceived, if_neg hserved]
  rfl

/-- Settles O30: keys take effect at once while SEC is ON, an integrity failure marks its stream before it counts and reports, and one
predicate says which TLPs are refused. -/
theorem ideStreams : Obligations.IdeStreams := by
  unfold Obligations.IdeStreams
  refine ⟨fun s k key rids hon hsession => ⟨?_, fun hnext => ?_⟩, fun s k => ?_, fun s x bad hup hfn hbad => ⟨fun h => ?_, fun h => ?_⟩⟩
  · exact exec_ideKm hon hsession (.keyProg k key rids)
  · rw [exec_ideKm hon hsession, State.ideKeyed_kSetGo hnext]
  · have honly := (s.loseIde k).registersOnly_errCount_irq .sec 0 1 1 none 1
    have hide (j : Nat) := (honly.ide_eq j).trans (s.ide_loseIde k j)
    have hself := (hide k).trans (if_pos rfl)
    refine ⟨_, exec_ideIntegrityFailure s k, by rw [hself], by rw [hself], fun j hj => (hide j).trans (if_neg hj),
      State.irqSet_irq _ _ (by decide), ?_, honly.mem_eq⟩
    exact (State.rd_irq_errCnt ..).trans (State.rd_errCount_self ..)
  · rw [exec_tlpReceived hup hfn, if_pos ((s.refusesTlp_iff x).mpr (hbad.mp h))]
  · rw [exec_tlpReceived hup hfn, if_neg (mt (fun hr => hbad.mpr ((s.refusesTlp_iff x).mp hr)) h)]

end Sys2Proof.Machine
end

section
/-! How the end of EPD's entry can reach the panel's CLEAN_REQ (R321, R404): a drop goes on from EPD to the next number of its list, and the
count of a refusal of a number far past the domains of Table 12.1 lies on the HV page. No command builds such a list; State can hold it. -/

namespace Sys2Proof.Machine

/-! ### Fields that share a key -/

/-- A value other than the default is listed, so that a reader with any default meets it. -/
theorem SMap.get_of_ne_default {α : Type} {d : α} (d' : α) {m : SMap α} {k : Nat} (h : SMap.get d m k ≠ d) :
    SMap.get d' m k = SMap.get d m k := by
  induction m with
  | nil => exact absurd rfl h
  | cons e t ih =>
    unfold SMap.get at h ⊢
    split
    · rfl
    · next hk => exact ih (by rwa [if_neg hk] at h)

/-- Two fields of one key read alike once the one does not read its reset value. -/
theorem State.rd_eq_of_regKey_eq {s : State} {p q : Page} {b c : Nat} {f g : Fld} (hkey : regKey p b f = regKey q c g)
    (hne : s.rd p b f ≠ f.reset) : s.rd q c g = s.rd p b f := by
  unfold State.rd at hne ⊢
  rw [← hkey, SMap.get_of_ne_default g.reset hne]

/-! ### A drop that names no domain -/

/-- The last step of an entry finishes it; no array of its own holds the domain back (R318). -/
theorem exec_domainEntry_last {s : State} {d target : Nat} (hd : ¬ (d = 0 ∨ 26 < d)) (hst : (s.dom d).st = .entering 5 target)
    (harr : domArray d = none) : exec (.domainEntry d) s = .next (s.finishEntry d target) := by
  show execDomainEntry d s = _
  simp [execDomainEntry, hd, hst, harr]

/-- A number past the 27 domains of Table 12.1, chosen so that its count of refusals lies on the HV page. -/
def strayDomain : Nat := 24562

/-- EPD is one step before its RETENTION, in a drop that names EPD and the stray number; a page copy in progress is traffic to the latter. -/
def strayDrop : State :=
  { State.reset.wr .power 0 Reg.Power.SEQ_MODE 1 with
    power := { doms := [(25, { st := .entering 5 1, req := 1 })], seq := some { left := [25, strayDomain] } }
    tier := { moves := [{ frame := (strayDomain - 10) * 128 }] } }

theorem regKey_refusals_strayDomain :
    regKey .power 0 (Reg.Power.REFUSALS strayDomain) = regKey .hv 0 (Reg.Hv.CLEAN_REQ 0) := by decide

theorem exec_domainEntry_strayDrop : exec (.domainEntry 25) strayDrop = .next (strayDrop.finishEntry 25 1) :=
  exec_domainEntry_last (by decide) (by decide) (by decide)

theorem strayDrop_cleanReq : strayDrop.rd .hv 0 (Reg.Hv.CLEAN_REQ 0) = 0xFFFFFFFF := by decide

/-- The drop goes on to the stray number, whose entry is refused for its traffic and counted (R319, R321). -/
theorem strayDrop_finishEntry_refusals :
    (strayDrop.finishEntry 25 1).rd .power 0 (Reg.Power.REFUSALS strayDomain) = 1 := by decide +kernel

theorem strayDrop_finishEntry_cleanReq : (strayDrop.finishEntry 25 1).rd .hv 0 (Reg.Hv.CLEAN_REQ 0) = 1 := by
  rw [State.rd_eq_of_regKey_eq regKey_refusals_strayDomain, strayDrop_finishEntry_refusals]
  rw [strayDrop_finishEntry_refusals]
  decide

/-- Refutes O53: the statement ranges over every State, and in one whose drop names a number past the domains of Table 12.1 the last step of
EPD's entry counts a refusal of that number into CLEAN_REQ0, which falls from all ones to 1. -/
theorem not_panelJournalHolds : ¬ Obligations.PanelJournalHolds := by
  unfold Obligations.PanelJournalHolds
  rintro ⟨hold, -, -⟩
  have hkept := hold strayDrop (strayDrop.finishEntry 25 1) (.domainEntry 25) .pf 0 0 0 [] (Reg.Hv.CLEAN_REQ 0) (by simp) rfl
    exec_domainEntry_strayDrop (by decide)
  rw [strayDrop_cleanReq, strayDrop_finishEntry_cleanReq] at hkept
  exact absurd hkept (by decide)

end Sys2Proof.Machine
end

section
/-! What a step does with the queue, and what reset leaves (R361, R420). -/

namespace Sys2Proof.Machine

/-- Settles O1: both clauses are the two cases of the queue. -/
theorem stepTakesTheFront : Obligations.StepTakesTheFront := by
  unfold Obligations.StepTakesTheFront
  constructor
  · intro c rest s hq
    rw [step, hq]
  · intro s hq
    rw [step, hq]

/-- No memory byte is listed after reset. -/
theorem State.byte_reset (a : Nat) : State.reset.byte a = 0 := rfl

theorem memInv_reset : MemInv State.reset := rfl

theorem queueInv_reset : QueueInv State.reset :=
  ⟨by decide, by decide, by decide, by decide, by decide, by decide, fun _ => Nat.zero_le _⟩

/-- Settles O3: every table and queue is empty after reset. -/
theorem resetMeetsTheInvariants : Obligations.ResetMeetsTheInvariants :=
  ⟨memInv_reset, queueInv_reset, State.byte_reset⟩

/-- Settles O6: every table is empty after reset, so that each reads its default. -/
theorem resetLeaves : Obligations.ResetLeaves := by
  unfold Obligations.ResetLeaves
  exact ⟨fun _ _ _ => rfl, fun _ => rfl, fun _ => ⟨rfl, rfl, rfl, rfl, rfl⟩, fun _ => rfl, rfl, fun _ => rfl, rfl, rfl, rfl⟩

end Sys2Proof.Machine
end

section
/-! The frame of DOMAIN_WAKE reaches past the POWER page where a DOZE began the entry that it abandons (R316, R318). -/

namespace Sys2Proof.Machine

/-- MA0 is in step 1 of an entry that the DOZE of its context 0 began. -/
def dozedEntry : State :=
  { State.reset with power := { doms := [(2, { st := .entering 1 1, req := 1, dozed := some 0 })] } }

theorem dozedEntry_st : dozedEntry.st (.ma 0) 0 = 0 := by decide

/-- The abandoned entry lets the schedule of the dozed context go on. -/
theorem dozedEntry_wake_st : (dozedEntry.wake 2).st (.ma 0) 0 = 1 := by decide

/-- Refutes O5: DOMAIN_WAKE of a domain whose entry a DOZE began puts a context of its array back to RUNNING, on the array's page. -/
theorem not_commandFrames : ¬ Obligations.CommandFrames := by
  unfold Obligations.CommandFrames
  intro h
  obtain ⟨-, -, hpages⟩ := h dozedEntry (dozedEntry.wake 2) (.domainWake 2) .pf 0 2 0 0 false [] [] [] [] 0 .agree .lost
    (.kSetGo 0) .clean ⟨0, 0, 0, .clean, false, []⟩ ⟨false, [], 0, 0⟩ .vddMa ⟨0, none, false, 0⟩ (.erase 0 0 false) rfl
  have hst := hpages .power (by simp) (.ma 0) (by decide) (by decide) 0 (stateFld (.ma 0)) (by decide) (by decide)
  rw [← State.st, ← State.st, dozedEntry_st, dozedEntry_wake_st] at hst
  exact absurd hst (by decide)

end Sys2Proof.Machine
end

section
/-! Footprints: which parts of the state an operation may touch, together with the invariants that every operation of the model keeps. One
lemma per operation states its footprint; a sequence of operations has the union of theirs. -/

namespace Sys2Proof.Machine

-- one proof after another: in parallel they wait for each other in too many threads
set_option Elab.async false

/-- The parts of State that footprints tell apart: its fields, and of the larger ones the pieces that statements speak of. -/
inductive Part where
  | regs | mem | now | free | out | stalled | latches | tallies | waiters | arrays | dmas
  | ott | tierRest | assign | weirs | weirCfg | images | ledger | sealRest | doms | drop | raises | lifts
  | openMix | audioRest | cams | sec | sluice | ibi | uartRx | outbound | portsRest
  | gauge | panel | boot | supply | upsets | wellErrs | pending
deriving DecidableEq

/-- A part is the same in two states. -/
def Part.same (k : Part) (s t : State) : Prop :=
  match k with
  | .regs => t.regs = s.regs
  | .mem => t.mem = s.mem
  | .now => t.now = s.now
  | .free => t.free = s.free
  | .out => t.out = s.out
  | .stalled => t.stalled = s.stalled
  | .latches => t.latches = s.latches
  | .tallies => t.tallies = s.tallies
  | .waiters => t.waiters = s.waiters
  | .arrays => t.arrays = s.arrays
  | .dmas => t.dmas = s.dmas
  | .ott => t.tier.ott = s.tier.ott
  | .tierRest => { t.tier with ott := [] } = { s.tier with ott := [] }
  | .assign => (t.parts.assign, t.parts.disabling) = (s.parts.assign, s.parts.disabling)
  | .weirs => (t.parts.tokens, t.parts.held) = (s.parts.tokens, s.parts.held)
  | .weirCfg => (t.parts.budget, t.parts.weirEn) = (s.parts.budget, s.parts.weirEn)
  | .images => t.images = s.images
  | .ledger => t.seals.ledger = s.seals.ledger
  | .sealRest => (t.seals.waiters, t.seals.seq) = (s.seals.waiters, s.seals.seq)
  | .doms => t.power.doms = s.power.doms
  | .drop => (t.power.seq, t.power.rampWait) = (s.power.seq, s.power.rampWait)
  | .raises => t.power.raises = s.power.raises
  | .lifts => t.power.lifts = s.power.lifts
  | .openMix => t.audio.openMix = s.audio.openMix
  | .audioRest => { t.audio with openMix := [] } = { s.audio with openMix := [] }
  | .cams => t.cams = s.cams
  | .sec => t.sec = s.sec
  | .sluice => t.ports.sluice = s.ports.sluice
  | .ibi => t.ports.ibi = s.ports.ibi
  | .uartRx => t.ports.uartRx = s.ports.uartRx
  | .outbound => (t.ports.msix, t.ports.heldTlps) = (s.ports.msix, s.ports.heldTlps)
  | .portsRest => { t.ports with sluice := [], ibi := [], uartRx := [], msix := [], heldTlps := [] } =
      { s.ports with sluice := [], ibi := [], uartRx := [], msix := [], heldTlps := [] }
  | .gauge => t.gauge = s.gauge
  | .panel => t.panel = s.panel
  | .boot => t.boot = s.boot
  | .supply => t.supply = s.supply
  | .upsets => t.upsets = s.upsets
  | .wellErrs => t.wellErrs = s.wellErrs
  | .pending => t.pending = s.pending

theorem Part.same_refl (k : Part) (s : State) : k.same s s := by
  cases k <;> rfl

theorem Part.same_trans {k : Part} {s t u : State} (hst : k.same s t) (htu : k.same t u) : k.same s u := by
  cases k <;> exact htu.trans hst

/-- The parts that hold the queues and counters of QueueInv. -/
def queueParts : List Part := [.tallies, .ledger, .lifts, .openMix, .sluice, .ibi, .uartRx]

theorem QueueInv.of_same {s t : State} (h : ∀ k ∈ queueParts, k.same s t) (hi : QueueInv s) : QueueInv t := by
  have htal : t.tallies = s.tallies := h .tallies (by decide)
  have hledger : t.seals.ledger = s.seals.ledger := h .ledger (by decide)
  have hlifts : t.power.lifts = s.power.lifts := h .lifts (by decide)
  have hmix : t.audio.openMix = s.audio.openMix := h .openMix (by decide)
  have hsluice : t.ports.sluice = s.ports.sluice := h .sluice (by decide)
  have hibi : t.ports.ibi = s.ports.ibi := h .ibi (by decide)
  have huart : t.ports.uartRx = s.ports.uartRx := h .uartRx (by decide)
  simpa only [QueueInv, State.tally, htal, hledger, hlifts, hmix, hsluice, hibi, huart] using hi

/-- From s to t only the parts of F change, time does not go back, and what every run keeps stays. -/
structure Frame (F : List Part) (s t : State) : Prop where
  same : ∀ k, k ∉ F → k.same s t
  now : s.now ≤ t.now
  mem : MemInv s → MemInv t
  queue : QueueInv s → QueueInv t

/-- The parts that the invariants read. -/
def heldParts : List Part := .mem :: .now :: queueParts

namespace Frame
variable {F G : List Part} {s t u : State}

/-- What leaves the parts that the invariants read alone keeps them. -/
theorem of_same (h : ∀ k, k ∉ F → k.same s t := by intro k hk; cases k <;> simp at hk <;> rfl)
    (hF : ∀ k ∈ heldParts, k ∉ F := by decide) : Frame F s t := by
  have hmem : t.mem = s.mem := h .mem (hF _ (by decide))
  have hnow : t.now = s.now := h .now (hF _ (by decide))
  exact ⟨h, hnow.ge, fun hi => hi.of_mem hmem,
    .of_same fun k hk => h k (hF k (List.mem_cons_of_mem _ (List.mem_cons_of_mem _ hk)))⟩

theorem refl : Frame F s s := ⟨fun k _ => k.same_refl s, le_rfl, id, id⟩

/-- A step within the footprint. -/
theorem step (h : Frame F s t) (g : Frame G t u) (hG : ∀ k ∈ G, k ∈ F := by decide) : Frame F s u where
  same k hk := Part.same_trans (h.same k hk) (g.same k (mt (hG k) hk))
  now := h.now.trans g.now
  mem := g.mem ∘ h.mem
  queue := g.queue ∘ h.queue

/-! ### Fields -/

theorem regs {x : SMap Nat} : Frame [.regs] s { s with regs := x } := of_same
theorem free {x : Nat} : Frame [.free] s { s with free := x } := of_same
theorem out {x : List Out} : Frame [.out] s { s with out := x } := of_same
theorem stalled {x : List Stalled} : Frame [.stalled] s { s with stalled := x } := of_same
theorem latches {x : SMap Nat} : Frame [.latches] s { s with latches := x } := of_same
theorem waiters {x : List Waiter} : Frame [.waiters] s { s with waiters := x } := of_same
theorem arrays {x : SMap ArrayS} : Frame [.arrays] s { s with arrays := x } := of_same
theorem dmas {x : SMap DmaS} : Frame [.dmas] s { s with dmas := x } := of_same
theorem images {x : List Image} : Frame [.images] s { s with images := x } := of_same
theorem cams {x : CamerasS} : Frame [.cams] s { s with cams := x } := of_same
theorem sec {x : SecS} : Frame [.sec] s { s with sec := x } := of_same
theorem gauge {x : GaugeS} : Frame [.gauge] s { s with gauge := x } := of_same
theorem panel {x : PanelS} : Frame [.panel] s { s with panel := x } := of_same
theorem boot {x : BootS} : Frame [.boot] s { s with boot := x } := of_same
theorem supply {x : SupplyS} : Frame [.supply] s { s with supply := x } := of_same
theorem upsets {x : List (Cell64 × Bool)} : Frame [.upsets] s { s with upsets := x } := of_same
theorem wellErrs {x : List (Nat × LineEvent)} : Frame [.wellErrs] s { s with wellErrs := x } := of_same

theorem tier {x : TierS} : Frame [.ott, .tierRest] s { s with tier := x } := of_same
theorem parts {x : PartS} : Frame [.assign, .weirs, .weirCfg] s { s with parts := x } := of_same
theorem tokens {x : SMap Int} : Frame [.weirs] s { s with parts := { s.parts with tokens := x } } := of_same
theorem held {x : List (Nat × Nat)} : Frame [.weirs] s { s with parts := { s.parts with held := x } } := of_same
theorem heldTlps {x : List (Nat × Nat × Out)} : Frame [.outbound] s { s with ports := { s.ports with heldTlps := x } } := of_same
theorem msix {x : SMap Msix} : Frame [.outbound] s { s with ports := { s.ports with msix := x } } := of_same

end Frame
end Sys2Proof.Machine
end

section
/-! Footprints of the named operations on State: registers, memory, output, weirs, interrupts and counters. -/

namespace Sys2Proof.Machine

-- one proof after another: in parallel they wait for each other in too many threads
set_option Elab.async false

/-- What an event may touch: registers, and what its interrupt sends or lets wait (R412, R221). -/
abbrev eventParts : List Part := [.regs, .out, .outbound, .weirs]

namespace Frame
variable {F G : List Part} {s t u : State} {p : Page}

theorem mono (h : Frame G s t) (hG : ∀ k ∈ G, k ∈ F := by decide) : Frame F s t := refl.step h hG

theorem trans (h : Frame F s t) (g : Frame F t u) : Frame F s u := h.step g fun _ hk => hk

/-- The first component of a pair that an operation answers. -/
theorem of_fst {α : Type} {x : State × α} {a : α} (h : Frame F s x.1) (hx : x = (t, a)) : Frame F s t := by
  rwa [hx] at h

theorem of_snd {α : Type} {x : α × State} {a : α} (h : Frame F s x.2) (hx : x = (a, t)) : Frame F s t := by
  rwa [hx] at h

theorem ite {a b : State} {c : Prop} [Decidable c] (ha : Frame F s a) (hb : Frame F s b) : Frame F s (if c then a else b) := by
  split
  · exact ha
  · exact hb

/-- A fold of steps within a footprint. -/
theorem foldl {α : Type} {f : State → α → State} {l : List α} (h : ∀ u x, Frame F u (f u x)) : Frame F s (l.foldl f s) :=
  List.foldlRecOn l f (motive := Frame F s) refl fun u hu x _ => hu.step (h u x) fun _ hk => hk

/-! ### Registers, memory and output -/

theorem wr {b : Nat} {f : Fld} {v : Nat} : Frame [.regs] s (s.wr p b f v) := of_same
theorem wr2 {b : Nat} {f g : Fld} {v : Nat} : Frame [.regs] s (s.wr2 p b f g v) := of_same
theorem setSt {b v : Nat} : Frame [.regs] s (s.setSt p b v) := of_same
theorem emit {o : Out} : Frame [.out] s (s.emit o) := of_same
theorem takeFree : Frame [.free] s s.takeFree.2 := of_same
theorem takeBytes {n : Nat} : Frame [.free] s (s.takeBytes n).2 := of_same
theorem setArr {a : Nat} {x : ArrayS} : Frame [.arrays] s (s.setArr a x) := of_same
theorem modArr {a : Nat} {f : ArrayS → ArrayS} : Frame [.arrays] s (s.modArr a f) := of_same
theorem setDma {a : Nat} {x : DmaS} : Frame [.dmas] s (s.setDma a x) := of_same
theorem setDom {d : Nat} {x : Dom} : Frame [.doms] s (s.setDom d x) := of_same

/-- An operation on memory alone that keeps its canonical form. -/
theorem of_mem (h : ∀ k, k ∉ [Part.mem] → k.same s t := by intro k hk; cases k <;> simp at hk <;> rfl)
    (hmem : MemInv s → MemInv t) : Frame [.mem] s t where
  same := h
  now := (h .now (by decide)).ge
  mem := hmem
  queue := .of_same fun k hk => h k (by revert k hk; decide)

theorem store {a : Nat} {d : List Byte} : Frame [.mem] s (s.store a d) := of_mem (hmem := fun h => h.store a d)
theorem zero {a n : Nat} : Frame [.mem] s (s.zero a n) := of_mem (hmem := fun h => h.zero a n)

/-! ### Weirs -/

theorem chargeWeir {q : Option Nat} {k n : Nat} : Frame [.weirs] s (s.chargeWeir q k n) := by
  cases q
  · exact refl
  · exact tokens

theorem holdWeir {q k : Nat} : Frame [.weirs] s (s.holdWeir q k) := by
  unfold State.holdWeir
  split
  · exact refl
  · exact held

theorem issueLines {q n : Nat} {ks : List Nat} : Frame [.weirs] s (s.issueLines q ks n).1 := by
  have hcharge (k : Nat) : Frame [.weirs] s (ks.foldl (fun s w => s.chargeWeir (some q) w k) s) := foldl fun _ _ => chargeWeir
  unfold State.issueLines
  dsimp only
  split
  · exact (hcharge _).step (foldl fun _ _ => holdWeir)
  · exact hcharge _

theorem emitTlp {fn n : Nat} {o : Out} : Frame [.out, .outbound, .weirs] s (s.emitTlp fn n o) := by
  unfold State.emitTlp
  dsimp only
  split
  · exact emit.mono
  · split
    · unfold State.holdWeir
      split <;> exact of_same
    · exact (refl.step chargeWeir).step emit

theorem releaseTlps : Frame [.out, .outbound, .weirs] s s.releaseTlps :=
  (refl.step heldTlps).step (foldl fun _ _ => emitTlp)

theorem sendMsix {fn k : Nat} : Frame [.out, .outbound, .weirs] s (s.sendMsix fn k) := by
  unfold State.sendMsix
  split
  · exact refl
  · exact emitTlp

/-! ### Interrupts and counters -/

theorem vecEdge {fn k : Nat} {was : Bool} : Frame [.out, .outbound, .weirs] s (s.vecEdge fn k was) := by
  unfold State.vecEdge
  dsimp only
  split
  · split
    · exact msix.mono
    · exact sendMsix
  · split
    · exact msix.mono
    · exact refl

theorem setRaw {fn raw : Nat} : Frame eventParts s (s.setRaw p fn raw) := (refl.step wr).step vecEdge
theorem setMask {fn mask : Nat} : Frame eventParts s (s.setMask p fn mask) := (refl.step wr).step vecEdge
theorem orRaw {fn bits : Nat} : Frame eventParts s (s.orRaw p fn bits) := setRaw

theorem irq {q : Option Nat} {bit : Nat} : Frame eventParts s (s.irq p q bit) := by
  cases q
  · exact orRaw
  · exact (refl.step orRaw).step orRaw

theorem count {b n : Nat} {f sat : Fld} : Frame [.regs] s (s.count p b f sat n) := by
  unfold State.count
  dsimp only
  split
  · exact (refl.step wr).step wr
  · exact wr

theorem errCount {b i n : Nat} : Frame eventParts s (s.errCount p b i n) := by
  unfold State.errCount
  dsimp only
  split
  · exact ((refl.step wr).step wr).step irq
  · exact wr.mono

theorem tagFails : Frame eventParts s s.tagFails := (refl.step errCount).step irq
theorem countSat32 {b n : Nat} {f : Fld} : Frame [.regs] s (s.countSat32 p b f n) := wr
theorem countWrap32 {b n : Nat} {f : Fld} : Frame [.regs] s (s.countWrap32 p b f n) := wr

end Frame
end Sys2Proof.Machine
end

section
/-! Footprints of tensors' stores and counters, of the tally unit, and of what every page has in common. -/

namespace Sys2Proof.Machine

-- one proof after another: in parallel they wait for each other in too many threads
set_option Elab.async false

/-- What a signal of a tally may touch: it releases waiters, whose registers report their waits (R150, R153). -/
abbrev signalParts : List Part := .tallies :: .waiters :: .arrays :: .dmas :: eventParts

theorem QueueInv.tally_le {s : State} (h : QueueInv s) (i : Nat) : (s.tally i).count ≤ 0xFFFF := by
  obtain ⟨-, -, -, -, -, -, htal⟩ := h
  exact htal i

namespace Frame
variable {F G : List Part} {s t u : State} {p : Page}

/-! ### Tensors -/

theorem setOtt {i e : Nat} : Frame [.ott] s (s.setOtt i e) := of_same

theorem objStore {o b : Nat} {d : List Byte} : Frame [.mem] s (s.objStore o b d) := by
  induction d generalizing s b with
  | nil => exact refl
  | cons x d ih => exact store.trans ih

theorem addCnt {a b : Nat} {c : Cnt} : Frame [.regs] s (s.addCnt a b c) :=
  (((ite refl count).trans (ite refl count)).trans (ite refl count)).trans (ite refl count)

theorem noteTensor {a b sat flush n : Nat} {q : Option Nat} : Frame eventParts s (s.noteTensor a b sat flush n q) :=
  ((((refl.step wr).step wr).step wr).step wr).trans (ite ((refl.step wr).step irq) refl)

theorem noteReplay {a b m ac : Nat} {q : Option Nat} : Frame eventParts s (s.noteReplay a b m ac q) :=
  ite refl (((refl.step count).step count).step irq)

theorem putEl {d : TD} {x : OutEl} : Frame [.mem] s (s.putEl d x) := ite objStore objStore

theorem putEls {d : TD} {l : List OutEl} : Frame [.mem] s (s.putEls d l) :=
  ite (foldl fun _ _ => putEl) (foldl fun _ _ => foldl fun _ _ => ite objStore refl)

/-! ### Tallies -/

theorem setTally {i : Nat} {x : Tally} (h : QueueInv s → x.count ≤ 0xFFFF) : Frame [.tallies] s (s.setTally i x) where
  same := by intro k hk; cases k <;> simp at hk <;> rfl
  now := le_rfl
  mem := id
  queue hi := by
    obtain ⟨hledger, hlifts, hsluice, hibi, huart, hmix, htal⟩ := id hi
    refine ⟨hledger, hlifts, hsluice, hibi, huart, hmix, fun j => ?_⟩
    rw [State.tally_setTally]
    split
    · exact h hi
    · exact htal j

theorem tallyErr {v : Option Nat} {i : Nat} : Frame eventParts s (s.tallyErr v i) := by
  cases v with
  | none => exact errCount
  | some v => exact (refl.step wr).trans (ite ((refl.step wr).step orRaw) refl)

theorem endWait {w : Waiter} : Frame [.regs, .waiters] s (s.endWait w) :=
  (refl.step waiters).trans (ite refl ((refl.step wr).step count))

theorem releaseWaiter {w : Waiter} : Frame [.regs, .waiters, .arrays, .dmas] s (s.releaseWaiter w) :=
  (refl.step endWait).trans (ite setDma.mono modArr.mono)

theorem evalRelease {i : Nat} : Frame [.regs, .tallies, .waiters, .arrays, .dmas] s (s.evalRelease i) := by
  have hset (n : Nat) : Frame [.tallies] s (s.setTally i { s.tally i with count := (s.tally i).count - n * (s.tally i).thresh }) :=
    setTally fun hi => (Nat.sub_le _ _).trans (hi.tally_le i)
  exact (ite refl (hset _).mono).trans (foldl fun _ _ => releaseWaiter.mono)

theorem signalTally {i n : Nat} : Frame signalParts s (s.signalTally i n) := by
  unfold State.signalTally
  split
  · exact refl
  · refine trans ?_ evalRelease.mono
    split
    · exact (((refl.step (setTally fun _ => le_rfl)).step tallyErr).step irq).trans (ite ((refl.step tallyErr).step orRaw) refl)
    · next hle => exact (setTally fun _ => not_lt.mp hle).mono

theorem beginWait {a ctx i : Nat} {d : Bool} : Frame [.regs, .tallies, .waiters, .arrays, .dmas] s (s.beginWait a d ctx i) :=
  ((refl.step waiters).trans (ite refl ((refl.step wr).step wr))).step evalRelease

theorem dropWaits {a ctx : Nat} {d : Bool} : Frame [.regs, .waiters] s (s.dropWaits a d ctx) := foldl fun _ _ => endWait

theorem tallyIgnored {v : Option Nat} : Frame eventParts s (s.tallyIgnored v) := tallyErr

theorem field_lt (w lsb n : Nat) : field w lsb n < 2 ^ n := Nat.mod_lt _ (by positivity)

theorem tallyInit {v : Option Nat} {w : Nat} : Frame (.tallies :: eventParts) s (s.tallyInit p v w) := by
  have hcount : field w 0 16 ≤ 0xFFFF := Nat.le_of_lt_succ (field_lt w 0 16)
  exact ite tallyIgnored.mono (ite (((refl.step wr).step wr).step tallyErr) (((refl.step wr).step wr).step (setTally fun _ => hcount)))

theorem tallySig {v : Option Nat} {w : Nat} : Frame signalParts s (s.tallySig p v w) :=
  ite tallyIgnored.mono (((refl.step wr).step wr).step signalTally)

theorem allocTallies {q b n : Nat} : Frame [.tallies] s (s.allocTallies q b n) := foldl fun _ _ => setTally fun _ => Nat.zero_le _
theorem freeTallies {b n : Nat} : Frame [.tallies] s (s.freeTallies b n) := foldl fun _ _ => setTally fun _ => Nat.zero_le _

theorem tallyCmd {v : Option Nat} {w : Nat} : Frame (.tallies :: eventParts) s (s.tallyCmd v w) := by
  cases v with
  | some v => exact tallyIgnored.mono
  | none =>
    exact ((((refl.step wr).step wr).step wr).step wr).trans
      (ite refl (ite tallyErr.mono (ite (ite tallyErr.mono freeTallies.mono) (ite tallyErr.mono allocTallies.mono))))

end Frame
end Sys2Proof.Machine
end

section
/-! Footprints of what every page has in common: wakes, accesses, stops and the removal of a slot (R149, R251, R323, R407). -/

namespace Sys2Proof.Machine

-- one proof after another: in parallel they wait for each other in too many threads
set_option Elab.async false

/-- What a wake event may touch (R318, R323). -/
abbrev wakeParts : List Part := .doms :: .drop :: eventParts

/-- What stopping a context may touch (R149). -/
abbrev stopParts : List Part := .waiters :: .arrays :: .dmas :: .sealRest :: .portsRest :: eventParts

namespace Frame
variable {F G : List Part} {s t u : State} {p : Page}

theorem sealWaiters {x : List SealWait} : Frame [.sealRest] s { s with seals := { s.seals with waiters := x } } := of_same
theorem seq {x : Option SeqRun} : Frame [.drop] s { s with power := { s.power with seq := x } } := of_same
theorem rampWait {x : List Nat} : Frame [.drop] s { s with power := { s.power with rampWait := x } } := of_same
theorem assign {x : SMap Assign} : Frame [.assign] s { s with parts := { s.parts with assign := x } } := of_same

/-! ### Wakes -/

theorem abandon {d : Nat} : Frame wakeParts s (s.abandon d) := by
  unfold State.abandon
  extract_lets s0 x s1
  have h0 : Frame wakeParts s s0 := by
    unfold s0
    split
    · exact setSt.mono
    · exact refl
  have h1 : Frame wakeParts s s1 := (h0.step setDom).step count
  split
  · exact h1.trans (ite (((((refl.step wr).step wr).step wr).step seq).step irq) refl)
  · exact h1

theorem beginWake {d : Nat} {o : Bool} : Frame wakeParts s (s.beginWake d o) :=
  ((((ite refl count.mono).step setDom)).trans (ite rampWait.mono refl)).trans (ite emit.mono refl)

theorem wake {d : Nat} : Frame wakeParts s (s.wake d) := by
  unfold State.wake
  refine ite refl ?_
  split
  · exact refl
  · exact refl
  · exact ite abandon setDom.mono
  · exact beginWake
  · exact ite refl beginWake

theorem wakeFor {off : Nat} : Frame wakeParts s (s.wakeFor p off) := by
  unfold State.wakeFor
  split
  · exact (refl.step wake).step wake
  · exact wake

theorem wakeAll {l : List Nat} : Frame wakeParts s (s.wakeAll l).1 := foldl fun _ _ => wake

/-- An access to the control window touches what its effect does, and what the wake of the page's domain does. -/
theorem viaBus {v : View} {addr n w : Nat} {effect : State → Page → Nat → Nat → State} (h : ∀ t p b o, Frame F t (effect t p b o))
    (hwake : ∀ k ∈ wakeParts, k ∈ F := by decide) (hstall : Part.stalled ∈ F := by decide) :
    Frame F s (s.viaBus v addr n w effect) := by
  have hw {p : Page} {off : Nat} : Frame F s (s.wakeFor p off) := refl.step wakeFor hwake
  unfold State.viaBus
  refine ite refl ?_
  split
  · exact refl
  · refine ite refl ?_
    split
    · exact refl
    · exact ite (hw.trans (h _ _ _ _)) (ite hw (hw.step stalled (by simpa using hstall)))

/-! ### Stops -/

theorem settleSeals : Frame [.regs, .sealRest] s s.settleSeals := (refl.step count).step sealWaiters
theorem grantSeals : Frame [.sealRest] s s.grantSeals := sealWaiters
theorem unstallSeal {a : Nat} : Frame [.regs, .sealRest] s (s.unstallSeal a) := ite ((refl.step settleSeals).step sealWaiters) refl

theorem clearCtx {a c : Nat} : Frame [.regs, .waiters, .arrays, .sealRest] s (s.clearCtx a c) :=
  ((refl.step dropWaits).step modArr).trans (ite ((refl.step unstallSeal).step grantSeals) refl)

theorem clearDmaCtx {a c : Nat} : Frame [.regs, .waiters, .dmas] s (s.clearDmaCtx a c) := (refl.step dropWaits).step setDma

/-- Two operations on one state, of which the second has the last word on the ports. -/
theorem withPorts {x : PortsS} (h : Frame F s t) (hx : Frame F s { s with ports := x }) : Frame F s { t with ports := x } where
  same k hk := by
    have ht := h.same k hk
    have hs := hx.same k hk
    cases k
    case sluice | ibi | uartRx | outbound | portsRest => exact hs
    all_goals exact ht
  now := h.now
  mem := h.mem
  queue hi := by
    obtain ⟨hledger, hlifts, -, -, -, hmix, htal⟩ := h.queue hi
    obtain ⟨-, -, hsluice, hibi, huart, -, -⟩ := hx.queue hi
    exact ⟨hledger, hlifts, hsluice, hibi, huart, hmix, htal⟩

theorem nibbles {n : Nat} : Frame [.portsRest] s { s with ports := { s.ports with nibbles := n } } := of_same

/-- An incomplete word of the ASP is discarded and counted (R386). -/
theorem dropNibbles : Frame stopParts s { s.errCount .asp 0 2 1 with ports := { s.ports with nibbles := 0 } } := by
  have hports : Frame stopParts s { s with ports := { s.ports with nibbles := 0 } } := nibbles.mono
  have hcount : Frame stopParts s (s.errCount .asp 0 2 1) := errCount.mono
  exact withPorts hcount hports

theorem enterStopped {b : Nat} : Frame stopParts s (s.enterStopped p b) := by
  unfold State.enterStopped
  extract_lets s1
  have h1 : Frame stopParts s s1 := (refl.step setSt).step wr
  clear_value s1
  split
  · exact h1.step clearCtx
  · exact h1.step clearDmaCtx
  · exact h1.trans (ite refl dropNibbles)
  · exact h1

theorem stopReq {b : Nat} : Frame stopParts s (s.stopReq p b) := by
  unfold State.stopReq
  split
  · exact ite enterStopped ((refl.step setSt).step wr)
  · exact enterStopped
  · exact refl

theorem stopCtx {a c : Nat} : Frame stopParts s (s.stopCtx a c) := stopReq.trans (ite refl stopReq)

/-! ### Removal of a slot, and the generic write -/

theorem removeSlot {a c : Nat} : Frame (.assign :: stopParts) s (s.removeSlot a c) := by
  unfold State.removeSlot
  extract_lets bound others mine s1 f present s2 s3 s4 s5 s6
  have h1 : Frame (.assign :: stopParts) s s1 := foldl fun _ _ => stopCtx.mono
  have h3 : Frame (.assign :: stopParts) s s3 := ((((h1.step wr).step wr).step wr).step wr).step wr
  have h4 : Frame (.assign :: stopParts) s s4 := h3.trans (ite refl wr.mono)
  have h6 : Frame (.assign :: stopParts) s s6 := (((h4.step countWrap32).step wr).step wr).step irq
  exact h6.step assign

theorem wrFields {b off w : Nat} {l : List Fld} : Frame eventParts s (s.wrFields p b off w l) := by
  unfold State.wrFields
  extract_lets mine o s1
  have h1 : Frame eventParts s s1 := foldl fun u f => by
    extract_lets v
    split
    · exact wr.mono
    · exact wr.mono
    · exact ite refl wr.mono
    · exact ite wr.mono refl
    · exact refl
  exact ite ((h1.step wr).step irq) h1

theorem applyOpp {a : Nat} : Frame [.regs, .arrays] s (s.applyOpp a) := by
  unfold State.applyOpp
  extract_lets x
  split
  · exact refl
  · exact ite refl (ite wr.mono (((refl.step wr).step wr).step setArr))

end Frame
end Sys2Proof.Machine
end

section
/-! Footprints of the tiers: the object translation table, frames, eviction, page moves and storage errors (R181 to R211, R249, R252). -/

namespace Sys2Proof.Machine

-- one proof after another: in parallel they wait for each other in too many threads
set_option Elab.async false

/-- What an OTT command may touch. -/
abbrev ottParts : List Part := .mem :: .ott :: .tierRest :: .arrays :: eventParts

/-- What a read may touch: upsets that it meets, and copies that are dropped and refilled (R196, R249, R252). -/
abbrev readParts : List Part := .free :: .upsets :: .ott :: .tierRest :: eventParts

namespace Frame
variable {F G : List Part} {s t u : State} {p : Page}

/-! ### Frames of memory and stamps -/

theorem dirty {x : List Nat} : Frame [.tierRest] s { s with tier := { s.tier with dirty := x } } := of_same
theorem moves {x : List PageMove} : Frame [.tierRest] s { s with tier := { s.tier with moves := x } } := of_same
theorem refetched {x : List Nat} : Frame [.tierRest] s { s with tier := { s.tier with refetched := x } } := of_same
theorem runs {x : List (Nat × Nat × Nat)} : Frame [.tierRest] s { s with tier := { s.tier with runs := x } } := of_same
theorem release {x : Option (Nat × Nat)} : Frame [.tierRest] s { s with tier := { s.tier with release := x } } := of_same
theorem stamps {x y : SMap Nat} : Frame [.tierRest] s { s with tier := { s.tier with stamp := x, stampCtr := y } } := of_same

theorem dirtyFrame {k : Nat} : Frame [.tierRest] s (s.dirtyFrame k) := dirty
theorem zeroFrame {k : Nat} : Frame [.mem, .tierRest] s (s.zeroFrame k) := (refl.step zero).step dirty
theorem claim {k : Nat} : Frame [.mem, .tierRest] s (s.claim k) := ite zeroFrame refl
theorem stampPage {i : Nat} : Frame [.tierRest] s (s.stampPage i) := stamps
theorem stampAll {l : List Nat} : Frame [.tierRest] s (s.stampAll l) := foldl fun _ _ => stampPage

/-! ### Eviction and room -/

theorem dropRes {i : Nat} : Frame [.ott, .tierRest] s (s.dropRes i) := (refl.step dirtyFrame).step setOtt
theorem evict {i : Nat} : Frame [.regs, .ott, .tierRest] s (s.evict i) := (refl.step dropRes).step count

theorem evictTo {q n k : Nat} : Frame [.regs, .ott, .tierRest] s (s.evictTo q n k).1 := by
  induction k generalizing s with
  | zero => exact refl
  | succ k ih =>
    unfold State.evictTo
    split
    · exact refl
    · split
      · exact refl
      · exact evict.trans ih

theorem allocRefused {q : Nat} : Frame [.regs] s (s.allocRefused q) := count

theorem roomT1 {q n : Nat} (h : s.roomT1 q n = some t) : Frame [.regs, .ott, .tierRest] s t := by
  unfold State.roomT1 at h
  extract_lets need at h
  split at h
  · contradiction
  · split at h
    next s1 ok heq =>
    split at h
    · cases h
      exact evictTo.of_fst heq
    · contradiction

theorem startFill {i f n : Nat} : Frame [.ott, .tierRest] s (s.startFill i f n) := (refl.step setOtt).step moves
theorem beginFill {i f n : Nat} : Frame [.mem, .ott, .tierRest] s (s.beginFill i f n) := (refl.step claim).step startFill

theorem fillPage {i : Nat} : Frame [.regs, .mem, .ott, .tierRest] s (s.fillPage i) := by
  unfold State.fillPage
  refine ite refl (ite stampPage.mono (ite refl ?_))
  split
  · exact allocRefused.mono
  · next s1 hroom =>
    have h1 : Frame [.regs, .mem, .ott, .tierRest] s s1 := (roomT1 hroom).mono
    split
    · exact h1.step allocRefused
    · exact h1.step beginFill

theorem cutQuota {q : Nat} : Frame (.ott :: .tierRest :: eventParts) s (s.cutQuota q) := by
  unfold State.cutQuota
  split
  next s1 ok heq =>
  have h1 : Frame (.ott :: .tierRest :: eventParts) s s1 := (evictTo.of_fst heq).mono
  exact ite h1 (h1.step irq)

/-! ### Commands of the OTT -/

theorem copyPage {a b : Nat} : Frame [.mem] s (s.copyPage a b) := zero.trans (foldl fun _ _ => store)
theorem ottDone {n : Nat} : Frame [.regs] s (s.ottDone n) := (refl.step wr).step wr

theorem dropMoves {gone : PageMove → Bool} : Frame [.regs, .ott, .tierRest] s (s.dropMoves gone) := by
  have hdrop : Frame [.regs, .ott, .tierRest] s ((s.tier.moves.filter gone).foldl
      (fun s m => s.setOtt m.page (setField (s.ott m.page) 9 1 0))
      { s with tier := { s.tier with moves := s.tier.moves.filter fun m => !gone m } }) :=
    (refl.step moves).trans (foldl fun _ _ => setOtt.mono)
  exact ite (hdrop.step ottDone) hdrop

theorem ottAlloc {b n q : Nat} : Frame [.tierRest] s (s.ottAlloc b n q) := runs

theorem ottFree {b n : Nat} : Frame [.regs, .ott, .tierRest, .arrays] s (s.ottFree b n) := by
  unfold State.ottFree
  extract_lets inRange s0 mine s1 s2 cut
  have h1 : Frame [.regs, .ott, .tierRest, .arrays] s s1 := (refl.step dropMoves).trans (foldl fun _ _ => dirtyFrame.mono)
  have h2 : Frame [.regs, .ott, .tierRest, .arrays] s s2 := h1.trans (foldl fun _ _ => ite modArr.mono refl)
  exact h2.step tier

theorem ottSetCmd {i v : Nat} : Frame [.regs, .mem, .ott, .tierRest] s (s.ottSetCmd i v) :=
  ite ottDone.mono (((foldl fun _ _ => claim.mono).step setOtt).step ottDone)

theorem ottMoveCmd {i f : Nat} : Frame [.regs, .mem, .ott, .tierRest] s (s.ottMoveCmd i f) := by
  unfold State.ottMoveCmd
  extract_lets e q held start
  have hstart (u : State) : Frame [.regs, .mem, .ott, .tierRest] u (start u) := ((refl.step claim).step setOtt).step moves
  refine ite ottDone.mono (ite ottDone.mono (ite ottDone.mono (ite (hstart s) ?_)))
  split
  · exact (refl.step allocRefused).step ottDone
  · next s1 hroom => exact (roomT1 hroom).mono.trans (hstart s1)

theorem ottCmd {w : Nat} : Frame ottParts s (s.ottCmd w) := by
  unfold State.ottCmd
  extract_lets s1 s2 i len bad
  have h1 : Frame ottParts s s1 := (refl.step wr).step wr
  have h2 : Frame ottParts s s2 := h1.step wr
  clear_value s1 s2
  refine ite errCount.mono (ite h1 ?_)
  split
  · exact ite (h2.step ottDone) (ite (h2.step ottDone) ((h2.step ottAlloc).step ottDone))
  · exact ite (h2.step ottDone) (ite ((h2.step ottFree).step ottDone) ((h2.step wr).step release))
  · exact h2.step ottSetCmd
  · exact h2.step ottMoveCmd

theorem releaseResume : Frame [.regs, .ott, .tierRest, .arrays] s s.releaseResume := by
  unfold State.releaseResume
  split
  · exact refl
  · exact ite (((refl.step ottFree).step release).step ottDone) refl

/-! ### Local page maps and refetch -/

theorem noteSrc {a f : Nat} {o : Option Nat} : Frame [.arrays] s (s.noteSrc a f o) := modArr
theorem wroteFrame {a f : Nat} : Frame [.arrays] s (s.wroteFrame a f) := ite noteSrc refl
theorem wroteT0 {l : List Nat} : Frame [.arrays] s (s.wroteT0 l) := foldl fun _ _ => ite wroteFrame refl

theorem dstore {a : Nat} {d : List Byte} : Frame [.mem, .tierRest, .arrays] s (s.dstore a d) := by
  unfold State.dstore
  extract_lets pages s1
  have h1 : Frame [.mem, .tierRest, .arrays] s s1 :=
    foldl fun _ _ => (ite wroteFrame.mono (ite wroteFrame.mono refl)).step claim
  exact ite (h1.step store) (h1.trans (foldl fun _ _ => ite refl store.mono))

theorem setBad {i : Nat} : Frame [.ott] s (s.setBad i) := setOtt

theorem refetch {i j : Nat} : Frame (.mem :: .tierRest :: eventParts) s (s.refetch i j) := by
  unfold State.refetch
  extract_lets home e ej s1 s2 s3
  have h1 : Frame (.mem :: .tierRest :: eventParts) s s1 := ite copyPage.mono refl
  have h2 : Frame (.mem :: .tierRest :: eventParts) s s2 := h1.trans (ite copyPage.mono refl)
  exact ((h2.step refetched).step count).step irq

theorem dropSlice {n : Nat} : Frame [.regs, .ott, .tierRest] s (s.dropSlice n) := foldl fun _ _ => evict

/-! ### Storage errors -/

theorem meetWords {l : List (Nat × Nat)} : Frame (.upsets :: eventParts) s (s.meetWords l).1 :=
  (refl.step upsets).trans (foldl fun _ _ => errCount.mono)

theorem refill {i : Nat} : Frame [.ott, .tierRest] s (s.refill i) := (refl.step setOtt).step startFill

theorem meetCell {c : Cell64} : Frame (.upsets :: eventParts) s (s.meetCell c p).1 := by
  unfold State.meetCell
  split
  · exact refl
  · dsimp only
    split
    · exact upsets.mono
    · exact (refl.step upsets).step errCount

/-- A fold that carries a value beside the state. -/
theorem foldl_fst {α β : Type} {f : State × β → α → State × β} {x : State × β} {l : List α} (hx : Frame F s x.1)
    (h : ∀ y a, Frame F y.1 (f y a).1) : Frame F s (l.foldl f x).1 :=
  List.foldlRecOn l f (motive := fun y => Frame F s y.1) hx fun y hy a _ => hy.trans (h y a)

theorem meetData {a n : Nat} : Frame readParts s (s.meetData a n).1 := by
  unfold State.meetData
  refine foldl_fst (meetWords.of_fst rfl).mono fun y w => ?_
  extract_lets t page
  have ht : Frame readParts y.1 t := errCount.mono
  clear_value t page
  cases page with
  | none => exact ht.step free
  | some i => exact ht.step refill

theorem wellEvent {e : LineEvent} : Frame eventParts s (s.wellEvent e).1 := by
  unfold State.wellEvent
  split
  · exact errCount
  · split
    · exact errCount
    · exact errCount.trans errCount
  · exact errCount
  · exact tagFails.trans errCount

theorem meetLine {n : Nat} {e : Option LineEvent} : Frame (.wellErrs :: eventParts) s (s.meetLine n e).1 := by
  unfold State.meetLine
  extract_lets x
  clear_value x
  cases x with
  | none => exact refl
  | some x => exact (refl.step wellErrs).step wellEvent

theorem meetFrame {f : Nat} : Frame (.wellErrs :: eventParts) s (s.meetFrame f).1 :=
  foldl_fst refl fun _ _ => meetLine

theorem loseLine {i : Nat} : Frame [.regs, .ott, .tierRest] s (s.loseLine i) := (refl.step dropMoves).step setBad

/-! ### Page copies -/

theorem issueMove {m : PageMove} : Frame [.weirs, .tierRest] s (s.issueMove m).1 := by
  unfold State.issueMove
  split
  · exact refl
  · exact (refl.step issueLines).step moves

theorem meetMove {m : PageMove} {a : Nat} : Frame (.upsets :: .wellErrs :: eventParts) s (s.meetMove m a).1 := by
  unfold State.meetMove
  split
  · split
    next s1 lost heq =>
    refine of_fst ?_ heq
    split
    · exact refl
    · exact meetFrame.mono
  · split
    next s1 bad heq => exact (meetWords.of_fst heq).mono.trans (foldl fun _ _ => errCount.mono)

theorem completeMove {i : Nat} : Frame (.mem :: .doms :: .drop :: .wellErrs :: readParts) s (s.completeMove i) := by
  unfold State.completeMove
  split
  · exact refl
  · next m _ =>
    extract_lets e src dst e1
    refine ite refl ?_
    split
    next s0 on h0 =>
    have h0 : Frame (.mem :: .doms :: .drop :: .wellErrs :: readParts) s s0 := (wakeAll.of_fst h0).mono
    refine ite h0 ?_
    split
    next s1 go h1 =>
    have h1 : Frame (.mem :: .doms :: .drop :: .wellErrs :: readParts) s s1 := h0.step (issueMove.of_fst h1)
    refine ite h1 ?_
    split
    next s2 bad lost h2 =>
    have h2 : Frame (.mem :: .doms :: .drop :: .wellErrs :: readParts) s s2 := h1.step (meetMove.of_fst h2)
    clear_value e src dst e1
    refine ite (h2.step loseLine) ?_
    extract_lets fromWell s3 s4 tier5 s5 s6
    have h3 : Frame (.mem :: .doms :: .drop :: .wellErrs :: readParts) s s3 := h2.step copyPage
    have h4 : Frame (.mem :: .doms :: .drop :: .wellErrs :: readParts) s s4 :=
      h3.trans (ite refl (foldl fun _ _ => (refl.step (takeBytes (n := 8))).step store))
    have h5 : Frame (.mem :: .doms :: .drop :: .wellErrs :: readParts) s s5 := h4.step moves
    clear_value s5
    have h6 : Frame (.mem :: .doms :: .drop :: .wellErrs :: readParts) s s6 :=
      ite ((h5.step setOtt).step stampPage) ((h5.step dirtyFrame).step setOtt)
    clear_value s6
    exact ite (h6.step ottDone) h6

/-! ### Reads -/

theorem readAt {x n : Nat} : Frame readParts s (s.readAt x n).1 := foldl_fst stampAll.mono fun _ _ => meetData

theorem readLine {x : Nat} {e : Option LineEvent} : Frame (.wellErrs :: readParts) s (s.readLine x e).1 := by
  unfold State.readLine
  extract_lets addr
  split
  · split
    next s1 lost h1 =>
    have h1 : Frame (.wellErrs :: readParts) s s1 := (meetLine.of_fst h1).mono
    split
    · split
      · exact h1.step loseLine
      · exact h1
    · exact h1.step readAt
  · split
    next s1 d h1 =>
    have h1 : Frame (.wellErrs :: readParts) s s1 := (readAt.of_fst h1).mono
    split
    · exact h1
    · exact h1.step errCount
    · exact h1
    · extract_lets s2
      have h2 : Frame (.wellErrs :: readParts) s s2 := h1.step errCount
      clear_value s2
      split
      · split
        · exact h2.step refill
        · exact h2.step free
      · exact h2.step free

end Frame
end Sys2Proof.Machine
end

section
/-! Footprints of the sequencer: the start of an operation, its run, its completion and the gang barrier (R88 to R97, R113, R205). -/

namespace Sys2Proof.Machine

-- one proof after another: in parallel they wait for each other in too many threads
set_option Elab.async false

/-- What the run of an operation may touch: its outputs, and the slots that its storage errors remove (R251). -/
abbrev runParts : List Part := .mem :: .free :: .upsets :: .assign :: .ott :: .tierRest :: stopParts

/-- What an operation may touch: its gate waits on a tally, and its tensors' domains wake (R89, R323). -/
abbrev mopParts : List Part := .tallies :: .doms :: .drop :: runParts

namespace Frame
variable {F G : List Part} {s t u : State} {p : Page}

/-! ### Start -/

theorem markPassed {a c : Nat} : Frame [.arrays] s (s.markPassed a c) := modArr

theorem waitGate {a c : Nat} {d : Desc} : Frame [.regs, .tallies, .waiters, .arrays, .dmas] s (s.waitGate a c d).1 := by
  unfold State.waitGate
  extract_lets marks s1
  have h1 : Frame [.regs, .tallies, .waiters, .arrays, .dmas] s s1 := beginWait
  clear_value s1
  split
  · exact refl
  · split
    · exact markPassed.mono
    · split
      · exact refl
      · split
        · exact h1.step markPassed
        · exact h1

theorem putMop {a c : Nat} {x : Mop} : Frame [.arrays] s (s.putMop a c x) := modArr
theorem faultMop {m : MEnv} {l : List Nat} {c o : Nat} : Frame [.arrays] s (s.faultMop m l c o) := foldl fun _ _ => putMop

/-- An operation touches what its own meaning does, and what its gate and the wake of its tensors' domains do. -/
theorem startMop {a : Nat} {mine : Desc → Bool} {body : State → MEnv → State} (h : ∀ t m, Frame F t (body t m))
    (hF : ∀ k ∈ ([.tallies, .waiters, .arrays, .dmas] : List Part) ++ wakeParts, k ∈ F := by decide) :
    Frame F s (s.startMop a mine body) := by
  have hfault {t : State} {m : MEnv} {l : List Nat} {c o : Nat} : Frame F t (t.faultMop m l c o) :=
    (faultMop : Frame [.arrays] _ _).mono (by simp_all)
  unfold State.startMop
  split
  · exact refl
  · next c _ =>
    extract_lets d m
    refine ite refl (ite hfault ?_)
    split
    next s1 go h1 =>
    have h1 : Frame F s s1 := (waitGate.of_fst h1).mono (by simp_all)
    refine ite h1 (ite h1 ?_)
    split
    · exact h1.trans hfault
    · split
      next s2 on h2 =>
      have h2 : Frame F s s2 := h1.step (wakeAll.of_fst h2) (by simp_all)
      exact ite (h2.trans (h s2 m)) h2

/-! ### End of a run -/

theorem weightFault {i : Nat} : Frame (.ott :: eventParts) s (s.weightFault i).1 := by
  unfold State.weightFault
  split
  · exact refl
  · split
    · dsimp only
      exact (refl.step setBad).step irq
    · exact refl

theorem putOut {q : Option Nat} {l : List (TD × List OutEl)} : Frame [.mem, .arrays, .weirs] s (s.putOut q l) :=
  foldl fun _ _ => ((refl.step putEls).step wroteT0).step chargeWeir

theorem storeErrors {b f : Nat} {e : MopEnv} : Frame (.assign :: stopParts) s (s.storeErrors b e f) := by
  unfold State.storeErrors
  extract_lets p s1 s2
  have h1 : Frame (.assign :: stopParts) s s1 := ite refl errCount.mono
  have h2 : Frame (.assign :: stopParts) s s2 := h1.step errCount
  clear_value s1 s2 p
  split
  · exact ite h1 (ite h2 (ite (h2.step removeSlot) (h2.step modArr)))
  · exact h1

theorem resError {l : List Nat} {e : MopEnv} : Frame (.ott :: .tierRest :: eventParts) s (s.resError l e).1 := by
  unfold State.resError
  split
  · dsimp only
    split
    · dsimp only
      exact (refl.step errCount).step refill
    · exact refl
  · exact refl

theorem upsetEnv {l : List (Nat × Nat)} : Frame (.upsets :: eventParts) s (s.upsetEnv l).1 := meetWords

theorem endMember {m : MEnv} {b f ac : Nat} {e : MopEnv} {r own : MRes} {crc : Option Nat} :
    Frame (.assign :: stopParts) s (s.endMember m b e r own f ac crc) := by
  unfold State.endMember
  extract_lets p part k cnt s0 s1 missed mine s2 old mop s3 s4 s5
  have h0 : Frame (.assign :: stopParts) s s0 := (refl.step addCnt).step count
  have h1 : Frame (.assign :: stopParts) s s1 := (h0.step noteReplay).trans (foldl fun _ _ => noteTensor.mono)
  have h3 : Frame (.assign :: stopParts) s s3 := (h1.step modArr).step putMop
  have h4 : Frame (.assign :: stopParts) s s4 := h3.trans (ite ((refl.step wr).step wr) (ite wr.mono refl))
  have h5 : Frame (.assign :: stopParts) s s5 := h4.step storeErrors
  clear_value s5
  exact ite (h5.step removeSlot) h5

theorem endRun {m : MEnv} {l : List (Nat × MopEnv)} {r : MRes} {own : MopEnv → MRes} : Frame runParts s (s.endRun m l r own) := by
  unfold State.endRun
  extract_lets part r' s1 s2
  have h2 : Frame runParts s s2 := (refl.step putOut).step free
  clear_value s2
  split
  next s3 f crc h3 =>
  have h3 : Frame runParts s s3 := by
    refine h2.trans (of_fst ?_ h3)
    split
    · split
      · exact weightFault.mono
      · exact refl
    · exact refl
  split
  next ac s4 h4 =>
  have h4 : Frame runParts s s4 := by
    refine h3.trans (of_snd ?_ h4)
    split
    · exact refl
    · exact takeFree.mono
  exact h4.trans (foldl fun _ _ => endMember.mono)

theorem runGang {a : Nat} {m : MEnv} {e : MopEnv} {go : State → MEnv → List (Nat × MopEnv) → State}
    (h : ∀ t m l, Frame F t (go t m l)) (hF : Part.arrays ∈ F := by decide) : Frame F s (s.runGang a m e go) := by
  have hput {x : Mop} : Frame F s (s.putMop a m.ctx x) := putMop.mono (by simpa using hF)
  unfold State.runGang
  split
  · exact h _ _ _
  · extract_lets mop s1 mops
    have h1 : Frame F s s1 := hput
    exact ite (h1.trans (h _ _ _)) h1

theorem tensorOp {a op : Nat} {e : MopEnv} {run : State → MEnv → MopEnv → MRes} : Frame mopParts s (s.tensorOp a e op run) :=
  startMop fun _ _ => runGang fun _ _ _ => endRun.mono

theorem moveStart {m : MEnv} {e : MopEnv} : Frame (.ott :: .tierRest :: eventParts) s (s.moveStart m e) :=
  ((refl.step stampAll).step chargeWeir).step resError

/-! ### Gang, refetch and completion -/

theorem modRefetch {i : Nat} {f : Mop → Mop} : Frame [.arrays] s (s.modRefetch i f) := foldl fun u b => by
  split
  · exact ite setArr refl
  · exact refl

theorem chargeAc {a n : Nat} {q : Option Nat} : Frame [.arrays] s (s.chargeAc a q n) := by
  unfold State.chargeAc
  split
  · exact refl
  · exact modArr

theorem advancePc {a c : Nat} : Frame [.regs] s (s.advancePc a c).1 := by
  unfold State.advancePc
  dsimp only
  split
  · exact wr
  · split
    · exact (refl.step countSat32).step wr
    · exact countSat32

/-- A command goes on, within a footprint. -/
def Goes (F : List Part) (s : State) (x : Ans) : Prop := ∃ t, x = .next t ∧ Frame F s t

theorem goes (h : Frame F s t) : Goes F s (.next t) := ⟨t, rfl, h⟩

theorem goes_matmul {a : Nat} {e : MopEnv} : Goes mopParts s (exec (.matmul a e) s) := tensorOp.goes
theorem goes_conv {a : Nat} {e : MopEnv} : Goes mopParts s (exec (.conv a e) s) := tensorOp.goes
theorem goes_pool {a : Nat} {e : MopEnv} : Goes mopParts s (exec (.pool a e) s) := tensorOp.goes
theorem goes_eltwise {a : Nat} {e : MopEnv} : Goes mopParts s (exec (.eltwise a e) s) := tensorOp.goes
theorem goes_pairBwd {a : Nat} {e : MopEnv} : Goes mopParts s (exec (.pairBwd a e) s) := tensorOp.goes
theorem goes_expand {a : Nat} {e : MopEnv} : Goes mopParts s (exec (.expand a e) s) := tensorOp.goes
theorem goes_recur {a : Nat} {e : MopEnv} : Goes mopParts s (exec (.recur a e) s) := tensorOp.goes
theorem goes_moveConvert {a : Nat} {e : MopEnv} : Goes mopParts s (exec (.moveConvert a e) s) :=
  (startMop fun _ _ => (refl.step moveStart).step endRun : Frame mopParts s _).goes
theorem goes_pair {a : Nat} {e : MopEnv} : Goes mopParts s (exec (.pair a e) s) :=
  (startMop fun _ _ => (refl.step endRun).step count : Frame mopParts s _).goes
theorem goes_decode {a : Nat} {e : MopEnv} : Goes mopParts s (exec (.decode a e) s) :=
  (startMop fun _ _ => (refl.step endRun).step count : Frame mopParts s _).goes

theorem goes_gangBarrierStart {a : Nat} : Goes [.arrays] s (exec (.gangBarrierStart a) s) := by
  refine goes ?_
  split
  · exact refl
  · extract_lets chain d m same
    refine ite refl (ite refl (ite ?_ (foldl fun _ _ => (ite markPassed refl).trans modArr)))
    split
    · exact ite faultMop faultMop
    · exact faultMop

theorem goes_weightRefetch {a : Nat} {b : Bool} : Goes (.wellErrs :: .ott :: .doms :: .drop :: .mem :: .tierRest :: .arrays :: eventParts) s
    (exec (.weightRefetch a b) s) := by
  refine goes ?_
  split
  · exact refl
  · split
    · exact refl
    · split
      · exact refl
      · split
        next s0 on h0 =>
        have h0 : Frame (.wellErrs :: .ott :: .doms :: .drop :: .mem :: .tierRest :: .arrays :: eventParts) s s0 :=
          (wakeAll.of_fst h0).mono
        refine ite h0 ?_
        extract_lets ks
        split
        next s1 k h1 =>
        have h1 : Frame (.wellErrs :: .ott :: .doms :: .drop :: .mem :: .tierRest :: .arrays :: eventParts) s s1 :=
          h0.step (issueLines.of_fst h1)
        refine ite (h1.step modRefetch) ?_
        split
        next s2 lost h2 =>
        have h2 : Frame (.wellErrs :: .ott :: .doms :: .drop :: .mem :: .tierRest :: .arrays :: eventParts) s s2 :=
          h1.step (meetFrame.of_fst h2)
        exact (h2.trans (ite refetch.mono (ite setBad.mono ((refl.step setBad).step errCount)))).step modRefetch

theorem goes_macroOpComplete {a : Nat} : Goes (.mem :: .doms :: .tallies :: stopParts) s (exec (.macroOpComplete a) s) := by
  refine goes ?_
  split
  · exact refl
  · next x _ =>
    refine ite refl ?_
    extract_lets p ctx part wr0
    split
    next bs bf _ =>
    extract_lets s1 s2 s3 s4 s5 s6 sa sb s7
    have h2 : Frame (.mem :: .doms :: .tallies :: stopParts) s s2 := (refl.step store).step wr
    have h4 : Frame (.mem :: .doms :: .tallies :: stopParts) s s4 := (h2.trans (ite refl noteTensor.mono)).trans (ite irq.mono refl)
    have h6 : Frame (.mem :: .doms :: .tallies :: stopParts) s s6 := (h4.step chargeAc).step modArr
    clear_value s6
    have ha : Frame (.mem :: .doms :: .tallies :: stopParts) s sa := by
      unfold sa
      split
      · exact h6.step signalTally
      · exact h6
    have hb : Frame (.mem :: .doms :: .tallies :: stopParts) s sb := by
      unfold sb
      split
      · exact ha.step signalTally
      · exact ha
    clear_value sb
    have h7 : Frame (.mem :: .doms :: .tallies :: stopParts) s s7 := by
      refine ite (((h6.step irq).step wr).step setSt) ?_
      split
      next sc ended hc =>
      extract_lets sd dozed dom se
      have hd : Frame (.mem :: .doms :: .tallies :: stopParts) s sd := (hb.step (advancePc.of_fst hc)).trans (ite irq.mono refl)
      have he : Frame (.mem :: .doms :: .tallies :: stopParts) s se := hd.trans (ite setDom.mono refl)
      clear_value se
      exact ite (he.step enterStopped) he
    exact h7.step applyOpp

end Frame
end Sys2Proof.Machine
end

section
/-! Footprints of the power domains and of the operations TALLY, LIFT, SEAL and DOZE (R235 to R239, R309 to R330). -/

namespace Sys2Proof.Machine

-- one proof after another: in parallel they wait for each other in too many threads
set_option Elab.async false

/-- What the loss of a domain's power may touch (R310, R320, Table 12.1). -/
abbrev lossParts : List Part := .mem :: .free :: .ott :: .tierRest :: .cams :: .sec :: .audioRest :: .panel :: .ledger :: .sealRest ::
  .sluice :: .ibi :: .uartRx :: .portsRest :: .waiters :: .arrays :: .dmas :: eventParts

/-- What an entry or a sequenced drop may touch (R315 to R322). -/
abbrev powerParts : List Part := .supply :: .doms :: .drop :: lossParts

namespace Frame
variable {F G : List Part} {s t u : State} {p : Page}

/-! ### Queues -/

/-- An update of parts that hold queues, which keeps their depths. -/
theorem of_queue (hqueue : QueueInv s → QueueInv t) (h : ∀ k, k ∉ F → k.same s t := by intro k hk; cases k <;> simp at hk <;> rfl)
    (hmem : Part.mem ∉ F := by decide) (hnow : Part.now ∉ F := by decide) : Frame F s t where
  same := h
  now := (h .now hnow).ge
  mem hi := hi.of_mem (h .mem hmem)
  queue := hqueue

theorem ledger {x : List (List Byte)} (h : QueueInv s → x.length ≤ 4096) :
    Frame [.ledger] s { s with seals := { s.seals with ledger := x } } :=
  of_queue fun hi => by
    obtain ⟨-, hrest⟩ := id hi
    exact ⟨h hi, hrest⟩

theorem ports {x : PortsS} (hsluice : x.sluice.length ≤ 8192) (hibi : x.ibi.length ≤ 16) (huart : x.uartRx.length ≤ 64) :
    Frame [.sluice, .ibi, .uartRx, .outbound, .portsRest] s { s with ports := x } :=
  of_queue fun hi => by
    obtain ⟨hledger, hlifts, -, -, -, hmix, htal⟩ := hi
    exact ⟨hledger, hlifts, hsluice, hibi, huart, hmix, htal⟩

theorem aoutCount {x : SMap Nat} : Frame [.audioRest] s { s with audio := { s.audio with aoutCount := x } } := of_same
theorem hqReady {x : Option Nat} : Frame [.audioRest] s { s with audio := { s.audio with hqReady := x } } := of_same
theorem link {x : Link} : Frame [.portsRest] s { s with ports := { s.ports with link := x } } := of_same

/-! ### What a domain loses -/

theorem clearRegs {l : Nat → Bool} : Frame [.regs] s (s.clearRegs p l) := regs
theorem clearPage : Frame eventParts s (s.clearPage p) :=
  (ite refl (foldl fun _ _ => ite refl setRaw)).step clearRegs
theorem retainArr {a : Nat} : Frame [.arrays] s (s.retainArr a) := modArr

theorem loseVolatile {d : Nat} : Frame lossParts s (s.loseVolatile d) := by
  unfold State.loseVolatile
  split
  · exact retainArr.mono
  · refine ite cams.mono (ite cams.mono (ite ((refl.step clearPage).step wr) (ite ?_ (ite aoutCount.mono (ite ?_ refl)))))
    · have hports {t : State} : Frame [.portsRest, .outbound] t
          { t with ports := { t.ports with link := .l12, hdXfer := [], hdLine := [], heldTlps := [] } } := of_same
      exact (refl.step clearPage).step hports
    · exact (((((foldl fun _ _ => clearPage.mono).step wr).step wr).trans (ite irq.mono refl))).step sec

theorem clearArr {a : Nat} : Frame [.regs, .waiters, .arrays, .dmas] s (s.clearArr a) :=
  ((foldl fun _ _ => (refl.step dropWaits).step dropWaits).step modArr).step setDma

theorem losePower {d : Nat} : Frame lossParts s (s.losePower d) := by
  unfold State.losePower
  extract_lets s0 s1
  have h1 : Frame lossParts s s1 := (ite dropSlice.mono refl).trans (foldl fun _ _ => clearPage.mono)
  clear_value s1
  split
  next base len _ =>
  extract_lets s2 s3
  have h2 : Frame lossParts s s2 := h1.trans (ite refl zero.mono)
  have h3 : Frame lossParts s s3 := by
    unfold s3
    split
    · exact h2.step clearArr
    · exact h2
  clear_value s3
  refine ite (h3.step cams) (ite ((h3.step clearRegs).step cams) (ite ?_ (ite ?_ (ite (h3.step aoutCount) (ite (h3.step panel)
    (ite ?_ h3))))))
  · exact ((h3.step free).step wr).step sec
  · have hports : Frame [.sluice, .ibi, .uartRx, .outbound, .portsRest] s3 { s3 with ports := { s3.ports with
        ibi := [], uartRx := [], uartOverrun := false, uartCmd := [], sluice := [], nibbles := 0, drain := none } } :=
      ports (Nat.zero_le _) (Nat.zero_le _) (Nat.zero_le _)
    exact h3.step hports
  · have hledger {t : State} : Frame [.ledger] t { t with seals := { t.seals with ledger := [] } } := ledger fun _ => Nat.zero_le _
    exact (((h3.step wr).step hledger).step sec).step grantSeals

/-! ### Entry -/

theorem seqEnd {a b c : Nat} : Frame (.drop :: eventParts) s (s.seqEnd a b c) := by
  unfold State.seqEnd
  exact ((((refl.step wr).step wr).step wr).step seq).step irq

theorem refuseEntry {d c : Nat} : Frame wakeParts s (s.refuseEntry d c) := by
  unfold State.refuseEntry
  extract_lets x s1 s2
  have h2 : Frame wakeParts s s2 := ((((refl.step setDom).step count).step wr).step wr).step irq
  clear_value s2
  exact ite (h2.step seqEnd) h2

theorem entryStep1 {d : Nat} {c : Option Nat} : Frame wakeParts s (s.entryStep1 d c).1 := by
  unfold State.entryStep1
  dsimp only
  split
  · exact setDom.mono
  · exact refuseEntry

theorem tryEntry {d : Nat} : Frame wakeParts s (s.tryEntry d) := ite entryStep1 refl

theorem seqNext {l : List Nat} : Frame (.doms :: .drop :: stopParts) s (s.seqNext l) := by
  induction l generalizing s with
  | nil => exact (refl.step seq).step seqEnd
  | cons d l ih =>
    exact ite ((((refl.step seq).step setDom).trans (foldl fun _ _ => stopReq.mono)).step tryEntry) ih

theorem railsMayGo {d : Nat} : Frame [.free, .regs, .supply] s (s.railsMayGo d) := by
  unfold State.railsMayGo
  split
  · dsimp only
    exact ((refl.step free).trans (ite wr.mono refl)).step supply
  · split
    · exact (refl.step free).step supply
    · exact refl

theorem finishEntry {d n : Nat} : Frame powerParts s (s.finishEntry d n) := by
  unfold State.finishEntry
  extract_lets x s1 s2 s3
  have h2 : Frame powerParts s s2 := (refl.step setDom).trans (ite ((refl.step losePower).step railsMayGo) loseVolatile.mono)
  have h3 : Frame powerParts s s3 := h2.trans (ite wake.mono refl)
  clear_value s3
  split
  · exact h3.trans (ite seqNext.mono refl)
  · exact h3

theorem goes_domainEntry {d : Nat} : Goes powerParts s (exec (.domainEntry d) s) := by
  refine goes (ite refl ?_)
  split
  · exact tryEntry.mono
  · exact ite refl (ite setDom.mono finishEntry)
  · exact refl

theorem goes_domainWake {d : Nat} : Goes wakeParts s (exec (.domainWake d) s) := wake.goes

theorem becomeReady {d : Nat} : Frame [.regs, .doms, .drop, .arrays, .audioRest, .portsRest] s (s.becomeReady d) := by
  unfold State.becomeReady
  extract_lets x
  split
  · next o _ =>
    refine ite refl ?_
    extract_lets dom s1 s2 s3
    have h3 : Frame [.regs, .doms, .drop, .arrays, .audioRest, .portsRest] s s3 :=
      ((refl.step setDom).step wr).trans (ite rampWait.mono refl)
    clear_value s3
    split
    · exact ite h3 ((h3.step wr).step modArr)
    · exact ite ((h3.step wr).step wr) (ite (h3.step link) (ite (h3.step hqReady) h3))
  · exact refl

theorem writePwr {w : Nat} : Frame wakeParts s (s.writePwr p w) := by
  unfold State.writePwr
  extract_lets d dom s1
  have h1 : Frame wakeParts s s1 := ite setDom.mono refl
  clear_value s1
  refine ite refl ?_
  split
  · exact h1
  · exact (h1.step setDom).step wake
  · exact (h1.step setDom).trans (ite refl tryEntry)

theorem seqCmd {w : Nat} : Frame (.doms :: .drop :: stopParts) s (s.seqCmd w) :=
  ite refl (ite wr.mono ((refl.step wr).trans (ite errCount.mono ((((refl.step wr).step wr).step wr).step seqNext))))

theorem goes_seqTimeout : Goes wakeParts s (exec .seqTimeout s) := by
  refine goes ?_
  split
  · split
    · exact ite ((refl.step setDom).step seqEnd) refl
    · exact refl
  · exact refl

/-! ### TALLY, LIFT, SEAL and DOZE -/

theorem raises {x : List Raise} : Frame [.raises] s { s with power := { s.power with raises := x } } := of_same
theorem raise {r : Raise} : Frame [.raises] s (s.raise r) := raises
theorem raiseEvent {e n : Nat} : Frame [.raises] s (s.raiseEvent e n) := ite refl (ite raises raise)

theorem goes_tallySignalOp {a : Nat} : Goes mopParts s (exec (.tallySignalOp a) s) :=
  (startMop fun _ _ => putMop.mono : Frame mopParts s _).goes

theorem goes_tallyWaitOp {a : Nat} : Goes mopParts s (exec (.tallyWaitOp a) s) :=
  (startMop fun _ _ => ite putMop.mono (ite refl (ite ((refl.step beginWait).step putMop) beginWait.mono)) : Frame mopParts s _).goes

theorem readFault {m : MEnv} {e : MopEnv} {c o n : Nat} : Frame (.free :: .assign :: stopParts) s (s.readFault m e c o n) :=
  ((refl.step free).step putMop).step storeErrors

theorem goes_lift {a : Nat} : Goes (.raises :: mopParts) s (exec (.lift a) s) := by
  refine goes (startMop fun t m => ?_)
  extract_lets d td z q ac scores tb
  split
  next su met h1 =>
  have h1 : Frame (.raises :: mopParts) t su := (refl.step stampAll).step (upsetEnv.of_fst h1)
  split
  next sr env h2 =>
  have h2 : Frame (.raises :: mopParts) t sr := h1.step (resError.of_fst h2)
  extract_lets s0 hits chosen s1
  have h0 : Frame (.raises :: mopParts) t s0 := h2.step addCnt
  split
  · exact h0.step readFault
  · exact h0.step readFault
  · have h1 : Frame (.raises :: mopParts) t s1 := h0.trans (foldl fun _ _ => raise.mono)
    exact h1.step putMop

theorem stallSeal {a : Nat} : Frame [.regs, .sealRest] s (s.stallSeal a) := ite refl ((refl.step count).step sealWaiters)

theorem appendSeal {b : List Byte} {q l n : Nat} (h : s.seals.ledger.length < 4096) :
    Frame (.ledger :: .sealRest :: eventParts) s (s.appendSeal b q l n) := by
  unfold State.appendSeal
  extract_lets r seals s1 s2
  have h1 : Frame [.ledger, .sealRest] s s1 := of_queue fun hi => by
    obtain ⟨-, hrest⟩ := hi
    refine ⟨?_, hrest⟩
    show (s.seals.ledger ++ [r]).length ≤ 4096
    rw [List.length_append, List.length_singleton]
    exact h
  have h2 : Frame (.ledger :: .sealRest :: eventParts) s s2 := (h1.mono).step irq
  exact ite (h2.step irq) h2

/-- A SEAL that has an entry finds the ledger short of its 4096 records. -/
theorem ledger_lt_of_sealEntry {a : Nat} (h : s.sealEntry a = true) : s.seals.ledger.length < 4096 := by
  unfold State.sealEntry at h
  split at h
  · simp only [Bool.and_eq_true, decide_eq_true_eq] at h
    exact h.2
  · simp only [decide_eq_true_eq] at h
    omega

theorem goes_sealOp {a : Nat} : Goes (.ledger :: mopParts) s (exec (.sealOp a) s) := by
  refine goes (startMop fun t m => ?_)
  split
  next s0 on h0 =>
  have h0 : Frame (.ledger :: mopParts) t s0 := (wakeAll.of_fst h0).mono
  refine ite h0 ?_
  split
  · exact h0.step stallSeal
  · next hentry =>
    extract_lets d ta tx pages
    split
    next su met h1 =>
    have hu : Frame readParts (s0.unstallSeal a) su := (refl.step stampAll).step (upsetEnv.of_fst h1)
    split
    next s1 env h2 =>
    have h1 : Frame readParts (s0.unstallSeal a) s1 := hu.step (resError.of_fst h2)
    have hlen : s1.seals.ledger.length < 4096 := by
      have hsame : s1.seals.ledger = s0.seals.ledger :=
        Part.same_trans (k := .ledger) (unstallSeal.same .ledger (by decide)) (h1.same .ledger (by decide))
      rw [hsame]
      exact ledger_lt_of_sealEntry (by simpa using hentry)
    have h1 : Frame (.ledger :: mopParts) t s1 := (h0.step unstallSeal).step h1
    extract_lets ac
    split
    · exact (h1.step readFault).step grantSeals
    · exact (h1.step readFault).step grantSeals
    · exact ((h1.step (appendSeal hlen)).step grantSeals).step putMop

theorem goes_doze {a : Nat} : Goes mopParts s (exec (.doze a) s) := by
  refine goes (startMop fun t m => ?_)
  extract_lets dm mode dom s1
  have h1 : Frame mopParts t s1 := ite refl setDom.mono
  clear_value s1
  refine ite (h1.step putMop) ?_
  extract_lets other
  split
  next s2 ok h2 =>
  have h2 : Frame mopParts t s2 := h1.step (entryStep1.of_fst h2)
  exact ((h2.step free).trans (ite setSt.mono refl)).step putMop

end Frame
end Sys2Proof.Machine
end

section
/-! Footprints of the DMA engines (R190 to R194, R220 to R222). -/

namespace Sys2Proof.Machine

-- one proof after another: in parallel they wait for each other in too many threads
set_option Elab.async false

/-- What a command of a DMA engine may touch. -/
abbrev dmaParts : List Part := .mem :: .tallies :: .doms :: .drop :: .wellErrs :: .free :: .upsets :: .ott :: .tierRest :: stopParts

namespace Frame
variable {F G : List Part} {s t u : State} {p : Page} {a c : Nat}

theorem dmaFault {n : Nat} : Frame (.dmas :: eventParts) s (s.dmaFault a c n) := by
  unfold State.dmaFault
  exact ((((((refl.step setDma).step wr).step wr).step setSt).step wr).step wr).step irq

theorem issueLine {q : Option Nat} {l : List Nat} : Frame [.weirs] s (s.issueLine q l).1 := by
  unfold State.issueLine
  split
  · exact refl
  · dsimp only
    split
    · exact foldl fun _ _ => chargeWeir
    · exact foldl fun _ _ => holdWeir

theorem putRun {r : DmaRun} : Frame [.regs, .dmas] s (s.putRun a r) := (refl.step setDma).step wr

theorem dmaGate {d : DmaDesc} : Frame [.regs, .tallies, .waiters, .arrays, .dmas] s (s.dmaGate a c d).1 := by
  unfold State.dmaGate
  split
  · exact refl
  · split
    · exact refl
    · exact beginWait

theorem dmaStart {n : Nat} {go : State → DmaDesc → DmaRun → State} (h : ∀ t d r, Frame dmaParts t (go t d r)) :
    Frame dmaParts s (s.dmaStart a c n go) := by
  unfold State.dmaStart
  refine ite refl ?_
  split
  · refine ite refl ?_
    split
    · exact ite (h _ _ _) refl
    · exact refl
  · refine ite refl ?_
    split
    · exact dmaFault.mono
    · refine ite dmaFault.mono (ite refl ?_)
      split
      next s1 b e1 =>
      have h1 : Frame dmaParts s s1 := (dmaGate.of_fst e1).mono
      exact ite h1 (((h1.step setDma).step putRun).trans (h _ _ _))

theorem settleDma : Frame [.regs, .dmas] s (s.settleDma a c) := by
  unfold State.settleDma
  split
  · split
    · exact (refl.step count).step putRun
    · exact refl
  · exact refl

theorem issuedBy : Frame [.dmas] s (s.issuedBy a c) := setDma

theorem copyMark {i y : Nat} : Frame [.arrays] s (s.copyMark c i y) := ite refl (ite modArr refl)

theorem putLine {y : Nat} {d : List Byte} : Frame [.mem, .arrays] s (s.putLine c y d) := by
  unfold State.putLine
  extract_lets i cut s1
  have h1 : Frame [.mem, .arrays] s s1 := (refl.step store).step copyMark
  exact ite ((h1.step store).step copyMark) h1

theorem copyLines {r : DmaRun} {d : DmaDesc} {ev : List (Nat × LineEvent)} {n k : Nat} :
    Frame dmaParts s (s.copyLines a r d ev n k) := by
  induction k generalizing s n with
  | zero => exact putRun.mono
  | succ k ih =>
    have hstop {t : State} {r : DmaRun} (h : Frame dmaParts s t) : Frame dmaParts s (t.putRun a r) := h.step putRun
    have hfault {t : State} {n : Nat} (h : Frame dmaParts s t) : Frame dmaParts s (t.dmaFault a r.ctx n) := h.step dmaFault
    unfold State.copyLines
    extract_lets ctx stop
    split
    next x y _ =>
    split
    · exact hfault refl
    · split
      next s0 on e0 =>
      have h0 : Frame dmaParts s s0 := (wakeAll.of_fst e0).mono
      refine ite (hstop h0) ?_
      extract_lets dstFault ks
      clear_value dstFault ks
      split
      next s1 go e1 =>
      have h1 : Frame dmaParts s s1 := h0.step (issueLine.of_fst e1)
      refine ite (hstop h1) ?_
      split
      next s2 bad data e2 =>
      have h2 : Frame dmaParts s s2 := h1.step (readLine.of_fst e2)
      split
      · exact hfault h2
      · exact hfault h2
      · refine ite (hfault h2) ?_
        split
        next s3 on2 e3 =>
        have h3 : Frame dmaParts s s3 := h2.step (wakeAll.of_fst e3)
        exact ite (hstop h3) ((h3.step putLine).trans ih)

theorem noteCopy {d : DmaDesc} : Frame [.arrays] s (s.noteCopy c d) := foldl fun _ _ => ite noteSrc refl

theorem issueRun {r : DmaRun} {n : Nat} {go : State → DmaRun → Nat → State} (h : ∀ t r k, Frame dmaParts t (go t r k)) :
    Frame dmaParts s (s.issueRun a r n go) := by
  unfold State.issueRun
  extract_lets s1 r1 s2 k s3
  have h2 : Frame dmaParts s s2 := (refl.step settleDma).step putRun
  have h3 : Frame dmaParts s s3 := (h2.step issuedBy).trans (h _ _ _)
  clear_value s2 s3
  refine ite (h2.step putRun) (ite ?_ h3)
  split
  · exact ite h3 (h3.step putRun)
  · exact h3

theorem goes_dmaCopy {ev : List (Nat × LineEvent)} : Goes dmaParts s (exec (.dmaCopy a c ev) s) :=
  (dmaStart fun _ _ _ => issueRun fun _ _ _ => copyLines).goes

theorem fillLines {i b j k : Nat} {ev : List (Nat × LineEvent)} : Frame dmaParts s (s.fillLines a c i ev b j k).1 := by
  induction k generalizing s j with
  | zero => exact refl
  | succ k ih =>
    unfold State.fillLines
    split
    next s1 go e1 =>
    have h1 : Frame dmaParts s s1 := (issueLine.of_fst e1).mono
    split
    · exact h1
    · split
      next s2 bad d e2 =>
      have h2 : Frame dmaParts s s2 := h1.step (readLine.of_fst e2)
      split
      · exact h2
      · exact h2.trans ih

theorem fillRun {r : DmaRun} {d : DmaDesc} {ev : List (Nat × LineEvent)} {k j b : Nat} {l : List Nat} :
    Frame dmaParts s (s.fillRun a r d ev k j b l) := by
  induction l generalizing s r k j b with
  | nil => exact putRun.mono
  | cons i l ih =>
    have hstop {t : State} {r : DmaRun} (h : Frame dmaParts s t) : Frame dmaParts s (t.putRun a r) := h.step putRun
    have hfault {t : State} {n : Nat} (h : Frame dmaParts s t) : Frame dmaParts s (t.dmaFault a r.ctx n) := h.step dmaFault
    unfold State.fillRun
    extract_lets ctx stop x begun needs
    split
    · exact hfault refl
    · split
      next s0 on e0 =>
      have h0 : Frame dmaParts s s0 := by
        refine of_fst ?_ e0
        split
        · exact wakeAll.mono
        · exact refl
      refine ite (hstop h0) ?_
      extract_lets s1
      have h1 : Frame dmaParts s s1 := h0.trans (ite refl fillPage.mono)
      clear_value s1
      refine ite (h1.trans ih) ?_
      split
      next s2 j2 bad e2 =>
      have h2 : Frame dmaParts s s2 := h1.trans (fillLines.of_fst e2)
      split
      · exact hfault h2
      · exact ite (hstop h2) (h2.trans ih)

theorem goes_dmaFill {ev : List (Nat × LineEvent)} : Goes dmaParts s (exec (.dmaFill a c ev) s) :=
  (dmaStart fun _ _ _ => ite dmaFault.mono (issueRun fun _ _ _ => fillRun)).goes

theorem advanceDpc : Frame [.regs] s (s.advanceDpc a c).1 := by
  unfold State.advanceDpc
  dsimp only
  split
  · exact wr
  · split
    · exact (refl.step countSat32).step wr
    · exact countSat32

theorem goes_dmaComplete : Goes (.tallies :: stopParts) s (exec (.dmaComplete a c) s) := by
  refine goes ?_
  split
  · refine ite refl ?_
    extract_lets p dma s1 s2 s2'
    have h2 : Frame (.tallies :: stopParts) s s2 := ((refl.step setDma).step wr).trans (ite refl noteCopy.mono)
    have h2' : Frame (.tallies :: stopParts) s s2' := h2.trans (ite signalTally.mono refl)
    clear_value s2'
    split
    next s3 ended e3 =>
    have h3 : Frame (.tallies :: stopParts) s s3 := h2'.step (advanceDpc.of_fst e3)
    extract_lets s4
    have h4 : Frame (.tallies :: stopParts) s s4 := h3.trans (ite irq.mono refl)
    clear_value s4
    exact ite (h4.step enterStopped) h4
  · exact refl

end Frame
end Sys2Proof.Machine
end

section
/-! Footprints of the loader: placement, commit and unload of images (R168 to R191). -/

namespace Sys2Proof.Machine

-- one proof after another: in parallel they wait for each other in too many threads
set_option Elab.async false

/-- What a commit may touch. -/
abbrev commitParts : List Part := .tallies :: .images :: .mem :: .ott :: .tierRest :: .sec :: .arrays :: eventParts

/-- What LOAD may touch. -/
abbrev loadParts : List Part := .doms :: .drop :: commitParts

theorem ite_inl_eq_inr {α β : Type} {c : Prop} [Decidable c] {a : α} {x : α ⊕ β} {b : β} (h : (if c then .inl a else x) = .inr b) :
    x = .inr b := by
  split at h
  · contradiction
  · exact h

theorem leNat_lt (l : List Byte) : leNat l < 256 ^ l.length := by
  induction l with
  | nil => simp [leNat]
  | cons b l ih =>
    have hb : b.toNat < 256 := b.isLt
    simp only [leNat, List.length_cons, pow_succ]
    omega

theorem sliceBytes_length (l : List Byte) (o n : Nat) : (sliceBytes l o n).length = n := by
  simp [sliceBytes]

theorem leAt_lt (l : List Byte) (o n : Nat) : leAt l o n < 256 ^ n := by
  have h := leNat_lt (sliceBytes l o n)
  rwa [sliceBytes_length] at h

namespace Frame
variable {F G : List Part} {s t u : State} {p : Page}

theorem writeFrame {k : Nat} {d : List Byte} : Frame [.mem, .tierRest] s (s.writeFrame k d) :=
  ((refl.step zero).step store).step dirty

theorem writeWell {k : Nat} {d : List Byte} : Frame (.mem :: .tierRest :: .sec :: eventParts) s (s.writeWell k d) := by
  unfold State.writeWell
  extract_lets s1 x s2
  have h2 : Frame (.mem :: .tierRest :: .sec :: eventParts) s s2 := ((refl.step writeFrame).step sec)
  exact ite ((h2.step wr).step irq) h2

theorem placePage {q i k : Nat} {l : List Nat} {o : ObjEnt} {d : List Byte} (h : s.placePage q l o i k d = some t) :
    Frame (.mem :: .ott :: .tierRest :: .sec :: .arrays :: eventParts) s t := by
  unfold State.placePage at h
  extract_lets wf limit homed a frame s1 at h
  clear_value frame
  split at h
  · contradiction
  next f =>
  split at h
  · contradiction
  extract_lets s2 e s3 at h
  have h1 : Frame (.mem :: .ott :: .tierRest :: .sec :: .arrays :: eventParts) s s1 := by
    unfold s1
    exact ite writeWell.mono refl
  have h2 : Frame (.mem :: .ott :: .tierRest :: .sec :: .arrays :: eventParts) s s2 := by
    unfold s2
    clear_value s1
    split
    · exact h1.step writeFrame
    · exact h1.step writeFrame
    · exact h1
  clear_value s1 s2
  injection h with h
  rw [← h]
  exact (h2.step setOtt).trans (ite modArr.mono refl)

theorem placePages {q i k : Nat} {l : List Nat} {o : ObjEnt} {ds : List (List Byte)} (h : s.placePages q l o i k ds = some t) :
    Frame (.mem :: .ott :: .tierRest :: .sec :: .arrays :: eventParts) s t := by
  induction ds generalizing s i k with
  | nil => exact Option.some.inj h ▸ refl
  | cons d ds ih =>
    unfold State.placePages at h
    split at h
    · contradiction
    · next s1 h1 => exact (placePage h1).trans (ih h)

theorem placeObjs {q i : Nat} {l : List Nat} {os : List (ObjEnt × List Byte)} (h : s.placeObjs q l i os = some t) :
    Frame (.mem :: .ott :: .tierRest :: .sec :: .arrays :: eventParts) s t := by
  induction os generalizing s i with
  | nil => exact Option.some.inj h ▸ refl
  | cons o os ih =>
    unfold State.placeObjs at h
    split at h
    · contradiction
    · next s1 h1 => exact (placePages h1).trans (ih h)

theorem putT0 {a n : Nat} {used l : List (Nat × Nat)} {d : List Byte} (h : s.putT0 a used d = some (t, n, l)) :
    Frame [.mem, .tierRest] s t := by
  unfold State.putT0 at h
  extract_lets k at h
  split at h
  · contradiction
  extract_lets frames s1 at h
  have h1 : Frame [.mem, .tierRest] s s1 := foldl fun _ _ => writeFrame
  clear_value s1
  simp only [Option.some.injEq, Prod.mk.injEq] at h
  exact h.1 ▸ h1.step store

theorem writeCsum {m : MEnv} {x : Config.CsumItem} : Frame [.mem] s (s.writeCsum m x) :=
  foldl fun _ _ => foldl fun _ _ => objStore

theorem programArray {a c b n lp r tb tl : Nat} : Frame [.regs] s (s.programArray a c b n lp r tb tl) :=
  ite refl ((((((refl.step wr).step wr).step wr).step wr).step wr).step wr)

theorem programList {a c b n lp r : Nat} : Frame [.regs] s (s.programList a c b n lp r) :=
  ite refl ((((refl.step wr).step wr).step wr).step wr)

theorem commitArrays {q tb nt : Nat} {lists : List (Nat × Nat × Nat × Nat × List Byte × Bool)} {used at_ used' at' : List (Nat × Nat)}
    (h : s.commitArrays q tb nt lists used at_ = some (t, used', at')) : Frame [.regs, .mem, .tierRest] s t := by
  induction lists generalizing s used at_ with
  | nil =>
    simp only [State.commitArrays, Option.some.injEq, Prod.mk.injEq] at h
    exact h.1 ▸ refl
  | cons x lists ih =>
    unfold State.commitArrays at h
    split at h
    · contradiction
    · next s1 off used1 h1 => exact ((putT0 h1).mono.trans (ite programArray.mono programList.mono)).trans (ih h)

theorem commit {q : Nat} {img owner : List Byte} {r : Req} {bind : List Nat} {key : Option Nat}
    (h : s.commit q img r bind key owner = .inr t) : Frame commitParts s t := by
  unfold State.commit at h
  split at h
  · contradiction
  extract_lets raw objs withC digs tds tal scheds pf post enc waits ctab pages talBad noData arrOf pins ottBase tb first lists arrs at h
  clear_value talBad waits ctab
  have h := ite_inl_eq_inr (ite_inl_eq_inr (ite_inl_eq_inr (ite_inl_eq_inr (ite_inl_eq_inr (ite_inl_eq_inr h)))))
  split at h
  · contradiction
  next s0 h0 =>
  have h0 : Frame commitParts s s0 := by
    split at h0
    · exact Option.some.inj h0 ▸ refl
    · exact (roomT1 h0).mono
  extract_lets s1 at h
  have h1 : Frame commitParts s s1 := h0.step ottAlloc
  clear_value s1
  split at h
  · contradiction
  next s2 h2 =>
  have h2 : Frame commitParts s s2 := h1.step (placeObjs h2)
  extract_lets s3 s4 at h
  have h4 : Frame commitParts s s4 := by
    have hcount (k : Nat) : leAt tal (8 * k) 2 ≤ 0xFFFF := Nat.le_of_lt_succ (leAt_lt tal (8 * k) 2)
    exact (h2.step allocTallies).trans (foldl fun _ _ => (setTally fun _ => hcount _).mono)
  clear_value s4
  split at h
  · contradiction
  next s5 used at_ h5 =>
  have h5 : Frame commitParts s s5 := h4.step (commitArrays h5)
  extract_lets image s6 s7 s8 m s9 at h
  have h7 : Frame commitParts s s7 := by
    have h6 : Frame commitParts s s6 := h5.step images
    unfold s7
    split
    · exact h6.trans (foldl fun _ _ => modArr.mono)
    · exact h6
  clear_value s7
  have h9 : Frame commitParts s s9 := (h7.trans (foldl fun _ _ => modArr.mono)).trans (foldl fun _ _ => writeCsum.mono)
  clear_value s9
  injection h with h
  exact h ▸ h9.trans (foldl fun _ _ => ite ((refl.step modArr).step applyOpp) refl)

theorem goes_load {q : Nat} {img : List Byte} : Goes loadParts s (exec (.load q img) s) := by
  refine goes (ite refl ?_)
  extract_lets answer dig
  split
  · exact emit.mono
  split
  · exact emit.mono
  split
  · exact emit.mono
  split
  · exact emit.mono
  refine ite emit.mono ?_
  split
  next s0 on e0 =>
  have h0 : Frame loadParts s s0 := (wakeAll.of_fst e0).mono
  refine ite h0 ?_
  split
  · exact (h0.trans (ite allocRefused.mono refl)).step emit
  · next s1 h1 => exact (h0.step (commit h1)).step emit

theorem unload {i : Image} : Frame [.regs, .ott, .tierRest, .arrays, .tallies, .images] s (s.unload i) := by
  unfold State.unload
  extract_lets s1 s2
  have h2 : Frame [.regs, .ott, .tierRest, .arrays, .tallies, .images] s s2 :=
    ((refl.step ottFree).step freeTallies).trans (foldl fun _ _ => dirtyFrame.mono)
  exact h2.step images

theorem goes_imageUnload {q i : Nat} : Goes [.regs, .ott, .tierRest, .arrays, .tallies, .images] s (exec (.imageUnload q i) s) := by
  refine goes ?_
  split
  · exact refl
  · exact ite unload refl

end Frame
end Sys2Proof.Machine
end

section
/-! Footprints of partitions, shares and weirs (R212 to R227). -/

namespace Sys2Proof.Machine

-- one proof after another: in parallel they wait for each other in too many threads
set_option Elab.async false

/-- What a scrub of an array may touch (R214, R218). -/
abbrev scrubParts : List Part := .mem :: .free :: .arrays :: wakeParts

/-- What a partition's end may touch (R225). -/
abbrev partParts : List Part := .mem :: .free :: .doms :: .drop :: .ott :: .tierRest :: .tallies :: .images :: .sec :: .assign :: .weirCfg ::
  .stalled :: stopParts

namespace Frame
variable {F G : List Part} {s t u : State} {p : Page}

/-- Time passes. -/
theorem timeTo {n : Nat} (h : s.now ≤ n) : Frame [.now] s { s with now := n } where
  same := by intro k hk; cases k <;> simp at hk <;> rfl
  now := h
  mem hi := hi
  queue hi := hi

theorem weirCfg {x : SMap Int} {y : SMap Nat} {z : SMap Bool} :
    Frame [.weirs, .weirCfg] s { s with parts := { s.parts with tokens := x, budget := y, weirEn := z } } := of_same
theorem disabling {x : List Nat} : Frame [.assign] s { s with parts := { s.parts with disabling := x } } := of_same

/-! ### Scrubs and the arbiter -/

theorem scrubSwitch {a : Nat} : Frame [.regs, .arrays] s (s.scrubSwitch a) :=
  (refl.step modArr).trans (foldl fun _ _ => ite wr.mono refl)

theorem countScrub {a n : Nat} : Frame [.regs, .free] s (s.countScrub a n) :=
  (refl.step takeFree).step count

theorem scrubArray {a : Nat} : Frame scrubParts s (s.scrubArray a) :=
  ((((refl.step wake).step zero).step scrubSwitch).step modArr).step countScrub

theorem memberGate {a c : Nat} : Frame [.regs, .tallies, .waiters, .arrays, .dmas] s (s.memberGate a c).1 := by
  unfold State.memberGate
  extract_lets d m
  split
  · exact refl
  split
  next s1 go e1 =>
  have h1 : Frame [.regs, .tallies, .waiters, .arrays, .dmas] s s1 := waitGate.of_fst e1
  split
  · exact h1
  split
  · split
    · exact h1
    split
    · exact h1
    · exact h1.trans beginWait
  · exact h1

theorem goes_arbiterChoice {a : Nat} : Goes [.regs, .free, .tallies, .waiters, .arrays, .dmas] s (exec (.arbiterChoice a) s) := by
  refine goes ?_
  split
  · refine ite refl ?_
    extract_lets running
    split
    next s1 open_ e1 =>
    have h1 : Frame [.regs, .free, .tallies, .waiters, .arrays, .dmas] s s1 := by
      refine of_fst (foldl_fst refl fun y c => ?_) e1
      exact memberGate.mono
    split
    · exact h1
    extract_lets s2
    have h2 : Frame [.regs, .free, .tallies, .waiters, .arrays, .dmas] s s2 := h1.step modArr
    clear_value s2
    split
    · exact ite h2 (((h2.step scrubSwitch).step count).step countScrub)
    · exact h2
  · exact refl

theorem goes_epochBoundary : Goes [.now, .arrays] s (exec .epochBoundary s) := by
  have h0 : Frame [.now] s { s with now := (s.now / 1000000 + 1) * 1000000 } := timeTo (by omega)
  refine goes (h0.mono.trans (foldl fun u a => ?_))
  split
  · exact modArr.mono
  · exact refl

theorem countHeld : Frame [.regs, .weirs] s s.countHeld := by
  unfold State.countHeld
  extract_lets s1 ps s2
  have h2 : Frame [.regs, .weirs] s s2 := (foldl fun _ _ => count.mono).trans (foldl fun _ _ => countSat32.mono)
  exact h2.step held

theorem goes_weirWindowStart : Goes [.now, .regs, .out, .outbound, .weirs, .weirCfg] s (exec .weirWindowStart s) := by
  have h0 : Frame [.now] s { s with now := (s.now / 1000 + 1) * 1000 } := timeTo (by omega)
  exact goes (((h0.mono.step countHeld).trans (foldl fun _ _ => weirCfg.mono)).step releaseTlps)

/-! ### Assignment -/

theorem setAssign {a : Nat} {x : Assign} : Frame [.assign] s (s.setAssign a x) := assign

theorem dropMember {a q : Nat} : Frame (.assign :: scrubParts) s (s.dropMember a q) := by
  unfold State.dropMember
  split
  · exact (refl.step modArr).trans (ite ((refl.step scrubArray).step setAssign) setAssign.mono)
  · exact refl

theorem assignDo {op a q : Nat} : Frame (.assign :: scrubParts) s (s.assignDo op a q) := by
  unfold State.assignDo
  split
  · exact (refl.step scrubArray).step setAssign
  · exact setAssign.mono
  · exact (refl.step modArr).step setAssign
  · exact dropMember

theorem assignCmd {w : Nat} : Frame (.assign :: scrubParts) s (s.assignCmd w) := by
  refine ite errCount.mono ((((refl.step wr).step wr).step wr).trans (ite refl ((refl.step wr).trans (ite errCount.mono (ite ?_ assignDo)))))
  exact (refl.step wake).trans (ite assignDo wr.mono)

theorem assignResume {d : Nat} : Frame (.assign :: scrubParts) s (s.assignResume d) := ite (assignDo.step wr) refl

/-! ### Enabling and disabling -/

theorem disablePart {q : Nat} : Frame (.assign :: stopParts) s (s.disablePart q) :=
  ite refl ((refl.step disabling).trans (foldl fun _ _ => stopReq.mono))

theorem debugOpens : Frame (.sec :: eventParts) s s.debugOpens := by
  unfold State.debugOpens
  split
  · exact refl
  · exact ite refl ((refl.step sec).step irq)

theorem resetPart {q : Nat} : Frame [.regs, .arrays, .weirs, .weirCfg] s (s.resetPart q) := by
  unfold State.resetPart
  extract_lets s1 s2 s3
  have h1 : Frame [.regs, .arrays, .weirs, .weirCfg] s s1 :=
    foldl fun _ _ => (((refl.step wr).step wr).step wr).step wr
  have h2 : Frame [.regs, .arrays, .weirs, .weirCfg] s s2 := h1.trans (foldl fun _ _ => (refl.step wr).step modArr)
  have h3 : Frame [.regs, .arrays, .weirs, .weirCfg] s s3 := h2.step wr
  have hweirs {t : State} {x : SMap Int} {y : SMap Nat} {z : SMap Bool} {l : List (Nat × Nat)} : Frame [.weirs, .weirCfg] t
      { t with parts := { t.parts with tokens := x, budget := y, weirEn := z, held := l } } := of_same
  exact h3.step hweirs

theorem goes_partitionTeardown {q : Nat} : Goes partParts s (exec (.partitionTeardown q) s) := by
  refine goes (ite refl ?_)
  split
  next t on e0 =>
  have h0 : Frame partParts s t := (foldl fun _ _ => stopReq.mono : Frame partParts s _).step (wakeAll.of_fst e0)
  refine ite h0 ?_
  extract_lets s1 mine frames s2 s3 s4 s5 s6 s7
  have h2 : Frame partParts s s2 := (h0.trans (foldl fun _ _ => unload.mono)).trans (foldl fun _ _ => ottFree.mono)
  have h4 : Frame partParts s s4 :=
    (h2.trans (foldl fun _ _ => ottFree.mono)).trans (foldl fun _ _ => (setTally fun _ => Nat.zero_le _).mono)
  have h6 : Frame partParts s s6 := (h4.trans (foldl fun _ _ => zeroFrame.mono)).trans (foldl fun u a => by
    split
    · exact (refl.step scrubArray).step setAssign
    · exact dropMember.mono)
  have h7 : Frame partParts s s7 := (h6.step resetPart).step wr
  exact (h7.step disabling).step debugOpens

/-! ### The PART page -/

theorem writeQuota {q n : Nat} : Frame (.ott :: .tierRest :: eventParts) s (s.writeQuota q n) :=
  ite ((refl.step wr).step cutQuota) errCount.mono

theorem writePartEn {q : Nat} {b : Bool} : Frame (.assign :: stopParts) s (s.writePartEn q b) :=
  ite (ite errCount.mono wr.mono) disablePart

theorem partWrite {v : View} {o w : Nat} : Frame partParts s (s.partWrite v o w) := by
  unfold State.partWrite
  extract_lets p
  split
  · exact ite ((refl.step wr).trans (ite errCount.mono refl)) (ite errCount.mono refl)
  · exact ite assignCmd.mono (ite ((refl.step writePartEn).step writeQuota) wrFields.mono)

theorem partReg {v : View} {o w : Nat} : Frame partParts s (s.partReg v o w) := viaBus fun _ _ _ _ => partWrite

end Frame
end Sys2Proof.Machine
end

section
/-! Footprints of SEC: random numbers, the SEC page's commands, SPDM and IDE keys (R335 to R360). -/

namespace Sys2Proof.Machine

-- one proof after another: in parallel they wait for each other in too many threads
set_option Elab.async false

/-- What a command of the SEC page may touch (R359, R360). -/
abbrev secParts : List Part := .mem :: .sec :: .doms :: .drop :: .assign :: .stalled :: .free :: .upsets :: .ott :: .tierRest :: stopParts

/-- What an SPDM request may touch (R323, R352). -/
abbrev spdmParts : List Part := .sec :: .free :: wakeParts

namespace Frame
variable {F G : List Part} {s t u : State} {p : Page}

/-! ### Random numbers -/

theorem reseed : Frame [.regs, .free, .sec] s s.reseed := ((refl.step takeFree).step sec).step count

theorem drbgTake : Frame [.regs, .free, .sec] s s.drbgTake.2 :=
  (ite reseed refl : Frame [.regs, .free, .sec] s (if 2 ^ 20 ≤ s.sec.generates then s.reseed else s)).step sec

theorem trngRead {v : View} : Frame [.regs, .free, .sec] s (s.trngRead v).2 := by
  unfold State.trngRead
  split
  · exact drbgTake.step sec
  · exact sec.mono

theorem goes_healthFail : Goes eventParts s (exec .healthFail s) :=
  (ite refl ((((refl.step wr).step wr).step errCount).step irq) : Frame eventParts s _).goes

theorem goes_drbgReseed : Goes [.regs, .free, .sec] s (exec .drbgReseed s) := (ite reseed refl : Frame [.regs, .free, .sec] s _).goes

/-! ### The SEC page's commands -/

theorem ownerProg {b : List Byte} : Frame [.sec] s (s.ownerProg b).2 := by
  unfold State.ownerProg
  dsimp only
  split
  · exact refl
  split
  · exact refl
  split
  · exact refl
  · exact sec

theorem lcAdvance {b : List Byte} : Frame [.sec] s (s.lcAdvance b).2 := by
  unfold State.lcAdvance
  split
  · split
    · exact refl
    split
    · exact refl
    · exact sec
  · split
    · exact refl
    split
    · exact refl
    · dsimp only
      split
      · exact sec
      · exact sec
  · exact refl

theorem rollbackAdv {b : List Byte} : Frame [.sec] s (s.rollbackAdv b).2 := by
  unfold State.rollbackAdv
  dsimp only
  split
  · exact refl
  split
  · exact refl
  · exact sec

theorem dbgChallenge {a : Nat} {b : List Byte} : Frame [.mem, .regs, .free, .sec, .tierRest, .arrays] s (s.dbgChallenge a b).2 := by
  unfold State.dbgChallenge
  split
  · exact refl
  split
  · exact refl
  · exact ((refl.step drbgTake).step sec).step dstore

theorem dbgResponse {b : List Byte} : Frame (.sec :: .assign :: stopParts) s (s.dbgResponse b).2 := by
  unfold State.dbgResponse
  split
  · exact refl
  next c _ =>
  extract_lets s0 s1 pub scope s2 x y s3
  have h1 : Frame (.sec :: .assign :: stopParts) s s1 := sec.mono
  have h2 : Frame (.sec :: .assign :: stopParts) s s2 := h1.trans (foldl fun _ _ => disablePart.mono)
  clear_value s2
  have h3 : Frame (.sec :: .assign :: stopParts) s s3 := (h1.step sec).step errCount
  split
  · split
    · dsimp only
      exact (h2.step sec).step debugOpens
    · exact h1.step sec
  · change Frame _ s (if 8 ≤ s3.sec.dbgFails then _ else _)
    exact h3.trans (ite wr.mono refl)

theorem wellRekey : Frame [.regs, .free, .sec] s s.wellRekey.2 := by
  unfold State.wellRekey
  split
  · exact refl
  · exact (drbgTake.step sec).step wr

theorem runSecCmd : Frame secParts s s.runSecCmd := by
  unfold State.runSecCmd
  extract_lets addr
  split
  next s0 b e0 =>
  have h0 : Frame secParts s s0 := (meetData.of_fst e0).mono
  split
  next st s1 e1 =>
  have h1 : Frame secParts s s1 := by
    refine of_snd ?_ e1
    split
    · exact h0.step ownerProg
    · exact h0.step lcAdvance
    · exact h0.step rollbackAdv
    · exact h0.step dbgChallenge
    · exact h0.step dbgResponse
    · exact h0.step wellRekey
    · exact h0
  extract_lets s2
  have h2 : Frame secParts s s2 := ((h1.step wr).step wr).step irq
  exact ite h2 (h2.step errCount)

theorem secCmd {w : Nat} {o : Option Nat} : Frame secParts s (s.secCmd w o) := by
  unfold State.secCmd
  refine ite (ite errCount.mono refl) ?_
  extract_lets s1
  have h1 : Frame secParts s s1 := wr.mono
  refine ite h1 ?_
  extract_lets addr
  split
  next s2 on e2 =>
  have h2 : Frame secParts s s2 := h1.step (wakeAll.of_fst e2)
  have hwait : Frame secParts s ((s2.wr .sec 0 Reg.Sec.CMD_GO 1).wr .sec 0 Reg.Sec.CMD_STATUS 1) := (h2.step wr).step wr
  refine ite h2 ?_
  split
  · exact ite h1 (ite hwait (h2.trans runSecCmd))
  · exact ite hwait (h2.trans runSecCmd)

theorem secNamed {v : View} {w c : Nat} : Frame secParts s (s.secNamed v w c) := viaBus fun _ _ _ _ => secCmd

theorem goes_trngSeeded : Goes secParts s (exec .trngSeeded s) := by
  refine goes (ite refl ?_)
  split
  next v s1 e1 =>
  have h1 : Frame secParts s s1 := (takeFree.of_snd e1).mono
  extract_lets x s2
  have h2 : Frame secParts s s2 := (h1.step sec).step wr
  exact ite (h2.trans runSecCmd) h2

/-! ### SPDM and IDE -/

theorem spdm {b : Bool} {go : State → State} (h : ∀ t, Frame spdmParts t (go t)) : Frame spdmParts s (s.spdm b go) := by
  unfold State.spdm
  split
  next s1 on e1 =>
  have h1 : Frame spdmParts s s1 := (wakeAll.of_fst e1).mono
  exact ite h1 (ite (h1.trans (h s1)) (h1.step emit))

theorem setSpdm {x : SpdmS} : Frame [.sec] s (s.setSpdm x) := sec
theorem setIde {k : Nat} {x : IdeS} : Frame [.sec] s (s.setIde k x) := sec
theorem signed {f : List Byte → Out} : Frame [.free, .out] s (s.signed f) := (refl.step free).step emit

theorem goes_getMeasurements {i : Nat} {b : Bool} {n : List Byte} : Goes spdmParts s (exec (.getMeasurements i b n) s) :=
  goes (spdm fun _ => ite emit.mono (ite signed.mono emit.mono))

theorem goes_finish {l : List Byte} : Goes spdmParts s (exec (.finish l) s) :=
  goes (spdm fun _ => ite ((refl.step setSpdm).step emit) ((refl.step setSpdm).step emit))

/-- A request that sets the session and answers. -/
theorem spdm_answers {b : Bool} {x : State → SpdmS} {o : State → Out} :
    Frame spdmParts s (s.spdm b fun t => (t.setSpdm (x t)).emit (o t)) := spdm fun _ => (refl.step setSpdm).step emit

theorem goes_ideKm {m : IdeKm} : Goes spdmParts s (exec (.ideKm m) s) :=
  goes (spdm fun t => by
    cases m with
    | keyProg st key rids => exact (refl.step setIde).step emit
    | kSetGo st =>
      dsimp only
      split
      · exact emit.mono
      · exact (refl.step setIde).step emit)

theorem goes_ideIntegrityFailure {k : Nat} : Goes (.sec :: eventParts) s (exec (.ideIntegrityFailure k) s) :=
  goes (((refl.step setIde).step errCount).step irq)

end Frame
end Sys2Proof.Machine
end

section
/-! Footprints of the acoustic path: samples, blocks, streams, detectors, mute and the audio outputs (R284 to R308). -/

namespace Sys2Proof.Machine

-- one proof after another: in parallel they wait for each other in too many threads
set_option Elab.async false

/-- What the close of a block may touch (R288 to R303). -/
abbrev blockParts : List Part := .openMix :: .audioRest :: eventParts

/-- What a delivery or a write of the AUDIO page may touch. -/
abbrev audioParts : List Part := .mem :: .audioRest :: .doms :: .drop :: .stalled :: .free :: .upsets :: .ott :: .tierRest :: signalParts

namespace Frame
variable {F G : List Part} {s t u : State} {p : Page}

theorem setAudio {x : AudioS} (h : x.openMix = s.audio.openMix := by rfl) : Frame [.audioRest] s (s.setAudio x) where
  same k hk := by
    cases k
    case openMix => exact h
    case audioRest => simp at hk
    all_goals rfl
  now := le_rfl
  mem := id
  queue hi := by
    obtain ⟨hledger, hlifts, hsluice, hibi, huart, hmix, htal⟩ := hi
    exact ⟨hledger, hlifts, hsluice, hibi, huart, (congrArg List.length h).trans_le hmix, htal⟩

theorem setMix {x : AudioS} (h : QueueInv s → x.openMix.length ≤ 256) : Frame [.openMix, .audioRest] s (s.setAudio x) :=
  of_queue fun hi => by
    obtain ⟨hledger, hlifts, hsluice, hibi, huart, -, htal⟩ := id hi
    exact ⟨hledger, hlifts, hsluice, hibi, huart, h hi, htal⟩

/-! ### Samples -/

theorem resumeDue : Frame (.audioRest :: eventParts) s s.resumeDue := foldl fun u c => by
  extract_lets ch
  split
  · exact ite (((refl.step setAudio).step wr).step irq) refl
  · exact refl

theorem goes_pcmSample {l : List (List Bool)} : Goes blockParts s (exec (.pcmSample l) s) := by
  refine goes ?_
  split
  · exact refl
  next hroom =>
  extract_lets s0 x hqOn hqEn r word live mix under x1 s1
  have h0 : Frame (.audioRest :: eventParts) s s0 := resumeDue
  have hmix : x.openMix = s.audio.openMix := h0.same .openMix (by decide)
  have hlen : x1.openMix.length ≤ 256 := by
    show (x.openMix ++ [(mix, x.muted)]).length ≤ 256
    rw [hmix, List.length_append, List.length_singleton]
    omega
  have h1 : Frame blockParts s s1 := (h0.mono.step (setMix fun _ => hlen)).step errCount
  exact ite (h1.step wr) h1

theorem goes_channelUnderrun {c : Nat} : Goes (.audioRest :: eventParts) s (exec (.channelUnderrun c) s) := by
  refine goes (ite refl ?_)
  extract_lets ch x s1
  have h1 : Frame (.audioRest :: eventParts) s s1 := refl.step setAudio
  exact ite h1 ((h1.step wr).step irq)

theorem goes_channelResume {c : Nat} : Goes [.audioRest] s (exec (.channelResume c) s) := goes (ite refl (ite setAudio refl))

/-! ### Calibration and detectors -/

theorem calBad : Frame eventParts s s.calBad := (refl.step wr).step irq

theorem calCheck : Frame audioParts s s.calCheck := by
  unfold State.calCheck
  extract_lets addr
  refine ite calBad.mono ?_
  split
  next s1 on e1 =>
  have h1 : Frame audioParts s s1 := (wakeAll.of_fst e1).mono
  split
  · exact ite (h1.step calBad) (h1.step stalled)
  · split
    next s2 b e2 =>
    have h2 : Frame audioParts s s2 := h1.step (meetData.of_fst e2)
    split
    · exact h2.step setAudio
    · exact h2.step calBad

theorem calFromOtp : Frame (.audioRest :: eventParts) s s.calFromOtp := by
  unfold State.calFromOtp
  extract_lets b x s1
  split
  · exact (refl.step setAudio).step wr
  · have h1 : Frame (.audioRest :: eventParts) s s1 := (refl.step setAudio).step wr
    exact ite h1 (h1.step calBad)

theorem fireEvent {e : Nat} : Frame (.audioRest :: .raises :: eventParts) s (s.fireEvent e) := by
  refine ite refl ?_
  extract_lets x s0 i s1 s2
  have h0 : Frame (.audioRest :: .raises :: eventParts) s s0 := refl.step setAudio
  exact ite h0 ((((h0.step wr).step wr2).step irq).step raiseEvent)

/-! ### Streams -/

theorem setStream {k : Nat} {x : StreamS} : Frame [.audioRest] s (s.setStream k x) := setAudio

theorem streamStart {k : Nat} : Frame (.audioRest :: wakeParts) s (s.streamStart k).1 := by
  unfold State.streamStart
  extract_lets a hq back nbuf span o0 o n s1 s2 s3
  split
  · exact (refl.step wr).step errCount
  · have h3 : Frame (.audioRest :: wakeParts) s s3 := ((((refl.step wr).step wr).step wr).step wr).step setStream
    exact ite (h3.step wake) h3

theorem streamEnd {k : Nat} : Frame (.audioRest :: eventParts) s (s.streamEnd k) :=
  (((refl.step wr).step wr).step wr).step setStream

theorem streamStop {k : Nat} : Frame (.audioRest :: eventParts) s (s.streamStop k) := ite refl (ite streamEnd setStream.mono)

theorem streamBlock {k : Nat} {b : Blk} : Frame [.audioRest] s (s.streamBlock k b) := by
  refine ite refl (ite ?_ setStream)
  split
  · exact refl
  · exact ite refl setStream

theorem goes_audioBlockDelivery {k : Nat} : Goes audioParts s (exec (.audioBlockDelivery k) s) := by
  refine goes (ite refl ?_)
  split
  · exact refl
  next b x lost _ =>
  extract_lets a nbuf n slot recs
  split
  next s0 on e0 =>
  have h0 : Frame audioParts s s0 := (wakeAll.of_fst e0).mono
  refine ite h0 ?_
  split
  next s1 bad e1 =>
  have h1 : Frame audioParts s s1 := by
    refine of_fst ?_ e1
    split
    · split
      · exact h0
      · exact h0.step meetCell
    · exact h0
  extract_lets clean
  split
  next d s2 e2 =>
  have h2 : Frame audioParts s s2 := by
    refine of_snd ?_ e2
    split
    · exact h1.step free
    · exact h1
  extract_lets hdr s3 s4 s5 s6 s7
  have h3 : Frame audioParts s s3 := ((h2.step dstore).step dstore).step dstore
  have h4 : Frame audioParts s s4 := h3.trans (ite errCount.mono refl)
  have h6 : Frame audioParts s s6 := ((h4.step wr).step wr).step setStream
  have h7 : Frame audioParts s s7 := h6.trans (ite signalTally.mono refl)
  exact ite (h7.step streamEnd) h7

/-! ### Block close -/

theorem compareCopies {r : CopyResult} : Frame (.audioRest :: eventParts) s (s.compareCopies r) := by
  refine ite refl ?_
  extract_lets keep out
  have hout {u : State} {k : Nat} {l : List Nat} (h : Frame (.audioRest :: eventParts) s u) :
      Frame (.audioRest :: eventParts) s (out u k l) :=
    h.trans (ite (((refl.step setAudio).step wr).step irq) refl)
  cases r with
  | agree => exact refl
  | copy0Loses => exact hout ((refl.step setAudio).step errCount)
  | copy1Loses => exact hout ((refl.step setAudio).step errCount)

theorem closeSump : Frame (.audioRest :: eventParts) s s.closeSump := by
  unfold State.closeSump
  extract_lets x hdr slot s1 s2
  have h2 : Frame (.audioRest :: eventParts) s s2 := (refl.step setAudio).trans (foldl fun _ _ => (refl.step wr).step wr)
  exact h2.trans (foldl fun _ _ => streamBlock.mono)

theorem closeDetect : Frame [.audioRest] s s.closeDetect := setAudio

theorem boundaryClock {b : Bool} : Frame (.audioRest :: eventParts) s (s.boundaryClock b) := by
  unfold State.boundaryClock
  extract_lets x n en splice s1
  have hsplice {y : AudioS} (h : y.openMix = s.audio.openMix) : Frame (.audioRest :: eventParts) s (splice s y) := by
    unfold splice
    extract_lets m
    exact ((refl.step (setAudio (x := { y with splice := some m }) h)).step wr2).step wr
  refine ite ?_ (ite (hsplice rfl) ?_)
  · have h1 : Frame (.audioRest :: eventParts) s s1 := (refl.step setAudio).step wr
    exact h1.trans (foldl fun _ _ => ite (ite streamEnd setStream.mono) refl)
  · split
    · exact ite (hsplice rfl) refl
    · exact refl

theorem goes_blockClose {r : CopyResult} : Goes blockParts s (exec (.blockClose r) s) := by
  refine goes (ite refl ?_)
  extract_lets s1 x left req
  have h1 : Frame blockParts s s1 := ((refl.step compareCopies).step closeDetect).step closeSump
  split
  extract_lets x1 s2
  have h2 : Frame blockParts s s2 := (((h1.step (setMix fun _ => Nat.zero_le _)).step wr).step wr).step boundaryClock
  exact ite ((h2.step wr).step irq) h2

/-! ### Mute, the AUDIO page and the audio outputs -/

theorem goes_muteAssert : Goes (.audioRest :: eventParts) s (exec .muteAssert s) := by
  refine goes ?_
  extract_lets was y x x1 s1
  have hmix : x1.openMix = s.audio.openMix := by
    unfold x1
    split <;> rfl
  have h1 : Frame (.audioRest :: eventParts) s s1 := (refl.step (setAudio hmix)).trans (foldl fun _ _ => (refl.step wr).step wr)
  exact ite h1 ((h1.step wr).step irq)

theorem goes_muteRelease : Goes [.audioRest] s (exec .muteRelease s) := goes (ite refl setAudio)

theorem hqOn : Frame (.audioRest :: wakeParts) s s.hqOn := ite (refl.step setAudio) wake.mono

theorem audioWrite {o w : Nat} : Frame audioParts s (s.audioWrite o w) := by
  unfold State.audioWrite
  extract_lets a plain was s1 x y st s2
  have hp : Frame audioParts s plain := wrFields.mono
  have h2 : Frame audioParts s s2 := wrFields.mono
  exact ite (ite (hp.step hqOn) (ite (hp.step setAudio) hp))
    (ite (ite (hp.trans calCheck) hp) (ite (ite wr.mono (hp.step setAudio))
      (ite (ite (ite streamStop.mono refl) (ite (ite (h2.step streamStart) h2) hp)) hp)))

theorem audioReg {v : View} {o w : Nat} : Frame audioParts s (s.audioReg v o w) := viaBus fun _ _ _ _ => audioWrite

theorem aoutWrite {o w : Nat} : Frame (.audioRest :: eventParts) s (s.aoutWrite o w) := by
  unfold State.aoutWrite
  extract_lets a k rel s1
  have h1 : Frame (.audioRest :: eventParts) s s1 := wrFields.mono
  exact ite refl (ite (ite wr.mono (ite wrFields.mono refl))
    (ite (ite h1 (ite ((h1.step wr).step aoutCount) (h1.step errCount))) wrFields.mono))

theorem goes_aoutEnable {v : View} {k : Nat} {w : Word} : Goes audioParts s (exec (.aoutEnable v k w) s) :=
  goes (ite refl (viaBus fun _ _ _ _ => aoutWrite.mono))

theorem goes_aoutFrame {k : Nat} : Goes audioParts s (exec (.aoutFrame k) s) := by
  refine goes ?_
  extract_lets a wide n rd counted sz addr
  refine ite refl ?_
  have hcounted {u : State} (h : Frame audioParts s u) : Frame audioParts s (counted u) := h.step setAudio
  refine ite (hcounted ((refl.step count).step emit)) ?_
  split
  next s0 on e0 =>
  have h0 : Frame audioParts s s0 := (wakeAll.of_fst e0).mono
  refine ite h0 ?_
  split
  next s1 b e1 =>
  have h1 : Frame audioParts s s1 := h0.step (meetData.of_fst e1)
  exact hcounted ((h1.step wr).step emit)

theorem goes_aoutPeriodSignal {k : Nat} : Goes (.audioRest :: signalParts) s (exec (.aoutPeriodSignal k) s) := by
  refine goes ?_
  extract_lets a per n x s1
  refine ite refl ?_
  have h1 : Frame (.audioRest :: signalParts) s s1 := refl.step setAudio
  exact ite (h1.step signalTally) h1

end Frame
end Sys2Proof.Machine
end

section
/-! Footprints of the cameras: receivers, contexts, groups and the pipelines' work items (R254 to R283). -/

namespace Sys2Proof.Machine

-- one proof after another: in parallel they wait for each other in too many threads
set_option Elab.async false

/-- What a delivery of a frame may touch (R273). -/
abbrev frameParts : List Part := .mem :: .cams :: .tierRest :: .sealRest :: .portsRest :: .doms :: .drop :: signalParts

namespace Frame
variable {F G : List Part} {s t u : State} {p : Page}

theorem setCams {x : CamerasS} : Frame [.cams] s (s.setCams x) := cams
theorem setCam {c : Nat} {x : CamS} : Frame [.cams] s (s.setCam c x) := cams
theorem setGroup {g : Nat} {x : GroupS} : Frame [.cams] s (s.setGroup g x) := cams

/-! ### Starts and stops of contexts -/

theorem groupCheck {c : Nat} : Frame [.cams] s (s.groupCheck c) := foldl fun u g => by
  extract_lets all x
  exact ite setGroup (ite setGroup refl)

theorem ctxStart {c : Nat} : Frame (.cams :: eventParts) s (s.ctxStart c).1 := by
  have ht : Frame (.cams :: eventParts) s ((s.wr (.ctx c) 0 Reg.Ctx.LOAD (s.ctxLoad c)).wr (.ctx c) 0 Reg.Ctx.NEED (s.ctxNeed c)) :=
    (refl.step wr).step wr
  rw [State.ctxStart]
  generalize (s.wr (.ctx c) 0 Reg.Ctx.LOAD (s.ctxLoad c)).wr (.ctx c) 0 Reg.Ctx.NEED (s.ctxNeed c) = t at ht ⊢
  generalize t.ctxRefusal c = e
  cases e with
  | zero => exact ((ht.step setCam).step setSt).step groupCheck
  | succ e => exact (ht.step wr).step errCount

theorem ctxStopped {c : Nat} : Frame (.cams :: stopParts) s (s.ctxStopped c) := by
  unfold State.ctxStopped
  extract_lets x s1 p
  have h1 : Frame (.cams :: stopParts) s s1 := (refl.step setCam).step groupCheck
  exact ite (h1.step enterStopped) h1

/-! ### Receivers -/

theorem header {port vc : Nat} {h : HdrErr} : Frame eventParts s (s.header port vc h).1 := by
  unfold State.header
  extract_lets p s1
  have h1 : Frame eventParts s s1 := by
    cases h with
    | clean => exact refl
    | corrected => exact errCount
    | uncorrectable => exact errCount
  clear_value s1
  split
  · exact refl
  split
  · exact h1
  split
  · exact h1.step errCount
  · exact h1

theorem ctxLine {c : Nat} {b : Bool} {l : List Nat} : Frame (.cams :: eventParts) s (s.ctxLine c b l) := by
  unfold State.ctxLine
  extract_lets x y s1
  split
  · exact refl
  refine ite refl ?_
  extract_lets f1
  have h1 : Frame (.cams :: eventParts) s s1 := setCams.mono
  refine ite (h1.step setCam) (ite ((h1.step setCam).step errCount) ?_)
  split
  exact h1.step setCam

theorem ctxEmbed {c : Nat} {b : Bool} {l : List Byte} : Frame [.cams] s (s.ctxEmbed c b l) := by
  unfold State.ctxEmbed
  extract_lets x
  split
  · exact refl
  · exact ite refl setCam

theorem binLine {b : Bool} {l : List Nat} : Frame [.cams] s (s.binLine b l) := by
  unfold State.binLine
  split
  · exact refl
  · exact setCams

theorem goes_longPacket {x : LongPkt} : Goes (.cams :: eventParts) s (exec (.longPacket x) s) := by
  refine goes ?_
  split
  next s1 go e1 =>
  have h1 : Frame (.cams :: eventParts) s s1 := (header.of_fst e1).mono
  refine ite h1 (ite (h1.step errCount) ?_)
  extract_lets s2 ctxs l s3
  have h2 : Frame (.cams :: eventParts) s s2 := h1.trans (ite refl count.mono)
  have h3 : Frame (.cams :: eventParts) s s3 := h2.trans (foldl fun _ _ => ctxLine)
  exact ite (h2.trans (foldl fun _ _ => ctxEmbed.mono)) (ite (h3.step binLine) h3)

theorem goes_deskewReceived {port : Nat} : Goes [.cams] s (exec (.deskewReceived port) s) := goes (ite setCams refl)

/-! ### Records, groups and frames -/

theorem nextFrameNum {c k : Nat} : Frame [.regs] s (s.nextFrameNum c k) := (refl.step wr).step wr

theorem putRecord {c k fl fs fe n crc b : Nat} {d e : List Byte} :
    Frame (.mem :: .tierRest :: .arrays :: eventParts) s (s.putRecord c k fl fs fe n crc b d e) := by
  unfold State.putRecord
  extract_lets p s1 num ep len i s2 s3
  have h1 : Frame (.mem :: .tierRest :: .arrays :: eventParts) s s1 := nextFrameNum.mono
  have h2 : Frame (.mem :: .tierRest :: .arrays :: eventParts) s s2 := (h1.step dstore).step dstore
  have h3 : Frame (.mem :: .tierRest :: .arrays :: eventParts) s s3 := h2.trans (ite refl dstore.mono)
  exact ite (h1.step errCount) (h3.step wr)

theorem ctxSignal {c : Nat} : Frame signalParts s (s.ctxSignal c) := ite signalTally refl

theorem groupWrote {g c k : Nat} : Frame (.cams :: signalParts) s (s.groupWrote g c k) := by
  unfold State.groupWrote
  extract_lets x s1
  split
  · exact refl
  extract_lets left
  have h1 : Frame (.cams :: signalParts) s s1 := setGroup.mono
  exact ite (ite (h1.step signalTally) h1) setGroup.mono

theorem groupAdvance {g : Nat} : Frame [.cams] s (s.groupAdvance g) := by
  unfold State.groupAdvance
  extract_lets x members
  split
  · exact refl
  · exact ite setGroup refl

theorem groupPlace {g c : Nat} : Frame [.cams] s (s.groupPlace g c).1 := by
  unfold State.groupPlace
  extract_lets x members tol inside w x1
  split
  · exact refl
  · exact (refl.step setGroup).step groupAdvance

theorem ctxFs {c : Nat} : Frame [.regs, .cams] s (s.ctxFs c) := by
  unfold State.ctxFs
  extract_lets p y s1 x frame z s2 on
  have h1 : Frame [.regs, .cams] s s1 := ite ((refl.step setCam).step wr) refl
  have h2 : Frame [.regs, .cams] s s2 := h1.step setCams
  clear_value s1 s2
  refine ite refl ?_
  split
  · split
    · next s3 k e3 => exact (h2.step (groupPlace.of_fst e3)).step setCam
    · next s3 e3 => exact ((h2.step (groupPlace.of_fst e3)).step count).step setCam
  · exact h2.step setCam

theorem ctxFe {c : Nat} : Frame [.cams] s (s.ctxFe c) := by
  unfold State.ctxFe
  extract_lets x
  split
  · exact setCam
  · exact ite setCam setCam

theorem binFe : Frame frameParts s s.binFe := by
  unfold State.binFe
  split
  · exact refl
  extract_lets p w h black lines out addr flags s1 x s2
  have h2 : Frame frameParts s s2 := ((((refl.step wake).step dstore).step dstore).step wr).step setCams
  exact ite (h2.step signalTally) h2

theorem channelFe {port vc : Nat} : Frame frameParts s (s.channelFe port vc) := by
  unfold State.channelFe
  extract_lets s1 x s2
  have h2 : Frame frameParts s s2 := (foldl fun _ _ => ctxFe.mono : Frame frameParts s s1).step setCams
  exact ite (h2.step binFe) h2

theorem goes_frameStart {port vc : Nat} {h : HdrErr} : Goes frameParts s (exec (.frameStart port vc h) s) := by
  refine goes ?_
  split
  next s1 go e1 =>
  have h1 : Frame frameParts s s1 := (header.of_fst e1).mono
  refine ite h1 ?_
  extract_lets key s2 x s3 s4
  have h2 : Frame frameParts s s2 := h1.trans (ite ((refl.step errCount).step channelFe) refl)
  have h4 : Frame frameParts s s4 := (h2.step setCams).trans (foldl fun _ _ => ctxFs.mono)
  exact ite (h4.step setCams) h4

theorem goes_frameEnd {port vc : Nat} {h : HdrErr} : Goes frameParts s (exec (.frameEnd port vc h) s) := by
  refine goes ?_
  split
  next s1 go e1 =>
  have h1 : Frame frameParts s s1 := (header.of_fst e1).mono
  exact ite h1 (ite (h1.step channelFe) (h1.step errCount))

theorem goes_deadlineSkip {c : Nat} : Goes (.now :: frameParts) s (exec (.deadlineSkip c) s) := by
  refine goes ?_
  extract_lets p d
  refine ite refl ?_
  split
  · exact refl
  extract_lets at_ s1 y s2
  have h1 : Frame [.now] s s1 := timeTo (le_max_left _ _)
  have h2 : Frame (.now :: frameParts) s s2 := h1.mono.step setCam
  exact (h2.step putRecord).step ctxSignal

theorem goes_groupAbsent {g c : Nat} : Goes (.now :: frameParts) s (exec (.groupAbsent g c) s) := by
  refine goes ?_
  extract_lets x members w
  split
  · exact refl
  refine ite refl ?_
  extract_lets at_ s1 y s2 s3
  have h1 : Frame [.now] s s1 := timeTo (le_max_left _ _)
  have h2 : Frame (.now :: frameParts) s s2 := (h1.mono.step setGroup).step setCam
  have h3 : Frame (.now :: frameParts) s s3 := (h2.step putRecord).step ctxSignal
  exact (h3.step groupWrote).step groupAdvance

/-! ### Work items -/

theorem doStripe {c : Nat} : Frame frameParts s (s.doStripe c) := by
  unfold State.doStripe
  extract_lets x buf
  split
  · exact refl
  extract_lets lines y0 y1 seen clean yuv planes rows s1 f1 s2
  have h1 : Frame frameParts s s1 := foldl fun _ _ => dstore.mono
  have h2 : Frame frameParts s s2 := h1.step setCam
  exact ite (h2.step ctxSignal) h2

theorem frameDone {c : Nat} : Frame frameParts s (s.frameDone c) := by
  unfold State.frameDone
  extract_lets x buf
  split
  · exact refl
  extract_lets flags s1 s2
  have h2 : Frame frameParts s s2 := ((refl.step setCam).step putRecord).step ctxSignal
  clear_value s2
  split
  · exact h2.step groupWrote
  · exact h2

theorem doStripes {c n : Nat} : Frame frameParts s (s.doStripes c n) := by
  induction n generalizing s with
  | zero => exact refl
  | succ n ih => exact doStripe.trans ih

theorem takeItem {q c : Nat} : Frame [.regs, .cams] s (s.takeItem q c) := by
  unfold State.takeItem
  extract_lets x
  split
  · exact refl
  extract_lets last s1 s2 s3
  have h2 : Frame [.regs, .cams] s s2 := (refl.step setCam).step setCams
  have h3 : Frame [.regs, .cams] s s3 := h2.trans (ite refl count.mono)
  exact h3.step wr

theorem runItem {c : Nat} : Frame frameParts s (s.runItem c) := doStripes.trans (ite frameDone refl)

theorem goes_workItem {q : Nat} : Goes frameParts s (exec (.workItem q) s) := by
  refine goes (ite refl ?_)
  split
  · exact refl
  extract_lets s1
  have h1 : Frame frameParts s s1 := takeItem.mono
  refine ite h1 ?_
  split
  next s2 on e2 =>
  have h2 : Frame frameParts s s2 := h1.step (wakeAll.of_fst e2)
  exact ite (h2.step runItem) h2

/-! ### Registers -/

theorem writeCisRes {q w : Nat} : Frame eventParts s (s.writeCisRes q w) := by
  unfold State.writeCisRes
  extract_lets n s1 other
  have h1 : Frame eventParts s s1 := wrFields
  exact ite (h1.step wr) (h1.step errCount)

theorem ispWrite {q o w : Nat} : Frame (.cams :: eventParts) s (s.ispWrite q o w) := by
  unfold State.ispWrite
  extract_lets pg x s1
  have h1 : Frame (.cams :: eventParts) s s1 := wrFields.mono
  have hall : Frame (.cams :: eventParts) s (s.wrFields pg 0 o w Reg.Isp.all) := wrFields.mono
  exact ite writeCisRes.mono (ite (ite refl hall)
    (ite (ite refl (ite (ite ((refl.step wr).step setCams) refl) (ite (ite (h1.step wr) h1) hall))) hall))

theorem ctxWrite {c o w : Nat} : Frame eventParts s (s.ctxWrite c o w) :=
  ite (ite wr.mono refl) (ite wr.mono wrFields)

theorem csiWrite {q o w : Nat} : Frame eventParts s (s.csiWrite q o w) :=
  ite (ite (foldl fun _ _ => wr.mono) refl) wrFields

theorem goes_shadowCommit {v : View} {c : Nat} {w : Word} : Goes (.stalled :: wakeParts) s (exec (.shadowCommit v c w) s) :=
  goes (ite refl (viaBus fun _ _ _ _ => ctxWrite.mono))

theorem goes_cisRes {v : View} {q : Nat} {w : Word} : Goes (.stalled :: wakeParts) s (exec (.cisRes v q w) s) :=
  goes (ite refl (viaBus fun _ _ _ _ => writeCisRes.mono))

end Frame
end Sys2Proof.Machine
end

section
/-! Footprints of the host and service ports (R377 to R389). -/

namespace Sys2Proof.Machine

-- one proof after another: in parallel they wait for each other in too many threads
set_option Elab.async false

/-- What host DMA may touch (R380, R381). -/
abbrev hostParts : List Part := .mem :: .arrays :: .doms :: .drop :: .wellErrs :: .portsRest :: readParts

/-- What the service ports may touch (R382 to R389). -/
abbrev serviceParts : List Part := .mem :: .arrays :: .doms :: .drop :: .stalled :: .tierRest :: .sluice :: .ibi :: .portsRest :: eventParts

namespace Frame
variable {F G : List Part} {s t u : State} {p : Page}

theorem setPorts {x : PortsS} (hsluice : x.sluice = s.ports.sluice := by rfl) (hibi : x.ibi = s.ports.ibi := by rfl)
    (huart : x.uartRx = s.ports.uartRx := by rfl) : Frame [.outbound, .portsRest] s (s.setPorts x) where
  same k hk := by
    cases k
    case sluice => exact hsluice
    case ibi => exact hibi
    case uartRx => exact huart
    case outbound | portsRest => simp at hk
    all_goals rfl
  now := le_rfl
  mem := id
  queue hi := by
    obtain ⟨hledger, hlifts, hsl, hib, hua, hmix, htal⟩ := hi
    exact ⟨hledger, hlifts, (congrArg List.length hsluice).trans_le hsl, (congrArg List.length hibi).trans_le hib,
      (congrArg List.length huart).trans_le hua, hmix, htal⟩

/-! ### The link -/

theorem tryTrain : Frame [.outbound, .portsRest] s s.tryTrain := ite setPorts refl

theorem clearPcie : Frame (.sec :: .portsRest :: eventParts) s s.clearPcie := by
  unfold State.clearPcie
  extract_lets s1 x
  have h1 : Frame (.sec :: .portsRest :: eventParts) s s1 := clearPage.mono
  clear_value s1
  exact (h1.step setPorts).step sec

theorem goes_perstNRise : Goes [.outbound, .portsRest] s (exec .perstNRise s) := goes ((refl.step setPorts).trans tryTrain)

theorem goes_perstNFall : Goes (.sec :: .portsRest :: eventParts) s (exec .perstNFall s) := by
  have h : Frame (.sec :: .portsRest :: eventParts) s s.clearPcie := clearPcie
  refine goes ?_
  generalize s.clearPcie = t at h ⊢
  exact h.step setPorts

theorem goes_hostD3cold : Goes (.doms :: .sec :: .portsRest :: eventParts) s (exec .hostD3cold s) := by
  have h : Frame (.doms :: .sec :: .portsRest :: eventParts) s s.clearPcie := clearPcie.mono
  refine goes ?_
  generalize s.clearPcie = t at h ⊢
  exact (h.step setPorts).step setDom

theorem goes_pcieLinkUp : Goes [.doms, .outbound, .portsRest] s (exec .pcieLinkUp s) := by
  refine goes ?_
  split
  · exact (refl.step setDom).step setPorts
  · exact refl.step setPorts
  · exact refl

theorem goes_pcieTlpReplay : Goes eventParts s (exec .pcieTlpReplay s) := goes (ite errCount refl)

theorem goes_pcieLinkRecovery : Goes (.portsRest :: eventParts) s (exec .pcieLinkRecovery s) :=
  goes (ite ((refl.step errCount).step setPorts) refl)

/-! ### TLPs and MSI-X -/

theorem chargeTlp {fn n : Nat} : Frame [.weirs] s (s.chargeTlp fn n) := ite refl chargeWeir

theorem goes_tlpReceived {x : Tlp} : Goes eventParts s (exec (.tlpReceived x) s) := by
  refine goes (ite refl ?_)
  extract_lets insecure req
  exact ite emit.mono ((refl.step chargeTlp).step emit)

theorem goes_msixUnmask {fn k : Nat} : Goes [.portsRest, .out, .outbound, .weirs] s (exec (.msixUnmask fn k) s) := by
  refine goes (ite refl ?_)
  extract_lets m x s1
  have h1 : Frame [.portsRest, .out, .outbound, .weirs] s s1 := refl.step setPorts
  exact ite (h1.step sendMsix) h1

/-! ### Host DMA -/

theorem hdFault {fn n : Nat} : Frame (.portsRest :: eventParts) s (s.hdFault fn n) := by
  unfold State.hdFault
  extract_lets q s1 x s2
  have h1 : Frame (.portsRest :: eventParts) s s1 := ((refl.step wr).step wr).step setSt
  have h2 : Frame (.portsRest :: eventParts) s s2 := (h1.step wr).step setPorts
  exact h2.step irq

theorem hdLines {fn k n : Nat} {d : HostDesc} {l : List Byte} : Frame hostParts s (s.hdLines fn d l k n).1 := by
  induction n generalizing s k with
  | zero => exact refl
  | succ n ih =>
    unfold State.hdLines
    extract_lets x
    split
    · exact refl
    split
    · split
      next s1 go e1 =>
      have h1 : Frame hostParts s s1 := (issueLine.of_fst e1).mono
      split
      · exact h1
      split
      next s2 bad l e2 =>
      have h2 : Frame hostParts s s2 := h1.step (readLine.of_fst e2)
      split
      · exact h2
      · exact (h2.step emit).trans ih
    · exact ((refl.step chargeTlp).step dstore).trans ih

theorem hdDone {fn : Nat} {d : HostDesc} {l : List Byte} : Frame hostParts s (s.hdDone fn d l) := by
  unfold State.hdDone
  extract_lets p n len dig fault r cut s1 s2
  have h1 : Frame hostParts s s1 := ite refl ((refl.step dstore).step dstore)
  have h2 : Frame hostParts s s2 := h1.step wr
  clear_value s1 s2 fault
  split
  · exact hdFault.mono
  · have hcount : Frame hostParts s2 (s2.count p fn Reg.Pcie.XFERS Reg.Pcie.XFERS_SAT 1) := count.mono
    have hports : Frame hostParts s2 (s2.setPorts { s2.ports with
        hdXfer := SMap.set 0 s2.ports.hdXfer fn (n + 1), hdLine := SMap.set 0 s2.ports.hdLine fn 0 }) := refl.step setPorts
    exact h2.trans (withPorts hcount hports)

theorem goes_hostDmaDescriptor {fn : Nat} {a b : List Byte} {e : Bool} : Goes hostParts s (exec (.hostDmaDescriptor fn a b e) s) := by
  refine goes (ite refl ?_)
  extract_lets d q
  refine ite hdFault.mono (ite hdFault.mono ?_)
  split
  next s0 on e0 =>
  have h0 : Frame hostParts s s0 := (wakeAll.of_fst e0).mono
  refine ite h0 (ite (h0.step hdFault) ?_)
  extract_lets k0
  split
  next s1 k f e1 =>
  have h1 : Frame hostParts s s1 := h0.trans (hdLines.of_fst e1)
  split
  · exact h1.step hdFault
  · exact ite (h1.trans hdDone) (h1.step setPorts)

theorem goes_completionTimeout {fn : Nat} : Goes (.portsRest :: eventParts) s (exec (.completionTimeout fn) s) :=
  goes (ite hdFault refl)

theorem pcieWrite {fn o w : Nat} : Frame eventParts s (s.pcieWrite fn o w) := ite (ite errCount wr.mono) wrFields

theorem goes_hostDmaTail {v : View} {w : Word} : Goes (.stalled :: wakeParts) s (exec (.hostDmaTail v w) s) :=
  goes (viaBus fun _ _ _ _ => pcieWrite.mono)

theorem goes_vfFlr {q : Nat} : Goes (.assign :: stopParts) s (exec (.vfFlr q) s) := by
  refine goes (ite refl ?_)
  extract_lets s1 fn s2
  have h1 : Frame (.assign :: stopParts) s s1 := disablePart
  have h2 : Frame (.assign :: stopParts) s s2 := (((h1.step setSt).step wr).step wr).step wr
  exact (h2.step wr).step setPorts

/-! ### Flash, I3C and UART -/

theorem goes_xspiCommand {op : XspiOp} : Goes (.portsRest :: eventParts) s (exec (.xspiCommand op) s) := by
  refine goes (ite refl ?_)
  extract_lets refused
  cases op with
  | program a d b => exact ite errCount.mono (refl.step setPorts)
  | erase a n b => exact ite errCount.mono (refl.step setPorts)

theorem i3cRequest {k : Nat} {l : List Byte} : Frame (.ibi :: eventParts) s (s.i3cRequest k l) := by
  unfold State.i3cRequest
  split
  · exact refl
  split
  · exact (refl.step errCount).step emit
  next hroom =>
  have hibi : Frame [.ibi] s (s.setPorts { s.ports with ibi := s.ports.ibi ++ [(k, l)] }) := of_queue fun hi => by
    obtain ⟨hledger, hlifts, hsluice, -, huart, hmix, htal⟩ := hi
    refine ⟨hledger, hlifts, hsluice, ?_, huart, hmix, htal⟩
    show (s.ports.ibi ++ [(k, l)]).length ≤ 16
    rw [List.length_append, List.length_singleton]
    omega
  exact hibi.mono.step emit

theorem goes_i3cPrivateRead {n : Nat} : Goes [.out] s (exec (.i3cPrivateRead n) s) := goes (ite emit refl)
theorem sendLines : Frame [.out] s s.sendLines := foldl fun _ _ => emit
theorem goes_uartQuery : Goes [.out] s (exec .uartQuery s) := goes (ite sendLines refl)

/-! ### The auxiliary stream port -/

theorem aspXoff : Frame [.regs] s s.aspXoff := ite (ite wr (ite wr refl)) wr

theorem goes_aspWord {d : BitVec 64} : Goes serviceParts s (exec (.aspWord d) s) := by
  refine goes ?_
  extract_lets q
  split
  · exact refl
  split
  · exact ((refl.step count).step wr).step irq
  next hroom =>
  have hsluice : Frame [.sluice, .portsRest] s (s.setPorts { s.ports with sluice := s.ports.sluice ++ [d], nibbles := 0 }) :=
    of_queue fun hi => by
      obtain ⟨hledger, hlifts, -, hibi, huart, hmix, htal⟩ := hi
      refine ⟨hledger, hlifts, ?_, hibi, huart, hmix, htal⟩
      show (s.ports.sluice ++ [d]).length ≤ 8192
      rw [List.length_append, List.length_singleton]
      omega
  exact hsluice.mono.step aspXoff

theorem aspStore {b : Nat} {l : List (Nat × Byte)} : Frame [.mem, .tierRest, .arrays] s (s.aspStore b l) :=
  foldl fun _ _ => ite refl dstore

theorem aspWrite {o w : Nat} : Frame (.portsRest :: eventParts) s (s.aspWrite o w) := by
  unfold State.aspWrite
  extract_lets q n s1
  have h1 : Frame (.portsRest :: eventParts) s s1 := wr.mono
  exact ite (ite wr.mono (ite errCount.mono (ite (h1.step errCount) ((h1.step wr).step setPorts))))
    (ite ((refl.step wrFields).step aspXoff) wrFields.mono)

theorem goes_drainGo {v : View} {w : Word} : Goes serviceParts s (exec (.drainGo v w) s) :=
  goes (viaBus fun _ _ _ _ => aspWrite.mono)

theorem goes_aspDrainEnd : Goes serviceParts s (exec .aspDrainEnd s) := by
  refine goes ?_
  split
  · exact refl
  extract_lets q dst len off k dig data cells recs
  split
  next s0 on e0 =>
  have h0 : Frame serviceParts s s0 := (wakeAll.of_fst e0).mono
  refine ite h0 ?_
  extract_lets s1 x s2 s3
  have h1 : Frame serviceParts s s1 := (h0.step aspStore).step aspStore
  have h2 : Frame serviceParts s s2 := by
    have hdrain {t : State} {n : Nat} : Frame [.sluice, .portsRest] t (t.setPorts { t.ports with sluice := t.ports.sluice.drop n, drain := none }) :=
      of_queue fun hi => by
        obtain ⟨hledger, hlifts, hsluice, hibi, huart, hmix, htal⟩ := hi
        exact ⟨hledger, hlifts, ((List.drop_sublist _ _).length_le).trans hsluice, hibi, huart, hmix, htal⟩
    exact h1.step hdrain
  have h3 : Frame serviceParts s s3 := ((h2.step wr).step wr).step wr
  exact (h3.step aspXoff).step irq

end Frame
end Sys2Proof.Machine
end

section
/-! Footprints of the high-voltage island: the battery gauge and the status panel (R390 to R404). -/

namespace Sys2Proof.Machine

-- one proof after another: in parallel they wait for each other in too many threads
set_option Elab.async false

/-- What the gauge may touch. -/
abbrev gaugeParts : List Part := .gauge :: eventParts

/-- What the panel may touch. -/
abbrev panelParts : List Part := .panel :: eventParts

namespace Frame
variable {F G : List Part} {s t u : State} {p : Page}

theorem setGauge {x : GaugeS} : Frame [.gauge] s (s.setGauge x) := gauge
theorem setPanel {x : PanelS} : Frame [.panel] s (s.setPanel x) := panel

/-! ### The coulomb counter -/

theorem addCharge {x : Int} : Frame [.gauge, .regs] s (s.addCharge x) :=
  ite ((refl.step setGauge).step wr) (ite ((refl.step setGauge).step wr) setGauge.mono)

theorem addUnc {n : Nat} : Frame [.regs] s (s.addUnc n) := count

theorem applyQload : Frame [.gauge, .regs] s s.applyQload := ite (((refl.step setGauge).step wr).step wr) refl

theorem takeE {e : Int} : Frame [.gauge, .regs] s (s.takeE e) := ((refl.step addCharge).step setGauge).step wr

theorem goes_gaugeCurrentSample {f : CurrentFrame} : Goes gaugeParts s (exec (.gaugeCurrentSample f) s) := by
  refine goes ?_
  extract_lets s0 g s1 coarse
  have h0 : Frame gaugeParts s s0 := applyQload.mono
  split
  · have h1 : Frame gaugeParts s s1 := (h0.step errCount).step addUnc
    exact ite (h1.step setGauge) (ite (h1.step setGauge) (h1.step takeE))
  · exact ite (h0.step setGauge) ((h0.step takeE).step setGauge)

theorem goes_gaugeRangeChange : Goes gaugeParts s (exec .gaugeRangeChange s) :=
  goes (ite refl (((refl.step wr).step addUnc).step setGauge))

/-! ### Estimates -/

theorem disagree {a b : Int} : Frame eventParts s (s.disagree a b) := by
  unfold State.disagree
  extract_lets d was s1
  have h1 : Frame eventParts s s1 := wr.mono
  exact ite (h1.step irq) h1

theorem goes_gaugeVoltageSample {m n : Nat} {b : Bool} : Goes gaugeParts s (exec (.gaugeVoltageSample m n b) s) := by
  refine goes ?_
  extract_lets q mv s0 s1 rest x s2 q' v s3 c1 c2 g
  have h1 : Frame gaugeParts s s1 := (refl.step wr).trans (ite ((refl.step wr).step wr) refl)
  have h2 : Frame gaugeParts s s2 := h1.trans (ite refl ((refl.step wr).step setGauge))
  clear_value s2
  have h3 : Frame gaugeParts s s3 := ((h2.step wr).step wr).step wr
  exact ite (((h2.step wr).step wr).step wr) ((h3.step setGauge).step disagree)

theorem goes_gaugeEmptySet : Goes eventParts s (exec .gaugeEmptySet s) := goes (ite refl ((refl.step wr).step irq))
theorem goes_gaugeEmptyClear : Goes [.regs] s (exec .gaugeEmptyClear s) := goes (ite refl wr)

theorem goes_gaugeReanchor : Goes gaugeParts s (exec .gaugeReanchor s) := by
  refine goes ?_
  extract_lets q v x s1 s2
  have h2 : Frame gaugeParts s s2 := (((refl.step setGauge).step wr).step count).step irq
  exact ite refl ((h2.step wr).step disagree)

/-! ### The panel -/

theorem panelGo {w : Nat} : Frame panelParts s (s.panelGo w) := by
  unfold State.panelGo
  extract_lets q
  split
  · exact ((((refl.step wr).step wr).step wr).step wr).step setPanel
  · exact ((refl.step wr).step errCount).step irq

theorem beginPhase {i : Nat} : Frame [.panel, .regs] s (s.beginPhase i) := ((refl.step wr).step wr).step setPanel
theorem parkPanel : Frame [.panel, .regs] s s.parkPanel := ((refl.step wr).step wr).step setPanel

theorem goes_panelGo {v : View} {w : Word} : Goes (.panel :: .stalled :: wakeParts) s (exec (.panelGo v w) s) :=
  goes (viaBus fun _ _ _ _ => panelGo.mono)

theorem goes_panelPumpsReady : Goes [.panel, .regs] s (exec .panelPumpsReady s) := by
  refine goes ?_
  extract_lets q s1
  have h1 : Frame [.panel, .regs] s s1 := foldl fun _ _ => wr.mono
  exact ite refl (((h1.step wr).step wr).step beginPhase)

theorem goes_panelPhaseEnd : Goes panelParts s (exec .panelPhaseEnd s) := by
  refine goes ?_
  extract_lets q w i s1
  have h1 : Frame panelParts s s1 := foldl fun u k => by
    extract_lets r img u1
    have h : Frame panelParts u u1 := wr.mono
    exact ite (h.step wr) h
  exact ite refl (ite beginPhase.mono (((h1.step parkPanel).step wr).step irq))

theorem goes_hvSupplyFail {m : Nat} : Goes panelParts s (exec (.hvSupplyFail m) s) := by
  refine goes ?_
  extract_lets q x s0 s1 s2
  have h0 : Frame panelParts s s0 := setPanel.mono
  have h1 : Frame panelParts s s1 := h0.step parkPanel
  have h2 : Frame panelParts s s2 := h1.trans (foldl fun _ _ => wr.mono)
  exact ite h0 (ite h1 (((h2.step wr).step errCount).step irq))

theorem hvWrite {o w : Nat} : Frame panelParts s (s.hvWrite o w) := by
  unfold State.hvWrite
  extract_lets q s1
  have h1 : Frame panelParts s s1 := wrFields.mono
  exact ite panelGo (ite ((refl.step wr).step irq) (ite (h1.step wr) h1))

theorem goes_qLoad {v : View} {w : Word} : Goes (.panel :: .stalled :: wakeParts) s (exec (.qLoad v w) s) :=
  goes (viaBus fun _ _ _ _ => hvWrite.mono)

end Frame
end Sys2Proof.Machine
end

section
/-! Footprints of the resets, the self-test and its verdict, and of supplies, operating points and temperature (R361 to R376, R415 to R428). -/

namespace Sys2Proof.Machine

-- one proof after another: in parallel they wait for each other in too many threads
set_option Elab.async false

/-- What a reset may touch: all but the time and the queue of commands. -/
abbrev resetParts : List Part :=
  [.regs, .mem, .free, .out, .stalled, .latches, .tallies, .waiters, .arrays, .dmas, .ott, .tierRest, .assign, .weirs, .weirCfg, .images,
   .ledger, .sealRest, .doms, .drop, .raises, .lifts, .openMix, .audioRest, .cams, .sec, .sluice, .ibi, .uartRx, .outbound, .portsRest,
   .gauge, .panel, .boot, .supply, .upsets, .wellErrs]

/-- What the sequence that follows a reset may touch (R362 to R376). -/
abbrev bootParts : List Part := .free :: .doms :: .sec :: .boot :: .portsRest :: eventParts

namespace Frame
variable {F G : List Part} {s t u : State} {p : Page}

/-- A state with the time and the queue of s, whose memory is that of reset and whose queues are empty but for the open block. -/
theorem of_reset (hnow : t.now = s.now) (hpending : t.pending = s.pending) (hmem : t.mem = State.reset.mem)
    (hledger : t.seals.ledger = []) (hlifts : t.power.lifts = []) (hsluice : t.ports.sluice = []) (hibi : t.ports.ibi = [])
    (huart : t.ports.uartRx = []) (hmix : t.audio.openMix.length ≤ 256) (htallies : t.tallies = []) : Frame resetParts s t where
  same k hk := by
    cases k
    case now => exact hnow
    case pending => exact hpending
    all_goals simp at hk
  now := hnow.ge
  mem _ := memInv_reset.of_mem hmem
  queue _ := by
    refine ⟨by simp [hledger], by simp [hlifts], by simp [hsluice], by simp [hibi], by simp [huart], hmix, fun i => ?_⟩
    simp [State.tally, htallies]

theorem porReset : Frame resetParts s s.porReset := by
  have hmix : s.porReset.audio.openMix.length ≤ 256 := by
    show (List.replicate (s.audio.sidx % 256) (0, s.audio.muted)).length ≤ 256
    rw [List.length_replicate]
    omega
  exact of_reset rfl rfl rfl rfl rfl rfl rfl rfl hmix rfl

theorem aonReset : Frame resetParts s s.aonReset := by
  unfold State.aonReset
  split
  next k s0 e0 =>
  have h0 : Frame resetParts s s0 := (takeFree.of_snd e0).mono
  refine h0.trans (step ?_ calFromOtp)
  exact of_reset rfl rfl rfl rfl rfl rfl rfl rfl (Nat.zero_le _) rfl

/-! ### The sequence and the verdict -/

theorem takeCopy {b : Bool} : Frame [.boot, .sec] s (s.takeCopy b) := of_same

theorem bootCheck : Frame [.boot, .sec] s s.bootCheck := by
  unfold State.bootCheck
  extract_lets a x fail
  have hfail {m n : Nat} : Frame [.boot, .sec] s (fail m n) := boot.mono
  exact ite (ite takeCopy (ite takeCopy hfail)) (ite (ite takeCopy hfail) hfail)

theorem bringUp {x : SelfTest} : Frame bootParts s (s.bringUp x) := by
  unfold State.bringUp
  extract_lets ok s1 y s2 lanes
  have h1 : Frame bootParts s s1 := (refl.step wr).step wr
  have h2 : Frame bootParts s s2 := (h1.step boot).step bootCheck
  clear_value s2
  exact (h2.step setPorts).step tryTrain

theorem goes_porstNRise {x : SelfTest} : Goes bootParts s (exec (.porstNRise x) s) := by
  refine goes (ite refl ?_)
  extract_lets y s1
  have h1 : Frame bootParts s s1 := boot.mono
  exact ite h1 (h1.trans bringUp)

theorem goes_porstNFall : Goes resetParts s (exec .porstNFall s) := by
  refine goes ?_
  extract_lets s1
  have h1 : Frame resetParts s s1 := porReset
  clear_value s1
  exact h1.step boot

theorem goes_aonPowerOnReset : Goes resetParts s (exec .aonPowerOnReset s) := by
  refine goes ?_
  extract_lets s1
  have h1 : Frame resetParts s s1 := aonReset
  clear_value s1
  exact ite (h1.step bringUp) h1

theorem setFloor {x : SelfTest} {f : Failed} : Frame [.regs] s (s.setFloor x f) := by
  unfold State.setFloor
  extract_lets w there s1 s2 s3 s4 s5 s6 cause slot
  have hw {u : State} {g : Fld} {v : Nat} (h : Frame [.regs] s u) : Frame [.regs] s (w u g v) := h.trans wr
  have h3 : Frame [.regs] s s3 := hw (hw (hw (hw (hw (hw refl)))))
  have h6 : Frame [.regs] s s6 := hw (hw (hw (hw (hw (hw h3)))))
  refine h6.trans (foldl fun u n => ?_)
  have hv {u' : State} {g : Fld} {v : Nat} (h : Frame [.regs] u u') : Frame [.regs] u (w u' g v) := h.trans wr
  exact hv (hv (hv (hv (hv (hv refl)))))

theorem dropDomain {d : Nat} : Frame [.doms] s (s.dropDomain d) := setDom

/-- The margins of a trained channel are free values (log 2). -/
theorem margins {c : Nat} : Frame [.regs, .free] s
    ((((s.takeFree.2.wr .phy 0 (Reg.Phy.RD_MV c) s.takeFree.1).wr .phy 0 (Reg.Phy.WR_MV c) (s.takeFree.1 / 256)).wr .phy 0
      (Reg.Phy.RD_PS c) (s.takeFree.1 / 65536)).wr .phy 0 (Reg.Phy.WR_PS c) (s.takeFree.1 / 2 ^ 24)) :=
  ((((refl.step takeFree).step wr).step wr).step wr).step wr

theorem setWell {x : SelfTest} {f : Failed} : Frame [.regs, .free] s (s.setWell x f) := by
  unfold State.setWell
  extract_lets up s1 s2
  have h2 : Frame [.regs, .free] s s2 := (((refl.step wr).step wr).step wr).step wr
  clear_value s2
  exact ((h2.step takeFree).step wr).trans (foldl fun _ _ => margins)

theorem enterStandpipe : Frame [.doms, .regs, .out, .boot] s s.enterStandpipe := by
  unfold State.enterStandpipe
  extract_lets s1 s2
  have h1 : Frame [.doms, .regs, .out, .boot] s s1 := foldl fun _ _ => dropDomain.mono
  exact ((h1.step wr).step sendLines).step boot

theorem verdict : Frame bootParts s s.verdict := by
  unfold State.verdict
  extract_lets x f l fuseOk s0 early late removed
  have h0 : Frame bootParts s s0 := (refl.step setFloor).step setWell
  clear_value s0
  split
  next v s1 e1 =>
  have h1 : Frame bootParts s s1 := h0.step (takeFree.of_snd e1)
  extract_lets entries cause result word record y s2 s3 gone s4
  have h3 : Frame bootParts s s3 := (((h1.step boot).step wr).step wr).step wr
  have h4 : Frame bootParts s s4 := h3.trans (foldl fun _ _ => dropDomain.mono)
  clear_value s4
  exact ite (h4.step enterStandpipe) (h4.step wr)

theorem goes_selfTestVerdict : Goes bootParts s (exec .selfTestVerdict s) := goes (ite verdict refl)

theorem restart : Frame resetParts s s.restart := ite (porReset.step bringUp) errCount.mono

theorem goes_restart {v : View} {w : Word} : Goes resetParts s (exec (.restart v w) s) := goes (viaBus fun _ _ _ _ => restart)

/-- A character that enters the queue of 64. -/
theorem pushUart {c : Nat} (h : s.ports.uartRx.length < 64) :
    Frame [.uartRx] s (s.setPorts { s.ports with uartRx := s.ports.uartRx ++ [c] }) :=
  of_queue fun hi => by
    obtain ⟨hledger, hlifts, hsluice, hibi, -, hmix, htal⟩ := hi
    refine ⟨hledger, hlifts, hsluice, hibi, ?_, hmix, htal⟩
    show (s.ports.uartRx ++ [c]).length ≤ 64
    rw [List.length_append, List.length_singleton]
    exact h

theorem goes_uartReceive {x : UartFrame} : Goes resetParts s (exec (.uartReceive x) s) := by
  refine goes (ite refl ?_)
  split
  · next c =>
    extract_lets seen y s1 z s2
    have h1 : Frame resetParts s s1 := by
      unfold s1
      split
      · exact refl
      split
      · exact refl.step setPorts
      · next hroom => exact (pushUart (not_le.mp hroom)).mono
    have h2 : Frame resetParts s s2 := h1.step setPorts
    exact ite (h2.trans restart) h2
  · exact errCount.mono

/-! ### Operating points, throttle steps and supplies -/

theorem oppWrite {v : View} {a w : Nat} : Frame (.arrays :: eventParts) s (s.oppWrite v a w) := by
  unfold State.oppWrite
  extract_lets i shared
  exact ite refl (ite errCount.mono (((refl.step wr).step modArr).step applyOpp))

theorem goes_oppReq {v : View} {a : Nat} {w : Word} : Goes (.stalled :: .arrays :: wakeParts) s (exec (.oppReq v a w) s) :=
  goes (ite refl (viaBus fun _ _ _ _ => oppWrite.mono))

theorem goes_oppSettled {a : Nat} : Goes [.arrays] s (exec (.oppSettled a) s) := goes (ite refl modArr)

theorem deviate {a n : Nat} : Frame [.arrays] s (s.deviate a n) := by
  unfold State.deviate
  split
  · exact refl
  · exact foldl fun _ _ => modArr

theorem throttleTo {a i n : Nat} : Frame [.regs, .arrays] s (s.throttleTo a i n) := ((refl.step wr).step deviate).step count

theorem setThrottled {a : Nat} : Frame eventParts s (s.setThrottled a) := ite refl ((refl.step wr).step irq)

theorem stepDown {a n : Nat} : Frame [.regs, .arrays] s (s.stepDown a n) := ite refl throttleTo

theorem goes_throttleStepDown {a n : Nat} : Goes (.free :: .arrays :: eventParts) s (exec (.throttleStepDown a n) s) :=
  goes (ite refl ((((refl.step takeFree).step wr).step setThrottled).step stepDown))

theorem goes_throttleStepUp {a n : Nat} : Goes [.free, .arrays, .regs] s (exec (.throttleStepUp a n) s) := by
  refine goes (ite refl ?_)
  split
  next v s1 e1 =>
  have h1 : Frame [.free, .arrays, .regs] s s1 := (takeFree.of_snd e1).mono
  extract_lets lim s2 s3
  have h2 : Frame [.free, .arrays, .regs] s s2 := h1.step wr
  have h3 : Frame [.free, .arrays, .regs] s s3 := h2.trans (ite throttleTo.mono refl)
  exact ite h3 (h3.step wr)

theorem goes_headroomLow {a m n : Nat} : Goes (.arrays :: eventParts) s (exec (.headroomLow a m n) s) := by
  refine goes ?_
  extract_lets s1 s2
  have h1 : Frame (.arrays :: eventParts) s s1 := wr.mono
  have h2 : Frame (.arrays :: eventParts) s s2 := h1.step stepDown
  exact ite h1 (ite h2 ((h2.step wr).step irq))

theorem collapse {a : Nat} : Frame powerParts s (s.collapse a) := by
  unfold State.collapse
  extract_lets d x ctxs s1
  have h1 : Frame powerParts s s1 := (refl.step setDom).step losePower
  exact h1.trans (foldl fun _ _ => (refl.step setSt).step setSt)

theorem goes_vddMaCollapse {m : Nat} : Goes powerParts s (exec (.vddMaCollapse m) s) := by
  refine goes ?_
  extract_lets s1 hit s2
  have h1 : Frame powerParts s s1 := wr.mono
  have h2 : Frame powerParts s s2 := ((h1.trans (foldl fun _ _ => collapse)).step railsMayGo).step irq
  clear_value s1 s2 hit
  refine ite h1 ?_
  split
  · split
    · exact ite (h2.step seqNext) h2
    · exact h2
  · exact h2

theorem goes_supplyRailRestored {r : Rail} {m : Nat} : Goes [.supply, .regs, .arrays] s (exec (.supplyRailRestored r m) s) := by
  refine goes ?_
  cases r with
  | lpddr => exact supply.mono
  | vddMa =>
    have h1 {x : SupplyS} : Frame [.supply, .regs, .arrays] s { s.wr .therm 0 Reg.Therm.VMA_MV (min m 1023) with supply := x } :=
      (refl.step wr).step supply
    refine h1.trans (foldl fun u a => ?_)
    extract_lets low s2 s3
    have h2 : Frame [.supply, .regs, .arrays] u s2 := ite wr.mono refl
    have h3 : Frame [.supply, .regs, .arrays] u s3 := h2.trans (ite modArr.mono refl)
    exact ite (ite (h2.step wr) h2) (h3.step applyOpp)

/-! ### Temperature, training and telemetry -/

theorem goes_thermalTrip {n : Nat} {q : Int} : Goes resetParts s (exec (.thermalTrip n q) s) := by
  refine goes (ite refl ?_)
  extract_lets s1
  have h1 : Frame resetParts s s1 := (refl.step wr).trans porReset
  clear_value s1
  exact h1.step boot

theorem goes_thermalTripRelease {l : List Int} : Goes bootParts s (exec (.thermalTripRelease l) s) := by
  refine goes (ite refl ?_)
  extract_lets x s1 s2
  have h1 : Frame bootParts s s1 := boot.mono
  have h2 : Frame bootParts s s2 := h1.trans (foldl fun _ _ => wr.mono)
  exact ite (h2.trans bringUp) h2

theorem goes_lpddrHot {c : Nat} {b : Bool} : Goes [.regs] s (exec (.lpddrHot c b) s) := goes (ite refl wr)

theorem retrain {w n : Nat} : Frame (.free :: eventParts) s (s.retrain w n) := by
  unfold State.retrain
  extract_lets chs upd s1 s2
  have h2 : Frame (.free :: eventParts) s s2 := ((refl.step wr).step wr).step wr
  exact ite errCount.mono (h2.trans (foldl fun _ _ => margins.mono))

theorem goes_retrain {v : View} {w : Word} {n : Nat} : Goes (.free :: .stalled :: wakeParts) s (exec (.retrain v w n) s) :=
  goes (viaBus fun _ _ _ _ => retrain.mono)

theorem goes_telemWindowEnd {m : Nat} : Goes [.now, .supply, .free, .regs] s (exec (.telemWindowEnd m) s) := by
  refine goes ?_
  extract_lets k x half
  have hnow : Frame [.now] s { s with now := (k + 1) * 10 ^ 8 } := timeTo (by omega)
  split
  next v s1 e1 =>
  have h1 : Frame [.now, .supply, .free, .regs] s s1 := (hnow.mono.step supply).step (takeFree.of_snd e1)
  split
  next v2 s2 e2 =>
  have h2 : Frame [.now, .supply, .free, .regs] s s2 := h1.step (takeFree.of_snd e2)
  extract_lets s3 s4
  have h3 : Frame [.now, .supply, .free, .regs] s s3 := (h2.step wr).step wr
  have h4 : Frame [.now, .supply, .free, .regs] s s4 := (h3.step wr).step wr
  exact (h4.step wr).step wr

end Frame
end Sys2Proof.Machine
end

section
/-! Footprints of the register pages: reads, starts, stops and writes (R405 to R415). -/

namespace Sys2Proof.Machine

-- one proof after another: in parallel they wait for each other in too many threads
set_option Elab.async false

/-- What a read of a register may touch (R192, R237, R249, R355, R407). -/
abbrev busReadParts : List Part := .stalled :: .latches :: .free :: .upsets :: .sec :: .dmas :: .sealRest :: .ott :: .tierRest :: wakeParts

namespace Frame
variable {F G : List Part} {s t u : State} {p : Page}

/-! ### Reads -/

theorem settlePage {b o : Nat} : Frame [.regs, .dmas, .sealRest] s (s.settlePage p b o) := by
  unfold State.settlePage
  split
  · exact ite settleDma.mono refl
  · exact ite settleSeals.mono refl
  · exact refl

theorem readWord {v : View} {b o : Nat} : Frame [.regs, .free, .sec, .latches] s (s.readWord v p b o).1 := by
  unfold State.readWord
  extract_lets addr w
  split
  · exact refl
  split
  · exact trngRead.mono
  split
  · exact latches.mono
  split
  · split
    · exact refl
    · exact refl
  · exact refl

theorem readPage {v : View} {b o : Nat} : Frame busReadParts s (s.readPage v p b o).1 := by
  unfold State.readPage
  extract_lets s1
  have h1 : Frame busReadParts s s1 := settlePage.mono
  clear_value s1
  split
  · exact h1.step readWord
  split
  next s2 lost e2 =>
  have h2 : Frame busReadParts s s2 := h1.step (meetCell.of_fst e2)
  split
  · exact h2.step takeFree
  · exact h2.step readWord

theorem answer {v : View} {a w : Nat} : Frame [.out, .outbound, .weirs] s (s.answer v a w) := by
  cases v with
  | pf => exact emit.mono
  | vf q =>
    unfold State.answer
    exact emitTlp
  | steward => exact emit.mono

theorem busRead {v : View} {a : Nat} : Frame busReadParts s (s.busRead v a) := by
  unfold State.busRead
  extract_lets zero
  have hzero {t : State} (h : Frame busReadParts s t) : Frame busReadParts s (zero t) := h.step answer
  refine ite refl ?_
  split
  · exact hzero refl
  refine ite (hzero refl) (ite answer.mono (ite (hzero refl) ?_))
  split
  · exact hzero refl
  extract_lets go d s1
  have h1 : Frame busReadParts s s1 := wakeFor.mono
  have hgo {t : State} (h : Frame busReadParts s t) : Frame busReadParts s (go t) := (h.trans readPage).step answer
  exact ite (hgo h1) (ite (hzero h1) (h1.step stalled))

/-! ### Start and stop -/

theorem startRefused {b : Nat} : Frame [.regs] s (s.startRefused p b) := wr

theorem startPage {b : Nat} : Frame (.cams :: stopParts) s (s.startPage p b) := by
  have hctx (c : Nat) : Frame (.cams :: stopParts) s (s.ctxStart c).1 := ctxStart.mono
  unfold State.startPage
  -- the start of a context is named, so that no check evaluates its refusals
  obtain ⟨start, hstart⟩ : ∃ f, State.ctxStart = f := ⟨_, rfl⟩
  rw [hstart] at hctx ⊢
  cases p with
  | ma a =>
    exact ite startRefused.mono (ite ((((((refl.step wr).step wr).step wr).step clearCtx).step wr).step irq)
      (((((refl.step wr).step wr).step wr).step clearCtx).step setSt))
  | dma a =>
    exact ite startRefused.mono (ite (((((((refl.step wr).step wr).step wr).step wr).step clearDmaCtx).step wr).step irq)
      ((((((refl.step wr).step wr).step wr).step wr).step clearDmaCtx).step setSt))
  | ctx c => exact ite ((hctx c).step startRefused) (hctx c)
  | csi q => exact (refl.step setCams).step setSt
  | pcie => exact ((refl.step wr).step wr).step setSt
  | asp => exact ite ((refl.step errCount).step startRefused) (((refl.step wr).step setSt).step aspXoff)
  | lpddr => exact ite setSt.mono startRefused.mono
  | _ => exact setSt.mono

theorem runPage {b : Nat} : Frame (.cams :: stopParts) s (s.runPage p b) := ite startPage startRefused.mono

theorem afterStop {b : Nat} : Frame (.cams :: stopParts) s (s.afterStop p b) := by
  unfold State.afterStop
  split
  · exact ite ctxStopped groupCheck.mono
  · exact ite enterStopped.mono refl
  · exact refl

theorem pageStopped {b : Nat} : Frame (.cams :: stopParts) s (s.pageStopped p b) := by
  refine ite ?_ refl
  extract_lets s1
  have h1 : Frame (.cams :: stopParts) s s1 := enterStopped.mono
  clear_value s1
  split
  · exact h1.trans ctxStopped
  · exact h1

theorem ctrlWrite {v : View} {b w : Nat} : Frame (.cams :: stopParts) s (s.ctrlWrite v p b w) := by
  unfold State.ctrlWrite
  extract_lets own s1 s2 s3
  have h1 : Frame (.cams :: stopParts) s s1 := ite (foldl fun _ _ => wr.mono) refl
  have h2 : Frame (.cams :: stopParts) s s2 := h1.trans (ite wr.mono (ite wr.mono ((refl.step wr).step irq)))
  have h3 : Frame (.cams :: stopParts) s s3 := h2.trans (ite ((refl.step stopReq).step afterStop) refl)
  exact ite h1 (ite h3 (ite (h3.step startRefused) (h3.trans runPage)))

/-! ### Writes -/

theorem irqClear {f w : Nat} : Frame eventParts s (s.irqClear p f w) := setRaw.trans (ite orRaw refl)

theorem hdrWrite {v : View} {b o w : Nat} : Frame (.cams :: .doms :: .drop :: stopParts) s (s.hdrWrite v p b o w) := by
  unfold State.hdrWrite
  extract_lets fn s1 own
  have h1 : Frame (.cams :: .doms :: .drop :: stopParts) s s1 := ite wr.mono refl
  exact ite ctrlWrite.mono (ite (ite (h1.step wr) h1) (ite setMask.mono (ite irqClear.mono (ite orRaw.mono
    (ite (ite wr.mono refl) (ite (ite refl wr.mono) (ite writePwr.mono refl)))))))

theorem ackN {w : Nat} : Frame (.ledger :: .sealRest :: eventParts) s (s.ackN w) := by
  unfold State.ackN
  extract_lets q n s1
  have h1 : Frame (.ledger :: .sealRest :: eventParts) s s1 := ((refl.step settleSeals).step wr).step wr
  clear_value s1
  have hdrop : Frame [.ledger] s1 { s1 with seals := { s1.seals with ledger := s1.seals.ledger.drop n } } :=
    ledger fun hi => by
      obtain ⟨hledger, -⟩ := hi
      exact ((List.drop_sublist _ _).length_le).trans hledger
  exact ite errCount.mono ((h1.step hdrop).step grantSeals)

theorem clearCounts {b : Nat} {l : List Fld} : Frame [.regs] s (s.clearCounts p b l) := foldl fun _ _ => wr

theorem maWrite {v : View} {a b o w : Nat} : Frame (.arrays :: eventParts) s (s.maWrite v a b o w) := by
  unfold State.maWrite
  extract_lets q
  refine ite oppWrite (ite (ite wrFields.mono ?_)
    (ite clearCounts.mono (ite clearCounts.mono (ite clearCounts.mono wrFields.mono))))
  split
  · exact errCount.mono
  · exact refl

theorem ottWrite {v : View} {o w : Nat} : Frame ottParts s (s.ottWrite v o w) :=
  ite wr.mono (ite refl (ite ottCmd (ite errCount.mono wrFields.mono)))

theorem tallyWrite {v : Option Nat} {o w : Nat} : Frame signalParts s (s.tallyWrite p v o w) := by
  unfold State.tallyWrite
  extract_lets i
  have hclear : Frame [.tallies] s (s.setTally i { s.tally i with ovf := false }) := setTally fun hi => hi.tally_le i
  exact ite (ite tallyIgnored.mono (ite hclear.mono refl)) (ite tallySig (ite tallyInit.mono (ite tallyCmd.mono wrFields.mono)))

theorem powerWrite {o w : Nat} : Frame (.doms :: .drop :: stopParts) s (s.powerWrite o w) :=
  ite seqCmd (ite refl (ite clearCounts.mono wrFields.mono))

theorem blockWrite {v : View} {b o w : Nat} : Frame resetParts s (s.blockWrite v p b o w) := by
  unfold State.blockWrite
  split
  · exact maWrite.mono
  · exact ottWrite.mono
  · exact tallyWrite.mono
  · exact tallyWrite.mono
  · exact partWrite.mono
  · exact ispWrite.mono
  · exact csiWrite.mono
  · exact ctxWrite.mono
  · exact audioWrite.mono
  · exact aoutWrite.mono
  · exact powerWrite.mono
  · exact ite secCmd.mono wrFields.mono
  · exact pcieWrite.mono
  · exact aspWrite.mono
  · exact hvWrite.mono
  · exact ite ((refl.step takeFree).step retrain) wrFields.mono
  · exact ite ackN.mono wrFields.mono
  · exact ite refl wrFields.mono
  · exact ite restart refl
  · exact wrFields.mono

theorem pageWrite {v : View} {b o w : Nat} : Frame resetParts s (s.pageWrite v p b o w) := ite hdrWrite.mono blockWrite

theorem busWrite {v : View} {a n w : Nat} : Frame resetParts s (s.busWrite v a n w) := viaBus fun _ _ _ _ => pageWrite

theorem namedWrite {v : View} {a o w : Nat} : Frame resetParts s (s.namedWrite v a o w) := by
  unfold State.namedWrite
  split
  · exact ite busWrite refl
  · exact refl

end Frame
end Sys2Proof.Machine
end

section
/-! Footprints of lifts and of the commands that are accesses by a name of their own (R326 to R332, R407, R324, R357). -/

namespace Sys2Proof.Machine

-- one proof after another: in parallel they wait for each other in too many threads
set_option Elab.async false
namespace Frame
variable {F G : List Part} {s t u : State} {p : Page}

/-! ### Lifts -/

theorem goes_liftRaise : Goes (.raises :: .lifts :: wakeParts) s (exec .liftRaise s) := by
  refine goes ?_
  split
  · exact refl
  next r rest hraises =>
  split
  · exact refl
  next hroom =>
  extract_lets rec_ words doms run x s1 s2
  have h1 : Frame [.raises, .lifts] s s1 := of_queue fun hi => by
    obtain ⟨hledger, hlifts, hsluice, hibi, huart, hmix, htal⟩ := hi
    refine ⟨hledger, ?_, hsluice, hibi, huart, hmix, htal⟩
    show (s.power.lifts ++ [run]).length ≤ 16
    simp only [Bool.or_eq_true, decide_eq_true_eq, not_or] at hroom
    rw [List.length_append, List.length_singleton]
    omega
  have h2 : Frame (.raises :: .lifts :: wakeParts) s s2 := h1.mono.trans (ite count.mono refl)
  exact (h2.step countWrap32).trans (foldl fun _ _ => wake.mono)

theorem restoreList {a k n : Nat} : Frame readParts s (s.restoreList a k n).1 := by
  induction n generalizing s k with
  | zero => exact refl
  | succ n ih =>
    unfold State.restoreList
    split
    next s1 e e1 =>
    have h1 : Frame readParts s s1 := meetData.of_fst e1
    split
    · exact h1
    · exact h1.trans ih

theorem restoreMap {a q x d n : Nat} : Frame (.arrays :: readParts) s (s.restoreMap a q x d n).1 := by
  induction n generalizing s with
  | zero => exact refl
  | succ n ih =>
    unfold State.restoreMap
    split
    next s0 ok e0 =>
    have h0 : Frame (.arrays :: readParts) s s0 := ih.of_fst e0
    split
    next s1 w e1 =>
    have h1 : Frame (.arrays :: readParts) s s1 := h0.step (meetData.of_fst e1)
    extract_lets i e
    split
    · exact h1
    split
    · dsimp only
      exact h1.step modArr
    · exact h1.step errCount

theorem restoreOne {x : LiftRun} {e : List Byte} : Frame resetParts s (s.restoreOne x e).1 := by
  unfold State.restoreOne
  extract_lets w a len dst src
  split
  · exact refl
  split
  · exact refl
  split
  · split
    · exact (meetData (a := src) (n := 64 * len)).mono.step dstore
    · exact refl
  · split
    · split
      · exact refl
      · exact pageWrite
    · exact pageWrite
  · exact restoreMap.mono

theorem liftRestore {x : LiftRun} {l : List (List Byte)} : Frame resetParts s (s.liftRestore x l).1 := by
  unfold State.liftRestore
  split
  next s1 bad e1 =>
  have h1 : Frame resetParts s s1 := by
    refine of_fst (foldl_fst refl fun y e => ?_) e1
    exact restoreOne
  exact h1.trans (foldl fun _ _ => setDom.mono)

theorem liftStreams {x : LiftRun} : Frame (.cams :: .audioRest :: wakeParts) s (s.liftStreams x).1 := by
  unfold State.liftStreams
  extract_lets refuse s1
  have hrefuse {t u : State} (h : Frame (.cams :: .audioRest :: wakeParts) t u) :
      Frame (.cams :: .audioRest :: wakeParts) t (refuse u) := h.step errCount
  have h1 : Frame (.cams :: .audioRest :: wakeParts) s s1 := ite ((refl.step wr).step hqOn) refl
  split
  next s2 aud e2 =>
  have h2 : Frame (.cams :: .audioRest :: wakeParts) s s2 := by
    refine of_fst (foldl_fst h1 fun y k => ?_) e2
    split
    · exact refl
    split
    next t r e =>
    have h : Frame (.cams :: .audioRest :: wakeParts) y.1 t := (streamStart.of_fst e).mono
    split
    · exact hrefuse h
    · exact h
  split
  next s3 isp e3 =>
  have h3 : Frame (.cams :: .audioRest :: wakeParts) s s3 := by
    refine of_fst (foldl_fst h2 fun y k => ?_) e3
    split
    · split
      next t r e =>
      have h : Frame (.cams :: .audioRest :: wakeParts) y.1 t := (ctxStart.of_fst e).mono
      split
      · exact hrefuse (h.step startRefused)
      · exact h
    · exact hrefuse startRefused.mono
  exact h3

theorem liftStart {x : LiftRun} {l : List Nat} : Frame (.cams :: stopParts) s (s.liftStart x l).1 := by
  refine foldl_fst refl fun y a => ?_
  split
  · exact refl
  split
  · exact refl
  · exact runPage

theorem proceed {i : Nat} {x : LiftRun} {l : List (List Byte)} : Frame resetParts s (s.proceed i x l) := by
  unfold State.proceed
  split
  next s1 bad e1 =>
  have h1 : Frame resetParts s s1 := liftRestore.of_fst e1
  split
  next s2 isp aud e2 =>
  have h2 : Frame resetParts s s2 := h1.step (liftStreams.of_fst e2)
  split
  next s3 ns e3 =>
  have h3 : Frame resetParts s s3 := h2.step (liftStart.of_fst e3)
  extract_lets came s4 s5
  have h4 : Frame resetParts s s4 := h3.step dstore
  have h5 : Frame resetParts s s5 := h4.trans (ite signalTally.mono refl)
  clear_value s5
  have herase : Frame [.lifts] s5 { s5 with power := { s5.power with lifts := s5.power.lifts.eraseIdx i } } := of_queue fun hi => by
    obtain ⟨hledger, hlifts, hsluice, hibi, huart, hmix, htal⟩ := hi
    exact ⟨hledger, ((List.eraseIdx_sublist _ _).length_le).trans hlifts, hsluice, hibi, huart, hmix, htal⟩
  exact h5.step herase

theorem goes_liftProceed {i : Nat} : Goes resetParts s (exec (.liftProceed i) s) := by
  refine goes ?_
  split
  · exact refl
  refine ite refl ?_
  extract_lets at_
  split
  next s1 on e1 =>
  have h1 : Frame resetParts s s1 := (wakeAll.of_fst e1).mono
  refine ite h1 ?_
  split
  next s2 l e2 =>
  have h2 : Frame resetParts s s2 := by
    refine of_fst ?_ e2
    split
    · exact h1
    · exact h1.step restoreList
  split
  next s3 on3 e3 =>
  have h3 : Frame resetParts s s3 := h2.step (wakeAll.of_fst e3)
  exact ite (h3.trans proceed) h3

/-! ### Accesses by a name of their own -/

theorem goes_pageStopped {a c : Nat} : Goes (.cams :: stopParts) s (exec (.pageStopped a c) s) := by
  refine goes ?_
  split
  · exact refl
  · exact pageStopped

theorem goes_cntClr {v : View} {a : Nat} {w : Word} : Goes resetParts s (exec (.cntClr v a w) s) := by
  refine goes ?_
  split
  · exact ite busWrite refl
  · exact ite busWrite refl
  · exact ite busWrite refl
  · exact refl

theorem goes_frameZeroing {k : Nat} : Goes [.mem, .tierRest] s (exec (.frameZeroing k) s) := goes (ite zeroFrame refl)

theorem unstall {d : Nat} : Frame resetParts s (s.unstall d) := by
  unfold State.unstall
  extract_lets mine
  have h0 : Frame [.stalled] s { s with stalled := s.stalled.filter fun x => x.dom != d } := stalled
  refine h0.mono.trans (foldl fun u x => ?_)
  split
  · exact busWrite
  · exact busRead.mono

theorem goes_domainReady {d : Nat} : Goes resetParts s (exec (.domainReady d) s) := by
  refine goes ?_
  extract_lets s1
  have h1 : Frame resetParts s s1 := becomeReady.mono
  exact ite ((h1.step assignResume).trans unstall) h1

theorem goes_jtagAccess {j : Jtag} : Goes (.mem :: .arrays :: .doms :: .drop :: .portsRest :: readParts) s (exec (.jtagAccess j) s) := by
  refine goes ?_
  extract_lets byp scope
  have hbyp {t : State} {b : Bool} (h : Frame (.mem :: .arrays :: .doms :: .drop :: .portsRest :: readParts) s t) :
      Frame (.mem :: .arrays :: .doms :: .drop :: .portsRest :: readParts) s (byp t b) := h.step setPorts
  cases j with
  | bypass => exact hbyp refl
  | idcode => exact (hbyp refl).step emit
  | stewardDm => exact hbyp refl
  | aon => exact hbyp refl
  | extest => exact hbyp refl
  | busRead a =>
    refine ite (hbyp refl) (ite (hbyp refl) ?_)
    split
    next s1 on e1 =>
    have h1 : Frame (.mem :: .arrays :: .doms :: .drop :: .portsRest :: readParts) s s1 := (wakeAll.of_fst e1).mono
    refine ite ?_ h1
    split
    next s2 d e2 => exact (hbyp (h1.step (readAt.of_fst e2))).step emit
  | busWrite a d =>
    refine ite (hbyp refl) (ite (hbyp refl) ?_)
    split
    next s1 on e1 =>
    have h1 : Frame (.mem :: .arrays :: .doms :: .drop :: .portsRest :: readParts) s s1 := (wakeAll.of_fst e1).mono
    exact ite ((hbyp h1).step dstore) h1

end Frame
end Sys2Proof.Machine
end

section
/-! Every command of the table goes on, keeps the queue and the invariants, and never turns the timestamp back. -/

namespace Sys2Proof.Machine

-- one proof after another: in parallel they wait for each other in too many threads
set_option Elab.async false

/-- What a command may touch: all but the queue of commands. -/
abbrev commandParts : List Part := .now :: resetParts

namespace Frame
variable {s t : State}

theorem Goes.mono {F G : List Part} {s : State} {x : Ans} (h : Goes G s x) (hG : ∀ k ∈ G, k ∈ F := by decide) : Goes F s x := by
  obtain ⟨t, hx, ht⟩ := h
  exact ⟨t, hx, ht.mono hG⟩

/-- The footprint of every command, one arm each. -/
theorem goes_command (c : Instr) : Goes commandParts s (exec c s) :=
  match c with
  | .matmul _ _ => goes_matmul.mono
  | .conv _ _ => goes_conv.mono
  | .pool _ _ => goes_pool.mono
  | .eltwise _ _ => goes_eltwise.mono
  | .moveConvert _ _ => goes_moveConvert.mono
  | .pair _ _ => goes_pair.mono
  | .pairBwd _ _ => goes_pairBwd.mono
  | .expand _ _ => goes_expand.mono
  | .decode _ _ => goes_decode.mono
  | .recur _ _ => goes_recur.mono
  | .tallySignalOp _ => goes_tallySignalOp.mono
  | .tallyWaitOp _ => goes_tallyWaitOp.mono
  | .lift _ => goes_lift.mono
  | .sealOp _ => goes_sealOp.mono
  | .doze _ => goes_doze.mono
  | .weightRefetch _ _ => goes_weightRefetch.mono
  | .macroOpComplete _ => goes_macroOpComplete.mono
  | .gangBarrierStart _ => goes_gangBarrierStart.mono
  | .cmplRd _ _ _ => (goes (ite refl busWrite)).mono
  | .arbiterChoice _ => goes_arbiterChoice.mono
  | .epochBoundary => goes_epochBoundary.mono
  | .weirWindowStart => goes_weirWindowStart.mono
  | .tallySignal _ _ => signalTally.goes.mono
  | .sigInc _ _ => busWrite.goes.mono
  | .initThresh _ _ => busWrite.goes.mono
  | .tallyAllocate _ _ => busWrite.goes.mono
  | .tallyFree _ _ => busWrite.goes.mono
  | .load _ _ => goes_load.mono
  | .ottAlloc _ _ => busWrite.goes.mono
  | .ottRelease _ _ => busWrite.goes.mono
  | .ottReleaseResume => releaseResume.goes.mono
  | .ottSet _ _ => busWrite.goes.mono
  | .ottMove _ _ => busWrite.goes.mono
  | .pageMoveComplete _ => completeMove.goes.mono
  | .frameZeroing _ => goes_frameZeroing.mono
  | .dmaCopy _ _ _ => goes_dmaCopy.mono
  | .dmaFill _ _ _ => goes_dmaFill.mono
  | .dmaComplete _ _ => goes_dmaComplete.mono
  | .t1Quota _ _ => partReg.goes.mono
  | .partEnable _ _ => partReg.goes.mono
  | .partDisable _ _ => partReg.goes.mono
  | .partitionTeardown _ => goes_partitionTeardown.mono
  | .vfFlr _ => goes_vfFlr.mono
  | .assignRelease _ _ => partReg.goes.mono
  | .assignOwn _ _ => partReg.goes.mono
  | .shareAdd _ _ => partReg.goes.mono
  | .shareRemove _ _ => partReg.goes.mono
  | .ownerProg _ _ => secNamed.goes.mono
  | .lcAdvance _ _ => secNamed.goes.mono
  | .rollbackAdv _ _ => secNamed.goes.mono
  | .dbgChallenge _ _ => secNamed.goes.mono
  | .dbgResponse _ _ => secNamed.goes.mono
  | .wellRekey _ _ => secNamed.goes.mono
  | .getVersion => spdm_answers.goes.mono
  | .getCapabilities => spdm_answers.goes.mono
  | .negotiateAlgorithms => spdm_answers.goes.mono
  | .getDigests => (goes (spdm fun _ => emit.mono)).mono
  | .getCertificate _ _ _ => (goes (spdm fun _ => emit.mono)).mono
  | .challenge _ _ => (goes (spdm fun _ => signed.mono)).mono
  | .getMeasurements _ _ _ => goes_getMeasurements.mono
  | .keyExchange _ => (goes (spdm fun _ => (refl.step setSpdm).step signed)).mono
  | .finish _ => goes_finish.mono
  | .heartbeat => (goes (spdm fun _ => emit.mono)).mono
  | .keyUpdate => spdm_answers.goes.mono
  | .endSession => spdm_answers.goes.mono
  | .ideKm _ => goes_ideKm.mono
  | .ideIntegrityFailure _ => goes_ideIntegrityFailure.mono
  | .tlpReceived _ => goes_tlpReceived.mono
  | .trngDataRead _ => busRead.goes.mono
  | .trngSeeded => goes_trngSeeded.mono
  | .healthFail => goes_healthFail.mono
  | .drbgReseed => goes_drbgReseed.mono
  | .pwrReq _ _ _ => namedWrite.goes.mono
  | .domainEntry _ => goes_domainEntry.mono
  | .domainWake _ => goes_domainWake.mono
  | .domainReady _ => goes_domainReady.mono
  | .seqGo _ _ => busWrite.goes.mono
  | .seqTimeout => goes_seqTimeout.mono
  | .liftRaise => goes_liftRaise.mono
  | .liftProceed _ => goes_liftProceed.mono
  | .pcmSample _ => goes_pcmSample.mono
  | .blockClose _ => goes_blockClose.mono
  | .vadStart => fireEvent.goes.mono
  | .vadEnd => fireEvent.goes.mono
  | .glass => fireEvent.goes.mono
  | .alarmT3 => fireEvent.goes.mono
  | .alarmCont => fireEvent.goes.mono
  | .audioStreamStart _ _ _ => (goes (ite refl audioReg)).mono
  | .audioStreamStop _ _ _ => (goes (ite refl audioReg)).mono
  | .audioBlockDelivery _ => goes_audioBlockDelivery.mono
  | .hqStart _ _ => audioReg.goes.mono
  | .hqStop _ _ => audioReg.goes.mono
  | .calLoad _ _ => audioReg.goes.mono
  | .channelUnderrun _ => goes_channelUnderrun.mono
  | .channelResume _ => goes_channelResume.mono
  | .muteAssert => goes_muteAssert.mono
  | .muteRelease => goes_muteRelease.mono
  | .aoutEnable _ _ _ => goes_aoutEnable.mono
  | .aoutFrame _ => goes_aoutFrame.mono
  | .aoutPeriodSignal _ => goes_aoutPeriodSignal.mono
  | .frameStart _ _ _ => goes_frameStart.mono
  | .frameEnd _ _ _ => goes_frameEnd.mono
  | .longPacket _ => goes_longPacket.mono
  | .lineShortPacket _ _ _ => header.goes.mono
  | .deskewReceived _ => goes_deskewReceived.mono
  | .shadowCommit _ _ _ => goes_shadowCommit.mono
  | .cisRes _ _ _ => goes_cisRes.mono
  | .workItem _ => goes_workItem.mono
  | .deadlineSkip _ => goes_deadlineSkip.mono
  | .groupAbsent _ _ => goes_groupAbsent.mono
  | .hostDmaTail _ _ => goes_hostDmaTail.mono
  | .hostDmaDescriptor _ _ _ _ => goes_hostDmaDescriptor.mono
  | .perstNRise => goes_perstNRise.mono
  | .perstNFall => goes_perstNFall.mono
  | .hostD3cold => goes_hostD3cold.mono
  | .pcieLinkRecovery => goes_pcieLinkRecovery.mono
  | .msixUnmask _ _ => goes_msixUnmask.mono
  | .xspiCommand _ => goes_xspiCommand.mono
  | .i3cIbi _ _ => i3cRequest.goes.mono
  | .i3cHotJoin _ => i3cRequest.goes.mono
  | .i3cPrivateRead _ => goes_i3cPrivateRead.mono
  | .uartReceive _ => goes_uartReceive.mono
  | .uartQuery => goes_uartQuery.mono
  | .aspWord _ => goes_aspWord.mono
  | .drainGo _ _ => goes_drainGo.mono
  | .aspDrainEnd => goes_aspDrainEnd.mono
  | .gaugeCurrentSample _ => goes_gaugeCurrentSample.mono
  | .gaugeVoltageSample _ _ _ => goes_gaugeVoltageSample.mono
  | .gaugeRangeChange => goes_gaugeRangeChange.mono
  | .gaugeEmptySet => goes_gaugeEmptySet.mono
  | .gaugeEmptyClear => goes_gaugeEmptyClear.mono
  | .gaugeReanchor => goes_gaugeReanchor.mono
  | .qLoad _ _ => goes_qLoad.mono
  | .panelGo _ _ => goes_panelGo.mono
  | .panelPumpsReady => goes_panelPumpsReady.mono
  | .panelPhaseEnd => goes_panelPhaseEnd.mono
  | .hvSupplyFail _ => goes_hvSupplyFail.mono
  | .porstNRise _ => goes_porstNRise.mono
  | .porstNFall => goes_porstNFall.mono
  | .aonPowerOnReset => goes_aonPowerOnReset.mono
  | .selfTestVerdict => goes_selfTestVerdict.mono
  | .restart _ _ => goes_restart.mono
  | .thermalTrip _ _ => goes_thermalTrip.mono
  | .thermalTripRelease _ => goes_thermalTripRelease.mono
  | .throttleStepDown _ _ => goes_throttleStepDown.mono
  | .throttleStepUp _ _ => goes_throttleStepUp.mono
  | .headroomLow _ _ _ => goes_headroomLow.mono
  | .vddMaCollapse _ => goes_vddMaCollapse.mono
  | .oppReq _ _ _ => goes_oppReq.mono
  | .oppSettled _ => goes_oppSettled.mono
  | .rtcFallback => supply.goes.mono
  | .retrain _ _ _ => goes_retrain.mono
  | .ackN _ _ => busWrite.goes.mono
  | .run _ _ _ => namedWrite.goes.mono
  | .stopReq _ _ _ => namedWrite.goes.mono
  | .pageStopped _ _ => goes_pageStopped.mono
  | .cfgOpen _ _ _ => namedWrite.goes.mono
  | .errClr _ _ _ => namedWrite.goes.mono
  | .irqClr _ _ _ => namedWrite.goes.mono
  | .irqForce _ _ _ => namedWrite.goes.mono
  | .irqMask _ _ _ => namedWrite.goes.mono
  | .cntClr _ _ _ => goes_cntClr.mono
  | .resClr _ _ _ => (goes (ite refl busWrite)).mono
  | .seqClr _ _ _ => (goes (ite refl busWrite)).mono
  | .latchedRead _ _ => busRead.goes.mono
  | .registerWrite _ _ _ _ => busWrite.goes.mono
  | .telemWindowEnd _ => goes_telemWindowEnd.mono
  | .pcieTlpReplay => goes_pcieTlpReplay.mono
  | .pcieLinkUp => goes_pcieLinkUp.mono
  | .completionTimeout _ => goes_completionTimeout.mono
  | .imageUnload _ _ => goes_imageUnload.mono
  | .supplyRailRestored _ _ => goes_supplyRailRestored.mono
  | .lpddrHot _ _ => goes_lpddrHot.mono
  | .jtagAccess _ => goes_jtagAccess.mono

end Frame

/-- Settles O2: every command's footprint leaves the queue out and lets time only pass. -/
theorem everyCommandGoesOn : Obligations.EveryCommandGoesOn := by
  unfold Obligations.EveryCommandGoesOn
  intro c s
  obtain ⟨t, hexec, hframe⟩ := Frame.goes_command (s := s) c
  exact ⟨t, hexec, hframe.same .pending (by decide), hframe.now⟩

/-- A step is an empty tick, which moves the time alone, or a command on the state without the front of its queue. -/
theorem frame_of_step {s t : State} (h : step s = .next t) : Frame (.pending :: commandParts) s t := by
  unfold step at h
  split at h
  · injection h with h
    subst h
    exact (Frame.timeTo (Nat.le_succ _)).mono
  · next c rest _ =>
    have hpop : Frame [.pending] s { s with pending := rest } := .of_same
    obtain ⟨u, hexec, hframe⟩ := Frame.goes_command (s := { s with pending := rest }) c
    rw [hexec] at h
    injection h with h
    exact h ▸ hpop.mono.step hframe

/-- Settles O4: both invariants are kept by every footprint. -/
theorem stepKeepsTheInvariants : Obligations.StepKeepsTheInvariants :=
  ⟨fun _ _ hi h => (frame_of_step h).mem hi, fun _ _ hi h => (frame_of_step h).queue hi⟩

end Sys2Proof.Machine
end

section
/-! What interrupts and counters leave in the registers and elsewhere (R53, R412, R414), in the form that `simp` uses. -/

namespace Sys2Proof.Machine

-- one proof after another: in parallel they wait for each other in too many threads
set_option Elab.async false

variable (s : State)

/-! ### Fields beside the registers -/

theorem State.registersOnly_count (p : Page) (b : Nat) (f sat : Fld) (n : Nat) : s.RegistersOnly (s.count p b f sat n) := by
  unfold State.count
  dsimp only
  split <;> rfl


@[simp] theorem State.irq_mem (p : Page) (q : Option Nat) (k : Nat) : (s.irq p q k).mem = s.mem := (congrArg State.mem (s.registersOnly_irq p q k) :)
@[simp] theorem State.irq_now (p : Page) (q : Option Nat) (k : Nat) : (s.irq p q k).now = s.now := (congrArg State.now (s.registersOnly_irq p q k) :)
@[simp] theorem State.irq_free (p : Page) (q : Option Nat) (k : Nat) : (s.irq p q k).free = s.free := (congrArg State.free (s.registersOnly_irq p q k) :)
@[simp] theorem State.irq_tallies (p : Page) (q : Option Nat) (k : Nat) : (s.irq p q k).tallies = s.tallies := (congrArg State.tallies (s.registersOnly_irq p q k) :)
@[simp] theorem State.irq_waiters (p : Page) (q : Option Nat) (k : Nat) : (s.irq p q k).waiters = s.waiters := (congrArg State.waiters (s.registersOnly_irq p q k) :)
@[simp] theorem State.irq_arrays (p : Page) (q : Option Nat) (k : Nat) : (s.irq p q k).arrays = s.arrays := (congrArg State.arrays (s.registersOnly_irq p q k) :)
@[simp] theorem State.irq_dmas (p : Page) (q : Option Nat) (k : Nat) : (s.irq p q k).dmas = s.dmas := (congrArg State.dmas (s.registersOnly_irq p q k) :)
@[simp] theorem State.irq_tier (p : Page) (q : Option Nat) (k : Nat) : (s.irq p q k).tier = s.tier := (congrArg State.tier (s.registersOnly_irq p q k) :)
@[simp] theorem State.irq_images (p : Page) (q : Option Nat) (k : Nat) : (s.irq p q k).images = s.images := (congrArg State.images (s.registersOnly_irq p q k) :)
@[simp] theorem State.irq_seals (p : Page) (q : Option Nat) (k : Nat) : (s.irq p q k).seals = s.seals := (congrArg State.seals (s.registersOnly_irq p q k) :)
@[simp] theorem State.irq_power (p : Page) (q : Option Nat) (k : Nat) : (s.irq p q k).power = s.power := (congrArg State.power (s.registersOnly_irq p q k) :)
@[simp] theorem State.irq_audio (p : Page) (q : Option Nat) (k : Nat) : (s.irq p q k).audio = s.audio := (congrArg State.audio (s.registersOnly_irq p q k) :)
@[simp] theorem State.irq_cams (p : Page) (q : Option Nat) (k : Nat) : (s.irq p q k).cams = s.cams := (congrArg State.cams (s.registersOnly_irq p q k) :)
@[simp] theorem State.irq_sec (p : Page) (q : Option Nat) (k : Nat) : (s.irq p q k).sec = s.sec := (congrArg State.sec (s.registersOnly_irq p q k) :)
@[simp] theorem State.irq_gauge (p : Page) (q : Option Nat) (k : Nat) : (s.irq p q k).gauge = s.gauge := (congrArg State.gauge (s.registersOnly_irq p q k) :)
@[simp] theorem State.irq_panel (p : Page) (q : Option Nat) (k : Nat) : (s.irq p q k).panel = s.panel := (congrArg State.panel (s.registersOnly_irq p q k) :)
@[simp] theorem State.irq_boot (p : Page) (q : Option Nat) (k : Nat) : (s.irq p q k).boot = s.boot := (congrArg State.boot (s.registersOnly_irq p q k) :)
@[simp] theorem State.irq_supply (p : Page) (q : Option Nat) (k : Nat) : (s.irq p q k).supply = s.supply := (congrArg State.supply (s.registersOnly_irq p q k) :)
@[simp] theorem State.irq_upsets (p : Page) (q : Option Nat) (k : Nat) : (s.irq p q k).upsets = s.upsets := (congrArg State.upsets (s.registersOnly_irq p q k) :)
@[simp] theorem State.irq_wellErrs (p : Page) (q : Option Nat) (k : Nat) : (s.irq p q k).wellErrs = s.wellErrs := (congrArg State.wellErrs (s.registersOnly_irq p q k) :)
@[simp] theorem State.irq_stalled (p : Page) (q : Option Nat) (k : Nat) : (s.irq p q k).stalled = s.stalled := (congrArg State.stalled (s.registersOnly_irq p q k) :)
@[simp] theorem State.irq_latches (p : Page) (q : Option Nat) (k : Nat) : (s.irq p q k).latches = s.latches := (congrArg State.latches (s.registersOnly_irq p q k) :)
@[simp] theorem State.irq_pending (p : Page) (q : Option Nat) (k : Nat) : (s.irq p q k).pending = s.pending := (congrArg State.pending (s.registersOnly_irq p q k) :)

@[simp] theorem State.errCount_mem (p : Page) (b i n : Nat) : (s.errCount p b i n).mem = s.mem := (congrArg State.mem (s.registersOnly_errCount p b i n) :)
@[simp] theorem State.errCount_now (p : Page) (b i n : Nat) : (s.errCount p b i n).now = s.now := (congrArg State.now (s.registersOnly_errCount p b i n) :)
@[simp] theorem State.errCount_free (p : Page) (b i n : Nat) : (s.errCount p b i n).free = s.free := (congrArg State.free (s.registersOnly_errCount p b i n) :)
@[simp] theorem State.errCount_tallies (p : Page) (b i n : Nat) : (s.errCount p b i n).tallies = s.tallies := (congrArg State.tallies (s.registersOnly_errCount p b i n) :)
@[simp] theorem State.errCount_waiters (p : Page) (b i n : Nat) : (s.errCount p b i n).waiters = s.waiters := (congrArg State.waiters (s.registersOnly_errCount p b i n) :)
@[simp] theorem State.errCount_arrays (p : Page) (b i n : Nat) : (s.errCount p b i n).arrays = s.arrays := (congrArg State.arrays (s.registersOnly_errCount p b i n) :)
@[simp] theorem State.errCount_dmas (p : Page) (b i n : Nat) : (s.errCount p b i n).dmas = s.dmas := (congrArg State.dmas (s.registersOnly_errCount p b i n) :)
@[simp] theorem State.errCount_tier (p : Page) (b i n : Nat) : (s.errCount p b i n).tier = s.tier := (congrArg State.tier (s.registersOnly_errCount p b i n) :)
@[simp] theorem State.errCount_images (p : Page) (b i n : Nat) : (s.errCount p b i n).images = s.images := (congrArg State.images (s.registersOnly_errCount p b i n) :)
@[simp] theorem State.errCount_seals (p : Page) (b i n : Nat) : (s.errCount p b i n).seals = s.seals := (congrArg State.seals (s.registersOnly_errCount p b i n) :)
@[simp] theorem State.errCount_power (p : Page) (b i n : Nat) : (s.errCount p b i n).power = s.power := (congrArg State.power (s.registersOnly_errCount p b i n) :)
@[simp] theorem State.errCount_audio (p : Page) (b i n : Nat) : (s.errCount p b i n).audio = s.audio := (congrArg State.audio (s.registersOnly_errCount p b i n) :)
@[simp] theorem State.errCount_cams (p : Page) (b i n : Nat) : (s.errCount p b i n).cams = s.cams := (congrArg State.cams (s.registersOnly_errCount p b i n) :)
@[simp] theorem State.errCount_sec (p : Page) (b i n : Nat) : (s.errCount p b i n).sec = s.sec := (congrArg State.sec (s.registersOnly_errCount p b i n) :)
@[simp] theorem State.errCount_gauge (p : Page) (b i n : Nat) : (s.errCount p b i n).gauge = s.gauge := (congrArg State.gauge (s.registersOnly_errCount p b i n) :)
@[simp] theorem State.errCount_panel (p : Page) (b i n : Nat) : (s.errCount p b i n).panel = s.panel := (congrArg State.panel (s.registersOnly_errCount p b i n) :)
@[simp] theorem State.errCount_boot (p : Page) (b i n : Nat) : (s.errCount p b i n).boot = s.boot := (congrArg State.boot (s.registersOnly_errCount p b i n) :)
@[simp] theorem State.errCount_supply (p : Page) (b i n : Nat) : (s.errCount p b i n).supply = s.supply := (congrArg State.supply (s.registersOnly_errCount p b i n) :)
@[simp] theorem State.errCount_upsets (p : Page) (b i n : Nat) : (s.errCount p b i n).upsets = s.upsets := (congrArg State.upsets (s.registersOnly_errCount p b i n) :)
@[simp] theorem State.errCount_wellErrs (p : Page) (b i n : Nat) : (s.errCount p b i n).wellErrs = s.wellErrs := (congrArg State.wellErrs (s.registersOnly_errCount p b i n) :)
@[simp] theorem State.errCount_stalled (p : Page) (b i n : Nat) : (s.errCount p b i n).stalled = s.stalled := (congrArg State.stalled (s.registersOnly_errCount p b i n) :)
@[simp] theorem State.errCount_latches (p : Page) (b i n : Nat) : (s.errCount p b i n).latches = s.latches := (congrArg State.latches (s.registersOnly_errCount p b i n) :)
@[simp] theorem State.errCount_pending (p : Page) (b i n : Nat) : (s.errCount p b i n).pending = s.pending := (congrArg State.pending (s.registersOnly_errCount p b i n) :)

@[simp] theorem State.count_mem (p : Page) (b : Nat) (f g : Fld) (n : Nat) : (s.count p b f g n).mem = s.mem := (congrArg State.mem (s.registersOnly_count p b f g n) :)
@[simp] theorem State.count_now (p : Page) (b : Nat) (f g : Fld) (n : Nat) : (s.count p b f g n).now = s.now := (congrArg State.now (s.registersOnly_count p b f g n) :)
@[simp] theorem State.count_free (p : Page) (b : Nat) (f g : Fld) (n : Nat) : (s.count p b f g n).free = s.free := (congrArg State.free (s.registersOnly_count p b f g n) :)
@[simp] theorem State.count_tallies (p : Page) (b : Nat) (f g : Fld) (n : Nat) : (s.count p b f g n).tallies = s.tallies := (congrArg State.tallies (s.registersOnly_count p b f g n) :)
@[simp] theorem State.count_waiters (p : Page) (b : Nat) (f g : Fld) (n : Nat) : (s.count p b f g n).waiters = s.waiters := (congrArg State.waiters (s.registersOnly_count p b f g n) :)
@[simp] theorem State.count_arrays (p : Page) (b : Nat) (f g : Fld) (n : Nat) : (s.count p b f g n).arrays = s.arrays := (congrArg State.arrays (s.registersOnly_count p b f g n) :)
@[simp] theorem State.count_dmas (p : Page) (b : Nat) (f g : Fld) (n : Nat) : (s.count p b f g n).dmas = s.dmas := (congrArg State.dmas (s.registersOnly_count p b f g n) :)
@[simp] theorem State.count_tier (p : Page) (b : Nat) (f g : Fld) (n : Nat) : (s.count p b f g n).tier = s.tier := (congrArg State.tier (s.registersOnly_count p b f g n) :)
@[simp] theorem State.count_images (p : Page) (b : Nat) (f g : Fld) (n : Nat) : (s.count p b f g n).images = s.images := (congrArg State.images (s.registersOnly_count p b f g n) :)
@[simp] theorem State.count_seals (p : Page) (b : Nat) (f g : Fld) (n : Nat) : (s.count p b f g n).seals = s.seals := (congrArg State.seals (s.registersOnly_count p b f g n) :)
@[simp] theorem State.count_power (p : Page) (b : Nat) (f g : Fld) (n : Nat) : (s.count p b f g n).power = s.power := (congrArg State.power (s.registersOnly_count p b f g n) :)
@[simp] theorem State.count_audio (p : Page) (b : Nat) (f g : Fld) (n : Nat) : (s.count p b f g n).audio = s.audio := (congrArg State.audio (s.registersOnly_count p b f g n) :)
@[simp] theorem State.count_cams (p : Page) (b : Nat) (f g : Fld) (n : Nat) : (s.count p b f g n).cams = s.cams := (congrArg State.cams (s.registersOnly_count p b f g n) :)
@[simp] theorem State.count_sec (p : Page) (b : Nat) (f g : Fld) (n : Nat) : (s.count p b f g n).sec = s.sec := (congrArg State.sec (s.registersOnly_count p b f g n) :)
@[simp] theorem State.count_gauge (p : Page) (b : Nat) (f g : Fld) (n : Nat) : (s.count p b f g n).gauge = s.gauge := (congrArg State.gauge (s.registersOnly_count p b f g n) :)
@[simp] theorem State.count_panel (p : Page) (b : Nat) (f g : Fld) (n : Nat) : (s.count p b f g n).panel = s.panel := (congrArg State.panel (s.registersOnly_count p b f g n) :)
@[simp] theorem State.count_boot (p : Page) (b : Nat) (f g : Fld) (n : Nat) : (s.count p b f g n).boot = s.boot := (congrArg State.boot (s.registersOnly_count p b f g n) :)
@[simp] theorem State.count_supply (p : Page) (b : Nat) (f g : Fld) (n : Nat) : (s.count p b f g n).supply = s.supply := (congrArg State.supply (s.registersOnly_count p b f g n) :)
@[simp] theorem State.count_upsets (p : Page) (b : Nat) (f g : Fld) (n : Nat) : (s.count p b f g n).upsets = s.upsets := (congrArg State.upsets (s.registersOnly_count p b f g n) :)
@[simp] theorem State.count_wellErrs (p : Page) (b : Nat) (f g : Fld) (n : Nat) : (s.count p b f g n).wellErrs = s.wellErrs := (congrArg State.wellErrs (s.registersOnly_count p b f g n) :)
@[simp] theorem State.count_stalled (p : Page) (b : Nat) (f g : Fld) (n : Nat) : (s.count p b f g n).stalled = s.stalled := (congrArg State.stalled (s.registersOnly_count p b f g n) :)
@[simp] theorem State.count_latches (p : Page) (b : Nat) (f g : Fld) (n : Nat) : (s.count p b f g n).latches = s.latches := (congrArg State.latches (s.registersOnly_count p b f g n) :)
@[simp] theorem State.count_pending (p : Page) (b : Nat) (f g : Fld) (n : Nat) : (s.count p b f g n).pending = s.pending := (congrArg State.pending (s.registersOnly_count p b f g n) :)
@[simp] theorem State.count_out (p : Page) (b : Nat) (f g : Fld) (n : Nat) : (s.count p b f g n).out = s.out := by
  unfold State.count
  dsimp only
  split <;> rfl
@[simp] theorem State.count_ports (p : Page) (b : Nat) (f g : Fld) (n : Nat) : (s.count p b f g n).ports = s.ports := by
  unfold State.count
  dsimp only
  split <;> rfl
@[simp] theorem State.count_parts (p : Page) (b : Nat) (f g : Fld) (n : Nat) : (s.count p b f g n).parts = s.parts := by
  unfold State.count
  dsimp only
  split <;> rfl

/-! ### Registers -/

variable {s}

theorem State.rd_irq_none {p q : Page} {c k : Nat} {g : Fld} (h : regKey q c g ≠ regKey p 0 Reg.Hdr.IRQ_RAW) :
    (s.irq p none k).rd q c g = s.rd q c g := s.rd_orRaw_other h

theorem State.rd_irq_some {p q : Page} {v c k : Nat} {g : Fld} (h : regKey q c g ≠ regKey p 0 Reg.Hdr.IRQ_RAW)
    (hv : regKey q c g ≠ regKey p (v + 1) Reg.Hdr.IRQ_RAW) : (s.irq p (some v) k).rd q c g = s.rd q c g :=
  ((s.orRaw p 0 (2 ^ k)).rd_orRaw_other hv).trans (s.rd_orRaw_other h)

theorem State.rd_count_other {p q : Page} {b c n : Nat} {f sat g : Fld} (hf : regKey q c g ≠ regKey p b f)
    (hsat : regKey q c g ≠ regKey p b sat) : (s.count p b f sat n).rd q c g = s.rd q c g := by
  unfold State.count
  dsimp only
  split
  · rw [State.rd_wr_other _ _ hsat, State.rd_wr_other _ _ hf]
  · rw [State.rd_wr_other _ _ hf]

/-- A 31-bit counter reads the sum, held at its end; its SAT bit lies at another key. -/
theorem State.rd_count_self {p : Page} {b n : Nat} {f sat : Fld} (hsat : regKey p b f ≠ regKey p b sat) (hw : f.width = 31) :
    (s.count p b f sat n).rd p b f = (count31 (s.rd p b f) n).1 := by
  have hmod : (count31 (s.rd p b f) n).1 % 2 ^ f.width = (count31 (s.rd p b f) n).1 := by
    rw [hw]
    exact Nat.mod_eq_of_lt (count31_lt _ _)
  unfold State.count
  dsimp only
  split
  · rw [State.rd_wr_other _ _ hsat, State.rd_wr_self, hmod]
  · rw [State.rd_wr_self, hmod]

theorem State.rd_errCount_other {p q : Page} {b c i n : Nat} {g : Fld} (hf : regKey q c g ≠ regKey p b (Reg.Hdr.ERR_CNT i))
    (hsat : regKey q c g ≠ regKey p b (Reg.Hdr.ERR_CNT_SAT i)) (hraw : regKey q c g ≠ regKey p 0 Reg.Hdr.IRQ_RAW) :
    (s.errCount p b i n).rd q c g = s.rd q c g := by
  unfold State.errCount
  dsimp only
  split
  · rw [State.rd_irq_none hraw, State.rd_wr_other _ _ hsat, State.rd_wr_other _ _ hf]
  · rw [State.rd_wr_other _ _ hf]

/-- A bit of an interrupt register that is set stays set when another bit sets. -/
theorem bitAt_or32_of_left {a : Nat} (b : Nat) {i : Nat} (hi : i < 32) (h : bitAt a i = true) : bitAt (or32 a b) i = true := by
  simp only [bitAt_eq_testBit, or32_toNat, Nat.testBit_or, Nat.testBit_mod_two_pow, hi, decide_true, Bool.true_and] at h ⊢
  rw [h, Bool.true_or]

theorem IrqSet.irq_none {p : Page} {i : Nat} (h : IrqSet s p 0 i) (hi : i < 32) (q : Page) (k : Nat) :
    IrqSet (s.irq q none k) p 0 i := by
  by_cases hkey : regKey p 0 Reg.Hdr.IRQ_RAW = regKey q 0 Reg.Hdr.IRQ_RAW
  · have hrd : s.rd q 0 Reg.Hdr.IRQ_RAW = s.rd p 0 Reg.Hdr.IRQ_RAW := by rw [State.rd, State.rd, hkey]
    have hself : (s.irq q none k).rd p 0 Reg.Hdr.IRQ_RAW = or32 (s.rd q 0 Reg.Hdr.IRQ_RAW) (2 ^ k) := by
      rw [State.rd, hkey]
      exact s.rd_orRaw_self q 0 (2 ^ k)
    rw [IrqSet, hself, hrd]
    exact bitAt_or32_of_left _ hi h
  · rw [IrqSet, State.rd_irq_none hkey]
    exact h

/-! ### Registers under updates of other pieces -/

variable (s) (p : Page) (b : Nat) (f : Fld)

@[simp] theorem State.rd_setGauge (x : GaugeS) : (s.setGauge x).rd p b f = s.rd p b f := rfl
@[simp] theorem State.rd_setPanel (x : PanelS) : (s.setPanel x).rd p b f = s.rd p b f := rfl
@[simp] theorem State.rd_setAudio (x : AudioS) : (s.setAudio x).rd p b f = s.rd p b f := rfl
@[simp] theorem State.rd_setStream (i : Nat) (x : StreamS) : (s.setStream i x).rd p b f = s.rd p b f := rfl
@[simp] theorem State.rd_setPorts (x : PortsS) : (s.setPorts x).rd p b f = s.rd p b f := rfl
@[simp] theorem State.rd_setDom (d : Nat) (x : Dom) : (s.setDom d x).rd p b f = s.rd p b f := rfl
@[simp] theorem State.rd_setArr (a : Nat) (x : ArrayS) : (s.setArr a x).rd p b f = s.rd p b f := rfl
@[simp] theorem State.rd_modArr (a : Nat) (g : ArrayS → ArrayS) : (s.modArr a g).rd p b f = s.rd p b f := rfl
@[simp] theorem State.rd_setDma (a : Nat) (x : DmaS) : (s.setDma a x).rd p b f = s.rd p b f := rfl
@[simp] theorem State.rd_setTally (i : Nat) (x : Tally) : (s.setTally i x).rd p b f = s.rd p b f := rfl
@[simp] theorem State.rd_setOtt (i e : Nat) : (s.setOtt i e).rd p b f = s.rd p b f := rfl
@[simp] theorem State.rd_setAssign (a : Nat) (x : Assign) : (s.setAssign a x).rd p b f = s.rd p b f := rfl
@[simp] theorem State.rd_setCams (x : CamerasS) : (s.setCams x).rd p b f = s.rd p b f := rfl
@[simp] theorem State.rd_setCam (c : Nat) (x : CamS) : (s.setCam c x).rd p b f = s.rd p b f := rfl
@[simp] theorem State.rd_setGroup (g : Nat) (x : GroupS) : (s.setGroup g x).rd p b f = s.rd p b f := rfl
@[simp] theorem State.rd_emit (o : Out) : (s.emit o).rd p b f = s.rd p b f := rfl
@[simp] theorem State.rd_store (a : Nat) (d : List Byte) : (s.store a d).rd p b f = s.rd p b f := rfl
@[simp] theorem State.rd_zero (a n : Nat) : (s.zero a n).rd p b f = s.rd p b f := rfl

/-! ### Pieces that an update sets -/

@[simp] theorem State.gauge_setGauge (x : GaugeS) : (s.setGauge x).gauge = x := rfl
@[simp] theorem State.panel_setPanel (x : PanelS) : (s.setPanel x).panel = x := rfl
@[simp] theorem State.audio_setAudio (x : AudioS) : (s.setAudio x).audio = x := rfl
@[simp] theorem State.ports_setPorts (x : PortsS) : (s.setPorts x).ports = x := rfl
@[simp] theorem State.cams_setCams (x : CamerasS) : (s.setCams x).cams = x := rfl
@[simp] theorem State.out_emit (o : Out) : (s.emit o).out = s.out ++ [o] := rfl

@[simp] theorem b2n_mod_two (b : Bool) : b2n b % 2 = b2n b := by cases b <;> rfl
@[simp] theorem b2n_bne_zero (b : Bool) : (b2n b != 0) = b := by cases b <;> rfl

end Sys2Proof.Machine
end

section
/-! An access to a register word that a view reaches: it wakes nothing and has its effect at once (R324, R407). -/

namespace Sys2Proof.Machine

set_option Elab.async false

variable {s : State} {v : View} {p : Page} {off bank : Nat}

/-- The word lies outside the registers that the ISP0 page shows and CSIPHY holds. -/
abbrev OwnDomain (p : Page) (off : Nat) : Prop := p = .isp 0 → csiphyOff off = false

theorem State.wakeFor_of_domOn (h : s.domOn (p.wakeDomain off) = true) (hown : OwnDomain p off) : s.wakeFor p off = s := by
  unfold State.wakeFor
  rw [State.wake_of_domOn h]
  cases p <;> try rfl
  case isp q =>
    refine State.wake_of_domOn ?_
    rcases q with _ | q
    · simpa [Page.wakeDomain, hown rfl] using h
    · exact h

theorem State.viaBus_of_reaches (h : Reaches s v p off bank) (hown : OwnDomain p off) (w : Nat)
    (effect : State → Page → Nat → Nat → State) : s.viaBus v (p.base + off) 4 w effect = effect s p bank off := by
  obtain ⟨hpage, halign, hserved, habsent, hbank, hon⟩ := h
  simp [State.viaBus, hpage, halign, hserved, habsent, hbank, State.wakeFor_of_domOn hon hown, hon]

theorem State.busWrite_of_reaches (h : Reaches s v p off bank) (hown : OwnDomain p off) (w : Nat) :
    s.busWrite v (p.base + off) 4 w = s.pageWrite v p bank off w :=
  State.viaBus_of_reaches h hown w _

theorem State.namedWrite_of_reaches (h : Reaches s v p off bank) (hown : OwnDomain p off) (w : Nat) :
    s.namedWrite v (p.base + off) off w = s.pageWrite v p bank off w := by
  have hpage : pageAt (p.base + off) = some (p, off) := h.1
  simp [State.namedWrite, hpage, State.busWrite_of_reaches h hown]

/-- A page of the control window is one of Table 17.2. -/
theorem mem_allPages_of_pageAt {addr : Nat} (h : pageAt addr = some (p, off)) : p ∈ allPages := by
  have hctx : ∀ c, c < 32 → Page.ctx c ∈ allPages := by decide
  unfold pageAt at h
  dsimp only at h
  split at h
  · obtain ⟨rfl, -⟩ := Prod.mk.inj (Option.some.inj h)
    exact hctx _ (by omega)
  · obtain ⟨q, hq, heq⟩ := Option.map_eq_some_iff.mp h
    obtain ⟨rfl, -⟩ := Prod.mk.inj heq
    exact List.mem_of_find?_eq_some hq

theorem base_lt_of_mem_allPages (h : p ∈ allPages) : p.base < 0x100000 ∧ p.base % 0x800 = 0 := by
  have hall : ∀ q ∈ allPages, q.base < 0x100000 ∧ q.base % 0x800 = 0 := by decide
  exact hall p h

end Sys2Proof.Machine
end

section
/-! The coulomb counter (R391 to R393, R398). -/

namespace Sys2Proof.Machine

set_option Elab.async false

section
variable {s : State} {e : Int} {f : Fld}

theorem State.rd_addCharge_other (h : regKey .hv 0 f ≠ regKey .hv 0 Reg.Hv.QSAT) : (s.addCharge e).rd .hv 0 f = s.rd .hv 0 f := by
  unfold State.addCharge
  dsimp only
  split_ifs <;> simp [State.rd_wr_other _ _ h]

theorem State.rd_takeE_other (hsat : regKey .hv 0 f ≠ regKey .hv 0 Reg.Hv.QSAT) (hcode : regKey .hv 0 f ≠ regKey .hv 0 Reg.Hv.I_CODE) :
    (s.takeE e).rd .hv 0 f = s.rd .hv 0 f := by
  unfold State.takeE
  rw [State.rd_wr_other _ _ hcode, State.rd_setGauge, State.rd_addCharge_other hsat]

@[simp] theorem State.takeE_mem : (s.takeE e).mem = s.mem := by
  unfold State.takeE State.addCharge
  dsimp only
  split_ifs <;> rfl

theorem State.takeE_lastE : (s.takeE e).gauge.lastE = e := rfl
theorem State.takeE_unsettled : (s.takeE e).gauge.unsettled = 0 := rfl

theorem State.rd_takeE_code : (s.takeE e).rd .hv 0 Reg.Hv.I_CODE = ofInt 27 e := by
  unfold State.takeE
  rw [State.rd_wr_self, Nat.mod_eq_of_lt (ofInt_lt 27 e)]

/-- A sample adds its value once for itself and once for each settling sample that waits for it, within the limits of QCNT (R392, R393). -/
theorem State.takeE_acc {x : Int} (hx : x = s.gauge.acc + e * (s.gauge.unsettled + 1 : Nat)) : (s.takeE e).gauge.acc =
    if qLim < x / 256 then qLim * 256 else if x / 256 < -qLim then -qLim * 256 else x := by
  subst hx
  unfold State.takeE State.addCharge
  dsimp only
  split_ifs <;> rfl

/-- What a sample meets: a Q_LOAD that waits has been applied (R398). -/
theorem State.applyQload_of_not (h : s.rdB .hv 0 Reg.Hv.Q_LOAD = false) : s.applyQload = s := by
  rw [State.applyQload, h]
  rfl

/-- The load is stated over a variable, so that checking a use of it never evaluates the number. -/
theorem State.applyQload_of_load (h : s.rdB .hv 0 Reg.Hv.Q_LOAD = true) :
    ∃ q, q = toInt 48 (s.rd2 .hv 0 Reg.Hv.QSET_LO Reg.Hv.QSET_HI) ∧ s.applyQload =
      ((s.setGauge { s.gauge with acc := q * 256, rest := 0 }).wr .hv 0 Reg.Hv.Q_UNC 0).wr .hv 0 Reg.Hv.Q_LOAD 0 := by
  refine ⟨_, rfl, ?_⟩
  rw [State.applyQload, if_pos h]

theorem State.applyQload_acc : s.applyQload.gauge.acc =
    if s.rdB .hv 0 Reg.Hv.Q_LOAD then toInt 48 (s.rd2 .hv 0 Reg.Hv.QSET_LO Reg.Hv.QSET_HI) * 256 else s.gauge.acc := by
  cases h : s.rdB .hv 0 Reg.Hv.Q_LOAD
  · simp [State.applyQload_of_not h]
  · obtain ⟨q, hq, heq⟩ := State.applyQload_of_load h
    simp [heq, hq]

theorem State.applyQload_keeps : s.applyQload.gauge.settle = s.gauge.settle ∧ s.applyQload.gauge.unsettled = s.gauge.unsettled ∧
    s.applyQload.gauge.outRun = s.gauge.outRun ∧ s.applyQload.mem = s.mem ∧
    s.applyQload.rdB .hv 0 Reg.Hv.RANGE = s.rdB .hv 0 Reg.Hv.RANGE ∧ s.applyQload.rdB .hv 0 Reg.Hv.Q_LOAD = false := by
  cases h : s.rdB .hv 0 Reg.Hv.Q_LOAD
  · simp [State.applyQload_of_not h, h]
  · obtain ⟨q, -, heq⟩ := State.applyQload_of_load h
    simp (disch := decide) [heq, State.rdB, State.rd_wr_other]

/-! ### The commands -/

section
variable (s : State)

/-- A code as the converter can give it. -/
abbrev clampCode (c : Int) : Int := clampInt (-(2 ^ 23)) (2 ^ 23 - 1) c

/-- A clamped code lies out of the range that is set (R393, Table 16.1). -/
def State.codeOut (c1 : Int) : Bool :=
  if s.rdB .hv 0 Reg.Hv.RANGE then decide (c1.natAbs ≤ 786432) else decide (7864320 ≤ c1.natAbs)

theorem exec_gaugeCurrentSample_settled (c : Int) (h : s.gauge.settle = 0) :
    exec (.gaugeCurrentSample (.code c)) s = .next
      ((s.applyQload.takeE (if s.rdB .hv 0 Reg.Hv.RANGE then 8 * clampCode c else clampCode c)).setGauge
      { (s.applyQload.takeE (if s.rdB .hv 0 Reg.Hv.RANGE then 8 * clampCode c else clampCode c)).gauge with
        outRun := if s.codeOut (clampCode c) then s.gauge.outRun + 1 else 0 }) := by
  obtain ⟨hsettle, -, hout, -, hrange, -⟩ := State.applyQload_keeps (s := s)
  have hnot : ¬ 0 < s.applyQload.gauge.settle := by omega
  show execGaugeCurrentSample (.code c) s = _
  simp only [execGaugeCurrentSample, if_neg hnot, hrange, hout]
  rfl

theorem gaugeCurrentSample_code (c c1 e acc x : Int) (n : Nat) (hset : s.gauge.settle = 0) (hc : c1 = clampCode c)
    (he : e = if s.rdB .hv 0 Reg.Hv.RANGE then 8 * c1 else c1) (hn : n = s.gauge.unsettled + 1)
    (hacc : acc = s.applyQload.gauge.acc) (hx : x = acc + e * n) : ∃ t, exec (.gaugeCurrentSample (.code c)) s = .next t ∧
      t.gauge.acc = (if qLim < x / 256 then qLim * 256 else if x / 256 < -qLim then -qLim * 256 else x) ∧
      t.gauge.lastE = e ∧ t.gauge.unsettled = 0 ∧ t.rdB .hv 0 Reg.Hv.Q_LOAD = false ∧ t.rd .hv 0 Reg.Hv.I_CODE = ofInt 27 e ∧
      t.gauge.outRun = (if s.codeOut c1 then s.gauge.outRun + 1 else 0) ∧ t.mem = s.mem := by
  obtain ⟨-, huns, -, hmem, -, hload⟩ := State.applyQload_keeps (s := s)
  rw [exec_gaugeCurrentSample_settled s c hset, ← hc, ← he]
  generalize s.applyQload = u at *
  refine ⟨_, rfl, ?_, rfl, rfl, ?_, State.rd_takeE_code, rfl, State.takeE_mem.trans hmem⟩
  · exact State.takeE_acc (by rw [hx, hacc, hn, huns])
  · rw [State.rdB, State.rd_setGauge, State.rd_takeE_other (by decide) (by decide)]
    exact hload

/-- A frame that the converter loses, once a waiting Q_LOAD is applied: an error bound joins Q_UNC, and the last value is taken again. -/
def State.lostSample (bound : Nat) : State :=
  let s1 := (s.errCount .hv 0 0 1).addUnc bound
  if 0 < s.gauge.settle then s1.setGauge { s.gauge with settle := s.gauge.settle - 1, unsettled := s.gauge.unsettled + 1 }
  else if 0 < s.gauge.unsettled then s1.setGauge { s.gauge with unsettled := s.gauge.unsettled + 1 }
  else s1.takeE s.gauge.lastE

theorem exec_gaugeCurrentSample_lost : exec (.gaugeCurrentSample .lost) s = .next (s.applyQload.lostSample 524288) := rfl

theorem State.lostSample_leaves (bound : Nat) :
    (s.lostSample bound).rd .hv 0 (Reg.Hdr.ERR_CNT 0) = (count31 (s.rd .hv 0 (Reg.Hdr.ERR_CNT 0)) 1).1 ∧
    (s.lostSample bound).rd .hv 0 Reg.Hv.Q_UNC = (count31 (s.rd .hv 0 Reg.Hv.Q_UNC) bound).1 ∧
    (s.lostSample bound).gauge.lastE = s.gauge.lastE ∧ (s.lostSample bound).mem = s.mem ∧ (0 < s.gauge.settle →
      (s.lostSample bound).gauge.acc = s.gauge.acc ∧ (s.lostSample bound).gauge.unsettled = s.gauge.unsettled + 1) := by
  unfold State.lostSample
  dsimp only
  generalize hu : (s.errCount .hv 0 0 1).addUnc bound = u
  have hmem : u.mem = s.mem := by simp [← hu, State.addUnc]
  have herr : u.rd .hv 0 (Reg.Hdr.ERR_CNT 0) = (count31 (s.rd .hv 0 (Reg.Hdr.ERR_CNT 0)) 1).1 := by
    rw [← hu]
    simp (disch := decide) only [State.addUnc, State.rd_count_other, State.rd_errCount_self]
  have hunc : u.rd .hv 0 Reg.Hv.Q_UNC = (count31 (s.rd .hv 0 Reg.Hv.Q_UNC) bound).1 := by
    rw [← hu]
    simp (disch := decide) only [State.addUnc, State.rd_count_self, State.rd_errCount_other]
  split_ifs with hset huns
  · exact ⟨herr, hunc, rfl, hmem, fun _ => ⟨rfl, rfl⟩⟩
  · exact ⟨herr, hunc, rfl, hmem, fun h => absurd h hset⟩
  · refine ⟨?_, ?_, rfl, State.takeE_mem.trans hmem, fun h => absurd h hset⟩
    · rw [State.rd_takeE_other (by decide) (by decide), herr]
    · rw [State.rd_takeE_other (by decide) (by decide), hunc]

theorem gaugeRangeChange_of_outRun (hrun : 4 ≤ s.gauge.outRun) : ∃ t, exec .gaugeRangeChange s = .next t ∧
    t.rdB .hv 0 Reg.Hv.RANGE = !s.rdB .hv 0 Reg.Hv.RANGE ∧ t.gauge.settle = 2 ∧ t.gauge.outRun = 0 ∧ t.gauge.rest = 0 ∧
    t.gauge.acc = s.gauge.acc ∧ t.rd .hv 0 Reg.Hv.Q_UNC =
      (count31 (s.rd .hv 0 Reg.Hv.Q_UNC) (if s.rdB .hv 0 Reg.Hv.RANGE then 1048576 else 2097152)).1 ∧ t.mem = s.mem := by
  refine ⟨_, rfl, ?_⟩
  rw [if_neg (Nat.not_lt.mpr hrun)]
  simp (disch := decide) [State.addUnc, State.rdB, State.rd_count_other, State.rd_count_self, State.rd_wr_other]

end
end

/-- Settles O50: the parts that one sample goes through (a waiting load, the charge, the marks) are taken one by one. -/
theorem gaugeCurrent : Obligations.GaugeCurrent := by
  unfold Obligations.GaugeCurrent
  refine ⟨?_, fun s hload => ⟨fun c hset => ?_, ⟨_, ?_, s.lostSample_leaves 524288⟩⟩, gaugeRangeChange_of_outRun⟩
  · rintro s c c1 e acc x n hset hc he hn hacc hx
    obtain ⟨t, hexec, hacc', hlast, huns, hload, hcode, hout, hmem⟩ :=
      gaugeCurrentSample_code s c c1 e acc x n hset hc he hn (hacc.trans State.applyQload_acc.symm) hx
    refine ⟨t, hexec, hacc', hlast, huns, hload, hcode, ?_, hmem⟩
    rw [hout, State.codeOut]
    cases s.rdB .hv 0 Reg.Hv.RANGE <;> simp only [Bool.false_eq_true, if_true, if_false, decide_eq_true_eq]
  · show Host.Outcome.next _ = _
    simp [State.applyQload_of_not hload, hset, State.setGauge]
  · rw [exec_gaugeCurrentSample_lost, State.applyQload_of_not hload]

end Sys2Proof.Machine
end

section
/-! Bit fields of a written word. -/

namespace Sys2Proof.Machine

set_option Elab.async false

theorem testBit_field (w lsb n i : Nat) : (field w lsb n).testBit i = (decide (i < n) && w.testBit (lsb + i)) := by
  rw [field, Nat.testBit_mod_two_pow, Nat.testBit_div_two_pow, Nat.add_comm]

theorem setField_eq (w lsb n v : Nat) :
    setField w lsb n v = 2 ^ lsb * (2 ^ n * (w / 2 ^ lsb / 2 ^ n) + v % 2 ^ n) + w % 2 ^ lsb := by
  have hlow := Nat.div_add_mod w (2 ^ lsb)
  have hhigh := Nat.div_add_mod (w / 2 ^ lsb) (2 ^ n)
  have hsplit : 2 ^ lsb * (w / 2 ^ lsb) = 2 ^ lsb * (2 ^ n * (w / 2 ^ lsb / 2 ^ n)) + field w lsb n * 2 ^ lsb := by
    conv_lhs => rw [← hhigh]
    rw [field]
    ring
  unfold setField
  rw [Nat.mul_add]
  have hcomm : 2 ^ lsb * (v % 2 ^ n) = v % 2 ^ n * 2 ^ lsb := Nat.mul_comm ..
  omega

theorem testBit_setField (w lsb n v i : Nat) : (setField w lsb n v).testBit i =
    if lsb ≤ i ∧ i < lsb + n then v.testBit (i - lsb) else w.testBit i := by
  rw [setField_eq, Nat.testBit_two_pow_mul_add _ (Nat.mod_lt _ (by positivity)),
    Nat.testBit_two_pow_mul_add _ (Nat.mod_lt _ (by positivity)), Nat.testBit_mod_two_pow, Nat.testBit_mod_two_pow,
    Nat.testBit_div_two_pow, Nat.testBit_div_two_pow]
  split_ifs with h1 h2 h3 h4 h5
  · omega
  · simp [h1]
  · simp [h3]
  · omega
  · omega
  · congr 1
    omega

/-- A field beside the one that is set is left alone. -/
theorem field_setField_of_disjoint {w lsb n v l m : Nat} (h : l + m ≤ lsb ∨ lsb + n ≤ l) :
    field (setField w lsb n v) l m = field w l m := by
  refine Nat.eq_of_testBit_eq fun i => ?_
  rw [testBit_field, testBit_field, testBit_setField]
  by_cases hi : i < m
  · rw [if_neg (by omega)]
  · simp [hi]

theorem field_setField_self (w lsb n v : Nat) : field (setField w lsb n v) lsb n = v % 2 ^ n := by
  refine Nat.eq_of_testBit_eq fun i => ?_
  rw [testBit_field, testBit_setField, Nat.testBit_mod_two_pow, Nat.add_sub_cancel_left]
  by_cases hi : i < n
  · rw [if_pos (by omega)]
  · simp [hi]

theorem bitAt_setField_of_ne {w lsb v i : Nat} (h : i ≠ lsb) : bitAt (setField w lsb 1 v) i = bitAt w i := by
  rw [bitAt_eq_testBit, bitAt_eq_testBit, testBit_setField, if_neg (by omega)]

theorem bitAt_setField_one (w lsb : Nat) : bitAt (setField w lsb 1 1) lsb = true := by
  simp [bitAt_eq_testBit, testBit_setField]

theorem bitAt_setField_zero (w lsb : Nat) : bitAt (setField w lsb 1 0) lsb = false := by
  simp [bitAt_eq_testBit, testBit_setField]

theorem setField_lt {w lsb n v : Nat} (hw : w < 2 ^ 32) (h : lsb + n ≤ 32) : setField w lsb n v < 2 ^ 32 := by
  refine Nat.lt_pow_two_of_testBit _ fun i hi => ?_
  rw [testBit_setField, if_neg (by omega)]
  exact Nat.testBit_lt_two_pow (hw.trans_le (Nat.pow_le_pow_right two_pos hi))

end Sys2Proof.Machine
end

section
/-! The gauge's estimates (R394 to R398). -/

namespace Sys2Proof.Machine

set_option Elab.async false

section
variable (s : State)

/-! ### What the estimates read -/

/-- Two states agree on all that the estimates and their settings are formed from. -/
structure SameEstimates (s t : State) : Prop where
  acc : t.gauge.acc = s.gauge.acc
  es : t.gauge.es = s.gauge.es
  rd : ∀ f ∈ [Reg.Hv.CELLS, Reg.Hv.SHUNT_UOHM, Reg.Hv.RPACK_MOHM, Reg.Hv.CAP_LO, Reg.Hv.CAP_HI, Reg.Hv.OCV_N, Reg.Hv.DIS_TH,
    Reg.Hv.EMPTY_SOC, Reg.Hv.CUTOFF_MV, Reg.Hv.GAUGE_DISAGREE], t.rd .hv 0 f = s.rd .hv 0 f
  ocv : ∀ i, t.rd .hv 0 (Reg.Hv.OCV_MV i) = s.rd .hv 0 (Reg.Hv.OCV_MV i) ∧ t.rd .hv 0 (Reg.Hv.OCV_SOC i) = s.rd .hv 0 (Reg.Hv.OCV_SOC i)

namespace SameEstimates
variable {s} {t : State} (h : SameEstimates s t)
include h

theorem ocvTable : t.ocvTable = s.ocvTable := by
  have hn := h.rd Reg.Hv.OCV_N (by simp)
  simp only [State.ocvTable, hn, h.ocv]

theorem capacity : t.capacity = s.capacity := by
  have hlo := h.rd Reg.Hv.CAP_LO (by simp)
  have hhi := h.rd Reg.Hv.CAP_HI (by simp)
  simp only [State.capacity, State.rd2, hlo, hhi]

theorem tableBad : t.tableBad = s.tableBad := by
  have hcells := h.rd Reg.Hv.CELLS (by simp)
  have hshunt := h.rd Reg.Hv.SHUNT_UOHM (by simp)
  have hn := h.rd Reg.Hv.OCV_N (by simp)
  simp only [State.tableBad, hcells, hshunt, hn, h.capacity, h.ocvTable]

theorem socQ : t.socQ = s.socQ := by
  simp only [State.socQ, State.qcnt, h.acc, h.capacity]

theorem socV (m : Nat) : t.socV m = s.socV m := by
  have hcells := h.rd Reg.Hv.CELLS (by simp)
  have hshunt := h.rd Reg.Hv.SHUNT_UOHM (by simp)
  have hpack := h.rd Reg.Hv.RPACK_MOHM (by simp)
  simp only [State.socV, State.currentMa, hcells, hshunt, hpack, h.es, h.ocvTable]

omit h in
theorem refl : SameEstimates s s := ⟨rfl, rfl, fun _ _ => rfl, fun _ => ⟨rfl, rfl⟩⟩

theorem wr {f : Fld} {v : Nat} (hoff : f.off < 0x140 := by decide) (hf : ∀ g ∈ [Reg.Hv.CELLS, Reg.Hv.SHUNT_UOHM, Reg.Hv.RPACK_MOHM,
    Reg.Hv.CAP_LO, Reg.Hv.CAP_HI, Reg.Hv.OCV_N, Reg.Hv.DIS_TH, Reg.Hv.EMPTY_SOC, Reg.Hv.CUTOFF_MV, Reg.Hv.GAUGE_DISAGREE],
    regKey .hv 0 g ≠ regKey .hv 0 f := by decide) (hlsb : f.lsb < 32 := by decide) : SameEstimates s (t.wr .hv 0 f v) where
  acc := h.acc
  es := h.es
  rd g hg := (t.rd_wr_other v (hf g hg)).trans (h.rd g hg)
  ocv i := by
    have hne (lsb w : Nat) (a : Acc) : regKey .hv 0 ⟨0x140 + 4 * i, lsb, w, 0, a⟩ ≠ regKey .hv 0 f := by
      simp only [regKey]
      omega
    rw [State.rd_wr_other _ _ (hne 0 16 .rw), State.rd_wr_other _ _ (hne 16 16 .rw)]
    exact h.ocv i

theorem setGauge {x : GaugeS} (hacc : x.acc = t.gauge.acc) (hes : x.es = t.gauge.es) : SameEstimates s (t.setGauge x) :=
  ⟨hacc.trans h.acc, hes.trans h.es, h.rd, h.ocv⟩

end SameEstimates

end

/-! ### A voltage sample -/

/-- The sample's own registers, and the count of resting samples (R391, R397). -/
def State.notePack (s : State) (m ntc : Nat) (fault : Bool) : State :=
  let s0 := s.wr .hv 0 Reg.Hv.VPACK_MV m
  let s1 := if s0.rdB .hv 0 Reg.Hv.NTC_EN then (s0.wr .hv 0 Reg.Hv.NTC_CODE (min ntc 4095)).wr .hv 0 Reg.Hv.NTC_FAULT (b2n fault) else s0
  if s1.rd .hv 0 Reg.Hv.SHUNT_UOHM = 0 then s1 else
    let rest := decide (s1.currentMa.natAbs ≤ s1.rd .hv 0 Reg.Hv.REST_MA)
    (s1.wr .hv 0 Reg.Hv.RESTING (b2n rest)).setGauge { s1.gauge with rest := if rest then s1.gauge.rest + 1 else 0 }

/-- The marks that a table which allows no estimate leaves (R394). -/
def State.noEstimate (s : State) : State := ((s.wr .hv 0 Reg.Hv.TABLE_BAD 1).wr .hv 0 Reg.Hv.SOC_Q 0).wr .hv 0 Reg.Hv.SOC_V 0

/-- The two estimates, and the counts of EMPTY's conditions (R394, R395). -/
def State.takeEstimates (s : State) (m : Nat) (q v : Int) : State :=
  let s3 := ((s.wr .hv 0 Reg.Hv.TABLE_BAD 0).wr .hv 0 Reg.Hv.SOC_Q q.toNat).wr .hv 0 Reg.Hv.SOC_V v.toNat
  let c1 := decide (q = 0) && decide (v ≤ s3.rd .hv 0 Reg.Hv.EMPTY_SOC)
  let c2 := decide (m ≤ s3.rd .hv 0 Reg.Hv.CUTOFF_MV)
  let g := s3.gauge
  s3.setGauge { g with holdQ := if c1 then g.holdQ + 1 else 0, holdV := if c2 then g.holdV + 1 else 0,
                       clearHold := if c1 || c2 then 0 else g.clearHold + 1 }

theorem exec_gaugeVoltageSample (s : State) (mv ntc : Nat) (fault : Bool) : ∃ m, m = min mv 65535 ∧
    exec (.gaugeVoltageSample mv ntc fault) s = .next (if (s.notePack m ntc fault).tableBad then (s.notePack m ntc fault).noEstimate
      else ((s.notePack m ntc fault).takeEstimates m (s.notePack m ntc fault).socQ ((s.notePack m ntc fault).socV m)).disagree
        (s.notePack m ntc fault).socQ ((s.notePack m ntc fault).socV m)) :=
  ⟨_, rfl, rfl⟩

section
variable (s : State) (m ntc : Nat) (fault : Bool)

theorem sameEstimates_notePack : SameEstimates s (s.notePack m ntc fault) := by
  have h0 : SameEstimates s (s.wr .hv 0 Reg.Hv.VPACK_MV m) := SameEstimates.refl.wr
  unfold State.notePack
  dsimp only
  generalize s.wr .hv 0 Reg.Hv.VPACK_MV m = s0 at *
  have h1 : SameEstimates s (if s0.rdB .hv 0 Reg.Hv.NTC_EN then
      (s0.wr .hv 0 Reg.Hv.NTC_CODE (min ntc 4095)).wr .hv 0 Reg.Hv.NTC_FAULT (b2n fault) else s0) := by
    split
    · exact h0.wr.wr
    · exact h0
  generalize (if s0.rdB .hv 0 Reg.Hv.NTC_EN then (s0.wr .hv 0 Reg.Hv.NTC_CODE (min ntc 4095)).wr .hv 0 Reg.Hv.NTC_FAULT (b2n fault)
    else s0) = s1 at *
  split
  · exact h1
  · exact h1.wr.setGauge rfl rfl

theorem notePack_leaves : (s.notePack m ntc fault).rd .hv 0 Reg.Hv.VPACK_MV = m % 2 ^ 16 ∧
    (s.notePack m ntc fault).mem = s.mem ∧ (s.notePack m ntc fault).gauge.holdQ = s.gauge.holdQ ∧
    (s.notePack m ntc fault).gauge.holdV = s.gauge.holdV ∧ (s.notePack m ntc fault).gauge.clearHold = s.gauge.clearHold := by
  unfold State.notePack
  generalize min ntc 4095 = code
  dsimp only
  split_ifs <;> simp (disch := decide) [State.rd_wr_other]

variable {s} {q v : Int}

theorem State.noEstimate_leaves : s.noEstimate.rd .hv 0 Reg.Hv.TABLE_BAD = 1 ∧ s.noEstimate.rd .hv 0 Reg.Hv.SOC_Q = 0 ∧
    s.noEstimate.rd .hv 0 Reg.Hv.SOC_V = 0 ∧ s.noEstimate.rd .hv 0 Reg.Hv.VPACK_MV = s.rd .hv 0 Reg.Hv.VPACK_MV ∧
    s.noEstimate.gauge = s.gauge ∧ s.noEstimate.mem = s.mem := by
  unfold State.noEstimate
  simp (disch := decide) [State.rd_wr_other]

theorem State.takeEstimates_leaves : (s.takeEstimates m q v).rd .hv 0 Reg.Hv.TABLE_BAD = 0 ∧
    (s.takeEstimates m q v).rd .hv 0 Reg.Hv.SOC_Q = q.toNat % 2 ^ 16 ∧ (s.takeEstimates m q v).rd .hv 0 Reg.Hv.SOC_V = v.toNat % 2 ^ 16 ∧
    (s.takeEstimates m q v).rd .hv 0 Reg.Hv.VPACK_MV = s.rd .hv 0 Reg.Hv.VPACK_MV ∧
    (s.takeEstimates m q v).rd .hv 0 Reg.Hv.DIS_TH = s.rd .hv 0 Reg.Hv.DIS_TH ∧
    (s.takeEstimates m q v).rd .hv 0 Reg.Hv.GAUGE_DISAGREE = s.rd .hv 0 Reg.Hv.GAUGE_DISAGREE ∧
    (s.takeEstimates m q v).gauge.acc = s.gauge.acc ∧ (s.takeEstimates m q v).mem = s.mem ∧
    (s.takeEstimates m q v).gauge.holdQ = (if q = 0 ∧ v ≤ s.rd .hv 0 Reg.Hv.EMPTY_SOC then s.gauge.holdQ + 1 else 0) ∧
    (s.takeEstimates m q v).gauge.holdV = (if m ≤ s.rd .hv 0 Reg.Hv.CUTOFF_MV then s.gauge.holdV + 1 else 0) ∧
    (s.takeEstimates m q v).gauge.clearHold = (if (s.takeEstimates m q v).gauge.holdQ = 0 ∧ (s.takeEstimates m q v).gauge.holdV = 0
      then s.gauge.clearHold + 1 else 0) := by
  have hsoc : (s.takeEstimates m q v).gauge.holdQ = (if q = 0 ∧ v ≤ s.rd .hv 0 Reg.Hv.EMPTY_SOC then s.gauge.holdQ + 1 else 0) := by
    unfold State.takeEstimates
    simp (disch := decide) [State.rd_wr_other]
  have hcut : (s.takeEstimates m q v).gauge.holdV = (if m ≤ s.rd .hv 0 Reg.Hv.CUTOFF_MV then s.gauge.holdV + 1 else 0) := by
    unfold State.takeEstimates
    simp (disch := decide) [State.rd_wr_other]
  have hclear : (s.takeEstimates m q v).gauge.clearHold = (if (q = 0 ∧ v ≤ s.rd .hv 0 Reg.Hv.EMPTY_SOC) ∨ m ≤ s.rd .hv 0 Reg.Hv.CUTOFF_MV
      then 0 else s.gauge.clearHold + 1) := by
    unfold State.takeEstimates
    simp (disch := decide) [State.rd_wr_other]
  refine ⟨?_, ?_, ?_, ?_, ?_, ?_, rfl, rfl, hsoc, hcut, ?_⟩
  · unfold State.takeEstimates; simp (disch := decide) [State.rd_wr_other]
  · unfold State.takeEstimates; simp (disch := decide) [State.rd_wr_other]
  · unfold State.takeEstimates; simp (disch := decide) [State.rd_wr_other]
  · unfold State.takeEstimates; simp (disch := decide) [State.rd_wr_other]
  · unfold State.takeEstimates; simp (disch := decide) [State.rd_wr_other]
  · unfold State.takeEstimates; simp (disch := decide) [State.rd_wr_other]
  · rw [hclear, hsoc, hcut]
    split_ifs <;> simp_all

end

/-! ### GAUGE_DISAGREE -/

section
variable {s : State} {q v : Int}

theorem State.rd_disagree_other {f : Fld} (hd : regKey .hv 0 f ≠ regKey .hv 0 Reg.Hv.GAUGE_DISAGREE)
    (hraw : regKey .hv 0 f ≠ regKey .hv 0 Reg.Hdr.IRQ_RAW) : (s.disagree q v).rd .hv 0 f = s.rd .hv 0 f := by
  unfold State.disagree
  dsimp only
  split
  · rw [State.rd_irq_none hraw, State.rd_wr_other _ _ hd]
  · rw [State.rd_wr_other _ _ hd]

theorem State.disagree_keeps : (s.disagree q v).gauge = s.gauge ∧ (s.disagree q v).mem = s.mem := by
  unfold State.disagree
  dsimp only
  split <;> simp

theorem State.rdB_disagree : (s.disagree q v).rdB .hv 0 Reg.Hv.GAUGE_DISAGREE = decide (s.rd .hv 0 Reg.Hv.DIS_TH < (q - v).natAbs) := by
  unfold State.disagree State.rdB
  dsimp only
  split <;> simp (disch := decide) [State.rd_irq_none]

theorem State.irqSet_disagree (hwas : s.rdB .hv 0 Reg.Hv.GAUGE_DISAGREE = false)
    (hnow : (s.disagree q v).rdB .hv 0 Reg.Hv.GAUGE_DISAGREE = true) : IrqSet (s.disagree q v) .hv 0 0 := by
  have hrise : (decide (s.rd .hv 0 Reg.Hv.DIS_TH < (q - v).natAbs) && !s.rdB .hv 0 Reg.Hv.GAUGE_DISAGREE) = true := by
    rw [← State.rdB_disagree, hnow, hwas]
    rfl
  rw [State.disagree, if_pos hrise]
  exact State.irqSet_irq _ _ (by decide)

theorem IrqSet.disagree {i : Nat} (h : IrqSet s .hv 0 i) (hi : i < 32) : IrqSet (s.disagree q v) .hv 0 i := by
  have hwr (b : Nat) : IrqSet (s.wr .hv 0 Reg.Hv.GAUGE_DISAGREE b) .hv 0 i := by
    rw [IrqSet, State.rd_wr_other _ _ (by decide)]
    exact h
  unfold State.disagree
  dsimp only
  split
  · exact (hwr _).irq_none hi .hv 0
  · exact hwr _

end

theorem clampInt_toNat_lt {hi : Nat} (x : Int) : (clampInt 0 hi x).toNat ≤ hi := by
  have := clampInt_le (lo := 0) (hi := hi) (by omega) x
  omega

theorem State.socQ_toNat_lt (s : State) : s.socQ.toNat % 2 ^ 16 = s.socQ.toNat :=
  Nat.mod_eq_of_lt (Nat.lt_succ_of_le (clampInt_toNat_lt (hi := 65535) _))

theorem State.socV_toNat_lt (s : State) (m : Nat) : (s.socV m).toNat % 2 ^ 16 = (s.socV m).toNat :=
  Nat.mod_eq_of_lt (Nat.lt_succ_of_le (clampInt_toNat_lt (hi := 65535) _))

theorem gaugeVoltageSample_leaves (s : State) (m ntc : Nat) (fault : Bool) (hm : m % 2 ^ 16 = m) (u t : State)
    (hu : u = s.notePack m ntc fault)
    (ht : t = if u.tableBad then u.noEstimate else (u.takeEstimates m u.socQ (u.socV m)).disagree u.socQ (u.socV m)) :
    t.rd .hv 0 Reg.Hv.VPACK_MV = m ∧ t.gauge.acc = s.gauge.acc ∧ t.mem = s.mem ∧
    (s.tableBad = true → t.rd .hv 0 Reg.Hv.TABLE_BAD = 1 ∧ t.rd .hv 0 Reg.Hv.SOC_Q = 0 ∧ t.rd .hv 0 Reg.Hv.SOC_V = 0) ∧
    (s.tableBad = false → t.rd .hv 0 Reg.Hv.TABLE_BAD = 0 ∧ t.rd .hv 0 Reg.Hv.SOC_Q = s.socQ.toNat ∧
      t.rd .hv 0 Reg.Hv.SOC_V = (s.socV m).toNat ∧ (t.rdB .hv 0 Reg.Hv.GAUGE_DISAGREE =
        decide (s.rd .hv 0 Reg.Hv.DIS_TH < (s.socQ - s.socV m).natAbs)) ∧
      (s.rdB .hv 0 Reg.Hv.GAUGE_DISAGREE = false → t.rdB .hv 0 Reg.Hv.GAUGE_DISAGREE = true → IrqSet t .hv 0 0) ∧
      t.gauge.holdQ = (if s.socQ = 0 ∧ s.socV m ≤ s.rd .hv 0 Reg.Hv.EMPTY_SOC then s.gauge.holdQ + 1 else 0) ∧
      t.gauge.holdV = (if m ≤ s.rd .hv 0 Reg.Hv.CUTOFF_MV then s.gauge.holdV + 1 else 0) ∧
      t.gauge.clearHold = (if t.gauge.holdQ = 0 ∧ t.gauge.holdV = 0 then s.gauge.clearHold + 1 else 0)) := by
  have hsame : SameEstimates s u := hu ▸ sameEstimates_notePack s m ntc fault
  obtain ⟨hpack, hmem, hholdQ, hholdV, hhold⟩ : u.rd .hv 0 Reg.Hv.VPACK_MV = m % 2 ^ 16 ∧ u.mem = s.mem ∧
      u.gauge.holdQ = s.gauge.holdQ ∧ u.gauge.holdV = s.gauge.holdV ∧ u.gauge.clearHold = s.gauge.clearHold :=
    hu ▸ notePack_leaves s m ntc fault
  rw [hm] at hpack
  rw [hsame.tableBad, hsame.socQ, hsame.socV m] at ht
  cases hbad : s.tableBad
  · rw [hbad, if_neg Bool.false_ne_true] at ht
    obtain ⟨htb, hq, hv, hvp, hth, hdis, hacc, hmem', hsetQ, hsetV, hclear⟩ :=
      State.takeEstimates_leaves (s := u) (m := m) (q := s.socQ) (v := s.socV m)
    obtain ⟨hg, hmem''⟩ := State.disagree_keeps (s := u.takeEstimates m s.socQ (s.socV m)) (q := s.socQ) (v := s.socV m)
    rw [← ht] at hg hmem''
    have hrd {f : Fld} (h1 : regKey .hv 0 f ≠ regKey .hv 0 Reg.Hv.GAUGE_DISAGREE)
        (h2 : regKey .hv 0 f ≠ regKey .hv 0 Reg.Hdr.IRQ_RAW) := ht ▸ State.rd_disagree_other (q := s.socQ) (v := s.socV m)
          (s := u.takeEstimates m s.socQ (s.socV m)) h1 h2
    have hdth := hsame.rd Reg.Hv.DIS_TH (by simp)
    refine ⟨?_, ?_, ?_, fun h => absurd h Bool.false_ne_true, fun _ => ⟨?_, ?_, ?_, ?_, ?_, ?_, ?_, ?_⟩⟩
    · rw [hrd (by decide) (by decide), hvp, hpack]
    · rw [hg, hacc, hsame.acc]
    · rw [hmem'', hmem', hmem]
    · rw [hrd (by decide) (by decide), htb]
    · rw [hrd (by decide) (by decide), hq, State.socQ_toNat_lt]
    · rw [hrd (by decide) (by decide), hv, State.socV_toNat_lt]
    · rw [ht, State.rdB_disagree, hth, hdth]
    · intro hwas hnow
      rw [ht] at hnow ⊢
      refine State.irqSet_disagree ?_ hnow
      rw [State.rdB, hdis, hsame.rd Reg.Hv.GAUGE_DISAGREE (by simp)]
      exact hwas
    · rw [hg, hsetQ, hholdQ, hsame.rd Reg.Hv.EMPTY_SOC (by simp)]
    · rw [hg, hsetV, hholdV, hsame.rd Reg.Hv.CUTOFF_MV (by simp)]
    · rw [hg, hclear, hhold]
  · rw [hbad, if_pos rfl] at ht
    obtain ⟨htb, hq, hv, hvp, hg, hmem'⟩ := State.noEstimate_leaves (s := u)
    rw [← ht] at htb hq hv hvp hg hmem'
    exact ⟨hvp.trans hpack, hg ▸ hsame.acc, hmem'.trans hmem, fun _ => ⟨htb, hq, hv⟩, fun h => absurd h.symm Bool.false_ne_true⟩

/-! ### EMPTY, the re-anchor and Q_LOAD -/

theorem gaugeReanchor_of_rest (s : State) (hrest : 180000 < s.gauge.rest) (htable : s.rdB .hv 0 Reg.Hv.TABLE_BAD = false)
    (hload : s.rdB .hv 0 Reg.Hv.Q_LOAD = false) : ∃ t, exec .gaugeReanchor s = .next t ∧
      t.gauge.acc = (s.rd .hv 0 Reg.Hv.SOC_V * s.capacity / 65536 : Nat) * 256 ∧ t.gauge.rest = 0 ∧ t.rd .hv 0 Reg.Hv.Q_UNC = 0 ∧
      t.rd .hv 0 Reg.Hv.ANCHORS = (count31 (s.rd .hv 0 Reg.Hv.ANCHORS) 1).1 ∧ IrqSet t .hv 0 2 ∧ t.mem = s.mem := by
  have hgo : ¬ (decide (s.gauge.rest ≤ 180000) || s.rdB .hv 0 Reg.Hv.TABLE_BAD || s.rdB .hv 0 Reg.Hv.Q_LOAD) = true := by
    simp [htable, hload, hrest]
  refine ⟨_, rfl, ?_⟩
  dsimp only
  rw [if_neg hgo]
  generalize hacc : ((s.rd .hv 0 Reg.Hv.SOC_V * s.capacity / 65536 : Nat) : Int) * 256 = acc
  generalize hu : ((((s.setGauge { s.gauge with acc := acc, rest := 0 }).wr .hv 0 Reg.Hv.Q_UNC 0).count .hv 0 Reg.Hv.ANCHORS
    Reg.Hv.ANCHORS_SAT 1).irq .hv none 2) = u
  have hgauge : u.gauge = { s.gauge with acc := acc, rest := 0 } := by simp [← hu]
  have hmem : u.mem = s.mem := by simp [← hu]
  have hunc : u.rd .hv 0 Reg.Hv.Q_UNC = 0 := by
    rw [← hu]
    simp (disch := decide) [State.rd_irq_none, State.rd_count_other]
  have hanc : u.rd .hv 0 Reg.Hv.ANCHORS = (count31 (s.rd .hv 0 Reg.Hv.ANCHORS) 1).1 := by
    rw [← hu]
    simp (disch := decide) [State.rd_irq_none, State.rd_count_self, State.rd_wr_other]
  have hirq : IrqSet (u.wr .hv 0 Reg.Hv.SOC_Q u.socQ.toNat) .hv 0 2 := by
    rw [IrqSet, State.rd_wr_other _ _ (by decide), ← hu]
    exact State.irqSet_irq _ _ (by decide)
  generalize s.rd .hv 0 Reg.Hv.SOC_V = v at *
  obtain ⟨hg, hm⟩ := State.disagree_keeps (s := u.wr .hv 0 Reg.Hv.SOC_Q u.socQ.toNat) (q := u.socQ) (v := v)
  refine ⟨?_, ?_, ?_, ?_, hirq.disagree (by decide), hm.trans hmem⟩
  · rw [hg, State.wr_gauge, hgauge]
  · rw [hg, State.wr_gauge, hgauge]
  · rw [State.rd_disagree_other (by decide) (by decide), State.rd_wr_other _ _ (by decide), hunc]
  · rw [State.rd_disagree_other (by decide) (by decide), State.rd_wr_other _ _ (by decide), hanc]

theorem State.wrFields_qset (s : State) (w : Nat) :
    s.wrFields .hv 0 0x120 w Reg.Hv.all = s.wr .hv 0 Reg.Hv.QSET_HI (field w 0 16) := by
  have hmine : Reg.Hv.all.filter (fun f => f.off == 0x120) = [Reg.Hv.QSET_HI, Reg.Hv.Q_LOAD] := by decide +kernel
  simp [State.wrFields, hmine]

theorem qLoad_of_reaches (s : State) (v : View) (w : Word) (h : Reaches s v .hv 0x120 0) : ∃ t, exec (.qLoad v w) s = .next t ∧
    t.rd .hv 0 Reg.Hv.Q_LOAD = 1 ∧ t.rd .hv 0 Reg.Hv.QSET_HI = field w.toNat 0 16 ∧ t.gauge = s.gauge ∧ t.mem = s.mem := by
  have hexec : exec (.qLoad v w) s = .next (s.hvWrite 0x120 (setField w.toNat 31 1 1)) :=
    congrArg Host.Outcome.next (State.viaBus_of_reaches h (by simp) _ _)
  have hwrite : s.hvWrite 0x120 (setField w.toNat 31 1 1) =
      (s.wr .hv 0 Reg.Hv.QSET_HI (field w.toNat 0 16)).wr .hv 0 Reg.Hv.Q_LOAD 1 := by
    simp [State.hvWrite, State.wrFields_qset, bitAt_setField_one, field_setField_of_disjoint]
  refine ⟨_, hexec, ?_⟩
  rw [hwrite]
  simp (disch := decide) [State.rd_wr_other, field]

/-- Settles O51: a voltage sample leaves what the estimates read alone, so that both are formed from the state that it met. -/
theorem gaugeEstimates : Obligations.GaugeEstimates := by
  unfold Obligations.GaugeEstimates
  refine ⟨fun s mv ntc f => ?_, fun s => ⟨fun hempty hhold => ?_, fun hclear => ?_, gaugeReanchor_of_rest s, qLoad_of_reaches s⟩⟩
  · obtain ⟨m, hm, hexec⟩ := exec_gaugeVoltageSample s mv ntc f
    have hmod : m % 2 ^ 16 = m := Nat.mod_eq_of_lt (by omega)
    rw [← hm]
    exact ⟨_, hexec, gaugeVoltageSample_leaves s m ntc f hmod _ _ rfl rfl⟩
  · have hgo : ¬ (s.rdB .hv 0 Reg.Hv.EMPTY || (decide (s.gauge.holdQ < 8) && decide (s.gauge.holdV < 8))) = true := by
      simp [hempty]
      omega
    refine ⟨(s.wr .hv 0 Reg.Hv.EMPTY 1).irq .hv none 1, congrArg Host.Outcome.next (if_neg hgo), ?_⟩
    exact ⟨by simp (disch := decide) [State.rd_irq_none], State.irqSet_irq _ _ (by decide), by simp, by simp⟩
  · exact congrArg Host.Outcome.next (if_neg (Nat.not_lt.mpr hclear))

end Sys2Proof.Machine
end

section
/-! The status panel (R400 to R403). -/

namespace Sys2Proof.Machine

set_option Elab.async false

/-- An index of the three 32-bit registers of a panel quantity. -/
theorem cases_three {i : Nat} (h : i < 3) : i = 0 ∨ i = 1 ∨ i = 2 := by omega

section
variable (s : State)

theorem panelGo_accepted {w : Nat} (h : s.panelRefusal w = 0) : s.panelGo w =
    ((((s.wr .hv 0 Reg.Hv.WAVE w).wr .hv 0 Reg.Hv.BUSY 1).wr .hv 0 Reg.Hv.PHASE 0).wr .hv 0 Reg.Hv.JRN_SFAIL 0).setPanel
      { s.panel with pumps := true, phases := false } := by
  rw [State.panelGo, h]
  rfl

theorem panelGo_refused {w : Nat} (h : s.panelRefusal w ≠ 0) : s.panelGo w =
    ((s.wr .hv 0 Reg.Hv.P_ERR (s.panelRefusal w)).errCount .hv 0 1 1).irq .hv none 5 := by
  rw [State.panelGo]
  split
  · next h0 => exact absurd h0 h
  · rfl

theorem panelRefusal_lt (w : Nat) : s.panelRefusal w < 2 ^ 3 := by
  unfold State.panelRefusal
  dsimp only
  split_ifs <;> decide

theorem exec_panelGo {v : View} {w : Word} (h : Reaches s v .hv 0x200 0) :
    exec (.panelGo v w) s = .next (s.panelGo (field w.toNat 0 2)) :=
  congrArg Host.Outcome.next (State.viaBus_of_reaches h (by simp) _ _)

theorem panelGo_clauses (v : View) (w : Word) (h : Reaches s v .hv 0x200 0) :
    (s.panelRefusal (field w.toNat 0 2) = 0 → ∃ t, exec (.panelGo v w) s = .next t ∧ t.rd .hv 0 Reg.Hv.BUSY = 1 ∧
      t.rd .hv 0 Reg.Hv.WAVE = field w.toNat 0 2 ∧ t.rd .hv 0 Reg.Hv.PHASE = 0 ∧ t.panel = { s.panel with pumps := true, phases := false } ∧
      t.mem = s.mem) ∧
    (s.panelRefusal (field w.toNat 0 2) ≠ 0 → ∃ t, exec (.panelGo v w) s = .next t ∧
      t.rd .hv 0 Reg.Hv.P_ERR = s.panelRefusal (field w.toNat 0 2) ∧ t.panel = s.panel ∧ IrqSet t .hv 0 5 ∧
      t.rd .hv 0 (Reg.Hdr.ERR_CNT 1) = (count31 (s.rd .hv 0 (Reg.Hdr.ERR_CNT 1)) 1).1 ∧ t.mem = s.mem) := by
  rw [exec_panelGo s h]
  have hw : field w.toNat 0 2 % 4 = field w.toNat 0 2 := by simp [field]
  refine ⟨fun hok => ⟨_, rfl, ?_⟩, fun hno => ⟨_, rfl, ?_⟩⟩
  · rw [panelGo_accepted s hok]
    simp (disch := decide) [State.rd_wr_other, hw]
  · rw [panelGo_refused s hno]
    have hlt := Nat.mod_eq_of_lt (panelRefusal_lt s (field w.toNat 0 2))
    refine ⟨?_, by simp, State.irqSet_irq _ _ (by decide), ?_, by simp⟩
    · simp (disch := decide) only [State.rd_irq_none, State.rd_errCount_other, State.rd_wr_self, hlt]
    · simp (disch := decide) only [State.rd_irq_none, State.rd_errCount_self, State.rd_wr_other]

/-- The journal takes the regions and the waveform of the update. -/
def State.setJournal (s : State) : State :=
  let s1 := (List.range 3).foldl (fun s i => s.wr .hv 0 (Reg.Hv.JRN_REGION i) (s.rd .hv 0 (Reg.Hv.REGION i))) s
  (s1.wr .hv 0 Reg.Hv.JRN_WAVE (s1.rd .hv 0 Reg.Hv.WAVE)).wr .hv 0 Reg.Hv.JRN_VALID 1

theorem setJournal_eq : s.setJournal = ((((s.wr .hv 0 (Reg.Hv.JRN_REGION 0) (s.rd .hv 0 (Reg.Hv.REGION 0))).wr .hv 0
    (Reg.Hv.JRN_REGION 1) (s.rd .hv 0 (Reg.Hv.REGION 1))).wr .hv 0 (Reg.Hv.JRN_REGION 2) (s.rd .hv 0 (Reg.Hv.REGION 2))).wr .hv 0
    Reg.Hv.JRN_WAVE (s.rd .hv 0 Reg.Hv.WAVE)).wr .hv 0 Reg.Hv.JRN_VALID 1 := by
  unfold State.setJournal
  simp only [List.range_succ, List.range_zero, List.nil_append, List.cons_append, List.foldl_cons, List.foldl_nil]
  simp (disch := decide) only [State.rd_wr_other]

theorem rd_setJournal_other {f : Fld} (hoff : f.off < 0x19C ∨ 0x1AC ≤ f.off) (hlsb : f.lsb < 32) :
    s.setJournal.rd .hv 0 f = s.rd .hv 0 f := by
  have hne (off lsb w r : Nat) (a : Acc) (ho : 0x19C ≤ off ∧ off < 0x1AC) (hl : lsb < 32) :
      regKey .hv 0 f ≠ regKey .hv 0 ⟨off, lsb, w, r, a⟩ := by
    simp only [regKey]
    omega
  rw [setJournal_eq, State.rd_wr_other _ _ (hne _ _ _ _ _ (by decide) (by decide)),
    State.rd_wr_other _ _ (hne _ _ _ _ _ (by decide) (by decide)), State.rd_wr_other _ _ (hne _ _ _ _ _ (by decide) (by decide)),
    State.rd_wr_other _ _ (hne _ _ _ _ _ (by decide) (by decide)), State.rd_wr_other _ _ (hne _ _ _ _ _ (by decide) (by decide))]

theorem segLevel_setJournal (e : Nat) {k : Nat} (hk : k < 96) : s.setJournal.segLevel e k = s.segLevel e k := by
  have hbit (base : Nat) (r : Nat) (a : Acc) (h : base + 12 ≤ 0x19C ∨ 0x1AC ≤ base) :
      s.setJournal.segBit (fun i => ⟨base + 4 * i, 0, 32, r, a⟩) k = s.segBit (fun i => ⟨base + 4 * i, 0, 32, r, a⟩) k := by
    unfold State.segBit
    rw [rd_setJournal_other s (by dsimp only; omega) (by show 0 < 32; decide)]
  have hregion : s.setJournal.segBit Reg.Hv.REGION k = s.segBit Reg.Hv.REGION k := hbit 0x208 0 .rw (by decide)
  have himage : s.setJournal.segBit Reg.Hv.IMAGE k = s.segBit Reg.Hv.IMAGE k := hbit 0x184 0 .ro (by decide)
  have htarget : s.setJournal.segBit Reg.Hv.TARGET k = s.segBit Reg.Hv.TARGET k := hbit 0x214 0 .rw (by decide)
  simp only [State.segLevel, hregion, himage, htarget]

/-- The journal is written before the first phase reads its entry and the segments. -/
theorem exec_panelPumpsReady (hon : s.domOn 25 = true) (hpumps : s.panel.pumps = true) (hph : s.panel.phases = false)
    (hbusy : s.rdB .hv 0 Reg.Hv.BUSY = true) : exec .panelPumpsReady s = .next (s.setJournal.beginPhase 0) := by
  show execPanelPumpsReady s = _
  rw [execPanelPumpsReady, if_neg (by simp [hon, hpumps, hph, hbusy])]
  rfl

theorem panelPumpsReady_leaves (e : Nat) (hon : s.domOn 25 = true) (hpumps : s.panel.pumps = true) (hph : s.panel.phases = false)
    (hbusy : s.rdB .hv 0 Reg.Hv.BUSY = true) (he : e = s.phaseEntry (s.rd .hv 0 Reg.Hv.WAVE) 0) (hw : s.rd .hv 0 Reg.Hv.WAVE < 4) :
    ∃ t, exec .panelPumpsReady s = .next t ∧
      t.rd .hv 0 Reg.Hv.JRN_VALID = 1 ∧ t.rd .hv 0 Reg.Hv.JRN_WAVE = s.rd .hv 0 Reg.Hv.WAVE ∧
      (∀ i, i < 3 → t.rd .hv 0 (Reg.Hv.JRN_REGION i) = s.rd .hv 0 (Reg.Hv.REGION i) % 2 ^ 32) ∧
      t.panel.phases = true ∧ t.panel.segs = (List.range 96).map (s.segLevel e) ∧ t.panel.com = field e 10 2 ∧ t.mem = s.mem := by
  have hentry : s.setJournal.phaseEntry (s.setJournal.rd .hv 0 Reg.Hv.WAVE) 0 = e := by
    rw [rd_setJournal_other s (by decide) (by decide), he]
    exact rd_setJournal_other s (by dsimp only; omega) (by show 0 < 32; decide)
  have hsegs : (List.range 96).map (s.setJournal.segLevel e) = (List.range 96).map (s.segLevel e) :=
    List.map_congr_left fun k hk => segLevel_setJournal s e (List.mem_range.mp hk)
  refine ⟨_, exec_panelPumpsReady s hon hpumps hph hbusy, ?_⟩
  unfold State.beginPhase
  dsimp only
  rw [hentry, hsegs]
  refine ⟨?_, ?_, fun i hi => ?_, rfl, rfl, rfl, ?_⟩
  · rw [setJournal_eq]
    simp (disch := decide) [State.rd_wr_other]
  · rw [setJournal_eq]
    simp (disch := decide) [State.rd_wr_other, Nat.mod_eq_of_lt hw]
  · rw [setJournal_eq]
    obtain rfl | rfl | rfl := cases_three hi <;> simp (disch := decide) [State.rd_wr_other]
  · rw [setJournal_eq]
    simp

/-! ### The end of a phase -/

theorem exec_panelPhaseEnd_next (hon : s.domOn 25 = true) (hph : s.panel.phases = true)
    (h : s.rd .hv 0 Reg.Hv.PHASE + 1 < s.rd .hv 0 (Reg.Hv.NPHASE (s.rd .hv 0 Reg.Hv.WAVE))) :
    exec .panelPhaseEnd s = .next (s.beginPhase (s.rd .hv 0 Reg.Hv.PHASE + 1)) := by
  show execPanelPhaseEnd s = _
  rw [execPanelPhaseEnd, if_neg (by simp [hon, hph])]
  exact congrArg Host.Outcome.next (if_pos h)

/-- The update is done for the segments of one register: they show TARGET within REGION, and a cleanup update covers them. -/
def State.finishRegion (s : State) (w k : Nat) : State :=
  let r := s.rd .hv 0 (Reg.Hv.REGION k)
  let s1 := s.wr .hv 0 (Reg.Hv.IMAGE k) (or32 (clr32 (s.rd .hv 0 (Reg.Hv.IMAGE k)) r) (and32 (s.rd .hv 0 (Reg.Hv.TARGET k)) r))
  if s.rdB .hv 0 (Reg.Hv.CLEAN w) then s1.wr .hv 0 (Reg.Hv.CLEAN_REQ k) (clr32 (s.rd .hv 0 (Reg.Hv.CLEAN_REQ k)) r) else s1

/-- The end of an update (R401 step 5). -/
def State.finishUpdate (s : State) (w : Nat) : State :=
  ((((s.finishRegion w 0).finishRegion w 1).finishRegion w 2).parkPanel.wr .hv 0 Reg.Hv.JRN_VALID 0).irq .hv none 3

theorem exec_panelPhaseEnd_last (hon : s.domOn 25 = true) (hph : s.panel.phases = true)
    (h : s.rd .hv 0 (Reg.Hv.NPHASE (s.rd .hv 0 Reg.Hv.WAVE)) ≤ s.rd .hv 0 Reg.Hv.PHASE + 1) :
    exec .panelPhaseEnd s = .next (s.finishUpdate (s.rd .hv 0 Reg.Hv.WAVE)) := by
  show execPanelPhaseEnd s = _
  rw [execPanelPhaseEnd, if_neg (by simp [hon, hph])]
  exact congrArg Host.Outcome.next (if_neg (Nat.not_lt.mpr h))

theorem rd_finishRegion_other {f : Fld} {w k : Nat} (himg : regKey .hv 0 f ≠ regKey .hv 0 (Reg.Hv.IMAGE k))
    (hclean : regKey .hv 0 f ≠ regKey .hv 0 (Reg.Hv.CLEAN_REQ k)) : (s.finishRegion w k).rd .hv 0 f = s.rd .hv 0 f := by
  unfold State.finishRegion
  dsimp only
  split
  · rw [State.rd_wr_other _ _ hclean, State.rd_wr_other _ _ himg]
  · rw [State.rd_wr_other _ _ himg]

theorem or32_lt (a b : Nat) : or32 a b < 2 ^ 32 := BitVec.isLt _

theorem rd_finishRegion_image {w k : Nat} : (s.finishRegion w k).rd .hv 0 (Reg.Hv.IMAGE k) =
    or32 (clr32 (s.rd .hv 0 (Reg.Hv.IMAGE k)) (s.rd .hv 0 (Reg.Hv.REGION k)))
      (and32 (s.rd .hv 0 (Reg.Hv.TARGET k)) (s.rd .hv 0 (Reg.Hv.REGION k))) := by
  have hne : regKey .hv 0 (Reg.Hv.IMAGE k) ≠ regKey .hv 0 (Reg.Hv.CLEAN_REQ k) := by
    simp only [regKey]
    omega
  unfold State.finishRegion
  dsimp only
  split
  · rw [State.rd_wr_other _ _ hne, State.rd_wr_self]
    exact Nat.mod_eq_of_lt (or32_lt ..)
  · rw [State.rd_wr_self]
    exact Nat.mod_eq_of_lt (or32_lt ..)

@[simp] theorem finishRegion_panel (w k : Nat) : (s.finishRegion w k).panel = s.panel := by
  unfold State.finishRegion
  dsimp only
  split <;> rfl

@[simp] theorem finishRegion_mem (w k : Nat) : (s.finishRegion w k).mem = s.mem := by
  unfold State.finishRegion
  dsimp only
  split <;> rfl

theorem finishUpdate_leaves (w : Nat) : (s.finishUpdate w).rd .hv 0 Reg.Hv.BUSY = 0 ∧
      (s.finishUpdate w).rd .hv 0 Reg.Hv.JRN_VALID = 0 ∧ (s.finishUpdate w).panel.pumps = false ∧
      (s.finishUpdate w).panel.phases = false ∧ (s.finishUpdate w).panel.segs = List.replicate 96 0 ∧
      (∀ k, k < 3 → (s.finishUpdate w).rd .hv 0 (Reg.Hv.IMAGE k) =
        or32 (clr32 (s.rd .hv 0 (Reg.Hv.IMAGE k)) (s.rd .hv 0 (Reg.Hv.REGION k)))
        (and32 (s.rd .hv 0 (Reg.Hv.TARGET k)) (s.rd .hv 0 (Reg.Hv.REGION k)))) ∧ IrqSet (s.finishUpdate w) .hv 0 3 ∧
      (s.finishUpdate w).mem = s.mem := by
  unfold State.finishUpdate State.parkPanel
  refine ⟨?_, ?_, by simp, by simp, by simp, fun k hk => ?_, State.irqSet_irq _ _ (by decide), by simp⟩
  · simp (disch := decide) [State.rd_irq_none, State.rd_wr_other]
  · simp (disch := decide) [State.rd_irq_none]
  · obtain rfl | rfl | rfl := cases_three hk <;>
      simp (disch := decide) only [State.rd_irq_none, State.rd_wr_other, State.rd_setPanel, rd_finishRegion_other,
        rd_finishRegion_image]

/-! ### A failing supply -/

/-- The segments of the journal want a cleanup (R403). -/
def State.wantCleanup (s : State) : State := (List.range 3).foldl (fun s k =>
  s.wr .hv 0 (Reg.Hv.CLEAN_REQ k) (or32 (s.rd .hv 0 (Reg.Hv.CLEAN_REQ k)) (s.rd .hv 0 (Reg.Hv.JRN_REGION k)))) s

theorem rd_wantCleanup_other {f : Fld} (hoff : f.off < 0x190 ∨ 0x19C ≤ f.off) (hlsb : f.lsb < 32) :
    s.wantCleanup.rd .hv 0 f = s.rd .hv 0 f := by
  have hne (k : Nat) (hk : k < 3) : regKey .hv 0 f ≠ regKey .hv 0 (Reg.Hv.CLEAN_REQ k) := by
    simp only [regKey]
    omega
  unfold State.wantCleanup
  simp only [List.range_succ, List.range_zero, List.nil_append, List.cons_append, List.foldl_cons, List.foldl_nil]
  rw [State.rd_wr_other _ _ (hne 2 (by decide)), State.rd_wr_other _ _ (hne 1 (by decide)), State.rd_wr_other _ _ (hne 0 (by decide))]

theorem rd_wantCleanup_self {k : Nat} (hk : k < 3) : s.wantCleanup.rd .hv 0 (Reg.Hv.CLEAN_REQ k) =
    or32 (s.rd .hv 0 (Reg.Hv.CLEAN_REQ k)) (s.rd .hv 0 (Reg.Hv.JRN_REGION k)) := by
  unfold State.wantCleanup
  simp only [List.range_succ, List.range_zero, List.nil_append, List.cons_append, List.foldl_cons, List.foldl_nil]
  obtain rfl | rfl | rfl := cases_three hk <;>
    simp (disch := decide) only [State.rd_wr_other, State.rd_wr_self, Nat.mod_eq_of_lt (or32_lt _ _)]

@[simp] theorem wantCleanup_panel : s.wantCleanup.panel = s.panel := rfl
@[simp] theorem wantCleanup_mem : s.wantCleanup.mem = s.mem := rfl

/-- An update that the supply's failure cuts short, with the panel parked (R403). -/
def State.cutShort (s : State) : State := ((s.wantCleanup.wr .hv 0 Reg.Hv.JRN_SFAIL 1).errCount .hv 0 2 1).irq .hv none 4

theorem exec_hvSupplyFail (mv : Nat) (hmv : mv < 2900) (hwas : 2900 ≤ s.panel.vddHv) : exec (.hvSupplyFail mv) s =
    .next (if s.rdB .hv 0 Reg.Hv.BUSY then (s.setPanel { s.panel with vddHv := mv }).parkPanel.cutShort
      else (s.setPanel { s.panel with vddHv := mv }).parkPanel) := by
  have hlow : ¬ (decide (2900 ≤ mv) || decide (s.panel.vddHv < 2900)) = true := by
    simp
    omega
  show execHvSupplyFail mv s = _
  rw [execHvSupplyFail, if_neg hlow]
  cases s.rdB .hv 0 Reg.Hv.BUSY <;> rfl

theorem rd_cutShort_other {f : Fld} (hlow : f.off < 0x190 ∨ 0x19C ≤ f.off) (hlsb : f.lsb < 32)
    (hsf : regKey .hv 0 f ≠ regKey .hv 0 Reg.Hv.JRN_SFAIL) (hdr : 0x100 ≤ f.off) : s.cutShort.rd .hv 0 f = s.rd .hv 0 f := by
  have hne (off lsb w r : Nat) (a : Acc) (ho : off < 0x100) (hl : lsb < 32) : regKey .hv 0 f ≠ regKey .hv 0 ⟨off, lsb, w, r, a⟩ := by
    simp only [regKey]
    omega
  unfold State.cutShort
  rw [State.rd_irq_none (hne _ _ _ _ _ (by decide) (by decide)), State.rd_errCount_other (hne _ _ _ _ _ (by decide) (by decide))
    (hne _ _ _ _ _ (by decide) (by decide)) (hne _ _ _ _ _ (by decide) (by decide)), State.rd_wr_other _ _ hsf,
    rd_wantCleanup_other s hlow hlsb]

theorem hvSupplyFail_busy (mv : Nat) (hmv : mv < 2900) (hwas : 2900 ≤ s.panel.vddHv) (hbusy : s.rdB .hv 0 Reg.Hv.BUSY = true) :
    ∃ t, exec (.hvSupplyFail mv) s = .next t ∧
      t.rd .hv 0 Reg.Hv.BUSY = 0 ∧ t.rd .hv 0 Reg.Hv.JRN_SFAIL = 1 ∧ t.panel.segs = List.replicate 96 0 ∧ t.panel.pumps = false ∧
      t.panel.com = 0 ∧ t.panel.vddHv = mv ∧ (∀ k, k < 3 → t.rd .hv 0 (Reg.Hv.CLEAN_REQ k) =
        or32 (s.rd .hv 0 (Reg.Hv.CLEAN_REQ k)) (s.rd .hv 0 (Reg.Hv.JRN_REGION k)) ∧
        t.rd .hv 0 (Reg.Hv.JRN_REGION k) = s.rd .hv 0 (Reg.Hv.JRN_REGION k) ∧
        t.rd .hv 0 (Reg.Hv.IMAGE k) = s.rd .hv 0 (Reg.Hv.IMAGE k)) ∧ t.rd .hv 0 Reg.Hv.JRN_WAVE = s.rd .hv 0 Reg.Hv.JRN_WAVE ∧
      t.rd .hv 0 Reg.Hv.JRN_PHASE = s.rd .hv 0 Reg.Hv.JRN_PHASE ∧ IrqSet t .hv 0 4 ∧ t.mem = s.mem ∧
      t.rd .hv 0 (Reg.Hdr.ERR_CNT 2) = (count31 (s.rd .hv 0 (Reg.Hdr.ERR_CNT 2)) 1).1 := by
  refine ⟨_, (exec_hvSupplyFail s mv hmv hwas).trans (congrArg _ (if_pos hbusy)), ?_⟩
  generalize hu : (s.setPanel { s.panel with vddHv := mv }).parkPanel = u
  have hrd {f : Fld} (h1 : regKey .hv 0 f ≠ regKey .hv 0 Reg.Hv.BUSY) (h2 : regKey .hv 0 f ≠ regKey .hv 0 Reg.Hv.PHASE) :
      u.rd .hv 0 f = s.rd .hv 0 f := by
    rw [← hu, State.parkPanel, State.rd_setPanel, State.rd_wr_other _ _ h2, State.rd_wr_other _ _ h1, State.rd_setPanel]
  have hbusy' : u.rd .hv 0 Reg.Hv.BUSY = 0 := by
    rw [← hu, State.parkPanel]
    simp (disch := decide) [State.rd_wr_other]
  have hpanel : u.panel = { s.panel with vddHv := mv, pumps := false, phases := false, segs := List.replicate 96 0, com := 0 } := by
    rw [← hu]
    rfl
  have hmem : u.mem = s.mem := by
    rw [← hu]
    rfl
  have hcut : u.cutShort.panel = u.panel := by simp [State.cutShort]
  refine ⟨?_, ?_, ?_, ?_, ?_, ?_, fun k hk => ?_, ?_, ?_, State.irqSet_irq _ _ (by decide), ?_, ?_⟩
  · rw [rd_cutShort_other _ (by decide) (by decide) (by decide) (by decide), hbusy']
  · simp (disch := decide) [State.cutShort, State.rd_irq_none, State.rd_errCount_other]
  · rw [hcut, hpanel]
  · rw [hcut, hpanel]
  · rw [hcut, hpanel]
  · rw [hcut, hpanel]
  · have hclean : u.cutShort.rd .hv 0 (Reg.Hv.CLEAN_REQ k) = u.wantCleanup.rd .hv 0 (Reg.Hv.CLEAN_REQ k) := by
      obtain rfl | rfl | rfl := cases_three hk <;>
        simp (disch := decide) only [State.cutShort, State.rd_irq_none, State.rd_errCount_other, State.rd_wr_other]
    rw [hclean, rd_wantCleanup_self _ hk]
    obtain rfl | rfl | rfl := cases_three hk <;>
      exact ⟨by rw [hrd (by decide) (by decide), hrd (by decide) (by decide)],
        by rw [rd_cutShort_other _ (by decide) (by decide) (by decide) (by decide), hrd (by decide) (by decide)],
        by rw [rd_cutShort_other _ (by decide) (by decide) (by decide) (by decide), hrd (by decide) (by decide)]⟩
  · rw [rd_cutShort_other _ (by decide) (by decide) (by decide) (by decide), hrd (by decide) (by decide)]
  · rw [rd_cutShort_other _ (by decide) (by decide) (by decide) (by decide), hrd (by decide) (by decide)]
  · simp [State.cutShort, hmem]
  · have herr : u.cutShort.rd .hv 0 (Reg.Hdr.ERR_CNT 2) = (count31 (u.rd .hv 0 (Reg.Hdr.ERR_CNT 2)) 1).1 := by
      simp (disch := decide) only [State.cutShort, State.rd_irq_none, State.rd_errCount_self, State.rd_wr_other, rd_wantCleanup_other]
    rw [herr, hrd (by decide) (by decide)]

theorem hvSupplyFail_idle (mv : Nat) (hmv : mv < 2900) (hwas : 2900 ≤ s.panel.vddHv) (hbusy : s.rdB .hv 0 Reg.Hv.BUSY = false) :
    ∃ t, exec (.hvSupplyFail mv) s = .next t ∧
      t.panel.pumps = false ∧ t.panel.segs = List.replicate 96 0 ∧ t.panel.com = 0 ∧ t.panel.vddHv = mv ∧ t.mem = s.mem ∧ t.out = s.out ∧
      ∀ p b f, regKey p b f ≠ regKey .hv 0 Reg.Hv.BUSY → regKey p b f ≠ regKey .hv 0 Reg.Hv.PHASE → t.rd p b f = s.rd p b f := by
  refine ⟨_, (exec_hvSupplyFail s mv hmv hwas).trans (congrArg _ (if_neg (by simp [hbusy]))), rfl, rfl, rfl, rfl, rfl, rfl, ?_⟩
  intro p b f h1 h2
  rw [State.parkPanel, State.rd_setPanel, State.rd_wr_other _ _ h2, State.rd_wr_other _ _ h1, State.rd_setPanel]

end

/-- Settles O52: each command is one of the steps above, and what it writes lies apart from what the statement compares. -/
theorem panel : Obligations.Panel := by
  unfold Obligations.Panel
  refine ⟨panelGo_clauses, panelPumpsReady_leaves, ?_, fun s mv => ⟨fun hmv => ?_, hvSupplyFail_busy s mv, hvSupplyFail_idle s mv⟩⟩
  · rintro s w i hon hph rfl rfl
    refine ⟨fun h => ⟨_, exec_panelPhaseEnd_next s hon hph h, ?_⟩,
      fun h => ⟨_, exec_panelPhaseEnd_last s hon hph h, finishUpdate_leaves s _⟩⟩
    unfold State.beginPhase
    refine ⟨?_, ?_, rfl, rfl, rfl⟩
    · simp (disch := decide) [State.rd_wr_other]
    · simp
  · exact congrArg Host.Outcome.next (if_pos (by simp [hmv]))

end Sys2Proof.Machine
end

section
/-! A view without a bank of a page (R212, R415). -/

namespace Sys2Proof.Machine

set_option Elab.async false

variable {s : State} {v : View} {p : Page} {off addr : Nat}

theorem State.viaBus_of_noBank (hpage : pageAt addr = some (p, off)) (hbank : s.viewBank v p = none) (size w : Nat)
    (effect : State → Page → Nat → Nat → State) : s.viaBus v addr size w effect = s := by
  unfold State.viaBus
  simp only [hpage, hbank, ite_self]

theorem State.namedWrite_of_noBank (hpage : pageAt addr = some (p, off)) (hbank : s.viewBank v p = none) (o w : Nat) :
    s.namedWrite v addr o w = s := by
  unfold State.namedWrite State.busWrite
  simp only [hpage, State.viaBus_of_noBank hpage hbank, ite_self]

theorem State.busRead_of_noBank (hpage : pageAt addr = some (p, off)) (hbank : s.viewBank v p = none) (halign : addr % 4 = 0)
    (hremoved : s.pageRemoved p = false) : s.busRead v addr = s.answer v addr 0 := by
  unfold State.busRead
  simp [hpage, hbank, halign, hremoved]

/-- Settles O60: the check for a bank stands before every effect of an access. -/
theorem noAccessNoEffect : Obligations.NoAccessNoEffect := by
  unfold Obligations.NoAccessNoEffect
  intro s v p off addr size w hpage hbank
  have hnamed (o n : Nat) : (.next (s.namedWrite v addr o n) : Ans) = .next s :=
    congrArg _ (State.namedWrite_of_noBank hpage hbank o n)
  have hbus (k n : Nat) : s.busWrite v addr k n = s := State.viaBus_of_noBank hpage hbank k n _
  refine ⟨congrArg _ (hbus size w.toNat), hnamed _ _, hnamed _ _, hnamed _ _, hnamed _ _, hnamed _ _, hnamed _ _, hnamed _ _, hnamed _ _,
    ?_, fun halign hremoved => congrArg _ (State.busRead_of_noBank hpage hbank halign hremoved)⟩
  show execCntClr v addr w s = _
  rw [execCntClr, hpage]
  cases p <;> simp [hbus]

end Sys2Proof.Machine
end

section
/-! Plain accesses: reads, latched pairs, LPDDR's RATE, and ACK_N (R221, R237, R407, R408). -/

namespace Sys2Proof.Machine

set_option Elab.async false

section
variable {s : State} {v : View} {p : Page} {off bank : Nat}

/-! ### Reads -/

theorem State.answer_mod (s : State) (v : View) (addr w : Nat) : s.answer v addr (w % 2 ^ 32) = s.answer v addr w := by
  have hofNat : BitVec.ofNat 32 (w % 2 ^ 32) = BitVec.ofNat 32 w := by
    apply BitVec.eq_of_toNat_eq
    simp
  cases v <;> simp only [State.answer, hofNat]

theorem State.answer_vf {q : Nat} (addr w : Nat) (hheld : (s.ports.heldTlps.any fun h => h.1 == q + 1) = false)
    (hweir : s.weirHolds q 2 = false) : s.answer (.vf q) addr w =
      (s.chargeWeir (some q) 2 1).emit (.readData (.vf q) addr (BitVec.ofNat 32 w)) := by
  have hlines : ceilDiv 4 64 = 1 := by decide
  simp [State.answer, State.emitTlp, hheld, hweir, hlines]

theorem State.busRead_of_reaches (h : Reaches s v p off bank) (hown : OwnDomain p off) (hremoved : s.pageRemoved p = false) :
    s.busRead v (p.base + off) = (s.readPage v p bank off).1.answer v (p.base + off) (s.readPage v p bank off).2 := by
  obtain ⟨hpage, halign, hserved, habsent, hbank, hon⟩ := h
  simp [State.busRead, hpage, halign, hserved, habsent, hremoved, hbank, State.wakeFor_of_domOn hon hown, hon]

theorem State.busRead_of_removed (h : Reaches s v p off bank) (hremoved : s.pageRemoved p = true) :
    s.busRead v (p.base + off) = s.answer v (p.base + off) (removedWord v p off) := by
  obtain ⟨hpage, halign, hserved, -⟩ := h
  simp [State.busRead, hpage, halign, hserved, hremoved]

theorem State.readPage_header (hoff : off < 0x100) : s.readPage v p bank off = (s, s.hdrWord v p bank off) := by
  have hsettle : s.settlePage p bank off = s := by
    unfold State.settlePage
    split
    · rw [if_neg (by omega)]
    · rw [if_neg (by omega)]
    · rfl
  have hshown : s.shownCell p off = none := by
    unfold State.shownCell
    split
    · rw [if_neg (by omega)]
    · rw [if_neg (by omega)]
    · rfl
  simp only [State.readPage, hsettle, hshown, State.readWord, if_pos hoff]

/-- The first header word reads alike on a page that is there and on one that self-test has removed (R367, R405). -/
theorem busRead_first (h : Reaches s v p 0 bank) :
    s.busRead v p.base = s.answer v p.base (p.type + p.inst * 65536 + View.fn v * 2 ^ 24) := by
  cases hremoved : s.pageRemoved p
  · have hread := State.busRead_of_reaches h (by intro _; rfl) hremoved
    rw [State.readPage_header (by decide)] at hread
    exact hread
  · exact State.busRead_of_removed h hremoved

/-! ### The pair of SIDX -/

theorem storedWord_audio_sidx : s.storedWord .audio bank 0x108 = 0 ∧ s.storedWord .audio bank 0x10C = 0 := by
  have hlow : Reg.Audio.all.filter (fun f => f.off == 0x108 && (f.acc != .dv)) = [] := by decide +kernel
  have hhigh : Reg.Audio.all.filter (fun f => f.off == 0x10C && (f.acc != .dv)) = [] := by decide +kernel
  constructor
  · show sumNat ((Reg.Audio.all.filter _).map _) = 0
    rw [hlow]
    rfl
  · show sumNat ((Reg.Audio.all.filter _).map _) = 0
    rw [hhigh]
    rfl

theorem blockWord_sidxLow : s.blockWord v .audio bank 0x108 = s.audio.sidx % 2 ^ 32 := by
  have hword : s.blockWord v .audio bank 0x108 = s.storedWord .audio bank 0x108 + s.audio.sidx % 2 ^ 32 := rfl
  rw [hword, storedWord_audio_sidx.1, Nat.zero_add]

theorem blockWord_sidxHigh : s.blockWord v .audio bank 0x10C = s.audio.sidx / 2 ^ 32 % 2 ^ 32 := by
  have hword : s.blockWord v .audio bank 0x10C = s.storedWord .audio bank 0x10C + s.audio.sidx / 2 ^ 32 % 2 ^ 32 := rfl
  rw [hword, storedWord_audio_sidx.2, Nat.zero_add]

theorem readPage_sidxLow : s.readPage v .audio bank 0x108 = ({ s with
    latches := SMap.set 0 s.latches (latchKey v 0x08010C) (s.audio.sidx / 2 ^ 32 % 2 ^ 32) }, s.audio.sidx % 2 ^ 32) := by
  have hread : s.readPage v .audio bank 0x108 = ({ s with
    latches := SMap.set 0 s.latches (latchKey v 0x08010C) (s.blockWord v .audio bank 0x10C % 2 ^ 32) }, s.blockWord v .audio bank 0x108) := rfl
  rw [hread, blockWord_sidxLow, blockWord_sidxHigh, Nat.mod_mod]

theorem readPage_sidxHigh : s.readPage v .audio bank 0x10C = (s, SMap.get 0 s.latches (latchKey v 0x08010C)) := by
  have hread : s.readPage v .audio bank 0x10C = (s, s.blockWord v .audio bank 0x10C - s.blockWord v .audio bank 0x10C % 2 ^ 32 +
    SMap.get 0 s.latches (latchKey v 0x08010C)) := rfl
  rw [hread, blockWord_sidxHigh, Nat.mod_mod, Nat.sub_self, Nat.zero_add]

end

/-! ### LPDDR's RATE -/

section
variable (s : State) (v : View)

theorem exec_rateWrite {w : Word} (h : Reaches s v .lpddr 0x100 0) :
    exec (.registerWrite v 0x0D0100 4 w) s = .next (s.wrFields .lpddr 0 0x100 w.toNat Reg.Lpddr.all) :=
  congrArg Host.Outcome.next (State.busWrite_of_reaches h (by simp) w.toNat)

theorem wrFields_rate (w : Nat) : s.wrFields .lpddr 0 0x100 w Reg.Lpddr.all =
    if s.st .lpddr 0 = 0 ∧ s.rdB .lpddr 0 Reg.Hdr.CFG_OPEN = true then s.wr .lpddr 0 Reg.Lpddr.RATE (field w 0 14)
    else (s.wr .lpddr 0 Reg.Hdr.CFG_WHILE_RUN 1).irq .lpddr none 31 := by
  have hmine : Reg.Lpddr.all.filter (fun f => f.off == 0x100) = [Reg.Lpddr.RATE] := by decide
  unfold State.wrFields
  dsimp only
  rw [hmine]
  by_cases hopen : s.st .lpddr 0 = 0 ∧ s.rdB .lpddr 0 Reg.Hdr.CFG_OPEN = true
  · simp [hopen]
  · have hclosed : (s.st .lpddr 0 == 0 && s.rdB .lpddr 0 Reg.Hdr.CFG_OPEN) = false := by simpa using hopen
    simp [hclosed, hopen, State.pagePart]

/-! ### ACK_N -/

theorem exec_ackN {w : Word} (h : Reaches s v .sealPage 0x108 0) : exec (.ackN v w) s = .next (s.ackN w.toNat) :=
  congrArg Host.Outcome.next (State.busWrite_of_reaches h (by simp) w.toNat)

theorem ackN_leaves {w : Nat} (h : field w 0 13 ≤ s.seals.ledger.length) : (s.ackN w).seals.ledger = s.seals.ledger.drop (field w 0 13) ∧
    (s.ackN w).seals.seq = s.seals.seq ∧ (s.ackN w).rd .sealPage 0 Reg.Seal.HEAD = (s.rd .sealPage 0 Reg.Seal.HEAD + field w 0 13) % 2 ^ 12 ∧
    (s.ackN w).mem = s.mem := by
  have hsettle : s.settleSeals.seals.ledger = s.seals.ledger ∧ s.settleSeals.seals.seq = s.seals.seq ∧ s.settleSeals.mem = s.mem := by
    simp [State.settleSeals]
  obtain ⟨hledger, hseq, hmem⟩ := hsettle
  rw [State.ackN, if_neg (Nat.not_lt.mpr h)]
  refine ⟨?_, hseq, ?_, hmem⟩
  · exact congrArg (List.drop (field w 0 13)) hledger
  · exact State.rd_wr_self _ _ _ _ _

end

/-- Settles O59: a read that nothing holds back is its page's word, and each write is that of the one field at its word. -/
theorem accesses : Obligations.Accesses := by
  unfold Obligations.Accesses
  intro s v
  refine ⟨fun addr w hv => ?_, ?_, fun p bank h => congrArg _ (busRead_first h), fun h => ?_, fun h => ?_, fun addr halign hnone => ?_,
    fun addr size w hbad => ?_, fun w h => ⟨fun hst hopen => ?_, fun hclosed => ?_⟩, fun w h => ⟨fun hn => ?_, fun hn => ?_⟩⟩
  · cases v with
    | vf q => exact absurd hv Bool.noConfusion
    | pf => rfl
    | steward => rfl
  · rintro addr w q rfl hheld hweir
    exact State.answer_vf addr w hheld hweir
  · have hread := State.busRead_of_reaches h (by simp) rfl
    rw [readPage_sidxLow] at hread
    exact congrArg _ (hread.trans (State.answer_mod ..))
  · have hread := State.busRead_of_reaches h (by simp) rfl
    rw [readPage_sidxHigh] at hread
    exact congrArg _ hread
  · show Host.Outcome.next (s.busRead v addr) = _
    simp [State.busRead, halign, hnone]
  · show Host.Outcome.next (s.busWrite v addr size w.toNat) = _
    rw [State.busWrite, State.viaBus, if_pos hbad.symm]
  · rw [exec_rateWrite s v h, wrFields_rate, if_pos ⟨hst, hopen⟩]
  · refine ⟨_, exec_rateWrite s v h, ?_⟩
    rw [wrFields_rate, if_neg (by simpa [imp_iff_not_or] using hclosed)]
    refine ⟨?_, ?_, State.irqSet_irq _ _ (by decide), by simp⟩
    · simp (disch := decide) only [State.rd_irq_none, State.rd_wr_other]
    · simp (disch := decide) [State.rd_irq_none]
  · exact ⟨_, exec_ackN s v h, ackN_leaves s hn⟩
  · rw [exec_ackN s v h, State.ackN, if_pos hn]

end Sys2Proof.Machine
end

section
/-! The interrupt registers of a view, and the message of a vector that rises (R412, R413). -/

namespace Sys2Proof.Machine

set_option Elab.async false

section
variable {s : State} {p : Page} {fn : Nat}

theorem clr32_lt (a b : Nat) : clr32 a b < 2 ^ 32 := BitVec.isLt _

theorem State.setRaw_regs (raw : Nat) : (s.setRaw p fn raw).regs = (s.wr p fn Reg.Hdr.IRQ_RAW raw).regs := State.vecEdge_regs _ _ _ _

theorem State.setMask_regs (mask : Nat) : (s.setMask p fn mask).regs = (s.wr p fn Reg.Hdr.IRQ_MASK mask).regs :=
  State.vecEdge_regs _ _ _ _

theorem State.rd_setRaw_other {q : Page} {b raw : Nat} {f : Fld} (h : regKey q b f ≠ regKey p fn Reg.Hdr.IRQ_RAW) :
    (s.setRaw p fn raw).rd q b f = s.rd q b f := by
  rw [State.rd_of_regs (State.setRaw_regs raw), State.rd_wr_other _ _ h]

theorem State.rd_setRaw_self (raw : Nat) : (s.setRaw p fn raw).rd p fn Reg.Hdr.IRQ_RAW = raw % 2 ^ 32 := by
  rw [State.rd_of_regs (State.setRaw_regs raw), State.rd_wr_self]

theorem State.rd_setMask_other {q : Page} {b mask : Nat} {f : Fld} (h : regKey q b f ≠ regKey p fn Reg.Hdr.IRQ_MASK) :
    (s.setMask p fn mask).rd q b f = s.rd q b f := by
  rw [State.rd_of_regs (State.setMask_regs mask), State.rd_wr_other _ _ h]

theorem State.rd_setMask_self (mask : Nat) : (s.setMask p fn mask).rd p fn Reg.Hdr.IRQ_MASK = mask % 2 ^ 32 := by
  rw [State.rd_of_regs (State.setMask_regs mask), State.rd_wr_self]

theorem regKey_irqMask_ne_irqRaw : regKey p fn Reg.Hdr.IRQ_MASK ≠ regKey p fn Reg.Hdr.IRQ_RAW := by
  simp only [regKey]
  omega

theorem State.setRaw_keeps (raw : Nat) : (s.setRaw p fn raw).mem = s.mem ∧ (s.setRaw p fn raw).power = s.power ∧
    (s.setRaw p fn raw).seals = s.seals := by
  have honly := State.outboundOnly_vecEdge (s.wr p fn Reg.Hdr.IRQ_RAW raw) fn (p.base / 0x10000) (s.vec fn (p.base / 0x10000))
  exact ⟨(congrArg State.mem honly :), (congrArg State.power honly :), (congrArg State.seals honly :)⟩

theorem State.setMask_keeps (mask : Nat) : (s.setMask p fn mask).mem = s.mem ∧ (s.setMask p fn mask).power = s.power := by
  have honly := State.outboundOnly_vecEdge (s.wr p fn Reg.Hdr.IRQ_MASK mask) fn (p.base / 0x10000) (s.vec fn (p.base / 0x10000))
  exact ⟨(congrArg State.mem honly :), (congrArg State.power honly :)⟩

/-! ### A rising vector -/

/-- A page with an unmasked interrupt presents its vector (R412). -/
theorem vec_of_page (hp : p ∈ allPages) (h : and32 (s.rd p fn Reg.Hdr.IRQ_RAW) (s.rd p fn Reg.Hdr.IRQ_MASK) ≠ 0) :
    s.vec fn (p.base / 0x10000) = true :=
  List.any_eq_true.mpr ⟨p, hp, by simpa using h⟩

/-- IDE's requirement is no interrupt register. -/
theorem ideDrops_wr_irqRaw (hp : p ∈ allPages) (raw : Nat) : (s.wr p fn Reg.Hdr.IRQ_RAW raw).ideDrops fn = s.ideDrops fn := by
  have hne : regKey .sec 0 Reg.Sec.IDE_REQ ≠ regKey p fn Reg.Hdr.IRQ_RAW := by
    obtain ⟨-, hbase⟩ := base_lt_of_mem_allPages hp
    simp only [regKey, Page.base]
    omega
  simp only [State.ideDrops, State.rdB, State.rd_wr_other s raw hne, State.wr_sec]

theorem sendMsix_out {k : Nat} (h : fn = 0 ∨ ((s.ports.heldTlps.any fun h => h.1 == fn) = false ∧ s.weirHolds (fn - 1) 2 = false)) :
    (s.sendMsix fn k).out = if s.ideDrops fn then s.out else s.out ++ [.msixMessage fn k] := by
  unfold State.sendMsix
  split
  · rfl
  · unfold State.emitTlp
    obtain rfl | ⟨hheld, hweir⟩ := h
    · rfl
    · dsimp only
      split_ifs with h0 hh
      · rfl
      · simp [hheld, hweir] at hh
      · rfl

/-- A vector that rises unmasked sends its message. -/
theorem orRaw_out {bits : Nat} (hp : p ∈ allPages) (hlow : s.vec fn (p.base / 0x10000) = false)
    (hraise : and32 (or32 (s.rd p fn Reg.Hdr.IRQ_RAW) bits) (s.rd p fn Reg.Hdr.IRQ_MASK) ≠ 0)
    (hopen : (SMap.get {} s.ports.msix (msixKey fn (p.base / 0x10000))).masked = false)
    (hfree : fn = 0 ∨ ((s.ports.heldTlps.any fun h => h.1 == fn) = false ∧ s.weirHolds (fn - 1) 2 = false)) :
    (s.orRaw p fn bits).out = if s.ideDrops fn then s.out else s.out ++ [.msixMessage fn (p.base / 0x10000)] := by
  generalize hraw : or32 (s.rd p fn Reg.Hdr.IRQ_RAW) bits = raw at hraise
  have hmod : raw % 2 ^ 32 = raw := Nat.mod_eq_of_lt (hraw ▸ BitVec.isLt _)
  have hvec : (s.wr p fn Reg.Hdr.IRQ_RAW raw).vec fn (p.base / 0x10000) = true :=
    vec_of_page hp (by rw [State.rd_wr_self, State.rd_wr_other _ _ regKey_irqMask_ne_irqRaw, hmod]; exact hraise)
  have hedge : s.orRaw p fn bits = (s.wr p fn Reg.Hdr.IRQ_RAW raw).sendMsix fn (p.base / 0x10000) := by
    rw [State.orRaw, State.setRaw, hraw]
    simp [State.vecEdge, hlow, hvec, hopen]
  rw [hedge, sendMsix_out (s := s.wr p fn Reg.Hdr.IRQ_RAW raw) hfree, ideDrops_wr_irqRaw hp, State.wr_out]

end

/-! ### The writes -/

section
variable {s : State} {v : View} {p : Page} {bank : Nat} {w : Word}

theorem exec_irqForce (h : Reaches s v p 0x01C bank) :
    exec (.irqForce v (p.base + 0x01C) w) s = .next (s.orRaw p (View.fn v) (irqBits w.toNat)) :=
  congrArg Host.Outcome.next (State.namedWrite_of_reaches h (by intro _; rfl) _)

theorem exec_irqClr (h : Reaches s v p 0x018 bank) : exec (.irqClr v (p.base + 0x018) w) s = .next (s.irqClear p (View.fn v) w.toNat) :=
  congrArg Host.Outcome.next (State.namedWrite_of_reaches h (by intro _; rfl) _)

theorem exec_irqMask (h : Reaches s v p 0x014 bank) : exec (.irqMask v (p.base + 0x014) w) s = .next (s.setMask p (View.fn v) w.toNat) :=
  congrArg Host.Outcome.next (State.namedWrite_of_reaches h (by intro _; rfl) _)

end

/-- Settles O58: the three writes go to one register of one view, and a raised vector is followed to its message. -/
theorem interrupts : Obligations.Interrupts := by
  unfold Obligations.Interrupts
  rintro s v w p bank fn raw rfl rfl
  refine ⟨fun h => ⟨_, exec_irqForce h, s.rd_orRaw_self .., ?_, ?_, fun q b f hne => s.rd_orRaw_other hne,
      fun hlow hraise hopen hfree => orRaw_out (mem_allPages_of_pageAt h.1) hlow hraise hopen hfree⟩,
    fun h hno => ⟨_, exec_irqClr h, ?_⟩, fun h hfull hbit => ⟨_, exec_irqClr h, ?_⟩, fun h => ⟨_, exec_irqMask h, ?_⟩⟩
  · exact (State.registersOnly_orRaw s p (View.fn v) (irqBits w.toNat)).mem_eq
  · exact (congrArg State.power (State.registersOnly_orRaw s p (View.fn v) (irqBits w.toNat)) :)
  · obtain ⟨hmem, hpower, hseals⟩ := State.setRaw_keeps (s := s) (p := p) (fn := View.fn v)
      (clr32 (s.rd p (View.fn v) Reg.Hdr.IRQ_RAW) w.toNat)
    rw [State.irqClear, if_neg (by rw [hseals]; rintro ⟨rfl, hbit, hfull⟩; simp_all)]
    refine ⟨?_, hmem, hpower, fun q b f hne => State.rd_setRaw_other hne⟩
    rw [State.rd_setRaw_self, Nat.mod_eq_of_lt (clr32_lt ..)]
  · obtain ⟨hmem, -, hseals⟩ := State.setRaw_keeps (s := s) (p := .sealPage) (fn := View.fn v)
      (clr32 (s.rd .sealPage (View.fn v) Reg.Hdr.IRQ_RAW) w.toNat)
    rw [State.irqClear, if_pos (by rw [hseals]; exact ⟨rfl, hbit, hfull⟩)]
    refine ⟨?_, (State.registersOnly_orRaw _ _ _ _).mem_eq.trans hmem⟩
    rw [IrqSet, State.rd_orRaw_self]
    exact bitAt_or32_self _ (i := 1) (by decide)
  · obtain ⟨hmem, hpower⟩ := State.setMask_keeps (s := s) (p := p) (fn := View.fn v) w.toNat
    refine ⟨?_, State.rd_setMask_other regKey_irqMask_ne_irqRaw.symm, hmem, hpower, fun q b f hne => State.rd_setMask_other hne⟩
    rw [State.rd_setMask_self, Nat.mod_eq_of_lt w.isLt]

end Sys2Proof.Machine
end

section
/-! Footprints in the registers: which keys an operation may write. -/

namespace Sys2Proof.Machine

set_option Elab.async false

/-- The 4 KiB page of the control window that a key lies on, and the offset there. -/
def keyPage (k : Nat) : Nat := k / 32 % 2 ^ 24 / 0x1000
def keyOff (k : Nat) : Nat := k / 32 % 0x1000

/-- From s to t only registers whose keys K picks change. -/
def RegsIn (K : Nat → Prop) (s t : State) : Prop := ∀ q b f, ¬ K (regKey q b f) → t.rd q b f = s.rd q b f

namespace RegsIn
variable {K L : Nat → Prop} {s t u : State}

theorem refl : RegsIn K s s := fun _ _ _ _ => rfl

theorem trans (h : RegsIn K s t) (g : RegsIn K t u) : RegsIn K s u := fun q b f hk => (g q b f hk).trans (h q b f hk)

theorem mono (h : RegsIn L s t) (hL : ∀ k, L k → K k) : RegsIn K s t := fun q b f hk => h q b f (mt (hL _) hk)

theorem of_regs (h : t.regs = s.regs) : RegsIn K s t := fun q b f _ => State.rd_of_regs h q b f

theorem wr {p : Page} {b v : Nat} {f : Fld} (h : K (regKey p b f)) : RegsIn K s (s.wr p b f v) :=
  fun _ _ _ hk => s.rd_wr_other v fun heq => hk (by rw [heq]; exact h)

theorem count {p : Page} {b n : Nat} {f sat : Fld} (hf : K (regKey p b f)) (hsat : K (regKey p b sat)) :
    RegsIn K s (s.count p b f sat n) :=
  fun _ _ _ hk => State.rd_count_other (fun heq => hk (by rw [heq]; exact hf)) fun heq => hk (by rw [heq]; exact hsat)

theorem orRaw {p : Page} {fn bits : Nat} (h : K (regKey p fn Reg.Hdr.IRQ_RAW)) : RegsIn K s (s.orRaw p fn bits) :=
  fun _ _ _ hk => s.rd_orRaw_other fun heq => hk (by rw [heq]; exact h)

theorem irq {p : Page} {q : Option Nat} {bit : Nat} (h : ∀ fn, K (regKey p fn Reg.Hdr.IRQ_RAW)) : RegsIn K s (s.irq p q bit) := by
  cases q with
  | none => exact orRaw (h 0)
  | some v => exact (orRaw (h 0)).trans (orRaw (h (v + 1)))

theorem errCount {p : Page} {b i n : Nat} (hf : K (regKey p b (Reg.Hdr.ERR_CNT i))) (hsat : K (regKey p b (Reg.Hdr.ERR_CNT_SAT i)))
    (hraw : K (regKey p 0 Reg.Hdr.IRQ_RAW)) : RegsIn K s (s.errCount p b i n) :=
  fun _ _ _ hk => State.rd_errCount_other (fun heq => hk (by rw [heq]; exact hf)) (fun heq => hk (by rw [heq]; exact hsat)) fun heq => hk (by rw [heq]; exact hraw)

theorem foldl {α : Type} {f : State → α → State} {l : List α} (h : ∀ u, ∀ x ∈ l, RegsIn K u (f u x)) : RegsIn K s (l.foldl f s) :=
  List.foldlRecOn l f (motive := RegsIn K s) refl fun _ ht x hx => ht.trans (h _ x hx)

theorem ite {a b : State} {c : Prop} [Decidable c] (ha : RegsIn K s a) (hb : RegsIn K s b) : RegsIn K s (if c then a else b) := by
  split
  · exact ha
  · exact hb

/-- A field outside the footprint reads as before. -/
theorem rd_eq (h : RegsIn K s t) {q : Page} {b : Nat} {f : Fld} (hk : ¬ K (regKey q b f)) : t.rd q b f = s.rd q b f := h q b f hk

end RegsIn

/-! ### Waits -/

/-- The registers that tell of the waits of an array's contexts (R150, R156). -/
def waitKeys (k : Nat) : Prop := 0x10 ≤ keyPage k ∧ keyPage k < 0x19 ∧ (keyOff k = 0x1F8 ∨ keyOff k = 0x1FC)

theorem waitKeys_ma {a b : Nat} {f : Fld} (ha : a ≤ 8) (hoff : f.off = 0x1F8 ∨ f.off = 0x1FC) (hlsb : f.lsb < 32) :
    waitKeys (regKey (.ma a) b f) := by
  simp only [waitKeys, keyPage, keyOff, regKey, Page.base]
  omega

section
variable {s : State}

theorem RegsIn.endWait {w : Waiter} : RegsIn waitKeys s (s.endWait w) := by
  unfold State.endWait
  dsimp only
  split
  · exact of_regs rfl
  · next hgo =>
    have ha : w.arr ≤ 8 := by
      simp only [Bool.or_eq_true, decide_eq_true_eq, not_or, not_lt] at hgo
      exact hgo.2
    exact ((of_regs rfl : RegsIn waitKeys s { s with waiters := s.waiters.filter fun x => !(x == w) }).trans
      (wr (waitKeys_ma ha (by decide) (by decide)))).trans
      (count (waitKeys_ma ha (by decide) (by decide)) (waitKeys_ma ha (by decide) (by decide)))

theorem RegsIn.releaseWaiter {w : Waiter} : RegsIn waitKeys s (s.releaseWaiter w) := by
  have hend : RegsIn waitKeys s (s.endWait w) := endWait
  unfold State.releaseWaiter
  dsimp only
  split <;> exact hend.trans (of_regs rfl)

theorem RegsIn.evalRelease {i : Nat} : RegsIn waitKeys s (s.evalRelease i) := by
  unfold State.evalRelease
  dsimp only
  refine RegsIn.trans ?_ (foldl fun _ _ _ => releaseWaiter)
  exact ite refl (of_regs rfl)

theorem RegsIn.dropWaits {a c : Nat} {d : Bool} : RegsIn waitKeys s (s.dropWaits a d c) := foldl fun _ _ _ => endWait

/-! ### Stopping a context -/

/-- The registers that stopping an array's context may write beside its own STATE: its waits, and the stall of its SEAL (R149, R237). -/
def stopKeys (k : Nat) : Prop := waitKeys k ∨ (keyPage k = 0xE0 ∧ keyOff k = 0x110)

theorem RegsIn.settleSeals : RegsIn stopKeys s s.settleSeals :=
  (count (.inr (by decide)) (.inr (by decide))).trans (of_regs rfl)

theorem RegsIn.unstallSeal {a : Nat} : RegsIn stopKeys s (s.unstallSeal a) := ite (settleSeals.trans (of_regs rfl)) refl

theorem RegsIn.clearCtx {a c : Nat} : RegsIn stopKeys s (s.clearCtx a c) := by
  have hdrop : RegsIn stopKeys s (s.dropWaits a false c) := dropWaits.mono fun _ => .inl
  unfold State.clearCtx
  dsimp only
  refine hdrop.trans ?_
  generalize s.dropWaits a false c = u
  split
  · exact ((of_regs rfl : RegsIn stopKeys u (u.modArr a _)).trans unstallSeal).trans (of_regs rfl)
  · exact of_regs rfl

theorem RegsIn.clearDmaCtx {a c : Nat} : RegsIn stopKeys s (s.clearDmaCtx a c) :=
  (dropWaits.mono fun _ => .inl).trans (of_regs rfl)

end

end Sys2Proof.Machine
end

section
/-! The commands of the common header (R409 to R411, R414). -/

namespace Sys2Proof.Machine

set_option Elab.async false

section
variable {s : State} {v : View} {p : Page} {bank : Nat} {w : Word}

theorem exec_run (h : Reaches s v p 0x008 bank) :
    exec (.run v (p.base + 0x008) w) s = .next (s.ctrlWrite v p bank (setField w.toNat 0 1 1)) :=
  congrArg Host.Outcome.next (State.namedWrite_of_reaches h (by intro _; rfl) _)

theorem exec_stopReq (h : Reaches s v p 0x008 bank) :
    exec (.stopReq v (p.base + 0x008) w) s = .next (s.ctrlWrite v p bank (setField w.toNat 1 1 1)) :=
  congrArg Host.Outcome.next (State.namedWrite_of_reaches h (by intro _; rfl) _)

theorem exec_cfgOpen (h : Reaches s v p 0x008 bank) : exec (.cfgOpen v (p.base + 0x008) w) s = .next (s.ctrlWrite v p bank w.toNat) :=
  congrArg Host.Outcome.next (State.namedWrite_of_reaches h (by intro _; rfl) _)

theorem exec_errClr (h : Reaches s v p 0x008 bank) :
    exec (.errClr v (p.base + 0x008) w) s = .next (s.ctrlWrite v p bank (setField w.toNat 3 1 1)) :=
  congrArg Host.Outcome.next (State.namedWrite_of_reaches h (by intro _; rfl) _)

/-! ### CTRL -/

/-- A write of CTRL that clears no error and opens nothing, on a page that stops. -/
theorem ctrlWrite_plain {x : Nat} (hstops : p.stops = true) (h2 : bitAt x 2 = false) (h3 : bitAt x 3 = false) :
    s.ctrlWrite v p bank x =
      (let s2 := s.wr p bank Reg.Hdr.CFG_OPEN 0
      let s3 := if bitAt x 1 then (s2.stopReq p bank).afterStop p bank else s2
      if !bitAt x 0 then s3 else if bitAt x 1 then s3.startRefused p bank else s3.runPage p bank) := by
  simp [State.ctrlWrite, hstops, h2, h3]

theorem ctrlWrite_run {x : Nat} (hstops : p.stops = true) (h0 : bitAt x 0 = true) (h1 : bitAt x 1 = false) (h2 : bitAt x 2 = false)
    (h3 : bitAt x 3 = false) : s.ctrlWrite v p bank x = (s.wr p bank Reg.Hdr.CFG_OPEN 0).runPage p bank := by
  simp [ctrlWrite_plain hstops h2 h3, h0, h1]

theorem ctrlWrite_stop {x : Nat} (hstops : p.stops = true) (h0 : bitAt x 0 = false) (h1 : bitAt x 1 = true) (h2 : bitAt x 2 = false)
    (h3 : bitAt x 3 = false) :
    s.ctrlWrite v p bank x = ((s.wr p bank Reg.Hdr.CFG_OPEN 0).stopReq p bank).afterStop p bank := by
  simp [ctrlWrite_plain hstops h2 h3, h0, h1]

/-- STATE of a bank under a write of another field of that bank. -/
theorem st_wr_other {f : Fld} {x : Nat} (h : regKey p bank (stateFld p) ≠ regKey p bank f) : (s.wr p bank f x).st p bank = s.st p bank :=
  s.rd_wr_other x h

theorem regKey_ne_of_off {b : Nat} {f g : Fld} (h : f.off ≠ g.off) (hf : f.lsb < 32) (hg : g.lsb < 32) :
    regKey p b f ≠ regKey p b g := by
  simp only [regKey]
  omega

theorem regKey_ne_stateFld {b : Nat} {f : Fld} (h : f.off ≠ 0x00C) (hf : f.lsb < 32) : regKey p b f ≠ regKey p b (stateFld p) :=
  regKey_ne_of_off h hf (Nat.zero_lt_succ 31)

/-- STATE shares its word with the marks above it. -/
theorem regKey_ne_stateFld_samePage {b : Nat} {f : Fld} (h : f.off = 0x00C ∧ 1 < f.lsb ∧ f.lsb < 32) :
    regKey p b (stateFld p) ≠ regKey p b f := by
  simp only [regKey, stateFld]
  omega

/-! ### Start and stop of an array's context -/

theorem not_stopKeys_ma {a b : Nat} {f : Fld} (ha : a ≤ 8) (hoff : f.off < 0x1F8 ∨ (0x200 ≤ f.off ∧ f.off < 0x1000)) (hlsb : f.lsb < 32) :
    ¬ stopKeys (regKey (.ma a) b f) := by
  simp only [stopKeys, waitKeys, keyPage, keyOff, regKey, Page.base]
  omega

theorem rd_clearCtx {a b c : Nat} {f : Fld} (ha : a ≤ 8) (hoff : f.off < 0x1F8 ∨ (0x200 ≤ f.off ∧ f.off < 0x1000)) (hlsb : f.lsb < 32) :
    (s.clearCtx a c).rd (.ma a) b f = s.rd (.ma a) b f := RegsIn.clearCtx.rd_eq (not_stopKeys_ma ha hoff hlsb)

theorem clearCtx_mem {a c : Nat} : (s.clearCtx a c).mem = s.mem := Frame.clearCtx.same .mem (by decide)

theorem unstallSeal_arrays (a : Nat) : (s.unstallSeal a).arrays = s.arrays := Frame.unstallSeal.same .arrays (by decide)

theorem clearCtx_mop {a c b : Nat} : ((s.clearCtx a c).arr b).mop = (s.arr b).mop := by
  have hdrop : (s.dropWaits a false c).arrays = s.arrays := Frame.dropWaits.same .arrays (by decide)
  have hmod (u : State) (f : ArrayS → ArrayS) (hf : ∀ x, (f x).mop = x.mop) : ((u.modArr a f).arr b).mop = (u.arr b).mop := by
    rw [State.arr_modArr]
    split
    · next h => rw [hf, h]
    · rfl
  unfold State.clearCtx
  dsimp only
  split
  · have hgrant (u : State) : (u.unstallSeal a).grantSeals.arr b = u.arr b := State.arr_of_arrays (unstallSeal_arrays a) b
    rw [hgrant]
    refine (hmod _ _ ?_).trans (congrArg ArrayS.mop (State.arr_of_arrays hdrop b))
    exact fun _ => rfl
  · refine (hmod _ _ ?_).trans (congrArg ArrayS.mop (State.arr_of_arrays hdrop b))
    exact fun _ => rfl

theorem startPage_ma_eq {a : Nat} : s.startPage (.ma a) bank =
    if !s.rdB .floor 0 (Reg.Floor.PRESENT a) then s.startRefused (.ma a) bank
    else
      let s1 := (((s.wr (.ma a) bank Reg.Ma.PC 0).wr (.ma a) bank Reg.Ma.PASSES 0).wr (.ma a) bank Reg.Ma.WAIT_AC 0).clearCtx a bank
      if s1.rd (.ma a) bank Reg.Ma.SCHED_LEN = 0 then (s1.wr (.ma a) bank Reg.Ma.PASSES 1).irq (.ma a) (s1.ctxPart a bank) 12
      else s1.setSt (.ma a) bank 1 := rfl

/-- An array's context with a schedule starts from PC 0 (R409). -/
theorem startPage_ma {a : Nat} (ha : a ≤ 8) (hpresent : s.rdB .floor 0 (Reg.Floor.PRESENT a) = true)
    (hlen : s.rd (.ma a) bank Reg.Ma.SCHED_LEN ≠ 0) :
    (s.startPage (.ma a) bank).st (.ma a) bank = 1 ∧ (s.startPage (.ma a) bank).rd (.ma a) bank Reg.Ma.PC = 0 ∧
      (s.startPage (.ma a) bank).rd (.ma a) bank Reg.Ma.PASSES = 0 ∧ (s.startPage (.ma a) bank).mem = s.mem := by
  generalize hu : ((s.wr (.ma a) bank Reg.Ma.PC 0).wr (.ma a) bank Reg.Ma.PASSES 0).wr (.ma a) bank Reg.Ma.WAIT_AC 0 = u
  have hne {f g : Fld} (h : f.off ≠ g.off) (hf : f.lsb < 32) (hg : g.lsb < 32) : regKey (.ma a) bank f ≠ regKey (.ma a) bank g :=
    regKey_ne_of_off h hf hg
  have hpc : u.rd (.ma a) bank Reg.Ma.PC = 0 := by
    rw [← hu, State.rd_wr_other _ _ (hne (by decide) (by decide) (by decide)),
      State.rd_wr_other _ _ (hne (by decide) (by decide) (by decide)), State.rd_wr_self]
    rfl
  have hpasses : u.rd (.ma a) bank Reg.Ma.PASSES = 0 := by
    rw [← hu, State.rd_wr_other _ _ (hne (by decide) (by decide) (by decide)), State.rd_wr_self]
    rfl
  have hsched : (u.clearCtx a bank).rd (.ma a) bank Reg.Ma.SCHED_LEN = s.rd (.ma a) bank Reg.Ma.SCHED_LEN := by
    rw [rd_clearCtx ha (by decide) (by decide), ← hu, State.rd_wr_other _ _ (hne (by decide) (by decide) (by decide)),
      State.rd_wr_other _ _ (hne (by decide) (by decide) (by decide)), State.rd_wr_other _ _ (hne (by decide) (by decide) (by decide))]
  have hstart : s.startPage (.ma a) bank = (u.clearCtx a bank).setSt (.ma a) bank 1 := by
    rw [← hsched] at hlen
    simp only [startPage_ma_eq, hpresent, Bool.not_true, Bool.false_eq_true, if_false, hu, hlen]
  rw [hstart]
  refine ⟨State.rd_wr_self _ _ _ _ _, ?_, ?_, clearCtx_mem.trans (by rw [← hu]; rfl)⟩
  · rw [State.setSt, State.rd_wr_other _ _ (regKey_ne_stateFld (by decide) (by decide)), rd_clearCtx ha (by decide) (by decide), hpc]
  · rw [State.setSt, State.rd_wr_other _ _ (regKey_ne_stateFld (by decide) (by decide)), rd_clearCtx ha (by decide) (by decide), hpasses]

/-- An array's context that stops keeps what is in flight, of another context (R149, R410). -/
theorem enterStopped_ma {a : Nat} (ha : a ≤ 8) : (s.enterStopped (.ma a) bank).st (.ma a) bank = 0 ∧
    (s.enterStopped (.ma a) bank).rd (.ma a) bank Reg.Hdr.STOP_REQ = 0 ∧ ((s.enterStopped (.ma a) bank).arr a).mop = (s.arr a).mop ∧
    (s.enterStopped (.ma a) bank).mem = s.mem := by
  have hne : regKey (.ma a) bank (stateFld (.ma a)) ≠ regKey (.ma a) bank Reg.Hdr.STOP_REQ :=
    (regKey_ne_stateFld (by decide) (by decide)).symm
  generalize hu : (s.setSt (.ma a) bank 0).wr (.ma a) bank Reg.Hdr.STOP_REQ 0 = u
  have hstop : s.enterStopped (.ma a) bank = u.clearCtx a bank := by rw [← hu]; rfl
  rw [hstop]
  refine ⟨?_, ?_, ?_, clearCtx_mem.trans (by rw [← hu]; rfl)⟩
  · rw [State.st, rd_clearCtx ha (.inl (by simp [stateFld])) (by simp [stateFld]), ← hu, State.rd_wr_other _ _ hne, State.setSt,
      State.rd_wr_self]
    rfl
  · rw [rd_clearCtx ha (by decide) (by decide), ← hu, State.rd_wr_self]
    rfl
  · rw [clearCtx_mop, ← hu]; rfl

theorem stopReq_running (hst : s.st p bank = 1) : s.stopReq p bank =
    if s.atBoundary p bank then s.enterStopped p bank else (s.setSt p bank 2).wr p bank Reg.Hdr.STOP_REQ 1 := by
  rw [State.stopReq, hst]
  rfl

theorem runPage_of_stopped (hst : s.st p bank = 0) (hcfg : s.rdB p bank Reg.Hdr.CFG_OPEN = false) :
    s.runPage p bank = s.startPage p bank := if_pos ⟨hst, by rw [hcfg]; rfl⟩

theorem runPage_of_not_stopped (hst : s.st p bank ≠ 0) : s.runPage p bank = s.startRefused p bank := if_neg fun h => hst h.1

end

section
variable {s : State} {v : View} {w : Word} {a bank : Nat}

/-- The state in which CTRL has closed configuration, and has begun nothing else. -/
theorem closed_keeps : (s.wr (.ma a) bank Reg.Hdr.CFG_OPEN 0).st (.ma a) bank = s.st (.ma a) bank ∧
    (s.wr (.ma a) bank Reg.Hdr.CFG_OPEN 0).rdB (.ma a) bank Reg.Hdr.CFG_OPEN = false ∧
    (s.wr (.ma a) bank Reg.Hdr.CFG_OPEN 0).rd (.ma a) bank Reg.Ma.SCHED_LEN = s.rd (.ma a) bank Reg.Ma.SCHED_LEN ∧
    (s.wr (.ma a) bank Reg.Hdr.CFG_OPEN 0).rdB .floor 0 (Reg.Floor.PRESENT a) = s.rdB .floor 0 (Reg.Floor.PRESENT a) := by
  have hfloor : regKey .floor 0 (Reg.Floor.PRESENT a) ≠ regKey (.ma a) bank Reg.Hdr.CFG_OPEN := by
    simp only [regKey, Page.base]
    omega
  refine ⟨st_wr_other (regKey_ne_stateFld (by decide) (by decide)).symm, ?_, ?_, ?_⟩
  · rw [State.rdB, State.rd_wr_self]
    rfl
  · rw [State.rd_wr_other _ _ (regKey_ne_of_off (by decide) (by decide) (by decide))]
  · rw [State.rdB, State.rd_wr_other _ _ hfloor]
    rfl

theorem arrayCtrl_clauses (ha : a ≤ 8) (h : Reaches s v (.ma a) 0x008 bank) (h2 : bitAt w.toNat 2 = false) (h3 : bitAt w.toNat 3 = false) :
    (bitAt w.toNat 1 = false → s.st (.ma a) bank = 0 → s.rdB .floor 0 (Reg.Floor.PRESENT a) = true →
      s.rd (.ma a) bank Reg.Ma.SCHED_LEN ≠ 0 → ∃ t, exec (.run v ((Page.ma a).base + 0x008) w) s = .next t ∧ t.st (.ma a) bank = 1 ∧
        t.rd (.ma a) bank Reg.Ma.PC = 0 ∧ t.rd (.ma a) bank Reg.Ma.PASSES = 0 ∧ t.mem = s.mem) ∧
    (bitAt w.toNat 1 = false → s.st (.ma a) bank ≠ 0 → ∃ t, exec (.run v ((Page.ma a).base + 0x008) w) s = .next t ∧
      t.rd (.ma a) bank Reg.Hdr.START_REFUSED = 1 ∧ t.st (.ma a) bank = s.st (.ma a) bank ∧ t.mem = s.mem) ∧
    (bitAt w.toNat 0 = false → s.st (.ma a) bank = 1 → (s.atBoundary (.ma a) bank = true →
        ∃ t, exec (.stopReq v ((Page.ma a).base + 0x008) w) s = .next t ∧ t.st (.ma a) bank = 0 ∧
          t.rd (.ma a) bank Reg.Hdr.STOP_REQ = 0 ∧ (t.arr a).mop = (s.arr a).mop ∧ t.mem = s.mem) ∧
      (s.atBoundary (.ma a) bank = false → ∃ t, exec (.stopReq v ((Page.ma a).base + 0x008) w) s = .next t ∧ t.st (.ma a) bank = 2 ∧
        t.rd (.ma a) bank Reg.Hdr.STOP_REQ = 1 ∧ t.arrays = s.arrays ∧ t.mem = s.mem)) := by
  obtain ⟨hst', hcfg, hlen', hpresent'⟩ := closed_keeps (s := s) (a := a) (bank := bank)
  have hrun (h1 : bitAt w.toNat 1 = false) := ctrlWrite_run (s := s) (v := v) (p := .ma a) (bank := bank) rfl
    (bitAt_setField_one w.toNat 0) ((bitAt_setField_of_ne (by decide)).trans h1) ((bitAt_setField_of_ne (by decide)).trans h2)
    ((bitAt_setField_of_ne (by decide)).trans h3)
  have hstop (h0 : bitAt w.toNat 0 = false) := ctrlWrite_stop (s := s) (v := v) (p := .ma a) (bank := bank) rfl
    ((bitAt_setField_of_ne (by decide)).trans h0) (bitAt_setField_one w.toNat 1) ((bitAt_setField_of_ne (by decide)).trans h2)
    ((bitAt_setField_of_ne (by decide)).trans h3)
  have hafter (u : State) : u.afterStop (.ma a) bank = u := rfl
  have hboundary : (s.wr (.ma a) bank Reg.Hdr.CFG_OPEN 0).atBoundary (.ma a) bank = s.atBoundary (.ma a) bank := rfl
  refine ⟨fun h1 hst hpresent hlen => ⟨_, exec_run h, ?_⟩, fun h1 hst => ⟨_, exec_run h, ?_⟩,
    fun h0 hst => ⟨fun hb => ⟨_, exec_stopReq h, ?_⟩, fun hb => ⟨_, exec_stopReq h, ?_⟩⟩⟩
  · rw [hrun h1, runPage_of_stopped (hst'.trans hst) hcfg]
    exact startPage_ma ha (hpresent'.trans hpresent) (hlen' ▸ hlen)
  · rw [hrun h1, runPage_of_not_stopped (hst' ▸ hst)]
    refine ⟨State.rd_wr_self _ _ _ _ _, ?_, rfl⟩
    rw [State.startRefused, st_wr_other (regKey_ne_stateFld_samePage (by decide)), hst']
  · rw [hstop h0, hafter, stopReq_running (hst'.trans hst), hboundary, if_pos hb]
    exact enterStopped_ma ha
  · rw [hstop h0, hafter, stopReq_running (hst'.trans hst), hboundary, if_neg (by simp [hb])]
    refine ⟨?_, State.rd_wr_self _ _ _ _ _, rfl, rfl⟩
    rw [st_wr_other (regKey_ne_stateFld (by decide) (by decide)).symm]
    exact State.rd_wr_self _ _ _ _ _

end

section
variable {s : State}

theorem pageAt_ma {a : Nat} (ha : a ≤ 8) : pageAt (Page.ma a).base = some (.ma a, 0) := by
  have hall : ∀ b, b < 9 → pageAt (Page.ma b).base = some (.ma b, 0) := by decide
  exact hall a (by omega)

theorem exec_pageStopped {a ctx : Nat} (ha : a ≤ 8) (hst : s.st (.ma a) ctx = 2) (hb : s.atBoundary (.ma a) ctx = true) :
    exec (.pageStopped (Page.ma a).base ctx) s = .next (s.enterStopped (.ma a) ctx) := by
  show execPageStopped _ _ s = _
  rw [execPageStopped, pageAt_ma ha]
  exact congrArg Host.Outcome.next (if_pos ⟨hst, hb⟩)

/-! ### CFG_OPEN and ERR_CLR -/

variable {v : View} {p : Page} {bank x : Nat}

/-- A write of CTRL that only opens or closes configuration. -/
theorem ctrlWrite_cfg (hstops : p.stops = true) (h0 : bitAt x 0 = false) (h1 : bitAt x 1 = false) (h3 : bitAt x 3 = false) :
    s.ctrlWrite v p bank x =
      if !bitAt x 2 then s.wr p bank Reg.Hdr.CFG_OPEN 0
      else if s.st p bank = 0 then s.wr p bank Reg.Hdr.CFG_OPEN 1
      else (s.wr p bank Reg.Hdr.CFG_WHILE_RUN 1).irq p ((s.wr p bank Reg.Hdr.CFG_WHILE_RUN 1).pagePart p bank) 31 := by
  simp [State.ctrlWrite, hstops, h0, h1, h3]
  rfl

/-- The four error counters read 0 (R414). -/
def State.clearErrors (s : State) (p : Page) : State := (List.range 4).foldl (fun s i => s.wr p 0 (Reg.Hdr.ERR_CNT i) 0) s

theorem ctrlWrite_errClr (hview : View.isVf v = false) (h0 : bitAt x 0 = false) (h1 : bitAt x 1 = false) (h2 : bitAt x 2 = false)
    (h3 : bitAt x 3 = true) : s.ctrlWrite v p bank x =
      if p.stops then (s.clearErrors p).wr p bank Reg.Hdr.CFG_OPEN 0 else s.clearErrors p := by
  cases p <;> simp [State.ctrlWrite, State.clearErrors, Page.stops, hview, h0, h1, h2, h3]

theorem regKey_errCnt_ne {i b : Nat} {f : Fld} (hi : i < 4) (hoff : f.off < 0x020) (hlsb : f.lsb < 32) :
    regKey p b f ≠ regKey p 0 (Reg.Hdr.ERR_CNT i) := by
  simp only [regKey]
  omega

theorem rd_clearErrors_other {b : Nat} {f : Fld} (hoff : f.off < 0x020) (hlsb : f.lsb < 32) :
    (s.clearErrors p).rd p b f = s.rd p b f :=
  List.foldlRecOn (List.range 4) _ (motive := fun t : State => t.rd p b f = s.rd p b f) rfl fun t ht i hi =>
    (t.rd_wr_other 0 (regKey_errCnt_ne (List.mem_range.mp hi) hoff hlsb)).trans ht

theorem rd_clearErrors_self {i : Nat} (hi : i < 4) : (s.clearErrors p).rd p 0 (Reg.Hdr.ERR_CNT i) = 0 := by
  have hne {j k : Nat} (h : j ≠ k) : regKey p 0 (Reg.Hdr.ERR_CNT j) ≠ regKey p 0 (Reg.Hdr.ERR_CNT k) := by
    simp only [regKey]
    omega
  unfold State.clearErrors
  simp only [List.range_succ, List.range_zero, List.nil_append, List.cons_append, List.foldl_cons, List.foldl_nil]
  obtain rfl | rfl | rfl | rfl : i = 0 ∨ i = 1 ∨ i = 2 ∨ i = 3 := by omega
  · rw [State.rd_wr_other _ _ (hne (by decide)), State.rd_wr_other _ _ (hne (by decide)), State.rd_wr_other _ _ (hne (by decide)),
      State.rd_wr_self, Nat.zero_mod]
  · rw [State.rd_wr_other _ _ (hne (by decide)), State.rd_wr_other _ _ (hne (by decide)), State.rd_wr_self, Nat.zero_mod]
  · rw [State.rd_wr_other _ _ (hne (by decide)), State.rd_wr_self, Nat.zero_mod]
  · rw [State.rd_wr_self, Nat.zero_mod]

/-! ### An interrupt of any view -/

theorem rd_irq_page {q : Option Nat} {b k : Nat} {f : Fld} (hoff : f.off ≠ 0x010 ∧ f.off < 0x1000) (hlsb : f.lsb < 32) :
    (s.irq p q k).rd p b f = s.rd p b f := by
  have hne (fn : Nat) : regKey p b f ≠ regKey p fn Reg.Hdr.IRQ_RAW := by
    simp only [regKey]
    omega
  cases q with
  | none => exact State.rd_irq_none (hne 0)
  | some v => exact State.rd_irq_some (hne 0) (hne (v + 1))

theorem irqSet_irq_page (q : Option Nat) {k : Nat} (hk : k < 32) : IrqSet (s.irq p q k) p 0 k := by
  cases q with
  | none => exact s.irqSet_irq p hk
  | some v =>
    have hne : regKey p 0 Reg.Hdr.IRQ_RAW ≠ regKey p (v + 1) Reg.Hdr.IRQ_RAW := by
      simp only [regKey]
      omega
    show bitAt (((s.orRaw p 0 (2 ^ k)).orRaw p (v + 1) (2 ^ k)).rd p 0 Reg.Hdr.IRQ_RAW) k = true
    rw [State.rd_orRaw_other _ hne]
    exact s.irqSet_irq p hk

theorem ctrl_clauses {w : Word} (h : Reaches s v p 0x008 bank) (h0 : bitAt w.toNat 0 = false) (h1 : bitAt w.toNat 1 = false) :
    (p.stops = true → bitAt w.toNat 3 = false → bitAt w.toNat 2 = true →
      (s.st p bank = 0 → exec (.cfgOpen v (p.base + 0x008) w) s = .next (s.wr p bank Reg.Hdr.CFG_OPEN 1)) ∧
      (s.st p bank ≠ 0 → ∃ t, exec (.cfgOpen v (p.base + 0x008) w) s = .next t ∧ t.rd p bank Reg.Hdr.CFG_WHILE_RUN = 1 ∧
        t.rd p bank Reg.Hdr.CFG_OPEN = s.rd p bank Reg.Hdr.CFG_OPEN ∧ IrqSet t p 0 31 ∧ t.mem = s.mem)) ∧
    (p.stops = true → bitAt w.toNat 3 = false → bitAt w.toNat 2 = false →
      exec (.cfgOpen v (p.base + 0x008) w) s = .next (s.wr p bank Reg.Hdr.CFG_OPEN 0)) ∧
    (View.isVf v = false → bitAt w.toNat 2 = false → ∃ t, exec (.errClr v (p.base + 0x008) w) s = .next t ∧
      (∀ i, i < 4 → t.rd p 0 (Reg.Hdr.ERR_CNT i) = 0) ∧ t.st p bank = s.st p bank ∧ t.mem = s.mem) := by
  refine ⟨fun hstops h3 h2 => ⟨fun hst => ?_, fun hst => ?_⟩, fun hstops h3 h2 => ?_, fun hview h2 => ?_⟩
  · rw [exec_cfgOpen h, ctrlWrite_cfg hstops h0 h1 h3, h2]
    simp [hst]
  · refine ⟨_, exec_cfgOpen h, ?_⟩
    rw [ctrlWrite_cfg hstops h0 h1 h3, h2, if_neg (by simp), if_neg hst]
    refine ⟨?_, ?_, irqSet_irq_page _ (by decide), by simp⟩
    · rw [rd_irq_page (by decide) (by decide), State.rd_wr_self]
      rfl
    · rw [rd_irq_page (by decide) (by decide), State.rd_wr_other _ _ (regKey_ne_of_off (by decide) (by decide) (by decide))]
  · rw [exec_cfgOpen h, ctrlWrite_cfg hstops h0 h1 h3, h2]
    rfl
  · have hclr := ctrlWrite_errClr (s := s) (p := p) (bank := bank) hview ((bitAt_setField_of_ne (by decide)).trans h0)
      ((bitAt_setField_of_ne (by decide)).trans h1) ((bitAt_setField_of_ne (by decide)).trans h2) (bitAt_setField_one w.toNat 3)
    have hst : (s.clearErrors p).st p bank = s.st p bank :=
      rd_clearErrors_other (by simp [stateFld]) (by simp [stateFld])
    refine ⟨_, exec_errClr h, ?_⟩
    rw [hclr]
    split
    · have hcfg {i : Nat} (hi : i < 4) : regKey p 0 (Reg.Hdr.ERR_CNT i) ≠ regKey p bank Reg.Hdr.CFG_OPEN :=
        fun heq => regKey_errCnt_ne hi (by decide) (by decide) heq.symm
      refine ⟨fun i hi => ?_, ?_, rfl⟩
      · rw [State.rd_wr_other _ _ (hcfg hi), rd_clearErrors_self hi]
      · rw [st_wr_other (regKey_ne_stateFld (by decide) (by decide)).symm, hst]
    · exact ⟨fun i hi => rd_clearErrors_self hi, hst, rfl⟩

end

/-- Settles O57: CTRL is taken apart by the bits of its word, and stopping or starting a context keeps clear of its other registers. -/
theorem headerCommands : Obligations.HeaderCommands := by
  unfold Obligations.HeaderCommands
  refine ⟨fun s v w a bank ha h h2 h3 => arrayCtrl_clauses ha h h2 h3, fun s a ctx ha hst hb => ?_,
    fun s v w p bank h h0 h1 => ctrl_clauses h h0 h1⟩
  obtain ⟨hst', hreq, -, hmem⟩ := enterStopped_ma (s := s) (bank := ctx) ha
  exact ⟨_, exec_pageStopped ha hst hb, hst', hreq, hmem⟩

end Sys2Proof.Machine
end

section
/-! The two power obligations that fail: a step of an entry forgets the context whose DOZE asked for it, and a domain that becomes ready
completes a RELEASE that waits for it, whose scrub changes memory. -/

namespace Sys2Proof.Machine

set_option Elab.async false

/-- Main array 0 on step 3 of the entry that a DOZE of its context 0 asked for. -/
def dozedStep3 : State := State.reset.setDom 2 { State.reset.dom 2 with st := .entering 3 1, dozed := some 0 }

/-- Refutes O32: step 4 of an entry that a DOZE asked for drops the dozed context, which the statement keeps. -/
theorem not_domainEntry : ¬ Obligations.DomainEntry := by
  unfold Obligations.DomainEntry
  intro h
  have hidle : ∀ a, domArray 2 = some a → (dozedStep3.arr a).mop = none := fun _ _ => rfl
  have hstep := ((h.2 dozedStep3 2 (by decide) (by decide)).2.2 3 1 rfl hidle).1 (by decide)
  have hdozed : (none : Option Nat) = some 0 := congrArg (fun t : State => (t.dom 2).dozed) (Host.Outcome.next.inj hstep)
  exact absurd hdozed (by decide)

section
variable {s : State} {a d : Nat}

@[simp] theorem State.countScrub_mem {n : Nat} : (s.countScrub a n).mem = s.mem := Frame.countScrub.same .mem (by decide)

@[simp] theorem State.scrubSwitch_mem : (s.scrubSwitch a).mem = s.mem := Frame.scrubSwitch.same .mem (by decide)

theorem State.scrubArray_mem (h : s.domOn (arrDomain a) = true) :
    (s.scrubArray a).mem = (s.zero (t0Base a) (t0Frames a * pageBytes)).mem := by
  unfold State.scrubArray
  rw [State.wake_of_domOn h]
  rw [State.countScrub_mem, State.modArr_mem, State.scrubSwitch_mem]

theorem State.unstall_mem (h : s.stalled = []) : (s.unstall d).mem = s.mem := by
  unfold State.unstall
  simp [h]

/-- A RELEASE that waits for its array's domain zeroes the array's local store once the domain is ready. -/
theorem State.assignResume_release_mem (hgo : s.rdB .part 0 Reg.Part.A_GO = true) (hop : s.rd .part 0 Reg.Part.A_OP = 0)
    (harr : s.rd .part 0 Reg.Part.A_ARRAY = a) (hon : s.domOn (arrDomain a) = true) :
    (s.assignResume (arrDomain a)).mem = (s.zero (t0Base a) (t0Frames a * pageBytes)).mem := by
  unfold State.assignResume
  rw [hgo, hop, harr]
  simpa [State.assignDo] using State.scrubArray_mem hon

end

/-- Main array 0 about to be ready, with a RELEASE of it waiting for that (A_GO), and one byte of its local store 1. -/
def releaseWaits : State :=
  ((State.reset.setDom 2 { State.reset.dom 2 with st := .waking false }).wr .part 0 Reg.Part.A_GO 1).store (t0Base 0) [1]

theorem releaseWaits_ready_byte : ∃ t, exec (.domainReady 2) releaseWaits = .next t ∧ t.byte (t0Base 0) = 0 := by
  have hon : (releaseWaits.becomeReady 2).domOn 2 = true := by decide +kernel
  have hrel : ((releaseWaits.becomeReady 2).assignResume 2).mem = ((releaseWaits.becomeReady 2).zero (t0Base 0) (t0Frames 0 * pageBytes)).mem :=
    State.assignResume_release_mem (s := releaseWaits.becomeReady 2) (a := 0) (by decide +kernel) (by decide +kernel)
      (by decide +kernel) hon
  have hstalled : ((releaseWaits.becomeReady 2).assignResume 2).stalled = [] := by
    rw [Frame.assignResume.same .stalled (by decide), Frame.becomeReady.same .stalled (by decide)]
    rfl
  have hready : exec (.domainReady 2) releaseWaits = .next (((releaseWaits.becomeReady 2).assignResume 2).unstall 2) :=
    congrArg Host.Outcome.next (if_pos hon)
  refine ⟨_, hready, ?_⟩
  rw [State.byte_of_mem ((State.unstall_mem hstalled).trans hrel), State.byte_zero]
  simp [t0Frames, pageBytes]

/-- Refutes O33: a domain that becomes ready completes the RELEASE that waits for it, and its scrub zeroes the array's local store. -/
theorem not_domainExit : ¬ Obligations.DomainExit := by
  unfold Obligations.DomainExit
  intro h
  obtain ⟨t, hready, -, -, -, hmem⟩ := (h releaseWaits 2 (by decide) (by decide)).2.2.2 false rfl rfl rfl (by intro x hx; cases hx)
  obtain ⟨u, hready', hafter⟩ := releaseWaits_ready_byte
  obtain rfl : t = u := Host.Outcome.next.inj (hready.symm.trans hready')
  have hbefore : releaseWaits.byte (t0Base 0) = 1 := by decide +kernel
  exact absurd ((State.byte_of_mem hmem _).symm.trans hafter) (by rw [hbefore]; decide)

end Sys2Proof.Machine
end

section
/-! Sequenced drops (R321, R322). -/

namespace Sys2Proof.Machine

set_option Elab.async false

section
variable {s : State} {v : View} {w : Word} {d mode mask : Nat} {l : List Nat}

/-! ### The wait of a domain without pages to stop -/

/-- Keys of the POWER page. -/
abbrev powerKeys (k : Nat) : Prop := keyPage k = 0x90

/-- The wait of a domain without pages to stop reads no register of the POWER page. -/
theorem State.waitHolds_of_powerKeys {t : State} (h : RegsIn powerKeys s t) (hpages : s.domPages d = []) (hparts : t.parts = s.parts)
    (hcams : t.cams = s.cams) (hports : t.ports = s.ports) : t.waitHolds d = s.waitHolds d := by
  have hctxs (a : Nat) : t.ctxs a = s.ctxs a := by simp [State.ctxs, State.assignOf, hparts]
  have hB {q : Page} {b : Nat} {f : Fld} (hk : ¬ powerKeys (regKey q b f)) : t.rdB q b f = s.rdB q b f := by
    simp [State.rdB, h.rd_eq hk]
  have hpagest : t.domPages d = [] := by
    rw [← hpages]
    simp [State.domPages, hctxs]
  unfold State.waitHolds
  cases harr : domArray d with
  | some a =>
    have hnone : s.ctxs a = [] := by
      simp only [State.domPages, harr, List.flatMap_eq_nil_iff] at hpages
      refine List.eq_nil_iff_forall_not_mem.mpr fun c hc => ?_
      have := hpages c hc
      split at this <;> simp at this
    simp [hctxs, hnone]
  | none =>
    dsimp only
    have haout : (List.range 2).all (fun q => !t.rdB .aout 0 (Reg.Aout.EN q)) = (List.range 2).all fun q => !s.rdB .aout 0 (Reg.Aout.EN q) := by
      simp [List.range_succ, hB (q := .aout) (b := 0) (f := Reg.Aout.EN 0) (by decide), hB (q := .aout) (b := 0) (f := Reg.Aout.EN 1) (by decide)]
    rw [hpages, hpagest, hports, hcams, haout, hB (q := .isp 0) (b := 0) (f := Reg.Isp.BIN_EN) (by decide),
      hB (q := .audio) (b := 0) (f := Reg.Audio.HQ_EN) (by decide), hB (q := .hv) (b := 0) (f := Reg.Hv.BUSY) (by decide)]
    rfl

/-! ### SEQ_GO -/

/-- The registers of a drop that has begun (R321). -/
def State.seqBegun (s : State) (mode : Nat) : State :=
  (((s.wr .power 0 Reg.Power.SEQ_MODE mode).wr .power 0 Reg.Power.SEQ_STATUS 1).wr .power 0 Reg.Power.SEQ_HELD 0).wr .power 0
    Reg.Power.SEQ_REASON 0

/-- Whether SEQ_GO is refused: a mask with AON, PCIE or STEWARD, or a mode that is none (R321). -/
abbrev seqRefused (mode mask : Nat) : Prop := mode = 0 ∨ mode = 3 ∨ bitAt mask 0 = true ∨ bitAt mask 22 = true ∨ bitAt mask 23 = true

theorem busWrite_seqGo (h : Reaches s v .power 0x104 0) (x : Nat) : s.busWrite v (Page.power.base + 0x104) 4 x = s.seqCmd x :=
  State.busWrite_of_reaches h (by simp) x

theorem exec_seqGo (h : Reaches s v .power 0x104 0) : exec (.seqGo v w) s = .next (s.seqCmd (setField w.toNat 31 1 1)) :=
  congrArg Host.Outcome.next (busWrite_seqGo h _)

theorem field_seqGo_mode : field (setField w.toNat 31 1 1) 0 2 = field w.toNat 0 2 :=
  field_setField_of_disjoint (by decide)

theorem seqCmd_refused {x : Nat} (hst : s.rd .power 0 Reg.Power.SEQ_STATUS ≠ 1) (hgo : bitAt x 31 = true)
    (h : seqRefused (field x 0 2) (s.rd .power 0 Reg.Power.SEQ_MASK)) :
    s.seqCmd x = (s.wr .power 0 Reg.Power.SEQ_MODE (field x 0 2)).errCount .power 0 0 1 := by
  have hmask : (s.wr .power 0 Reg.Power.SEQ_MODE (field x 0 2)).rd .power 0 Reg.Power.SEQ_MASK = s.rd .power 0 Reg.Power.SEQ_MASK :=
    s.rd_wr_other _ (by decide)
  unfold State.seqCmd
  rw [if_neg hst]
  dsimp only
  rw [hgo, hmask, if_neg (by decide), if_pos]
  unfold seqRefused at h
  simpa [or_assoc, or_comm, or_left_comm] using h

theorem seqCmd_begun {x : Nat} (hst : s.rd .power 0 Reg.Power.SEQ_STATUS ≠ 1) (hgo : bitAt x 31 = true)
    (h : ¬ seqRefused (field x 0 2) (s.rd .power 0 Reg.Power.SEQ_MASK)) :
    s.seqCmd x = (s.seqBegun (field x 0 2)).seqNext (dropOrder.filter fun d => bitAt (s.rd .power 0 Reg.Power.SEQ_MASK) d) := by
  have hmask : (s.wr .power 0 Reg.Power.SEQ_MODE (field x 0 2)).rd .power 0 Reg.Power.SEQ_MASK = s.rd .power 0 Reg.Power.SEQ_MASK :=
    s.rd_wr_other _ (by decide)
  unfold State.seqCmd
  rw [if_neg hst]
  dsimp only
  rw [hgo, hmask, if_neg (by decide), if_neg]
  · rfl
  unfold seqRefused at h
  simpa [or_assoc, or_comm, or_left_comm] using h

/-! ### The domains of a drop -/

theorem seqNext_none (h : l.any s.domOn = false) : s.seqNext l = State.seqEnd { s with power := { s.power with seq := none } } 2 0 0 := by
  induction l with
  | nil => rfl
  | cons d t ih =>
    simp only [List.any_cons, Bool.or_eq_false_iff] at h
    rw [State.seqNext, h.1, if_neg (by decide), ih h.2]

/-- The turn of a domain in a drop: its REQ is written, and its pages are asked to stop. -/
def State.seqTurn (s : State) (d : Nat) (rest : List Nat) : State :=
  let mode := s.rd .power 0 Reg.Power.SEQ_MODE
  let s1 := { s with power := { s.power with seq := some { left := d :: rest, mode := mode } } }
  let s2 := s1.setDom d { s1.dom d with req := mode }
  ((s2.domPages d).foldl (fun s x => s.stopReq x.1 x.2) s2).tryEntry d

theorem seqNext_first (h : l.find? s.domOn = some d) : ∃ rest, s.seqNext l = s.seqTurn d rest := by
  induction l with
  | nil => simp at h
  | cons e t ih =>
    rw [State.seqNext]
    cases hon : s.domOn e with
    | true =>
      obtain rfl : e = d := by simpa [hon] using h
      exact ⟨t, rfl⟩
    | false => simpa using ih (by simpa [hon] using h)

/-- A domain without pages to stop whose wait does not hold only takes the mode as its REQ. -/
theorem seqTurn_waits {rest : List Nat} (hpages : s.domPages d = []) (hwait : s.waitHolds d = false) : s.seqTurn d rest =
    State.setDom { s with power := { s.power with seq := some { left := d :: rest, mode := s.rd .power 0 Reg.Power.SEQ_MODE } } } d
      { s.dom d with req := s.rd .power 0 Reg.Power.SEQ_MODE } := by
  generalize hu : State.setDom { s with power := { s.power with seq := some { left := d :: rest, mode := s.rd .power 0 Reg.Power.SEQ_MODE } } } d
    { s.dom d with req := s.rd .power 0 Reg.Power.SEQ_MODE } = u
  have hpagesu : u.domPages d = [] := by rw [← hu]; exact hpages
  have hwaitu : u.waitHolds d = false := by
    rw [← hwait, ← hu]
    exact State.waitHolds_of_powerKeys (RegsIn.of_regs rfl) hpages rfl rfl rfl
  have hturn : s.seqTurn d rest = ((u.domPages d).foldl (fun s x => s.stopReq x.1 x.2) u).tryEntry d := by rw [← hu]; rfl
  rw [hturn, hpagesu]
  simp [State.tryEntry, hwaitu]

theorem seqBegun_powerKeys : RegsIn powerKeys s (s.seqBegun mode) :=
  (((RegsIn.wr (by decide)).trans (RegsIn.wr (by decide))).trans (RegsIn.wr (by decide))).trans (RegsIn.wr (by decide))

theorem seqEnd_leaves {status held reason : Nat} (hs : status < 4) (hh : held < 32) (hr : reason < 16) :
    (s.seqEnd status held reason).rd .power 0 Reg.Power.SEQ_STATUS = status ∧ (s.seqEnd status held reason).rd .power 0 Reg.Power.SEQ_HELD = held ∧
      (s.seqEnd status held reason).rd .power 0 Reg.Power.SEQ_REASON = reason ∧
      (s.seqEnd status held reason).power = { s.power with seq := none } ∧ IrqSet (s.seqEnd status held reason) .power 0 1 ∧
      (s.seqEnd status held reason).mem = s.mem := by
  unfold State.seqEnd
  dsimp only
  generalize hu : ((s.wr .power 0 Reg.Power.SEQ_STATUS status).wr .power 0 Reg.Power.SEQ_HELD held).wr .power 0 Reg.Power.SEQ_REASON reason = u
  have hrd (f : Fld) (hf : regKey .power 0 f ≠ regKey .power 0 Reg.Hdr.IRQ_RAW) :
      (State.irq { u with power := { u.power with seq := none } } .power none 1).rd .power 0 f = u.rd .power 0 f :=
    (State.rd_irq_none hf).trans (State.rd_of_regs rfl _ _ _)
  rw [hrd _ (by decide), hrd _ (by decide), hrd _ (by decide), ← hu]
  refine ⟨?_, ?_, ?_, by simp, State.irqSet_irq _ _ (by decide), by simp⟩
  · rw [State.rd_wr_other _ _ (by decide), State.rd_wr_other _ _ (by decide), State.rd_wr_self]
    exact Nat.mod_eq_of_lt hs
  · rw [State.rd_wr_other _ _ (by decide), State.rd_wr_self]
    exact Nat.mod_eq_of_lt hh
  · rw [State.rd_wr_self]
    exact Nat.mod_eq_of_lt hr

/-! ### What a drop's command leaves -/

section
variable {x : Nat} (hst : s.rd .power 0 Reg.Power.SEQ_STATUS ≠ 1) (hgo : bitAt x 31 = true) (hmode : mode = field x 0 2)
  (hmask : mask = s.rd .power 0 Reg.Power.SEQ_MASK) (hl : l = dropOrder.filter fun d => bitAt mask d)
include hst hgo hmode hmask

theorem seqCmd_refused_leaves (h : seqRefused mode mask) : (s.seqCmd x).power = s.power ∧
    (s.seqCmd x).rd .power 0 (Reg.Hdr.ERR_CNT 0) = (count31 (s.rd .power 0 (Reg.Hdr.ERR_CNT 0)) 1).1 ∧ (s.seqCmd x).mem = s.mem := by
  subst hmode hmask
  rw [seqCmd_refused hst hgo h]
  refine ⟨by simp, ?_, by simp⟩
  rw [State.rd_errCount_self, State.rd_wr_other _ _ (by decide)]

include hl

theorem seqCmd_none (hok : ¬ seqRefused mode mask) (hnone : l.any s.domOn = false) : (s.seqCmd x).rd .power 0 Reg.Power.SEQ_STATUS = 2 ∧
    (s.seqCmd x).power.seq = none ∧ (s.seqCmd x).power.doms = s.power.doms ∧ IrqSet (s.seqCmd x) .power 0 1 ∧ (s.seqCmd x).mem = s.mem := by
  subst hmode hmask hl
  rw [seqCmd_begun hst hgo hok, seqNext_none (s := s.seqBegun _) hnone]
  obtain ⟨hstatus, -, -, hpower, hirq, hmem⟩ :=
    seqEnd_leaves (s := { s.seqBegun (field x 0 2) with power := { (s.seqBegun (field x 0 2)).power with seq := none } }) (status := 2) (held := 0)
      (reason := 0) (by decide) (by decide) (by decide)
  exact ⟨hstatus, by rw [hpower], by rw [hpower]; rfl, hirq, hmem⟩

theorem seqCmd_first (hok : ¬ seqRefused mode mask) (hfirst : l.find? s.domOn = some d) (hpages : s.domPages d = [])
    (hwait : s.waitHolds d = false) : (s.seqCmd x).rd .power 0 Reg.Power.SEQ_STATUS = 1 ∧
      (∃ q, (s.seqCmd x).power.seq = some q ∧ q.left.head? = some d ∧ q.mode = mode) ∧ ((s.seqCmd x).dom d).req = mode ∧
      ((s.seqCmd x).dom d).st = (s.dom d).st ∧ (s.seqCmd x).mem = s.mem := by
  have hcmd : s.seqCmd x = (s.seqBegun mode).seqNext l := by
    subst hmode hmask hl
    exact seqCmd_begun hst hgo hok
  have hlt : mode < 2 ^ 2 := hmode ▸ Nat.mod_lt _ (by decide)
  obtain ⟨rest, hturn⟩ := seqNext_first (s := s.seqBegun mode) hfirst
  have hwait' : (s.seqBegun mode).waitHolds d = false := by
    rw [← hwait]
    exact State.waitHolds_of_powerKeys seqBegun_powerKeys hpages rfl rfl rfl
  have hmode' : (s.seqBegun mode).rd .power 0 Reg.Power.SEQ_MODE = mode := by
    unfold State.seqBegun
    rw [State.rd_wr_other _ _ (by decide), State.rd_wr_other _ _ (by decide), State.rd_wr_other _ _ (by decide), State.rd_wr_self]
    exact Nat.mod_eq_of_lt hlt
  have hstatus : (s.seqBegun mode).rd .power 0 Reg.Power.SEQ_STATUS = 1 := by
    unfold State.seqBegun
    rw [State.rd_wr_other _ _ (by decide), State.rd_wr_other _ _ (by decide), State.rd_wr_self]
    rfl
  rw [hcmd, hturn, seqTurn_waits (s := s.seqBegun mode) hpages hwait', hmode', State.dom_setDom_self]
  exact ⟨hstatus, ⟨_, rfl, rfl, rfl⟩, rfl, rfl, rfl⟩

end
end

/-- Settles O34: SEQ_GO is taken apart by what refuses it and by the first domain of its drop that is ON. -/
theorem sequencedDrop : Obligations.SequencedDrop := by
  unfold Obligations.SequencedDrop
  refine ⟨fun s v w mode mask l h hst hmode hmask hl => ?_, fun s q d hseq hleft hon hd => ?_⟩
  · have hgo := bitAt_setField_one w.toNat 31
    have hfield : mode = field (setField w.toNat 31 1 1) 0 2 := hmode.trans field_seqGo_mode.symm
    have hexec := exec_seqGo (w := w) h
    generalize setField w.toNat 31 1 1 = x at hgo hfield hexec
    constructor
    · intro hm h0 h22 h23
      have hok : ¬ seqRefused mode mask := by
        simp only [seqRefused, h0, h22, h23, Bool.false_eq_true, or_false]
        omega
      exact ⟨fun hnone => ⟨_, hexec, seqCmd_none hst hgo hfield hmask hl hok hnone⟩,
        fun d hfirst hpages hwait => ⟨_, hexec, seqCmd_first hst hgo hfield hmask hl hok hfirst hpages hwait⟩⟩
    · exact fun hbad => ⟨_, hexec, seqCmd_refused_leaves hst hgo hfield hmask hbad⟩
  · have hstep : exec .seqTimeout s = .next ((s.setDom d { s.dom d with req := 0 }).seqEnd 3 d 6) := by
      show execSeqTimeout s = _
      simp [execSeqTimeout, hseq, hleft, hon]
    refine ⟨_, hstep, ?_⟩
    obtain ⟨hstatus, hheld, hreason, hpower, hirq, hmem⟩ :=
      seqEnd_leaves (s := s.setDom d { s.dom d with req := 0 }) (status := 3) (held := d) (reason := 6) (by decide) (by omega) (by decide)
    refine ⟨hstatus, hheld, hreason, ?_, by rw [hpower], hirq, hmem⟩
    show (SMap.get {} (State.power _).doms d).req = 0
    rw [hpower]
    show ((s.setDom d { s.dom d with req := 0 }).dom d).req = 0
    rw [State.dom_setDom_self]

end Sys2Proof.Machine
end

section
/-! Lifts (R328 to R332), with what a wake event may write (R323). -/

namespace Sys2Proof.Machine

set_option Elab.async false

section
variable {s t : State} {d i inc : Nat}

/-! ### The registers of a wake event -/

/-- The registers that a wake event may write: those of the POWER page, and STATE of an array's context that a DOZE stopped (R316). -/
def wakeKeys (k : Nat) : Prop := powerKeys k ∨ (0x10 ≤ keyPage k ∧ keyPage k < 0x19 ∧ keyOff k = 0x00C)

theorem domArray_le {a : Nat} (h : domArray d = some a) : a ≤ 8 := by
  unfold domArray at h
  split at h
  · simp_all
  · split at h
    · simp only [Option.some.injEq] at h
      omega
    · simp at h

theorem powerKeys_of_off {b : Nat} {f : Fld} (hoff : f.off < 0x1000) (hlsb : f.lsb < 32) : powerKeys (regKey .power b f) := by
  simp only [powerKeys, keyPage, regKey, Page.base]
  omega

theorem RegsIn.wrPower {v : Nat} {f : Fld} (hoff : f.off < 0x1000) (hlsb : f.lsb < 32) : RegsIn powerKeys s (s.wr .power 0 f v) :=
  wr (powerKeys_of_off hoff hlsb)

theorem RegsIn.irqPower {v : Option Nat} {bit : Nat} : RegsIn powerKeys s (s.irq .power v bit) :=
  irq fun _ => powerKeys_of_off (by decide) (by decide)

theorem RegsIn.abandon (hd : d ≤ 26) : RegsIn wakeKeys s (s.abandon d) := by
  unfold State.abandon
  extract_lets s0 x s1
  have h0 : RegsIn wakeKeys s s0 := by
    show RegsIn wakeKeys s (match domArray d, (s.dom d).dozed with
      | some a, some c => s.setSt (.ma a) c 1
      | _, _ => s)
    split
    · next ha _ =>
      have hle := domArray_le ha
      refine wr (.inr ?_)
      simp only [keyPage, keyOff, regKey, Page.base, stateFld]
      omega
    · exact refl
  have h1 : RegsIn wakeKeys s s1 :=
    (h0.trans (of_regs rfl : RegsIn wakeKeys s0 (s0.setDom d { s0.dom d with st := .on, req := 0, dozed := none }))).trans
      (count (.inl (powerKeys_of_off (by show 0x204 + 8 * d < _; omega) (by simp)))
        (.inl (powerKeys_of_off (by show 0x204 + 8 * d < _; omega) (by simp))))
  clear_value s1
  split
  · have h2 : RegsIn powerKeys s1
        (((s1.wr .power 0 Reg.Power.SEQ_STATUS 3).wr .power 0 Reg.Power.SEQ_HELD d).wr .power 0 Reg.Power.SEQ_REASON 7) :=
      ((wrPower (by decide) (by decide)).trans (wrPower (by decide) (by decide))).trans (wrPower (by decide) (by decide))
    refine ite (h1.trans (mono (L := powerKeys) (trans ?_ irqPower) fun _ => .inl)) h1
    exact h2.trans (of_regs rfl)
  · exact h1

theorem RegsIn.beginWake {o : Bool} : RegsIn wakeKeys s (s.beginWake d o) := by
  unfold State.beginWake
  extract_lets s1 ramping x s2 y s3
  have h1 : RegsIn wakeKeys s s1 :=
    ite refl (count (.inl (powerKeys_of_off (by decide) (by decide))) (.inl (powerKeys_of_off (by decide) (by decide))))
  have h3 : RegsIn wakeKeys s s3 := (h1.trans (of_regs rfl : RegsIn wakeKeys s1 s2)).trans (ite (of_regs rfl) refl)
  exact h3.trans (ite (of_regs rfl) refl)

theorem RegsIn.wake : RegsIn wakeKeys s (s.wake d) := by
  unfold State.wake
  dsimp only
  split
  · exact refl
  · next hd =>
    split
    · exact refl
    · exact refl
    · exact ite (abandon (by omega)) (of_regs rfl)
    · exact beginWake
    · exact ite refl beginWake

/-! ### Signals in two states of one tally unit -/

theorem State.evalRelease_tallies : (s.evalRelease i).tallies =
    (if (s.tally i).level then s else s.setTally i ((s.tally i).released (s.waitersOf i).length)).tallies := by
  rw [State.evalRelease_eq]
  exact (Frame.foldl (F := [.regs, .waiters, .arrays, .dmas]) fun _ _ => Frame.releaseWaiter).same .tallies (by decide)

theorem State.evalRelease_tallies_congr (htal : t.tallies = s.tallies) (hws : t.waiters = s.waiters) :
    (t.evalRelease i).tallies = (s.evalRelease i).tallies := by
  have htally : t.tally i = s.tally i := by rw [State.tally, State.tally, htal]
  have hof : t.waitersOf i = s.waitersOf i := by rw [State.waitersOf, State.waitersOf, hws]
  rw [State.evalRelease_tallies, State.evalRelease_tallies, htally, hof]
  split
  · exact htal
  · show SMap.set {} t.tallies i _ = SMap.set {} s.tallies i _
    rw [htal]

/-- What the sum of a moment's signals leaves of the tallies, before release (R152). -/
theorem State.signalTally_sum (hi : i < 8192) : ∃ u : State, s.signalTally i inc = u.evalRelease i ∧
    u.tallies = SMap.set {} s.tallies i ((s.tally i).signalled inc) ∧ u.waiters = s.waiters := by
  have hsig : s.signalTally i inc = State.evalRelease
      (if 0xFFFF < (s.tally i).count + inc then
        if (s.tally i).alloc then (s.overflowTally i).vfOverflow ((s.tally i).owner % 8) else s.overflowTally i
      else s.setTally i { s.tally i with count := (s.tally i).count + inc }) i := by
    rw [State.signalTally, if_neg (Nat.not_le.mpr hi)]
    rfl
  refine ⟨_, hsig, ?_⟩
  split_ifs with hover halloc
  · have honly : (s.setTally i ((s.tally i).signalled inc)).RegistersOnly ((s.overflowTally i).vfOverflow ((s.tally i).owner % 8)) := by
      rw [Tally.signalled_of_lt hover]
      exact ((State.registersOnly_tallyErr _ none 0).trans (State.registersOnly_irq _ .tallyPf none 0)).trans (State.registersOnly_vfOverflow _ _)
    exact ⟨(congrArg State.tallies honly :), honly.waiters_eq⟩
  · have honly : (s.setTally i ((s.tally i).signalled inc)).RegistersOnly (s.overflowTally i) := by
      rw [Tally.signalled_of_lt hover]
      exact (State.registersOnly_tallyErr _ none 0).trans (State.registersOnly_irq _ .tallyPf none 0)
    exact ⟨(congrArg State.tallies honly :), honly.waiters_eq⟩
  · rw [Tally.signalled_of_le (Nat.not_lt.mp hover)]
    exact ⟨rfl, rfl⟩

theorem State.signalTally_tallies_congr (htal : t.tallies = s.tallies) (hws : t.waiters = s.waiters) :
    (t.signalTally i inc).tallies = (s.signalTally i inc).tallies := by
  by_cases hi : i < 8192
  · obtain ⟨u, hu, hutal, huws⟩ := s.signalTally_sum (inc := inc) hi
    obtain ⟨u', hu', hutal', huws'⟩ := t.signalTally_sum (inc := inc) hi
    have htally : t.tally i = s.tally i := by rw [State.tally, State.tally, htal]
    rw [hu, hu']
    refine State.evalRelease_tallies_congr ?_ ?_
    · rw [hutal, hutal', htal, htally]
    · rw [huws, huws', hws]
  · rw [State.signalTally, State.signalTally, if_pos (by omega), if_pos (by omega), htal]

/-! ### A raise becomes a lift (R328 to R330) -/

/-- The lift that a raise becomes. -/
def State.liftOf (s : State) (r : Raise) : LiftRun :=
  { raise := r, words := (List.range 16).map (s.liftWord (r.record % 32)), seqNo := s.rd .liftPage 0 (Reg.Lift.RAISED (r.record % 32)),
    fromOff := ((setBits (nth 0 ((List.range 16).map (s.liftWord (r.record % 32))) 0) 27).filter fun d => d != 0).filter s.comesFromOff }

/-- A raise in progress, its wait counted where it waited. -/
def State.liftBegun (s : State) (r : Raise) (rest : List Raise) : State :=
  let s1 := { s with power := { s.power with raises := rest, lifts := s.power.lifts ++ [s.liftOf r] } }
  if r.held then s1.count .liftPage 0 Reg.Lift.LIFT_STALL Reg.Lift.LIFT_STALL_SAT (ncOf (s.now - r.ts)) else s1

theorem exec_liftRaise {r : Raise} {rest : List Raise} (hr : s.power.raises = r :: rest) (hready : s.ready = true)
    (hlen : s.power.lifts.length < 16) : exec .liftRaise s = .next
      (((setBits (nth 0 ((List.range 16).map (s.liftWord (r.record % 32))) 0) 27).filter fun d => d != 0).foldl State.wake
        ((s.liftBegun r rest).countWrap32 .liftPage 0 (Reg.Lift.RAISED (r.record % 32)) 1)) := by
  have hgo : ¬ (!s.ready || decide (16 ≤ s.power.lifts.length)) = true := by simp [hready]; omega
  show execLiftRaise s = _
  unfold execLiftRaise
  rw [hr]
  dsimp only
  rw [if_neg hgo]
  rfl

theorem liftBegun_power {r : Raise} {rest : List Raise} : (s.liftBegun r rest).power =
    { s.power with raises := rest, lifts := s.power.lifts ++ [s.liftOf r] } := by
  unfold State.liftBegun
  dsimp only
  split
  · simp
  · rfl

theorem liftBegun_mem {r : Raise} {rest : List Raise} : (s.liftBegun r rest).mem = s.mem := by
  unfold State.liftBegun
  dsimp only
  split
  · simp
  · rfl

theorem regKey_raised_ne_off {k b : Nat} {f : Fld} (h : f.off < 0x180) (hlsb : f.lsb < 32) :
    regKey .liftPage b (Reg.Lift.RAISED k) ≠ regKey .liftPage b f := by
  simp only [regKey]
  omega

theorem rd_liftBegun_raised {r : Raise} {rest : List Raise} {k : Nat} :
    (s.liftBegun r rest).rd .liftPage 0 (Reg.Lift.RAISED k) = s.rd .liftPage 0 (Reg.Lift.RAISED k) := by
  unfold State.liftBegun
  dsimp only
  split
  · rw [State.rd_count_other (regKey_raised_ne_off (by decide) (by decide)) (regKey_raised_ne_off (by decide) (by decide))]
    exact State.rd_of_regs rfl _ _ _
  · exact State.rd_of_regs rfl _ _ _

theorem not_wakeKeys_raised {k : Nat} (hk : k < 32) : ¬ wakeKeys (regKey .liftPage 0 (Reg.Lift.RAISED k)) := by
  simp only [wakeKeys, powerKeys, keyPage, keyOff, regKey, Page.base]
  omega

theorem liftRaise_leaves {r : Raise} {rest : List Raise} (hr : s.power.raises = r :: rest) (hready : s.ready = true)
    (hlen : s.power.lifts.length < 16) : ∃ t run, exec .liftRaise s = .next t ∧ t.power.raises = rest ∧ t.power.lifts = s.power.lifts ++ [run] ∧
      run.raise = r ∧ run.words = (List.range 16).map (s.liftWord (r.record % 32)) ∧
      t.rd .liftPage 0 (Reg.Lift.RAISED (r.record % 32)) = (s.rd .liftPage 0 (Reg.Lift.RAISED (r.record % 32)) + 1) % 2 ^ 32 ∧
      t.mem = s.mem := by
  refine ⟨_, s.liftOf r, exec_liftRaise hr hready hlen, ?_⟩
  generalize ((setBits _ 27).filter fun d => d != 0) = doms
  have hframe : Frame wakeParts ((s.liftBegun r rest).countWrap32 .liftPage 0 (Reg.Lift.RAISED (r.record % 32)) 1)
      (doms.foldl State.wake ((s.liftBegun r rest).countWrap32 .liftPage 0 (Reg.Lift.RAISED (r.record % 32)) 1)) :=
    Frame.foldl fun _ _ => Frame.wake
  have hregs : RegsIn wakeKeys ((s.liftBegun r rest).countWrap32 .liftPage 0 (Reg.Lift.RAISED (r.record % 32)) 1)
      (doms.foldl State.wake ((s.liftBegun r rest).countWrap32 .liftPage 0 (Reg.Lift.RAISED (r.record % 32)) 1)) :=
    RegsIn.foldl fun _ _ _ => RegsIn.wake
  refine ⟨(hframe.same .raises (by decide)).trans ?_, (hframe.same .lifts (by decide)).trans ?_, rfl, rfl, ?_,
    (hframe.same .mem (by decide)).trans liftBegun_mem⟩
  · show (s.liftBegun r rest).power.raises = rest
    rw [liftBegun_power]
  · show (s.liftBegun r rest).power.lifts = _
    rw [liftBegun_power]
  · rw [hregs.rd_eq (not_wakeKeys_raised (Nat.mod_lt _ (by decide))), State.countWrap32, State.rd_wr_self, rd_liftBegun_raised]
    exact Nat.mod_mod _ _

/-! ### A lift that starts nothing hands over (R332) -/

theorem setBits_zero (n : Nat) : setBits 0 n = [] := by
  simp [setBits, bitAt]

theorem liftRestore_nothing {x : LiftRun} (h1 : x.word 1 = 0) : s.liftRestore x [] = (s, []) := by
  have hstart : x.start = [] := by rw [LiftRun.start, h1, setBits_zero]
  simp [State.liftRestore, LiftRun.coldStart, hstart]

theorem liftStreams_nothing {x : LiftRun} (h1 : x.word 1 = 0) (h2 : x.word 2 = 0) : s.liftStreams x = (s, false, false) := by
  have h13 : bitAt 0 13 = false := rfl
  have haud : field 0 9 4 = 0 := rfl
  unfold State.liftStreams
  rw [h1, h2, h13, haud, setBits_zero, setBits_zero]
  rfl

theorem liftStart_nothing {x : LiftRun} (h1 : x.word 1 = 0) : s.liftStart x [] = (s, []) := by
  have hstart : x.start = [] := by rw [LiftRun.start, h1, setBits_zero]
  simp [State.liftStart, hstart]

theorem proceed_nothing {x : LiftRun} (h1 : x.word 1 = 0) (h2 : x.word 2 = 0) : s.proceed i x [] =
    (let s4 := s.dstore x.hoSlot (x.descriptor (x.fromOff.filter fun d => d != 23 || s.domOn d) [] false false)
    let s5 := if bitAt (x.word 3) 13 then s4.signalTally (field (x.word 3) 0 13) 1 else s4
    { s5 with power := { s5.power with lifts := s5.power.lifts.eraseIdx i } }) := by
  rw [State.proceed, liftRestore_nothing h1]
  dsimp only
  rw [liftStreams_nothing h1 h2]
  dsimp only
  rw [liftStart_nothing h1]

theorem exec_liftProceed_nothing {x : LiftRun} (hx : s.power.lifts[i]? = some x)
    (hdoms : ∀ d ∈ x.doms, d = 23 ∨ (s.dom d).removed = true ∨ s.domOn d = true) (hfirst : s.liftFirst i x = true) (h1 : x.word 1 = 0)
    (hon : s.domOn (memDomain x.hoSlot) = true) : exec (.liftProceed i) s = .next (s.proceed i x []) := by
  have hcold : x.coldStart = [] := by rw [LiftRun.coldStart, LiftRun.start, h1, setBits_zero]; rfl
  have hall : (x.doms.all fun d => d == 23 || (s.dom d).removed || s.domOn d) = true := by
    simpa [List.all_eq_true, or_assoc] using hdoms
  have hwake : s.wakeAll [memDomain x.hoSlot] = (s, true) := State.wakeAll_of_allOn (by simpa using hon)
  have hnone : s.wakeAll [] = (s, true) := rfl
  show execLiftProceed i s = _
  simp [execLiftProceed, hx, hall, hfirst, hcold, hwake, restoreReads, hnone]

end

/-- Settles O35: a raise is queued before its domains are woken, and a lift with nothing to start only hands over. -/
theorem lifts : Obligations.Lifts := by
  unfold Obligations.Lifts
  refine ⟨fun s r rest hr hready hlen => liftRaise_leaves hr hready hlen, fun s i x hx hdoms hfirst _ h1 h2 hon => ?_⟩
  refine ⟨_, exec_liftProceed_nothing hx hdoms hfirst h1 hon, ?_⟩
  rw [proceed_nothing h1 h2]
  dsimp only
  generalize hu : s.dstore x.hoSlot (x.descriptor (x.fromOff.filter fun d => d != 23 || s.domOn d) [] false false) = u
  have hframe : Frame [.mem, .tierRest, .arrays] s u := hu ▸ Frame.dstore
  have hlifts := hframe.same .lifts (by decide)
  split
  · have hsig : Frame signalParts u (u.signalTally (field (x.word 3) 0 13) 1) := Frame.signalTally
    refine ⟨?_, hsig.same .mem (by decide), fun _ => ?_⟩
    · show List.eraseIdx (State.power _).lifts i = _
      rw [hsig.same .lifts (by decide), hlifts]
    · exact State.signalTally_tallies_congr (hframe.same .tallies (by decide)) (hframe.same .waiters (by decide))
  · next hno => exact ⟨congrArg (fun l => List.eraseIdx l i) hlifts, rfl, fun hyes => absurd hyes hno⟩

end Sys2Proof.Machine
end

section
/-! Reads of memory that meet no upset, and the generic register write of a page without configuration fields (R249, R407). -/

namespace Sys2Proof.Machine

set_option Elab.async false

section
variable {s t : State} {p q : Page} {b c off w : Nat} {fs : List Fld} {g : Fld}

/-! ### Reads -/

theorem State.struck_of_noUpsets (h : s.upsets = []) (spans : List (Nat × Nat)) : s.struck spans = [] := by
  simp [State.struck, h]

theorem State.meetWords_of_struck {spans : List (Nat × Nat)} (h : s.struck spans = []) : s.meetWords spans = (s, []) := by
  unfold State.meetWords
  rw [h]
  refine Prod.ext ?_ rfl
  show { s with upsets := List.filter _ s.upsets } = s
  rw [List.filter_eq_self.mpr]
  intro u _
  split <;> rfl

theorem State.meetData_of_noUpsets (h : s.upsets = []) (addr n : Nat) : s.meetData addr n = (s, s.bytes addr n) := by
  simp [State.meetData, State.meetWords_of_struck (State.struck_of_noUpsets h _)]

theorem State.meetCell_of_noUpsets (h : s.upsets = []) (x : Cell64) (p : Page) : s.meetCell x p = (s, false) := by
  simp [State.meetCell, h]

theorem Memory.bytes_drop_take (m : List Host.Cell) (a n i k : Nat) (h : i + k ≤ n) :
    ((Memory.bytes m a n).drop i).take k = Memory.bytes m (a + i) k := by
  refine List.ext_getElem (by simp [Memory.length_bytes]; omega) fun j h1 h2 => ?_
  simp only [List.getElem_take, List.getElem_drop, Memory.getElem_bytes, Nat.add_assoc]

/-- A slice of bytes that are there. -/
theorem sliceBytes_bytes (a n i k : Nat) (h : i + k ≤ n) : sliceBytes (s.bytes a n) i k = s.bytes (a + i) k := by
  have hlen : (Memory.bytes s.mem (a + i) k).length = k := Memory.length_bytes ..
  simp only [sliceBytes, State.bytes, Memory.bytes_drop_take _ _ _ _ _ h, hlen, Nat.sub_self, List.replicate_zero, List.append_nil]

/-! ### Writes of a register word -/

/-- What a written word does to one of its fields. -/
def State.putField (s : State) (p : Page) (b w : Nat) (open_ : Bool) (f : Fld) : State :=
  let v := field w f.lsb f.width
  match f.acc with
  | .rw => s.wr p b f v
  | .rws => s.wr p b f v
  | .w1c => if v = 0 then s else s.wr p b f (clr32 (s.rd p b f) v)
  | .cfg => if open_ then s.wr p b f v else s
  | _ => s

/-- A word of a page without configuration fields there. -/
def NoCfg (fs : List Fld) (off : Nat) : Prop := ∀ f ∈ fs, f.off = off → f.acc ≠ .cfg

theorem wrFields_of_noCfg (h : NoCfg fs off) : s.wrFields p b off w fs =
    (fs.filter fun f => f.off == off).foldl (fun u f => u.putField p b w (s.st p b == 0 && s.rdB p b Reg.Hdr.CFG_OPEN) f) s := by
  have hno : ((fs.filter fun f => f.off == off).any fun f => f.acc == .cfg) = false := by
    rw [List.any_eq_false]
    intro f hf
    obtain ⟨hmem, hoff⟩ := List.mem_filter.mp hf
    simpa using h f hmem (by simpa using hoff)
  unfold State.wrFields
  dsimp only
  rw [hno, Bool.and_false, if_neg (by decide)]
  rfl

theorem putField_keeps {o : Bool} {f : Fld} (hk : regKey q c g ≠ regKey p b f) : (s.putField p b w o f).rd q c g = s.rd q c g := by
  unfold State.putField
  dsimp only
  split
  · exact s.rd_wr_other _ hk
  · exact s.rd_wr_other _ hk
  · split
    · rfl
    · exact s.rd_wr_other _ hk
  · split
    · exact s.rd_wr_other _ hk
    · rfl
  · rfl

theorem putField_regsOnly {o : Bool} {f : Fld} : { s.putField p b w o f with regs := s.regs } = s := by
  unfold State.putField
  dsimp only
  split
  · rfl
  · rfl
  · split <;> rfl
  · split <;> rfl
  · rfl

/-- The write touches only fields of its word. -/
theorem rd_wrFields_other (h : NoCfg fs off) (hk : ∀ f ∈ fs, f.off = off → regKey q c g ≠ regKey p b f) :
    (s.wrFields p b off w fs).rd q c g = s.rd q c g := by
  rw [wrFields_of_noCfg h]
  refine List.foldlRecOn _ _ (motive := fun t : State => t.rd q c g = s.rd q c g) rfl fun t ht f hf => ?_
  obtain ⟨hmem, hoff⟩ := List.mem_filter.mp hf
  exact (putField_keeps (hk f hmem (by simpa using hoff))).trans ht

theorem rd_wrFields_other_off (h : NoCfg fs off) (hlsb : ∀ f ∈ fs, f.lsb < 32) (hg : g.off ≠ off) (hl : g.lsb < 32) :
    (s.wrFields p b off w fs).rd p b g = s.rd p b g := by
  refine rd_wrFields_other h fun f hf hoff => ?_
  have := hlsb f hf
  simp only [regKey]
  omega

theorem wrFields_regsOnly (h : NoCfg fs off) : { s.wrFields p b off w fs with regs := s.regs } = s := by
  rw [wrFields_of_noCfg h]
  refine List.foldlRecOn _ _ (motive := fun t : State => { t with regs := s.regs } = s) rfl fun t ht f _ => ?_
  have hput := putField_regsOnly (s := t) (p := p) (b := b) (w := w) (o := s.st p b == 0 && s.rdB p b Reg.Hdr.CFG_OPEN) (f := f)
  exact (congrArg (fun u : State => { u with regs := s.regs }) hput).trans ht

end
end Sys2Proof.Machine
end

section
/-! Underrun and mute of the microphones (R297, R303, R304), and the audio outputs (R305, R306). -/

namespace Sys2Proof.Machine

set_option Elab.async false

section
variable {s : State} {v : View} {w : Word} {c port x : Nat}

/-! ### Channels and mute -/

/-- The two peaks of a channel read 0. -/
def State.zeroPeak (s : State) (c : Nat) : State := (s.wr .audio 0 (Reg.Audio.PEAK_PLAIN c) 0).wr .audio 0 (Reg.Audio.PEAK_GAINED c) 0

theorem rd_zeroPeak (c j : Nat) : (s.zeroPeak c).rd .audio 0 (Reg.Audio.PEAK_PLAIN j) = (if j = c then 0 else s.rd .audio 0 (Reg.Audio.PEAK_PLAIN j)) ∧
    (s.zeroPeak c).rd .audio 0 (Reg.Audio.PEAK_GAINED j) = if j = c then 0 else s.rd .audio 0 (Reg.Audio.PEAK_GAINED j) := by
  have hcross (i k : Nat) : regKey .audio 0 (Reg.Audio.PEAK_PLAIN i) ≠ regKey .audio 0 (Reg.Audio.PEAK_GAINED k) := by
    simp only [regKey]
    omega
  unfold State.zeroPeak
  rw [State.rd_wr_other _ _ (hcross j c)]
  split
  · next h =>
    subst h
    rw [State.rd_wr_self, State.rd_wr_self]
    exact ⟨rfl, rfl⟩
  · next h =>
    have hne : regKey .audio 0 (Reg.Audio.PEAK_PLAIN j) ≠ regKey .audio 0 (Reg.Audio.PEAK_PLAIN c) := by
      simp only [regKey]
      omega
    have hne' : regKey .audio 0 (Reg.Audio.PEAK_GAINED j) ≠ regKey .audio 0 (Reg.Audio.PEAK_GAINED c) := by
      simp only [regKey]
      omega
    rw [State.rd_wr_other _ _ hne, State.rd_wr_other _ _ hne', State.rd_wr_other _ _ (hcross c j).symm]
    exact ⟨rfl, rfl⟩

theorem rd_zeroPeaks {n : Nat} (hc : c < n) : ((List.range n).foldl State.zeroPeak s).rd .audio 0 (Reg.Audio.PEAK_PLAIN c) = 0 ∧
    ((List.range n).foldl State.zeroPeak s).rd .audio 0 (Reg.Audio.PEAK_GAINED c) = 0 := by
  induction n with
  | zero => omega
  | succ n ih =>
    obtain ⟨hplain, hgained⟩ := rd_zeroPeak (s := (List.range n).foldl State.zeroPeak s) n c
    rw [List.range_succ, List.foldl_append, List.foldl_cons, List.foldl_nil, hplain, hgained]
    split
    · exact ⟨rfl, rfl⟩
    · exact ih (by omega)

theorem zeroPeaks_regsOnly {l : List Nat} : { l.foldl State.zeroPeak s with regs := s.regs } = s :=
  List.foldlRecOn l State.zeroPeak (motive := fun t : State => { t with regs := s.regs } = s) rfl fun _ ht _ _ => ht

/-- The audio part once MUTE_N is low (R303, R304). -/
def State.mutedAudio (s : State) : AudioS :=
  let x := { s.audio with muteLow := true, unmuteWait := false, unmuteLeft := 0, micPwr := false, muteInd := true }
  if s.rdB .audio 0 Reg.Audio.SUMP_WIPE then
    { x with sump := (List.range 128).foldl (fun m k =>
        let h := (SMap.get {} m k).hdr
        SMap.set {} m k (SumpSlot.mk { h with muted := true } [])) x.sump }
  else x

theorem exec_muteAssert : exec .muteAssert s = .next
    (let s1 := (List.range 8).foldl State.zeroPeak (s.setAudio s.mutedAudio)
    if s.audio.muted then s1 else (s1.wr .audio 0 Reg.Audio.MUTED 1).irq .audio none 1) := rfl

theorem mutedAudio_keeps : s.mutedAudio.muteLow = true ∧ s.mutedAudio.micPwr = false ∧ s.mutedAudio.muteInd = true ∧
    s.mutedAudio.sidx = s.audio.sidx := by
  unfold State.mutedAudio
  dsimp only
  split <;> exact ⟨rfl, rfl, rfl, rfl⟩

theorem muteAssert_leaves : ∃ t, exec .muteAssert s = .next t ∧ t.audio.muted = true ∧ t.audio.muteLow = true ∧ t.audio.micPwr = false ∧
    t.audio.muteInd = true ∧ t.audio.sidx = s.audio.sidx ∧ t.mem = s.mem ∧
    (s.audio.muted = false → t.rd .audio 0 Reg.Audio.MUTED = 1 ∧ IrqSet t .audio 0 1) ∧
    ∀ c, c < 8 → t.rd .audio 0 (Reg.Audio.PEAK_PLAIN c) = 0 ∧ t.rd .audio 0 (Reg.Audio.PEAK_GAINED c) = 0 := by
  refine ⟨_, exec_muteAssert, ?_⟩
  have hpeaks (c : Nat) (hc : c < 8) := rd_zeroPeaks (s := s.setAudio s.mutedAudio) hc
  have honly := zeroPeaks_regsOnly (s := s.setAudio s.mutedAudio) (l := List.range 8)
  generalize (List.range 8).foldl State.zeroPeak (s.setAudio s.mutedAudio) = u at hpeaks honly
  have haudio : u.audio = s.mutedAudio := (congrArg State.audio honly :)
  have hmem : u.mem = s.mem := (congrArg State.mem honly :)
  obtain ⟨hlow, hpwr, hind, hsidx⟩ := mutedAudio_keeps (s := s)
  have hmuted : s.mutedAudio.muted = true := by simp [AudioS.muted, hlow]
  dsimp only
  split
  · next hwas =>
    rw [haudio]
    exact ⟨hmuted, hlow, hpwr, hind, hsidx, hmem, fun hno => by simp [hno] at hwas, hpeaks⟩
  · have hkept : ((u.wr .audio 0 Reg.Audio.MUTED 1).irq .audio none 1).audio = s.mutedAudio := by simpa using haudio
    have hother {f : Fld} (hf : f.off ≠ 0x110) (hf' : f.off ≠ 0x010) (hl : f.lsb < 32) :
        ((u.wr .audio 0 Reg.Audio.MUTED 1).irq .audio none 1).rd .audio 0 f = u.rd .audio 0 f := by
      rw [State.rd_irq_none (regKey_ne_of_off (by simpa using hf') hl (by decide)), State.rd_wr_other _ _ (regKey_ne_of_off (by simpa using hf) hl (by decide))]
    rw [hkept]
    refine ⟨hmuted, hlow, hpwr, hind, hsidx, by simpa using hmem, fun _ => ⟨?_, State.irqSet_irq _ _ (by decide)⟩, fun c hc => ?_⟩
    · rw [State.rd_irq_none (by decide), State.rd_wr_self]
      rfl
    · obtain ⟨hplain, hgained⟩ := hpeaks c hc
      rw [hother (by simp; omega) (by simp; omega) (by simp), hother (by simp; omega) (by simp; omega) (by simp)]
      exact ⟨hplain, hgained⟩

/-- A channel marked as underrunning. -/
def State.markUnder (s : State) (c : Nat) : State := s.setAudio { s.audio with
  chans := SMap.set {} s.audio.chans c { SMap.get {} s.audio.chans c with under := true, resume := none } }

theorem exec_channelUnderrun (hc : c < 8) : exec (.channelUnderrun c) s = .next (if (SMap.get {} s.audio.chans c).under then s.markUnder c
    else ((s.markUnder c).wr .audio 0 Reg.Audio.UNDERRUN (or32 ((s.markUnder c).rd .audio 0 Reg.Audio.UNDERRUN) (2 ^ c))).irq .audio none 2) :=
  congrArg Host.Outcome.next (if_neg (by omega))

theorem channelUnderrun_leaves (hc : c < 8) : ∃ t, exec (.channelUnderrun c) s = .next t ∧ (SMap.get {} t.audio.chans c).under = true ∧
    (∀ k, k ≠ c → SMap.get {} t.audio.chans k = SMap.get {} s.audio.chans k) ∧ t.mem = s.mem ∧
    ((SMap.get {} s.audio.chans c).under = false → bitAt (t.rd .audio 0 Reg.Audio.UNDERRUN) c = true ∧ IrqSet t .audio 0 2) := by
  refine ⟨_, exec_channelUnderrun hc, ?_⟩
  have hself : (SMap.get {} (s.markUnder c).audio.chans c).under = true := congrArg ChanS.under (SMap.get_set_self ..)
  have hother (k : Nat) (hk : k ≠ c) : SMap.get {} (s.markUnder c).audio.chans k = SMap.get {} s.audio.chans k := SMap.get_set_other _ _ _ _ hk
  split
  · next hwas => exact ⟨hself, hother, rfl, fun hno => by simp [hno] at hwas⟩
  · refine ⟨by simpa using hself, by simpa using hother, by simp; rfl, fun _ => ⟨?_, State.irqSet_irq _ _ (by decide)⟩⟩
    rw [State.rd_irq_none (by decide), State.rd_wr_self]
    have hlt : 2 ^ c < 2 ^ 8 := Nat.pow_lt_pow_right (by decide) hc
    rw [bitAt_eq_testBit, Nat.testBit_mod_two_pow, ← bitAt_eq_testBit, bitAt_or32_self _ (by omega)]
    simpa using hc

end

/-- Settles O40: the mark of a channel, and the peaks and lamps under a mute, one register group at a time. -/
theorem channelsAndMute : Obligations.ChannelsAndMute := by
  unfold Obligations.ChannelsAndMute
  refine fun s => ⟨fun c hc => channelUnderrun_leaves hc, fun c hc hunder => ?_, muteAssert_leaves, fun hlow => ?_⟩
  · show execChannelResume c s = _
    simp [execChannelResume, hunder, Nat.not_le.mpr hc]
  · show execMuteRelease s = _
    simp [execMuteRelease, hlow]

end Sys2Proof.Machine
end

section
/-! The audio outputs (R305, R306). -/

namespace Sys2Proof.Machine

set_option Elab.async false

section
variable {s : State} {v : View} {w : Word} {port x : Nat}

/-- n frames of a port's period have been sent. -/
def State.setAoutCount (s : State) (port n : Nat) : State :=
  s.setAudio { s.audio with aoutCount := SMap.set 0 s.audio.aoutCount port n }

theorem aoutCount_setAoutCount {n : Nat} : SMap.get 0 (s.setAoutCount port n).audio.aoutCount port = n :=
  SMap.get_set_self 0 s.audio.aoutCount port n

theorem rd_setAoutCount {n b : Nat} {p : Page} {f : Fld} : (s.setAoutCount port n).rd p b f = s.rd p b f := rfl

/-! ### EN of a port -/

theorem noCfg_aout (off : Nat) : NoCfg Reg.Aout.all off := by
  have hall : ∀ f ∈ Reg.Aout.all, f.acc ≠ .cfg := by decide +kernel
  exact fun f hf _ => hall f hf

theorem viaBus_aout {x : Nat} (h : Reaches s v .aout (0x100 + 0x40 * port) 0) :
    s.viaBus v (0x084100 + 0x40 * port) 4 x (fun s _ _ o => s.aoutWrite o x) = s.aoutWrite (0x100 + 0x40 * port) x := by
  have haddr : 0x084100 + 0x40 * port = Page.aout.base + (0x100 + 0x40 * port) := by
    show _ = 0x084000 + _
    omega
  rw [haddr]
  exact State.viaBus_of_reaches h (by simp) _ _

theorem exec_aoutEnable (hp : port < 2) (h : Reaches s v .aout (0x100 + 0x40 * port) 0) :
    exec (.aoutEnable v port w) s = .next (s.aoutWrite (0x100 + 0x40 * port) (setField w.toNat 10 1 1)) := by
  have hport : ¬ 2 ≤ port := by omega
  exact congrArg Host.Outcome.next ((if_neg hport).trans (viaBus_aout h))

theorem aoutWrite_enable {u : State} (hp : port < 2) (hoff : s.rdB .aout 0 (Reg.Aout.EN port) = false) (hx : bitAt x 10 = true)
    (hu : u = s.wrFields .aout 0 (0x100 + 0x40 * port) (setField x 10 1 0) Reg.Aout.all) :
    s.aoutWrite (0x100 + 0x40 * port) x = if u.aoutOk port then
      (u.wr .aout 0 (Reg.Aout.EN port) 1).setAoutCount port 0
    else u.errCount .aout 0 0 1 := by
  have hblock : ¬ (0x100 + 0x40 * port < 0x100 ∨ 0x180 ≤ 0x100 + 0x40 * port) := by omega
  have hport : (0x100 + 0x40 * port - 0x100) / 0x40 = port := by omega
  have hrel : (0x100 + 0x40 * port) % 0x40 = 0 := by omega
  unfold State.aoutWrite
  rw [if_neg hblock]
  dsimp only
  rw [hport, hrel, hoff, if_neg (by decide), if_pos rfl, hx, ← hu, if_neg (by decide)]
  rfl

theorem aoutEnable_clauses {u : State} (hp : port < 2) (h : Reaches s v .aout (0x100 + 0x40 * port) 0)
    (hoff : s.rdB .aout 0 (Reg.Aout.EN port) = false)
    (hu : u = s.wrFields .aout 0 (0x100 + 0x40 * port) (setField (setField w.toNat 10 1 1) 10 1 0) Reg.Aout.all) :
    (u.aoutOk port = true → ∃ t, exec (.aoutEnable v port w) s = .next t ∧ t.rd .aout 0 (Reg.Aout.EN port) = 1 ∧
      SMap.get 0 t.audio.aoutCount port = 0 ∧ t.mem = s.mem) ∧
    (u.aoutOk port = false → exec (.aoutEnable v port w) s = .next (u.errCount .aout 0 0 1)) := by
  rw [exec_aoutEnable hp h, aoutWrite_enable hp hoff (bitAt_setField_one w.toNat 10) hu]
  refine ⟨fun hok => ⟨_, rfl, ?_⟩, fun hbad => by rw [hbad]; rfl⟩
  have hmem : u.mem = s.mem := by
    rw [hu]
    exact (congrArg State.mem (wrFields_regsOnly (noCfg_aout _)) :)
  rw [if_pos hok]
  refine ⟨?_, aoutCount_setAoutCount, hmem⟩
  rw [rd_setAoutCount, State.rd_wr_self]
  rfl

/-! ### Frames -/

/-- One more frame of the period is sent. -/
def State.aoutCounted (s : State) (port : Nat) : State := s.setAoutCount port (SMap.get 0 s.audio.aoutCount port + 1)

theorem exec_aoutFrame_empty (hp : port < 2) (hon : s.domOn 24 = true) (hen : s.rdB .aout 0 (Reg.Aout.EN port) = true)
    (heq : s.rd .aout 0 (Reg.Aout.RD port) = s.rd .aout 0 (Reg.Aout.WR port)) : exec (.aoutFrame port) s = .next
      (State.aoutCounted ((s.count .aout 0 (Reg.Aout.UNDERFLOW port) (Reg.Aout.UNDERFLOW_SAT port) 1).emit
        (.audioFrame port (List.replicate (s.aoutSlots port) 0))) port) := by
  have hgo : ¬ (decide (2 ≤ port) || !s.domOn 24 || !s.rdB .aout 0 (Reg.Aout.EN port)) = true := by simp [hon, hen, hp]
  exact congrArg Host.Outcome.next ((if_neg hgo).trans ((if_pos heq).trans rfl))

/-- Address of the ring frame that RD of a port names. -/
def State.aoutAddr (s : State) (port : Nat) : Nat := s.rd2 .aout 0 (Reg.Aout.SRC_LO port) (Reg.Aout.SRC_HI port) +
  s.rd .aout 0 (Reg.Aout.RD port) * s.aoutSlots port * (if s.rdB .aout 0 (Reg.Aout.DATA_W port) then 4 else 2)

/-- RD after the frame that it names has been sent. -/
def State.aoutNext (s : State) (port : Nat) : Nat :=
  if s.rd .aout 0 (Reg.Aout.FRAMES port) ≤ s.rd .aout 0 (Reg.Aout.RD port) + 1 then 0 else s.rd .aout 0 (Reg.Aout.RD port) + 1

/-- The slots of the frame at an address, sz bytes each. -/
theorem frame_samples (s : State) (addr n sz k : Nat) :
    (List.range n).map (fun i => leNat (sliceBytes (s.bytes addr (n * sz)) (i * sz) sz) / k) =
      (List.range n).map fun i => s.num (addr + i * sz) sz / k := by
  refine List.map_congr_left fun i hi => ?_
  have hin : i * sz + sz ≤ n * sz := by
    have := Nat.mul_le_mul_right sz (List.mem_range.mp hi)
    rwa [Nat.succ_mul] at this
  rw [sliceBytes_bytes _ _ _ _ hin, State.num]

theorem exec_aoutFrame_next (hp : port < 2) (hon : s.domOn 24 = true) (hen : s.rdB .aout 0 (Reg.Aout.EN port) = true)
    (hne : s.rd .aout 0 (Reg.Aout.RD port) ≠ s.rd .aout 0 (Reg.Aout.WR port)) (hmem : s.domOn (memDomain (s.aoutAddr port)) = true)
    (hups : s.upsets = []) : exec (.aoutFrame port) s = .next
      (State.aoutCounted ((s.wr .aout 0 (Reg.Aout.RD port) (s.aoutNext port)).emit (.audioFrame port ((List.range (s.aoutSlots port)).map fun i =>
        s.num (s.aoutAddr port + i * (if s.rdB .aout 0 (Reg.Aout.DATA_W port) then 4 else 2)) (if s.rdB .aout 0 (Reg.Aout.DATA_W port) then 4 else 2) /
          (if s.rdB .aout 0 (Reg.Aout.DATA_W port) then 256 else 1)))) port) := by
  have hgo : ¬ (decide (2 ≤ port) || !s.domOn 24 || !s.rdB .aout 0 (Reg.Aout.EN port)) = true := by simp [hon, hen, hp]
  have hwake : s.wakeAll [memDomain (s.aoutAddr port)] = (s, true) := State.wakeAll_of_allOn (by simpa using hmem)
  have hdata := State.meetData_of_noUpsets hups (s.aoutAddr port)
    (s.aoutSlots port * (if s.rdB .aout 0 (Reg.Aout.DATA_W port) then 4 else 2))
  rw [← frame_samples]
  refine congrArg Host.Outcome.next ((if_neg hgo).trans ((if_neg hne).trans ?_))
  extract_lets sz addr
  split
  next s0 on e0 =>
  obtain ⟨rfl, rfl⟩ := Prod.mk.inj (hwake.symm.trans e0)
  refine (if_neg (by decide)).trans ?_
  split
  next s1 b e1 =>
  obtain ⟨rfl, rfl⟩ := Prod.mk.inj (hdata.symm.trans e1)
  rfl

theorem regKey_aout_ne {f g : Fld} (hf : f.lsb < 32) (hg : g.lsb < 32) (h : f.off ≠ g.off) : regKey .aout 0 f ≠ regKey .aout 0 g :=
  regKey_ne_of_off h hf hg

theorem exec_aoutPeriodSignal (hp : port < 2) {per n : Nat} (hper : per = s.rd .aout 0 (Reg.Aout.PERIOD port)) (h0 : per ≠ 0)
    (hn : n = SMap.get 0 s.audio.aoutCount port) (hle : per ≤ n) : exec (.aoutPeriodSignal port) s = .next
      (let s1 := s.setAoutCount port (n - per)
      if s.rdB .aout 0 (Reg.Aout.SIG_EN port) then s1.signalTally (s.rd .aout 0 (Reg.Aout.TALLY port)) 1 else s1) := by
  subst hper hn
  refine congrArg Host.Outcome.next ?_
  dsimp only
  rw [if_neg (by simp [hp, h0, hle])]
  rfl

end

/-- Settles O41: each command of a port is one equation, and the registers of a port lie apart. -/
theorem audioOutputs : Obligations.AudioOutputs := by
  unfold Obligations.AudioOutputs
  refine ⟨fun s v port w u hp h hoff hu => aoutEnable_clauses hp h hoff hu, fun s port hp => ⟨?_, ?_⟩⟩
  · rintro n rd sz addr hon hen rfl rfl rfl haddr
    refine ⟨fun heq => ⟨_, exec_aoutFrame_empty hp hon hen heq, ?_⟩, fun hne hmem hups => ?_⟩
    · refine ⟨by simp [State.aoutCounted, State.setAoutCount, State.emit, State.setAudio], ?_, ?_, by simp [State.aoutCounted, State.setAoutCount]⟩
      · rw [State.aoutCounted, rd_setAoutCount, State.rd_emit, State.rd_count_self (by simp [regKey]) rfl]
      · rw [State.aoutCounted, rd_setAoutCount, State.rd_emit, State.rd_count_other (regKey_aout_ne (by simp) (by simp) (by simp))
          (regKey_aout_ne (by simp) (by simp) (by simp))]
    · subst haddr
      refine ⟨_, exec_aoutFrame_next hp hon hen hne hmem hups, rfl, ?_, ?_, rfl⟩
      · rw [State.aoutCounted, rd_setAoutCount, State.rd_emit, State.rd_wr_self]
        rfl
      · exact aoutCount_setAoutCount
  · intro per hper h0 hle
    refine ⟨_, exec_aoutPeriodSignal hp hper h0 rfl hle, ?_⟩
    dsimp only
    generalize hu : s.setAoutCount port (SMap.get 0 s.audio.aoutCount port - per) = u
    have hcount : SMap.get 0 u.audio.aoutCount port = SMap.get 0 s.audio.aoutCount port - per := by
      rw [← hu]
      exact aoutCount_setAoutCount
    have htal : u.tallies = s.tallies := by rw [← hu]; rfl
    have hws : u.waiters = s.waiters := by rw [← hu]; rfl
    have hmem : u.mem = s.mem := by rw [← hu]; rfl
    split
    · have hsig : Frame signalParts u (u.signalTally (s.rd .aout 0 (Reg.Aout.TALLY port)) 1) := Frame.signalTally
      have haudio : (u.signalTally (s.rd .aout 0 (Reg.Aout.TALLY port)) 1).audio.aoutCount = u.audio.aoutCount := by
        have hrest : { (u.signalTally (s.rd .aout 0 (Reg.Aout.TALLY port)) 1).audio with openMix := [] } = { u.audio with openMix := [] } :=
          hsig.same .audioRest (by decide)
        exact (congrArg AudioS.aoutCount hrest :)
      exact ⟨by rw [haudio, hcount], State.signalTally_tallies_congr htal hws, (hsig.same .mem (by decide)).trans hmem⟩
    · exact ⟨hcount, htal, hmem⟩

end Sys2Proof.Machine
end

section
/-! The events of the wake detectors, and the raises that they make (R302, R326). -/

namespace Sys2Proof.Machine

set_option Elab.async false

section
variable {s : State} {e i : Nat} {r : Raise} {l : List Raise}

/-! ### Raises -/

theorem length_insRaise : (insRaise r l).length = l.length + 1 := by
  induction l with
  | nil => rfl
  | cons q t ih =>
    unfold insRaise
    split
    · rfl
    · simp [ih]

theorem mem_insRaise {x : Raise} : x ∈ insRaise r l ↔ x = r ∨ x ∈ l := by
  induction l with
  | nil => simp [insRaise]
  | cons q t ih =>
    unfold insRaise
    split
    · simp
    · simp only [List.mem_cons, ih]
      tauto

/-- Whether a raise is that of a record by the events of a block close. -/
def Raise.ofClose (sidx record : Nat) (r : Raise) : Bool := r.origin == 15 && r.sidx == sidx && r.record == record

/-- The raise of a record by a block close takes one more event of that close. -/
def Raise.join (sidx record e : Nat) (r : Raise) : Raise :=
  if Raise.ofClose sidx record r then { r with events := or32 r.events (2 ^ e) } else r

theorem raiseEvent_eq : s.raiseEvent e i =
    if !s.rdB .liftPage 0 (Reg.Lift.EN e) then s
    else if s.power.raises.any (Raise.ofClose i (s.rd .liftPage 0 (Reg.Lift.RECORD e))) then
      { s with power := { s.power with raises := s.power.raises.map (Raise.join i (s.rd .liftPage 0 (Reg.Lift.RECORD e)) e) } }
    else s.raise { record := s.rd .liftPage 0 (Reg.Lift.RECORD e), events := 2 ^ e, origin := 15, sidx := i } := rfl

theorem raiseEvent_regs : (s.raiseEvent e i).regs = s.regs := Frame.raiseEvent.same .regs (by decide)

theorem length_raiseEvent : (s.raiseEvent e i).power.raises.length = s.power.raises.length +
    b2n (s.rdB .liftPage 0 (Reg.Lift.EN e) && !(s.power.raises.any (Raise.ofClose i (s.rd .liftPage 0 (Reg.Lift.RECORD e))))) := by
  rw [raiseEvent_eq]
  cases hen : s.rdB .liftPage 0 (Reg.Lift.EN e) with
  | false => rfl
  | true =>
    rw [if_neg (by decide)]
    split
    · next hany => simp [hany, b2n]
    · next hany => simp [hany, b2n, State.raise, length_insRaise]

/-- The record that an enabled event names is raised, with the event among its events. -/
theorem raiseEvent_raises (he : e < 32) (hen : s.rdB .liftPage 0 (Reg.Lift.EN e) = true) : ∃ r ∈ (s.raiseEvent e i).power.raises,
    r.origin = 15 ∧ r.sidx = i ∧ r.record = s.rd .liftPage 0 (Reg.Lift.RECORD e) ∧ bitAt r.events e = true := by
  rw [raiseEvent_eq, if_neg (by simp [hen])]
  split
  · next hany =>
    obtain ⟨r, hr, hsame⟩ := List.any_eq_true.mp hany
    refine ⟨{ r with events := or32 r.events (2 ^ e) }, List.mem_map.mpr ⟨r, hr, by rw [Raise.join, if_pos hsame]⟩, ?_⟩
    simp only [Raise.ofClose, Bool.and_eq_true, beq_iff_eq] at hsame
    exact ⟨hsame.1.1, hsame.1.2, hsame.2, bitAt_or32_self _ he⟩
  · refine ⟨_, mem_insRaise.mpr (.inl rfl), rfl, rfl, rfl, ?_⟩
    show bitAt (2 ^ e) e = true
    rw [bitAt_eq_testBit, Nat.testBit_two_pow_self]

/-! ### An event fires -/

theorem bitAt_clr32_self (x : Nat) (he : e < 32) : bitAt (clr32 x (2 ^ e)) e = false := by
  rw [bitAt_eq_testBit, clr32, ← BitVec.getLsbD]
  simp only [BitVec.getLsbD_and, BitVec.getLsbD_not, BitVec.getLsbD_ofNat, Nat.testBit_two_pow_self, he, decide_true, Bool.and_true,
    Bool.not_true, Bool.and_false]

/-- The event has left what waits to fire. -/
def State.eventTaken (s : State) (e : Nat) : State := s.setAudio { s.audio with due := clr32 s.audio.due (2 ^ e) }

/-- The event shows in the registers, before its raise. -/
def State.eventShown (s : State) (e : Nat) : State :=
  (((s.eventTaken e).wr .audio 0 Reg.Audio.DET_EVT (or32 ((s.eventTaken e).rd .audio 0 Reg.Audio.DET_EVT) (2 ^ e))).wr2 .audio 0
    Reg.Audio.DET_SIDX_LO Reg.Audio.DET_SIDX_HI s.audio.dueSidx).irq .audio none 0

theorem fireEvent_of_due (hdue : bitAt s.audio.due e = true) :
    s.fireEvent e = if s.audio.muted then s.eventTaken e else (s.eventShown e).raiseEvent e s.audio.dueSidx :=
  if_neg (by simp [hdue])

theorem eventShown_registers (he : e < 5) : bitAt ((s.eventShown e).rd .audio 0 Reg.Audio.DET_EVT) e = true ∧
    (s.eventShown e).rd2 .audio 0 Reg.Audio.DET_SIDX_LO Reg.Audio.DET_SIDX_HI = s.audio.dueSidx % 2 ^ 64 ∧
    IrqSet (s.eventShown e) .audio 0 0 := by
  unfold State.eventShown
  generalize s.audio.dueSidx = n
  refine ⟨?_, ?_, State.irqSet_irq _ _ (by decide)⟩
  · rw [State.rd_irq_none (by decide), State.wr2, State.rd_wr_other _ _ (by decide), State.rd_wr_other _ _ (by decide), State.rd_wr_self,
      bitAt_eq_testBit, Nat.testBit_mod_two_pow, ← bitAt_eq_testBit, bitAt_or32_self _ (by omega)]
    simpa using he
  · rw [State.rd2, State.rd_irq_none (by decide), State.rd_irq_none (by decide), State.wr2, State.rd_wr_self,
      State.rd_wr_other _ _ (by decide), State.rd_wr_self]
    show n % 2 ^ 32 + n / 2 ^ 32 % 2 ^ 32 * 2 ^ 32 = n % 2 ^ 64
    omega

theorem rd_eventShown_lift {f : Fld} (hoff : f.off < 0x1000) (hlsb : f.lsb < 32) :
    (s.eventShown e).rd .liftPage 0 f = s.rd .liftPage 0 f := by
  have hne (g : Fld) (hg : g.off < 0x1000) (hgl : g.lsb < 32) : regKey .liftPage 0 f ≠ regKey .audio 0 g := by
    simp only [regKey, Page.base]
    omega
  unfold State.eventShown
  rw [State.rd_irq_none (hne _ (by decide) (by decide)), State.wr2, State.rd_wr_other _ _ (hne _ (by decide) (by decide)),
    State.rd_wr_other _ _ (hne _ (by decide) (by decide)), State.rd_wr_other _ _ (hne _ (by decide) (by decide))]
  rfl

theorem eventShown_keeps : (s.eventShown e).audio = (s.eventTaken e).audio ∧ (s.eventShown e).power = s.power ∧
    (s.eventShown e).mem = s.mem := by
  unfold State.eventShown State.wr2
  simp [State.eventTaken]

theorem fireEvent_leaves (he : e < 5) (hdue : bitAt s.audio.due e = true) (hmute : s.audio.muted = false) :
    bitAt ((s.fireEvent e).rd .audio 0 Reg.Audio.DET_EVT) e = true ∧
    (s.fireEvent e).rd2 .audio 0 Reg.Audio.DET_SIDX_LO Reg.Audio.DET_SIDX_HI = s.audio.dueSidx % 2 ^ 64 ∧ IrqSet (s.fireEvent e) .audio 0 0 ∧
    bitAt (s.fireEvent e).audio.due e = false ∧
    (s.fireEvent e).power.raises.length = s.power.raises.length + b2n (s.rdB .liftPage 0 (Reg.Lift.EN e) && !(s.power.raises.any fun r =>
      r.origin == 15 && r.sidx == s.audio.dueSidx && r.record == s.rd .liftPage 0 (Reg.Lift.RECORD e))) ∧
    (s.rdB .liftPage 0 (Reg.Lift.EN e) = true → ∃ r ∈ (s.fireEvent e).power.raises, r.origin = 15 ∧ r.sidx = s.audio.dueSidx ∧
      r.record = s.rd .liftPage 0 (Reg.Lift.RECORD e) ∧ bitAt r.events e = true) ∧
    (s.fireEvent e).mem = s.mem := by
  rw [fireEvent_of_due hdue, hmute, if_neg (by decide)]
  obtain ⟨hevt, hsidx, hirq⟩ := eventShown_registers (s := s) he
  obtain ⟨haudio, hpower, hmem⟩ := eventShown_keeps (s := s) (e := e)
  have hen : (s.eventShown e).rdB .liftPage 0 (Reg.Lift.EN e) = s.rdB .liftPage 0 (Reg.Lift.EN e) := by
    rw [State.rdB, rd_eventShown_lift (by show 0x100 + 4 * e < _; omega) (by simp)]
    rfl
  have hrec : (s.eventShown e).rd .liftPage 0 (Reg.Lift.RECORD e) = s.rd .liftPage 0 (Reg.Lift.RECORD e) :=
    rd_eventShown_lift (by show 0x100 + 4 * e < _; omega) (by simp)
  generalize s.eventShown e = u at *
  generalize s.audio.dueSidx = n at *
  have hregs (q : Page) (b : Nat) (f : Fld) : (u.raiseEvent e n).rd q b f = u.rd q b f := State.rd_of_regs raiseEvent_regs q b f
  have haud : (u.raiseEvent e n).audio.due = u.audio.due := by
    have hrest : { (u.raiseEvent e n).audio with openMix := [] } = { u.audio with openMix := [] } := Frame.raiseEvent.same .audioRest (by decide)
    exact (congrArg AudioS.due hrest :)
  refine ⟨by rw [hregs]; exact hevt, by rw [State.rd2, hregs, hregs]; exact hsidx, by rw [IrqSet, hregs]; exact hirq, ?_, ?_, ?_,
    (Frame.raiseEvent.same .mem (by decide)).trans hmem⟩
  · rw [haud, haudio]
    exact bitAt_clr32_self _ (by omega)
  · rw [length_raiseEvent, hpower, hen, hrec]
    rfl
  · intro h
    rw [← hrec]
    exact raiseEvent_raises (by omega) (hen.trans h)

end

/-- Settles O37: each of the five commands fires the event of its bit. -/
theorem detectorEvents : Obligations.DetectorEvents := by
  unfold Obligations.DetectorEvents
  intro s c e hc hdue
  have hexec : exec c s = .next (s.fireEvent e) ∧ e < 5 := by
    simp only [List.mem_cons, Prod.mk.injEq, List.not_mem_nil, or_false] at hc
    rcases hc with ⟨rfl, rfl⟩ | ⟨rfl, rfl⟩ | ⟨rfl, rfl⟩ | ⟨rfl, rfl⟩ | ⟨rfl, rfl⟩ <;> exact ⟨rfl, by decide⟩
  refine ⟨fun hmute => ⟨_, hexec.1, fireEvent_leaves hexec.2 hdue hmute⟩, fun hmute => ?_⟩
  rw [hexec.1, fireEvent_of_due hdue, hmute]
  rfl

end Sys2Proof.Machine
end

section
/-! The high-quality path and the calibration image (R289, R296). -/

namespace Sys2Proof.Machine

set_option Elab.async false

section
variable {s : State} {v : View} {w : Word} {off x : Nat}

theorem audioReg_of_reaches (h : Reaches s v .audio off 0) : s.audioReg v off x = s.audioWrite off x :=
  State.viaBus_of_reaches h (by simp) x fun s _ _ o => s.audioWrite o x

theorem noCfg_audio (off : Nat) : NoCfg Reg.Audio.all off := by
  have hall : ∀ f ∈ Reg.Audio.all, f.acc ≠ .cfg := by decide +kernel
  exact fun f hf _ => hall f hf

theorem lsb_audio : ∀ f ∈ Reg.Audio.all, f.lsb < 32 := by decide +kernel

theorem wrFields_audio_regsOnly : { s.wrFields .audio 0 off x Reg.Audio.all with regs := s.regs } = s := wrFields_regsOnly (noCfg_audio _)

/-! ### HQ_EN -/

theorem wrFields_hq : s.wrFields .audio 0 0x100 x Reg.Audio.all =
    ((((s.wr .audio 0 Reg.Audio.CH_EN (field x 0 8)).wr .audio 0 Reg.Audio.HQ_CH_EN (field x 8 8)).wr .audio 0 Reg.Audio.HQ_EN
      (field x 16 1)).wr .audio 0 Reg.Audio.SUMP_WIPE (field x 17 1)).wr .audio 0 Reg.Audio.SETTLE (field x 24 8) := by
  have hmine : Reg.Audio.all.filter (fun f => f.off == 0x100) =
      [Reg.Audio.CH_EN, Reg.Audio.HQ_CH_EN, Reg.Audio.HQ_EN, Reg.Audio.SUMP_WIPE, Reg.Audio.SETTLE] := by decide +kernel
  simp [State.wrFields, hmine]

theorem rd_wrFields_hq : (s.wrFields .audio 0 0x100 x Reg.Audio.all).rd .audio 0 Reg.Audio.HQ_EN = field x 16 1 ∧
    (s.wrFields .audio 0 0x100 x Reg.Audio.all).rd .audio 0 Reg.Audio.CH_EN = field x 0 8 := by
  rw [wrFields_hq]
  simp (disch := decide) only [State.rd_wr_other, State.rd_wr_self]
  exact ⟨Nat.mod_mod .., Nat.mod_mod ..⟩

theorem not_wakeKeys_audio {f : Fld} (hoff : f.off < 0x1000) (hlsb : f.lsb < 32) : ¬ wakeKeys (regKey .audio 0 f) := by
  simp only [wakeKeys, powerKeys, keyPage, keyOff, regKey, Page.base]
  omega

theorem rd_hqOn {f : Fld} (hoff : f.off < 0x1000) (hlsb : f.lsb < 32) : s.hqOn.rd .audio 0 f = s.rd .audio 0 f := by
  unfold State.hqOn
  split
  · rfl
  · exact RegsIn.wake.rd_eq (not_wakeKeys_audio hoff hlsb)

theorem audioWrite_hqStart (hwas : s.rdB .audio 0 Reg.Audio.HQ_EN = false) (hx : bitAt x 16 = true) :
    s.audioWrite 0x100 x = (s.wrFields .audio 0 0x100 x Reg.Audio.all).hqOn := by
  simp [State.audioWrite, hwas, hx]

theorem audioWrite_hqStop (hwas : s.rdB .audio 0 Reg.Audio.HQ_EN = true) (hx : bitAt x 16 = false) :
    s.audioWrite 0x100 x = (s.wrFields .audio 0 0x100 x Reg.Audio.all).setAudio
      { (s.wrFields .audio 0 0x100 x Reg.Audio.all).audio with hqReady := none } := by
  simp [State.audioWrite, hwas, hx]

theorem exec_hqStart (h : Reaches s v .audio 0x100 0) : exec (.hqStart v w) s = .next (s.audioWrite 0x100 (setField w.toNat 16 1 1)) :=
  congrArg Host.Outcome.next (audioReg_of_reaches h)

theorem exec_hqStop (h : Reaches s v .audio 0x100 0) : exec (.hqStop v w) s = .next (s.audioWrite 0x100 (setField w.toNat 16 1 0)) :=
  congrArg Host.Outcome.next (audioReg_of_reaches h)

theorem hqStart_leaves (h : Reaches s v .audio 0x100 0) (hwas : s.rdB .audio 0 Reg.Audio.HQ_EN = false) :
    ∃ t, exec (.hqStart v w) s = .next t ∧ t.rdB .audio 0 Reg.Audio.HQ_EN = true ∧ t.rd .audio 0 Reg.Audio.CH_EN = field w.toNat 0 8 ∧
      (s.domOn 24 = true → t.audio.hqReady = some s.audio.sidx) ∧ t.mem = s.mem := by
  refine ⟨_, exec_hqStart h, ?_⟩
  have hbit := bitAt_setField_one w.toNat 16
  have hch : field (setField w.toNat 16 1 1) 0 8 = field w.toNat 0 8 := field_setField_of_disjoint (by decide)
  have hen : field (setField w.toNat 16 1 1) 16 1 = 1 := field_setField_self ..
  rw [audioWrite_hqStart hwas hbit, ← hch]
  generalize setField w.toNat 16 1 1 = x at hen ⊢
  obtain ⟨hrd, hrdch⟩ := rd_wrFields_hq (s := s) (x := x)
  have honly := wrFields_audio_regsOnly (s := s) (off := 0x100) (x := x)
  generalize s.wrFields .audio 0 0x100 x Reg.Audio.all = u at *
  have hmem : u.mem = s.mem := (congrArg State.mem honly :)
  refine ⟨?_, ?_, fun hon => ?_, ?_⟩
  · rw [State.rdB, rd_hqOn (by decide) (by decide), hrd, hen]
    rfl
  · rw [rd_hqOn (by decide) (by decide), hrdch]
  · have honu : u.domOn 24 = true := by
      rw [← hon]
      exact (congrArg (fun t : State => t.domOn 24) honly :)
    have hsidx : u.audio.sidx = s.audio.sidx := (congrArg (fun t : State => t.audio.sidx) honly :)
    rw [State.hqOn, if_pos honu, State.audio_setAudio, hsidx]
  · rw [← hmem]
    exact Frame.hqOn.same .mem (by decide)

theorem hqStop_leaves (h : Reaches s v .audio 0x100 0) (hwas : s.rdB .audio 0 Reg.Audio.HQ_EN = true) :
    ∃ t, exec (.hqStop v w) s = .next t ∧ t.rdB .audio 0 Reg.Audio.HQ_EN = false ∧ t.audio.hqReady = none ∧ t.power = s.power ∧
      t.mem = s.mem := by
  refine ⟨_, exec_hqStop h, ?_⟩
  have hen : field (setField w.toNat 16 1 0) 16 1 = 0 := field_setField_self ..
  rw [audioWrite_hqStop hwas (bitAt_setField_zero w.toNat 16)]
  generalize setField w.toNat 16 1 0 = x at hen ⊢
  have honly := wrFields_audio_regsOnly (s := s) (off := 0x100) (x := x)
  refine ⟨?_, rfl, (congrArg State.power honly :), (congrArg State.mem honly :)⟩
  rw [State.rdB, State.rd_setAudio, rd_wrFields_hq.1, hen]
  rfl

/-! ### CAL_LOAD -/

theorem exec_calLoad (h : Reaches s v .audio 0x124 0) : exec (.calLoad v w) s = .next (s.audioWrite 0x124 (setField w.toNat 31 1 1)) :=
  congrArg Host.Outcome.next (audioReg_of_reaches h)

theorem audioWrite_calLoad (hx : bitAt x 31 = true) : s.audioWrite 0x124 x = (s.wrFields .audio 0 0x124 x Reg.Audio.all).calCheck := by
  simp [State.audioWrite, hx]

/-- The state once an image that stands in memory has been checked (R289 step 3). -/
def State.calChecked (s : State) : Option Cal → State
  | some c => s.setAudio { s.audio with calNext := some c }
  | none => s.calBad

theorem calCheck_of_domOn {addr : Nat} (haddr : addr = s.rd .audio 0 Reg.Audio.CAL_LO + s.rd .audio 0 Reg.Audio.CAL_HI * 2 ^ 32)
    (hlt : addr < transBase) (hon : s.domOn (memDomain addr) = true) (hups : s.upsets = []) :
    s.calCheck = s.calChecked (parseCal (s.bytes addr 0x800)) := by
  have hwake : s.wakeAll [memDomain addr] = (s, true) := State.wakeAll_of_allOn (by simpa using hon)
  have hdata := State.meetData_of_noUpsets hups addr 0x800
  unfold State.calCheck
  rw [← haddr, if_neg (by omega)]
  split
  next s1 on e0 =>
  obtain ⟨rfl, rfl⟩ := Prod.mk.inj (hwake.symm.trans e0)
  refine (if_neg (by decide)).trans ?_
  split
  next s2 b e1 =>
  obtain ⟨rfl, rfl⟩ := Prod.mk.inj (hdata.symm.trans e1)
  cases parseCal (s.bytes addr 0x800) <;> rfl

theorem calBad_leaves : s.calBad.audio = s.audio ∧ s.calBad.rd .audio 0 Reg.Audio.CAL_BAD = 1 ∧ IrqSet s.calBad .audio 0 3 ∧ s.calBad.mem = s.mem := by
  unfold State.calBad
  refine ⟨by simp, ?_, State.irqSet_irq _ _ (by decide), by simp⟩
  rw [State.rd_irq_none (by decide), State.rd_wr_self]
  rfl

/-- The check of an image leaves audio as it was but for the image that waits. -/
theorem exec_calLoad_checked (h : Reaches s v .audio 0x124 0) {addr : Nat} {u : State}
    (hu : u = s.wrFields .audio 0 0x124 (setField w.toNat 31 1 1) Reg.Audio.all)
    (haddr : addr = u.rd .audio 0 Reg.Audio.CAL_LO + u.rd .audio 0 Reg.Audio.CAL_HI * 2 ^ 32) (hlt : addr < transBase)
    (hon : s.domOn (memDomain addr) = true) (hups : s.upsets = []) :
    exec (.calLoad v w) s = .next (u.calChecked (parseCal (s.bytes addr 0x800))) ∧ u.audio = s.audio ∧ u.mem = s.mem := by
  have honly := wrFields_audio_regsOnly (s := s) (off := 0x124) (x := setField w.toNat 31 1 1)
  rw [← hu] at honly
  have hmem : u.mem = s.mem := (congrArg State.mem honly :)
  have hbytes : u.bytes addr 0x800 = s.bytes addr 0x800 := by rw [State.bytes, State.bytes, hmem]
  have hcheck := calCheck_of_domOn haddr hlt ((congrArg (fun t : State => t.domOn (memDomain addr)) honly :).trans hon)
    ((congrArg State.upsets honly :).trans hups)
  have hexec := exec_calLoad (w := w) h
  rw [audioWrite_calLoad (bitAt_setField_one w.toNat 31), ← hu, hcheck, hbytes] at hexec
  exact ⟨hexec, (congrArg State.audio honly :), hmem⟩

end

/-- Settles O39: the three writes of the AUDIO page, one equation each. -/
theorem highQualityAndCalibration : Obligations.HighQualityAndCalibration := by
  unfold Obligations.HighQualityAndCalibration
  refine fun s v w => ⟨fun h hwas => hqStart_leaves h hwas, fun h hwas => hqStop_leaves h hwas, fun h addr u hu haddr hlt hon hups => ?_⟩
  obtain ⟨hexec, haudio, hmem⟩ := exec_calLoad_checked h hu haddr hlt hon hups
  generalize parseCal (s.bytes addr 0x800) = image at hexec ⊢
  refine ⟨_, hexec, ?_⟩
  cases image with
  | some c => exact ⟨rfl, fun hno => (Option.some_ne_none c hno).elim, (congrArg AudioS.cal haudio :), hmem⟩
  | none =>
    obtain ⟨hkept, hbad, hirq, hmem'⟩ := calBad_leaves (s := u)
    exact ⟨congrArg AudioS.calNext (hkept.trans haudio), fun _ => ⟨hbad, hirq⟩, congrArg AudioS.cal (hkept.trans haudio), hmem'.trans hmem⟩

end Sys2Proof.Machine
end

section
/-! Samples and the close of a block (R285, R288 to R292, R303). -/

namespace Sys2Proof.Machine

set_option Elab.async false

section
variable {s t : State} {c : Nat}

/-! ### Samples -/

/-- The audio part without the channels' filters. -/
def AudioS.sansChans (x : AudioS) : AudioS := { x with chans := [] }

theorem AudioS.of_sansChans {x y : AudioS} (h : y.sansChans = x.sansChans) : y.sidx = x.sidx ∧ y.openMix = x.openMix ∧
    y.openLanes = x.openLanes ∧ y.sump = x.sump :=
  ⟨(congrArg AudioS.sidx h :), (congrArg AudioS.openMix h :), (congrArg AudioS.openLanes h :), (congrArg AudioS.sump h :)⟩

theorem resumeDue_sansChans : s.resumeDue.audio.sansChans = s.audio.sansChans := by
  refine List.foldlRecOn (List.range 8) _ (motive := fun t : State => t.audio.sansChans = s.audio.sansChans) rfl fun t ht c _ => ?_
  dsimp only
  split
  · split
    · simpa [AudioS.sansChans] using ht
    · exact ht
  · exact ht

theorem nth_map_range {α : Type} (d : α) (f : Nat → α) {n : Nat} (hc : c < n) : nth d ((List.range n).map f) c = f c := by
  simp [nth, hc]

/-- What a sample leaves of the block that it joins. -/
structure SampleJoins (x y : AudioS) : Prop where
  sidx : y.sidx = (x.sidx + 1) % 2 ^ 64
  mix : y.openMix.length = x.openMix.length + 1
  lanes : ∀ c, c < 8 → (nth [] y.openLanes c).length = (nth [] x.openLanes c).length + 1
  sump : y.sump = x.sump

theorem pcmSample_audio {bits : List (List Bool)} (h : s.audio.openMix.length < 256) :
    ∃ t, exec (.pcmSample bits) s = .next t ∧ SampleJoins s.resumeDue.audio t.audio := by
  refine ⟨_, congrArg Host.Outcome.next (if_neg (by omega)), ?_⟩
  extract_lets s0 x hqOn hqEn r word live mix under x1 s1
  have hx1 : SampleJoins x x1 := {
    sidx := rfl
    mix := by simp [x1]
    lanes := fun c hc => by
      show (nth [] ((List.range 8).map fun c => nth [] x.openLanes c ++ [word (nth ({}, 0, 0, [], false) r c)]) c).length = _
      rw [nth_map_range [] _ hc]
      simp
    sump := rfl }
  have hs1 : s1.audio = x1 := State.errCount_audio ..
  have hjoins : SampleJoins x s1.audio := by
    rw [hs1]
    exact hx1
  clear_value s1
  split
  · exact hjoins
  · exact hjoins

theorem pcmSample_leaves {bits : List (List Bool)} (h : s.audio.openMix.length < 256) :
    ∃ t, exec (.pcmSample bits) s = .next t ∧ SampleJoins s.audio t.audio ∧ t.mem = s.mem := by
  obtain ⟨t, hexec, hsidx, hmix, hlanes, hsump⟩ := pcmSample_audio (bits := bits) h
  obtain ⟨u, hgoes, hframe⟩ := Frame.goes_pcmSample (s := s) (l := bits)
  obtain rfl : t = u := Host.Outcome.next.inj (hexec.symm.trans hgoes)
  obtain ⟨hsidx', hmix', hlanes', hsump'⟩ := AudioS.of_sansChans (resumeDue_sansChans (s := s))
  rw [hsidx'] at hsidx
  rw [hmix'] at hmix
  rw [hlanes'] at hlanes
  exact ⟨t, hexec, ⟨hsidx, hmix, hlanes, hsump.trans hsump'⟩, hframe.same .mem (by decide)⟩

/-! ### The close of a block -/

/-- The audio part without what the compare, the detectors, the streams and the clock of a boundary change. -/
def AudioS.blockPart (x : AudioS) : AudioS :=
  { x with loss0 := [], loss1 := [], simplex := none, det := {}, due := 0, dueSidx := 0, streams := [], fast := false, openClk := false,
           splice := none, hqReady := none }

/-- The registers of the AUDIO page but for its first two words, whose settings a boundary takes up. -/
def closeKeys (k : Nat) : Prop := keyPage k = 0x80 ∧ keyOff k ≠ 0x100 ∧ keyOff k ≠ 0x104

theorem closeKeys_of_off {b : Nat} {f : Fld} (hoff : f.off < 0x1000) (hlsb : f.lsb < 32) (h0 : f.off ≠ 0x100) (h4 : f.off ≠ 0x104) :
    closeKeys (regKey .audio b f) := by
  simp only [closeKeys, keyPage, keyOff, regKey, Page.base]
  omega

theorem RegsIn.irqAudio {v : Option Nat} {bit : Nat} : RegsIn closeKeys s (s.irq .audio v bit) :=
  irq fun _ => closeKeys_of_off (by decide) (by decide) (by decide) (by decide)

theorem RegsIn.wrAudio {x : Nat} {f : Fld} (hoff : f.off < 0x1000) (hlsb : f.lsb < 32) (h0 : f.off ≠ 0x100) (h4 : f.off ≠ 0x104) :
    RegsIn closeKeys s (s.wr .audio 0 f x) := wr (closeKeys_of_off hoff hlsb h0 h4)

theorem RegsIn.errCountAudio {i n : Nat} (hi : i < 4) : RegsIn closeKeys s (s.errCount .audio 0 i n) :=
  errCount (closeKeys_of_off (by simp; omega) (by simp) (by simp; omega) (by simp; omega))
    (closeKeys_of_off (by simp; omega) (by simp) (by simp; omega) (by simp; omega))
    (closeKeys_of_off (by decide) (by decide) (by decide) (by decide))

/-- t is s but for what a step of a block's close may change: of audio only what the block does not hold, of registers only closeKeys. -/
def SameBlock (s t : State) : Prop := t.audio.blockPart = s.audio.blockPart ∧ RegsIn closeKeys s t

namespace SameBlock
variable {u : State}

theorem refl : SameBlock s s := ⟨rfl, .refl⟩

theorem trans (h : SameBlock s t) (g : SameBlock t u) : SameBlock s u := ⟨g.1.trans h.1, h.2.trans g.2⟩

theorem setAudio {x : AudioS} (h : x.blockPart = s.audio.blockPart) : SameBlock s (s.setAudio x) := ⟨h, .of_regs rfl⟩

theorem setStream {k : Nat} {x : StreamS} : SameBlock s (s.setStream k x) := setAudio rfl

theorem wr {x : Nat} {f : Fld} (h : RegsIn closeKeys s (s.wr .audio 0 f x)) : SameBlock s (s.wr .audio 0 f x) := ⟨rfl, h⟩

theorem errCount {i n : Nat} (hi : i < 4) : SameBlock s (s.errCount .audio 0 i n) := ⟨by simp, .errCountAudio hi⟩

theorem irq {v : Option Nat} {bit : Nat} : SameBlock s (s.irq .audio v bit) := ⟨by simp, .irqAudio⟩

theorem foldl {α : Type} {f : State → α → State} {l : List α} (h : ∀ u, ∀ x ∈ l, SameBlock u (f u x)) : SameBlock s (l.foldl f s) :=
  List.foldlRecOn l f (motive := SameBlock s) refl fun _ ht x hx => ht.trans (h _ x hx)

theorem ite {a b : State} {p : Prop} [Decidable p] (ha : SameBlock s a) (hb : SameBlock s b) : SameBlock s (if p then a else b) := by
  split
  · exact ha
  · exact hb

theorem compareCopies {r : CopyResult} : SameBlock s (s.compareCopies r) := by
  refine ite refl ?_
  extract_lets keep out
  have hout {u : State} {k : Nat} {l : List Nat} (h : SameBlock s u) : SameBlock s (out u k l) := by
    refine h.trans (ite ?_ refl)
    exact ((setAudio rfl).trans (wr (.wrAudio (by decide) (by decide) (by decide) (by decide)))).trans irq
  cases r with
  | agree => exact refl
  | copy0Loses => exact hout ((setAudio rfl).trans (errCount (by decide)))
  | copy1Loses => exact hout ((setAudio rfl).trans (errCount (by decide)))

theorem closeDetect : SameBlock s s.closeDetect := setAudio rfl

theorem streamBlock {k : Nat} {b : Blk} : SameBlock s (s.streamBlock k b) := by
  unfold State.streamBlock
  extract_lets x
  refine ite refl (ite ?_ setStream)
  split
  · exact refl
  · exact ite refl setStream

theorem streamEnd {k : Nat} (hk : k < 4) : SameBlock s (s.streamEnd k) := by
  unfold State.streamEnd
  have hwr {u : State} {f : Fld} (hoff : f.off < 0x300 ∧ 0x200 ≤ f.off) (hlsb : f.lsb < 32) : SameBlock u (u.wr .audio 0 f 0) :=
    wr (.wrAudio (by omega) hlsb (by omega) (by omega))
  exact (((hwr (by simp; omega) (by simp)).trans (hwr (by simp; omega) (by simp))).trans (hwr (by simp; omega) (by simp))).trans setStream

theorem boundaryClock {b : Bool} : SameBlock s (s.boundaryClock b) := by
  unfold State.boundaryClock
  extract_lets x n en splice s1
  have hsplice {y : AudioS} (h : y.blockPart = s.audio.blockPart) : SameBlock s (splice s y) := by
    unfold splice
    extract_lets m
    have haudio : SameBlock s (s.setAudio { y with splice := some m }) := setAudio h
    have hidx {u : State} : SameBlock u (u.wr2 .audio 0 Reg.Audio.SPLICE_LO Reg.Audio.SPLICE_HI m) :=
      (wr (.wrAudio (by decide) (by decide) (by decide) (by decide))).trans
        (wr (.wrAudio (by decide) (by decide) (by decide) (by decide)))
    exact (haudio.trans hidx).trans (wr (.wrAudio (by decide) (by decide) (by decide) (by decide)))
  refine ite ?_ (ite (hsplice rfl) ?_)
  · have h1 : SameBlock s s1 := (setAudio rfl).trans (wr (.wrAudio (by decide) (by decide) (by decide) (by decide)))
    exact h1.trans (foldl fun u k hk => ite (ite (streamEnd (List.mem_range.mp hk)) setStream) refl)
  · split
    · exact ite (hsplice rfl) refl
    · exact refl

end SameBlock

/-- The sump slot of the block that closes. -/
def State.closedSlot (s : State) : SumpSlot :=
  { hdr := { sidx := s.audio.sidx - 256, ts := s.now, gainOld := s.audio.gainOld, gainNew := s.audio.gainNew, underrun := s.audio.openUnder,
             ch := s.audio.chEn, muted := s.audio.openMix.any fun y => y.2, clkSwitch := s.audio.openClk },
    lanes := s.audio.openLanes }

/-- The sump with the block that closes, from READY on (R292). -/
def State.closedSump (s : State) : SMap SumpSlot :=
  if s.ready then SMap.set {} s.audio.sump ((s.audio.sidx - 256) / 256 % 128) s.closedSlot else s.audio.sump

theorem closeSump_block : SameBlock (s.setAudio { s.audio with sump := s.closedSump }) s.closeSump := by
  unfold State.closeSump
  extract_lets x hdr slot s1 s2
  have hslot : slot = s.closedSlot := rfl
  have hsump : (if s.ready then SMap.set {} x.sump (hdr.sidx / 256 % 128) slot else x.sump) = s.closedSump := by
    rw [hslot, State.closedSump]
  have hs1 : s1 = s.setAudio { s.audio with sump := s.closedSump, dueSidx := hdr.sidx } := by
    rw [← hsump]
  clear_value hdr slot
  have h1 : SameBlock (s.setAudio { s.audio with sump := s.closedSump }) s1 := by
    rw [hs1]
    exact ⟨rfl, .of_regs rfl⟩
  have hpeak {u : State} {f : Fld} {v : Nat} (hoff : f.off < 0x200 ∧ 0x140 ≤ f.off) (hlsb : f.lsb < 32) : SameBlock u (u.wr .audio 0 f v) :=
    SameBlock.wr (.wrAudio (by omega) hlsb (by omega) (by omega))
  have h2 : SameBlock s1 s2 := SameBlock.foldl fun u c hc => by
    have hlt := List.mem_range.mp hc
    exact (hpeak (by simp; omega) (by simp)).trans (hpeak (by simp; omega) (by simp))
  exact (h1.trans h2).trans (SameBlock.foldl fun _ _ _ => SameBlock.streamBlock)

theorem AudioS.of_blockPart {x y : AudioS} (h : y.blockPart = x.blockPart) : y.sidx = x.sidx ∧ y.openLanes = x.openLanes ∧
    y.openMix = x.openMix ∧ y.gainOld = x.gainOld ∧ y.gainNew = x.gainNew ∧ y.chEn = x.chEn ∧ y.cal = x.cal ∧ y.calNext = x.calNext ∧
    y.sump = x.sump :=
  ⟨(congrArg AudioS.sidx h :), (congrArg AudioS.openLanes h :), (congrArg AudioS.openMix h :), (congrArg AudioS.gainOld h :),
    (congrArg AudioS.gainNew h :), (congrArg AudioS.chEn h :), (congrArg AudioS.cal h :), (congrArg AudioS.calNext h :),
    (congrArg AudioS.sump h :)⟩

/-- The audio part after a boundary has taken up what was staged; z is the audio part of the closed block. -/
structure TakenUp (z y : AudioS) (gain en : Nat) : Prop where
  mix : y.openMix = []
  lanes : y.openLanes = []
  sidx : y.sidx = z.sidx
  gainOld : y.gainOld = z.gainNew
  gainNew : y.gainNew = gain
  chEn : y.chEn = en
  cal : y.cal = z.calNext.getD z.cal
  calNext : y.calNext = none
  sump : y.sump = z.sump

theorem TakenUp.of_block {z y y' : AudioS} {gain en : Nat} (h : TakenUp z y gain en) (hb : y'.blockPart = y.blockPart) :
    TakenUp z y' gain en := by
  obtain ⟨hsidx, hlanes, hmix, hold, hnew, hch, hcal, hnext, hsump⟩ := AudioS.of_blockPart hb
  exact ⟨hmix.trans h.mix, hlanes.trans h.lanes, hsidx.trans h.sidx, hold.trans h.gainOld, hnew.trans h.gainNew, hch.trans h.chEn,
    hcal.trans h.cal, hnext.trans h.calNext, hsump.trans h.sump⟩

theorem blockClose_audio {r : CopyResult} {u : State} (h : 256 ≤ s.audio.openMix.length)
    (hu : u = ((s.compareCopies r).closeDetect).closeSump) : ∃ t, exec (.blockClose r) s = .next t ∧
      TakenUp u.audio t.audio (u.rd .audio 0 Reg.Audio.GAIN_REQ) (u.rd .audio 0 Reg.Audio.CH_EN) := by
  refine ⟨_, congrArg Host.Outcome.next (if_neg (by omega)), ?_⟩
  extract_lets s1 x left req
  have hs1 : s1 = u := hu.symm
  rw [← hs1]
  split
  next cal src hcal =>
  have htake : cal = x.calNext.getD x.cal := by
    revert hcal
    cases hnext : x.calNext with
    | some c => exact fun heq => (Prod.mk.inj heq).1.symm
    | none => exact fun heq => (Prod.mk.inj heq).1.symm
  extract_lets x1 s2
  have hx1 : TakenUp s1.audio x1 req (s1.rd .audio 0 Reg.Audio.CH_EN) := ⟨rfl, rfl, rfl, rfl, rfl, rfl, htake, rfl, rfl⟩
  have hs2 : s2.audio.blockPart = x1.blockPart := SameBlock.boundaryClock.1
  split
  · refine hx1.of_block ?_
    rw [State.irq_audio]
    exact hs2
  · exact hx1.of_block hs2

theorem rd_of_closeKeys (h : SameBlock s t) {p : Page} {f : Fld} (hk : ¬ closeKeys (regKey p 0 f)) : t.rd p 0 f = s.rd p 0 f := h.2.rd_eq hk

theorem blockClose_leaves {r : CopyResult} (h : 256 ≤ s.audio.openMix.length) :
    ∃ t, exec (.blockClose r) s = .next t ∧ t.audio.openMix = [] ∧ t.audio.openLanes = [] ∧ t.audio.sidx = s.audio.sidx ∧
      t.audio.gainOld = s.audio.gainNew ∧ t.audio.gainNew = s.rd .audio 0 Reg.Audio.GAIN_REQ ∧
      t.audio.chEn = s.rd .audio 0 Reg.Audio.CH_EN ∧ t.audio.cal = s.audio.calNext.getD s.audio.cal ∧ t.audio.calNext = none ∧
      (s.ready = true → (SMap.get {} t.audio.sump ((s.audio.sidx - 256) / 256 % 128)).hdr.sidx = s.audio.sidx - 256 ∧
        (SMap.get {} t.audio.sump ((s.audio.sidx - 256) / 256 % 128)).lanes = s.audio.openLanes) ∧
      (s.ready = false → t.audio.sump = s.audio.sump) ∧ t.mem = s.mem := by
  generalize hv : (s.compareCopies r).closeDetect = v
  have hsv : SameBlock s v := hv ▸ SameBlock.compareCopies.trans SameBlock.closeDetect
  obtain ⟨t, hexec, htaken⟩ := blockClose_audio (r := r) (u := v.closeSump) h (by rw [hv])
  obtain ⟨t', hgoes, hframe⟩ := Frame.goes_blockClose (s := s) (r := r)
  obtain rfl : t = t' := Host.Outcome.next.inj (hexec.symm.trans hgoes)
  have hclose := closeSump_block (s := v)
  obtain ⟨vsidx, vlanes, -, -, vnew, -, vcal, vnext, vsump⟩ := AudioS.of_blockPart hsv.1
  obtain ⟨csidx, clanes, -, -, cnew, -, ccal, cnext, csump⟩ := AudioS.of_blockPart hclose.1
  have hreg {f : Fld} (hk : ¬ closeKeys (regKey .audio 0 f)) : v.closeSump.rd .audio 0 f = s.rd .audio 0 f :=
    (rd_of_closeKeys hclose hk).trans (rd_of_closeKeys hsv hk)
  have hready : v.ready = s.ready := by rw [State.ready, State.ready, rd_of_closeKeys hsv (by unfold closeKeys; decide)]
  have hsump : t.audio.sump = v.closedSump := htaken.sump.trans csump
  refine ⟨t, hexec, htaken.mix, htaken.lanes, htaken.sidx.trans (csidx.trans vsidx), htaken.gainOld.trans (cnew.trans vnew),
    htaken.gainNew.trans (hreg (by unfold closeKeys; decide)), htaken.chEn.trans (hreg (by unfold closeKeys; decide)), ?_, htaken.calNext, fun hr => ?_, fun hr => ?_,
    hframe.same .mem (by decide)⟩
  · rw [htaken.cal, cnext, ccal]
    show v.audio.calNext.getD v.audio.cal = _
    rw [vnext, vcal]
  · rw [hsump, State.closedSump, hready, hr, if_pos rfl, vsidx, SMap.get_set_self]
    exact ⟨congrArg (· - 256) vsidx, vlanes⟩
  · rw [hsump, State.closedSump, hready, hr, if_neg (by decide)]
    exact vsump

end

/-- Settles O36: a sample joins the open block, and a close passes on what the block holds and takes up what was staged. -/
theorem samplesAndBlocks : Obligations.SamplesAndBlocks := by
  unfold Obligations.SamplesAndBlocks
  refine ⟨fun s bits h => ?_, fun s r h => blockClose_leaves h⟩
  obtain ⟨t, hexec, hjoin, hmem⟩ := pcmSample_leaves (bits := bits) h
  exact ⟨t, hexec, hjoin.sidx, hjoin.mix, hjoin.lanes, hjoin.sump, hmem⟩

end Sys2Proof.Machine
end

section
/-! Audio streams (R293 to R296). -/

namespace Sys2Proof.Machine

set_option Elab.async false

section
variable {s : State} {v : View} {w : Word} {st x : Nat}

theorem stream_setStream {y : StreamS} : (s.setStream st y).stream st = y := SMap.get_set_self (d := ({} : StreamS)) s.audio.streams st y

/-! ### The EN bit of a stream -/

theorem exec_audioStreamStart (hst : st < 4) (h : Reaches s v .audio (0x200 + 0x40 * st) 0) :
    exec (.audioStreamStart v st w) s = .next (s.audioWrite (0x200 + 0x40 * st) (setField w.toNat 0 1 1)) := by
  have hnot : ¬ 4 ≤ st := by omega
  exact congrArg Host.Outcome.next ((if_neg hnot).trans (audioReg_of_reaches h))

theorem exec_audioStreamStop (hst : st < 4) (h : Reaches s v .audio (0x200 + 0x40 * st) 0) :
    exec (.audioStreamStop v st w) s = .next (s.audioWrite (0x200 + 0x40 * st) (setField w.toNat 0 1 0)) := by
  have hnot : ¬ 4 ≤ st := by omega
  exact congrArg Host.Outcome.next ((if_neg hnot).trans (audioReg_of_reaches h))

/-- A write of the first word of a stream. -/
theorem audioWrite_stream (hst : st < 4) : s.audioWrite (0x200 + 0x40 * st) x =
    if s.rdB .audio 0 (Reg.Audio.EN st) then if !bitAt x 0 then s.streamStop st else s
    else if bitAt x 0 then ((s.wrFields .audio 0 (0x200 + 0x40 * st) (setField x 0 1 0) Reg.Audio.all).streamStart st).1
    else s.wrFields .audio 0 (0x200 + 0x40 * st) (setField x 0 1 0) Reg.Audio.all := by
  have h1 : 0x200 + 0x40 * st ≠ 0x100 := by omega
  have h2 : 0x200 + 0x40 * st ≠ 0x124 := by omega
  have h3 : 0x200 + 0x40 * st ≠ 0x128 := by omega
  have h4 : 0x200 ≤ 0x200 + 0x40 * st ∧ 0x200 + 0x40 * st < 0x300 := by omega
  have hst' : (0x200 + 0x40 * st - 0x200) / 0x40 = st := by omega
  have hrel : (0x200 + 0x40 * st) % 0x40 = 0 := by omega
  unfold State.audioWrite
  dsimp only
  rw [if_neg h1, if_neg h2, if_neg h3, if_pos h4, hst', hrel]
  simp only [true_and, if_true]

theorem regKey_stream_ne {f g : Fld} (h : f.off ≠ g.off ∨ f.lsb ≠ g.lsb) (hf : f.lsb < 32) (hg : g.lsb < 32) :
    regKey .audio 0 f ≠ regKey .audio 0 g := by
  simp only [regKey]
  omega

theorem streamStart_refused (h : (s.streamStart st).2 = true) :
    (s.streamStart st).1 = (s.wr .audio 0 (Reg.Audio.EN st) 0).errCount .audio 0 0 1 := by
  unfold State.streamStart at h ⊢
  extract_lets at h ⊢
  split at h
  · next hbad => rw [if_pos hbad]
  · simp at h

/-- The registers and the stream of one that starts. -/
def State.streamBegun (s : State) (st catchup : Nat) (past : List Nat) : State :=
  ((((s.wr .audio 0 (Reg.Audio.EN st) 1).wr .audio 0 (Reg.Audio.BLK_NUM st) 0).wr .audio 0 (Reg.Audio.ACTIVE st) 1).wr .audio 0
    (Reg.Audio.CATCHUP st) catchup).setStream st { active := true, past := past }

theorem streamStart_begun (h : (s.streamStart st).2 = false) : ∃ catchup past, (s.streamStart st).1 = s.streamBegun st catchup past ∨
    (s.streamStart st).1 = (s.streamBegun st catchup past).wake 24 := by
  unfold State.streamStart at h ⊢
  extract_lets a hq back nbuf span o o' n s1 s2 s3 at h ⊢
  split at h
  · simp at h
  · next hok =>
    rw [if_neg hok]
    refine ⟨b2n (n != 0), (List.range n).map fun k => (o' - n + k) * 256, ?_⟩
    dsimp only
    split
    · exact .inr rfl
    · exact .inl rfl

theorem streamBegun_leaves {catchup : Nat} {past : List Nat} : ((s.streamBegun st catchup past).stream st).active = true ∧
    (s.streamBegun st catchup past).rd .audio 0 (Reg.Audio.EN st) = 1 ∧ (s.streamBegun st catchup past).rd .audio 0 (Reg.Audio.ACTIVE st) = 1 ∧
    (s.streamBegun st catchup past).rd .audio 0 (Reg.Audio.BLK_NUM st) = 0 ∧ (s.streamBegun st catchup past).mem = s.mem := by
  have hne {f g : Fld} (h : f.off ≠ g.off ∨ f.lsb ≠ g.lsb) (hf : f.lsb < 32) (hg : g.lsb < 32) := regKey_stream_ne h hf hg
  unfold State.streamBegun
  refine ⟨?_, ?_, ?_, ?_, rfl⟩
  · rw [stream_setStream]
  · rw [State.rd_setStream, State.rd_wr_other _ _ (hne (by simp) (by simp) (by simp)), State.rd_wr_other _ _ (hne (by simp) (by simp) (by simp)),
      State.rd_wr_other _ _ (hne (by simp) (by simp) (by simp)), State.rd_wr_self]
    rfl
  · rw [State.rd_setStream, State.rd_wr_other _ _ (hne (by simp) (by simp) (by simp)), State.rd_wr_self]
    rfl
  · rw [State.rd_setStream, State.rd_wr_other _ _ (hne (by simp) (by simp) (by simp)), State.rd_wr_other _ _ (hne (by simp) (by simp) (by simp)),
      State.rd_wr_self]
    rfl

theorem streamStart_leaves (hst : st < 4) (h : (s.streamStart st).2 = false) : ((s.streamStart st).1.stream st).active = true ∧
    (s.streamStart st).1.rd .audio 0 (Reg.Audio.EN st) = 1 ∧ (s.streamStart st).1.rd .audio 0 (Reg.Audio.ACTIVE st) = 1 ∧
    (s.streamStart st).1.rd .audio 0 (Reg.Audio.BLK_NUM st) = 0 ∧ (s.streamStart st).1.mem = s.mem := by
  obtain ⟨catchup, past, heq | heq⟩ := streamStart_begun h
  · rw [heq]
    exact streamBegun_leaves
  · obtain ⟨hactive, hen, hact, hnum, hmem⟩ := streamBegun_leaves (s := s) (st := st) (catchup := catchup) (past := past)
    rw [heq]
    generalize s.streamBegun st catchup past = u at *
    have hrd {f : Fld} (hoff : f.off < 0x1000) (hlsb : f.lsb < 32) : (u.wake 24).rd .audio 0 f = u.rd .audio 0 f :=
      RegsIn.wake.rd_eq (not_wakeKeys_audio hoff hlsb)
    have hframe : Frame wakeParts u (u.wake 24) := Frame.wake
    have hstreams : (u.wake 24).audio.streams = u.audio.streams := by
      have hrest : { (u.wake 24).audio with openMix := [] } = { u.audio with openMix := [] } := hframe.same .audioRest (by decide)
      exact (congrArg AudioS.streams hrest :)
    refine ⟨?_, ?_, ?_, ?_, (hframe.same .mem (by decide)).trans hmem⟩
    · rw [State.stream, hstreams]
      exact hactive
    · rw [hrd (by simp; omega) (by simp), hen]
    · rw [hrd (by simp; omega) (by simp), hact]
    · rw [hrd (by simp; omega) (by simp), hnum]

theorem streamEnd_leaves : (s.streamEnd st).stream st = {} ∧ (s.streamEnd st).rd .audio 0 (Reg.Audio.EN st) = 0 ∧
    (s.streamEnd st).rd .audio 0 (Reg.Audio.ACTIVE st) = 0 ∧ (s.streamEnd st).mem = s.mem := by
  have hne {f g : Fld} (h : f.off ≠ g.off ∨ f.lsb ≠ g.lsb) (hf : f.lsb < 32) (hg : g.lsb < 32) := regKey_stream_ne h hf hg
  unfold State.streamEnd
  dsimp only
  refine ⟨stream_setStream, ?_, ?_, rfl⟩
  · rw [State.rd_setStream, State.rd_wr_other _ _ (hne (by simp) (by simp) (by simp)), State.rd_wr_other _ _ (hne (by simp) (by simp) (by simp)),
      State.rd_wr_self]
    rfl
  · rw [State.rd_setStream, State.rd_wr_other _ _ (hne (by simp) (by simp) (by simp)), State.rd_wr_self]
    rfl

theorem start_clauses {u : State} (hst : st < 4) (h : Reaches s v .audio (0x200 + 0x40 * st) 0)
    (hen : s.rdB .audio 0 (Reg.Audio.EN st) = false)
    (hu : u = s.wrFields .audio 0 (0x200 + 0x40 * st) (setField (setField w.toNat 0 1 1) 0 1 0) Reg.Audio.all) :
    ((u.streamStart st).2 = false → ∃ t, exec (.audioStreamStart v st w) s = .next t ∧ (t.stream st).active = true ∧
      t.rd .audio 0 (Reg.Audio.EN st) = 1 ∧ t.rd .audio 0 (Reg.Audio.ACTIVE st) = 1 ∧ t.rd .audio 0 (Reg.Audio.BLK_NUM st) = 0 ∧
      t.mem = s.mem) ∧
    ((u.streamStart st).2 = true → ∃ t, exec (.audioStreamStart v st w) s = .next t ∧ t.audio = s.audio ∧
      t.rd .audio 0 (Reg.Audio.EN st) = 0 ∧
      t.rd .audio 0 (Reg.Hdr.ERR_CNT 0) = (count31 (s.rd .audio 0 (Reg.Hdr.ERR_CNT 0)) 1).1 ∧ t.mem = s.mem) := by
  have hexec := exec_audioStreamStart (w := w) hst h
  rw [audioWrite_stream hst, hen, if_neg (by decide), if_pos (bitAt_setField_one w.toNat 0), ← hu] at hexec
  have honly : { u with regs := s.regs } = s := hu ▸ wrFields_audio_regsOnly
  have hcnt : u.rd .audio 0 (Reg.Hdr.ERR_CNT 0) = s.rd .audio 0 (Reg.Hdr.ERR_CNT 0) := by
    rw [hu]
    exact rd_wrFields_other_off (noCfg_audio _) lsb_audio (by simp; omega) (by simp)
  have hmem : u.mem = s.mem := (congrArg State.mem honly :)
  have haudio : u.audio = s.audio := (congrArg State.audio honly :)
  refine ⟨fun hok => ?_, fun hbad => ?_⟩
  · obtain ⟨hactive, hon, hact, hnum, hkeep⟩ := streamStart_leaves hst hok
    exact ⟨_, hexec, hactive, hon, hact, hnum, hkeep.trans hmem⟩
  · rw [streamStart_refused hbad] at hexec
    have hne {f : Fld} (hf : f.off < 0x100) (hl : f.lsb < 32) : regKey .audio 0 (Reg.Audio.EN st) ≠ regKey .audio 0 f :=
      regKey_stream_ne (.inl (by simp; omega)) (by simp) hl
    refine ⟨_, hexec, by simpa using haudio, ?_, ?_, by simpa using hmem⟩
    · rw [State.rd_errCount_other (hne (by decide) (by decide)) (hne (by decide) (by decide)) (hne (by decide) (by decide)), State.rd_wr_self]
      rfl
    · rw [State.rd_errCount_self, State.rd_wr_other _ _ (hne (by decide) (by decide)).symm, hcnt]

theorem stop_clauses (hst : st < 4) (h : Reaches s v .audio (0x200 + 0x40 * st) 0) (hen : s.rdB .audio 0 (Reg.Audio.EN st) = true)
    (hactive : (s.stream st).active = true) :
    ((s.stream st).past = [] → (s.stream st).live = [] → ∃ t, exec (.audioStreamStop v st w) s = .next t ∧ t.stream st = {} ∧
      t.rd .audio 0 (Reg.Audio.EN st) = 0 ∧ t.rd .audio 0 (Reg.Audio.ACTIVE st) = 0 ∧ t.mem = s.mem) ∧
    ((s.stream st).past ≠ [] ∨ (s.stream st).live ≠ [] →
      exec (.audioStreamStop v st w) s = .next (s.setStream st { s.stream st with stopAfter := some 1 })) := by
  have hexec := exec_audioStreamStop (w := w) hst h
  rw [audioWrite_stream hst, hen, if_pos rfl, bitAt_setField_zero, if_pos (by decide)] at hexec
  refine ⟨fun hpast hlive => ⟨_, hexec, ?_⟩, fun hbusy => hexec.trans ?_⟩
  · have hstop : s.streamStop st = s.streamEnd st := by simp [State.streamStop, hactive, hpast, hlive]
    rw [hstop]
    exact streamEnd_leaves
  · have hrest : ((s.stream st).past.isEmpty && (s.stream st).live.isEmpty) = false := by
      rw [Bool.and_eq_false_iff]
      exact hbusy.imp (by simp) (by simp)
    simp [State.streamStop, hactive, hrest]

/-! ### Delivery of a block -/

/-- What a delivery leaves: the memory m, the block number n + 1, and every tally. -/
structure StreamDelivered (s : State) (st n : Nat) (m : List Host.Cell) (t : State) : Prop where
  mem : t.mem = m
  number : t.rd .audio 0 (Reg.Audio.BLK_NUM st) = (n + 1) % 2 ^ 32
  tallies : t.tallies = s.tallies

theorem audioBlockDelivery_leaves {n nbuf slot recs : Nat} {b : Blk} {x : StreamS} {lost : Bool} {u : State} (hst : st < 4)
    (hactive : (s.stream st).active = true) (hnext : s.nextBlock st = some (b, x, lost))
    (hnbuf : nbuf = s.rd .audio 0 (Reg.Audio.NBUF_M1 st) + 1) (hn : n = s.rd .audio 0 (Reg.Audio.BLK_NUM st))
    (hslot : slot = s.streamDst st + n % nbuf * s.rd .audio 0 (Reg.Audio.SLOT_PITCH st)) (hrecs : recs = s.streamRec st)
    (hon : AllOn s [memDomain slot, memDomain recs]) (hsig : s.rdB .audio 0 (Reg.Audio.SIG_EN st) = false) (hups : s.upsets = [])
    (hu : u = ((s.dstore slot (s.streamData st b)).dstore (recs + 32 * (n % nbuf)) (blockRecord { b.hdr with
      ch := s.rd .audio 0 (Reg.Audio.CH st), stream := st, blkNum := n })).dstore (recs + 32 * nbuf + 48 * (n % nbuf))
        (ingestRecord 1 st b.hdr.sidx (s.streamData st b))) :
    ∃ t, exec (.audioBlockDelivery st) s = .next t ∧ StreamDelivered s st n u.mem t := by
  have hwake := State.wakeAll_of_allOn hon
  have hgo : ¬ (decide (4 ≤ st) || !(s.stream st).active) = true := by simp [hactive, hst]
  have hblk {f : Fld} (h : f.off ≠ 0x220 + 0x40 * st) (hl : f.lsb < 32) : regKey .audio 0 (Reg.Audio.BLK_NUM st) ≠ regKey .audio 0 f :=
    regKey_stream_ne (.inl (Ne.symm h)) (by simp) hl
  have hsigEn {f : Fld} (h : f.off ≠ 0x21C + 0x40 * st) (hl : f.lsb < 32) : regKey .audio 0 (Reg.Audio.SIG_EN st) ≠ regKey .audio 0 f :=
    regKey_stream_ne (.inl (Ne.symm h)) (by simp) hl
  subst hslot hrecs hnbuf hn
  refine ⟨_, congrArg Host.Outcome.next (if_neg hgo), ?_⟩
  split
  · next hnone => simp [hnone] at hnext
  next b' x' lost' hsome =>
  obtain ⟨rfl, rfl, rfl⟩ : b = b' ∧ x = x' ∧ lost = lost' := by simpa [hnext] using hsome
  extract_lets a nbuf n slot recs
  split
  next s0 on e0 =>
  obtain ⟨rfl, rfl⟩ := Prod.mk.inj (hwake.symm.trans e0)
  rw [if_neg (by decide)]
  split
  next s1 bad e1 =>
  have hclean : (s, false) = (s1, bad) := by
    rw [← e1]
    cases (s.stream st).past <;> simp [State.meetCell_of_noUpsets hups]
  obtain ⟨rfl, rfl⟩ := Prod.mk.inj hclean
  extract_lets clean
  split
  next d s2 e2 =>
  obtain ⟨rfl, rfl⟩ := Prod.mk.inj ((if_neg (by decide) : (if false = true then _ else (clean, s)) = _).symm.trans e2)
  extract_lets hdr s3 s4 s5 s6 s7
  have h3 : Frame [.mem, .tierRest, .arrays] s s3 := ((Frame.refl.step Frame.dstore).step Frame.dstore).step Frame.dstore
  have hs3 : s3 = u := hu.symm
  have hmem4 : s4.mem = u.mem := by
    rw [← hs3]
    show (if lost then s3.errCount .audio 0 1 1 else s3).mem = _
    split <;> simp
  have htal4 : s4.tallies = s.tallies := by
    refine Eq.trans ?_ (h3.same .tallies (by decide))
    show (if lost then s3.errCount .audio 0 1 1 else s3).tallies = _
    split <;> simp
  have hsig4 : s4.rd .audio 0 (Reg.Audio.SIG_EN st) = s.rd .audio 0 (Reg.Audio.SIG_EN st) := by
    refine Eq.trans ?_ (State.rd_of_regs (h3.same .regs (by decide)) _ _ _)
    show (if lost then s3.errCount .audio 0 1 1 else s3).rd .audio 0 _ = _
    split
    · exact State.rd_errCount_other (hsigEn (by simp; omega) (by simp)) (hsigEn (by simp; omega) (by simp)) (hsigEn (by simp; omega) (by simp))
    · rfl
  have hsig6 : s6.rdB .audio 0 (Reg.Audio.SIG_EN st) = false := by
    show (s6.rd .audio 0 (Reg.Audio.SIG_EN st) != 0) = false
    rw [show s6.rd .audio 0 (Reg.Audio.SIG_EN st) = s.rd .audio 0 (Reg.Audio.SIG_EN st) from ?_]
    · exact hsig
    rw [← hsig4]
    exact ((State.rd_setStream ..).trans (State.rd_wr_other _ _ (hsigEn (by simp) (by simp)))).trans (State.rd_wr_other _ _ (hsigEn (by simp) (by simp)))
  have hnum6 : s6.rd .audio 0 (Reg.Audio.BLK_NUM st) = (n + 1) % 2 ^ 32 := by
    refine (State.rd_setStream ..).trans ((State.rd_wr_other _ _ (hblk (by simp) (by simp))).trans ((State.rd_wr_self ..).trans ?_))
    exact Nat.mod_mod _ _
  have h7 : s7 = s6 := if_neg (by rw [hsig6]; decide)
  have h6 : StreamDelivered s st n u.mem s6 := ⟨hmem4, hnum6, htal4⟩
  rw [h7]
  split
  · have hend {f : Fld} (hf : f.off = 0x200 + 0x40 * st ∨ f.off = 0x224 + 0x40 * st) (hl : f.lsb < 32) := hblk (f := f) (by omega) hl
    refine ⟨h6.mem, Eq.trans ?_ h6.number, h6.tallies⟩
    unfold State.streamEnd
    rw [State.rd_setStream, State.rd_wr_other _ _ (hend (by simp) (by simp)), State.rd_wr_other _ _ (hend (by simp) (by simp)),
      State.rd_wr_other _ _ (hend (by simp) (by simp))]
  · exact h6

end

/-- Settles O38: the EN bit of a stream, and the three stores of a delivery. -/
theorem audioStreams : Obligations.AudioStreams := by
  unfold Obligations.AudioStreams
  refine ⟨fun s v st w u h hst => ⟨fun hen hu => start_clauses hst h hen hu, fun hen hactive => stop_clauses hst h hen hactive⟩,
    fun s st n nbuf slot recs b x lost hst hactive hnext hnbuf hn hslot hrecs hon hsig hups => ?_⟩
  obtain ⟨t, hexec, hdelivered⟩ := audioBlockDelivery_leaves hst hactive hnext hnbuf hn hslot hrecs hon hsig hups rfl
  exact ⟨t, hexec, hdelivered.mem, hdelivered.number, hdelivered.tallies⟩

end Sys2Proof.Machine
end

section
/-! Cameras: the long packet that is discarded though the frame holds fewer lines than its height, and the registers of a context and of a
pipeline (R262, R264, R265). -/

namespace Sys2Proof.Machine

set_option Elab.async false

/-- A frame of height 1 whose only line a full ring has discarded: one line received, none held. -/
def lineDropped : FrameS := { received := 1, overrun := true }

/-- Port 0 receives channel 0 for context 0, whose open frame has received all its lines. -/
def fullFrame : State :=
  let s := (State.reset.setDom 20 { State.reset.dom 20 with st := .on }).wr .floor 0 Reg.Floor.CSI_PRESENT 1
  let s1 := ((s.setSt (.csi 0) 0 1).wr (.csi 0) 0 Reg.Csi.CPHY 1).wr (.csi 0) 0 Reg.Csi.VC_EN 1
  ((s1.setSt (.ctx 0) 0 1).wr (.ctx 0) 0 Reg.Ctx.DT 0x2A).setCam 0 { frames := [lineDropped] }

/-- Refutes O43: a line beyond HEIGHT does not join the frame, however few lines the frame holds. -/
theorem not_longPackets : ¬ Obligations.LongPackets := by
  unfold Obligations.LongPackets
  intro h
  have hready : fullFrame.rxReady 0 = true := by decide +kernel
  have hen : bitAt (fullFrame.rd (.csi 0) 0 Reg.Csi.VC_EN) 0 = true := by decide +kernel
  obtain ⟨t, row, hexec, -, ⟨g, hframes, hlines, -⟩, -⟩ := (h fullFrame ⟨0, 0, 0x2A, .clean, true, [5]⟩ hready rfl hen).2.2 0 lineDropped []
    (by decide +kernel) (by decide) rfl (by decide +kernel) (by decide) (by decide) (by decide +kernel) rfl (by decide +kernel)
    (by decide +kernel) (by decide +kernel) (by decide +kernel)
  have hafter : (t.cam 0).frames = [{ lineDropped with received := 2, long := true }] := by
    obtain rfl := Host.Outcome.next.inj hexec
    decide +kernel
  rw [hafter] at hframes
  obtain rfl := (List.cons.inj hframes).1
  exact List.cons_ne_nil _ _ hlines.symm

section
variable {s : State} {v : View} {w : Word} {c p : Nat}

theorem exec_shadowCommit (hc : c < 32) (h : Reaches s v (.ctx c) 0x154 0) :
    exec (.shadowCommit v c w) s = .next (s.wr (.ctx c) 0 Reg.Ctx.PENDING 1) := by
  have hnot : ¬ 32 ≤ c := by omega
  have hbit := bitAt_setField_one w.toNat 0
  refine congrArg Host.Outcome.next ((if_neg hnot).trans ((State.viaBus_of_reaches h (by simp) _ _).trans ?_))
  simp [State.ctxWrite, hbit]

theorem exec_cisRes (hp : p < 2) (h : Reaches s v (.isp p) 0x104 0) : exec (.cisRes v p w) s = .next (s.writeCisRes p w.toNat) := by
  have hnot : ¬ 2 ≤ p := by omega
  exact congrArg Host.Outcome.next ((if_neg hnot).trans (State.viaBus_of_reaches h (fun _ => rfl) _ _))

end

/-- Settles O44: the two writes, one equation each. -/
theorem contextRegisters : Obligations.ContextRegisters := by
  unfold Obligations.ContextRegisters
  refine fun s v w => ⟨fun c hc h => exec_shadowCommit hc h, fun p n u hp h hn hu => ?_⟩
  subst hn hu
  rw [exec_cisRes hp h]
  exact ⟨fun hfit => congrArg Host.Outcome.next (if_pos hfit), fun hno => congrArg Host.Outcome.next (if_neg hno)⟩

end Sys2Proof.Machine
end

section
/-! Work items of the pipelines, deadlines and absent members (R263, R273, R278, R281). -/

namespace Sys2Proof.Machine

set_option Elab.async false

section
variable {s t u : State} {c d i n p g : Nat}

/-! ### The registers of signals and of a context's records -/

/-- The registers that signals may write: the TALLY pages, and the waits that end (R152, R153). -/
def tallyKeys (k : Nat) : Prop := waitKeys k ∨ (0x40 ≤ keyPage k ∧ keyPage k < 0x49)

/-- The registers that a context's records and signals may write; WIDTH and HEIGHT are not among them. -/
def ctxKeys (k : Nat) : Prop := tallyKeys k ∨ (0x70 ≤ keyPage k ∧ keyPage k < 0x80 ∧ k / 32 % 0x800 ≠ 0x104)

theorem tallyKeys_pf {b : Nat} {f : Fld} (hoff : f.off < 0x1000) (hlsb : f.lsb < 32) : tallyKeys (regKey .tallyPf b f) := by
  refine .inr ?_
  simp only [keyPage, regKey, Page.base]
  omega

theorem tallyKeys_vf {v b : Nat} {f : Fld} (hv : v < 8) (hoff : f.off < 0x1000) (hlsb : f.lsb < 32) : tallyKeys (regKey (.tallyVf v) b f) := by
  refine .inr ?_
  simp only [keyPage, regKey, Page.base]
  omega

theorem RegsIn.tallyErr {v : Option Nat} {k : Nat} (hv : ∀ q, v = some q → q < 8) (hk : k < 4) : RegsIn tallyKeys s (s.tallyErr v k) := by
  cases v with
  | none => exact errCount (tallyKeys_pf (by simp; omega) (by simp)) (tallyKeys_pf (by simp; omega) (by simp)) (tallyKeys_pf (by decide) (by decide))
  | some q =>
    have hq := hv q rfl
    unfold State.tallyErr
    dsimp only
    have hcnt {x : Nat} : RegsIn tallyKeys s (s.wr (.tallyVf q) 0 (Reg.Hdr.ERR_CNT k) x) := wr (tallyKeys_vf hq (by simp; omega) (by simp))
    refine ite ((hcnt.trans (wr (tallyKeys_vf hq (by simp; omega) (by simp)))).trans (orRaw (tallyKeys_vf hq (by decide) (by decide)))) hcnt

theorem RegsIn.overflowTally : RegsIn tallyKeys s (s.overflowTally i) := by
  refine RegsIn.trans ?_ (irq fun _ => tallyKeys_pf (by decide) (by decide))
  exact (of_regs rfl : RegsIn tallyKeys s (s.setTally i { s.tally i with count := 0xFFFF, ovf := true })).trans
    (tallyErr (by simp) (by decide))

theorem RegsIn.signalTally : RegsIn tallyKeys s (s.signalTally i n) := by
  by_cases hi : i < 8192
  · have hsig : s.signalTally i n = State.evalRelease
        (if 0xFFFF < (s.tally i).count + n then
          if (s.tally i).alloc then (s.overflowTally i).vfOverflow ((s.tally i).owner % 8) else s.overflowTally i
        else s.setTally i { s.tally i with count := (s.tally i).count + n }) i := by
      rw [State.signalTally, if_neg (Nat.not_le.mpr hi)]
      rfl
    have hv : (s.tally i).owner % 8 < 8 := Nat.mod_lt _ (by decide)
    generalize (s.tally i).owner % 8 = v at hsig hv
    have hvf {u : State} : RegsIn tallyKeys u (u.vfOverflow v) :=
      (tallyErr (by simpa using hv) (by decide)).trans (orRaw (tallyKeys_vf hv (by decide) (by decide)))
    rw [hsig]
    have hsum : RegsIn tallyKeys s (if 0xFFFF < (s.tally i).count + n then
        if (s.tally i).alloc then (s.overflowTally i).vfOverflow v else s.overflowTally i
        else s.setTally i { s.tally i with count := (s.tally i).count + n }) :=
      ite (ite (overflowTally.trans hvf) overflowTally) (of_regs rfl)
    exact hsum.trans (RegsIn.mono (L := waitKeys) evalRelease fun _ => Or.inl)
  · rw [State.signalTally, if_pos (by omega)]
    exact refl

theorem ctxKeys_of_off {b : Nat} {f : Fld} (hc : c < 32) (hoff : f.off < 0x800) (hne : f.off ≠ 0x104) (hlsb : f.lsb < 32) :
    ctxKeys (regKey (.ctx c) b f) := by
  refine .inr ?_
  have hhalf : c / 16 = 0 ∨ c / 16 = 1 := by omega
  rcases hhalf with hz | hz <;> simp only [keyPage, regKey, Page.base, hz] <;> omega

theorem RegsIn.ctxSignal : RegsIn ctxKeys s (s.ctxSignal c) := ite (signalTally.mono fun _ => .inl) refl

theorem RegsIn.dstore {a : Nat} {l : List Byte} {K : Nat → Prop} : RegsIn K s (s.dstore a l) := of_regs (Frame.dstore.same .regs (by decide))

theorem RegsIn.putRecord (hc : c < 32) {k fl fs fe m crc b : Nat} {l e : List Byte} : RegsIn ctxKeys s (s.putRecord c k fl fs fe m crc b l e) := by
  unfold State.putRecord
  extract_lets p s1 num ep len i s2 s3
  have hwr {u : State} {f : Fld} {x : Nat} (h : f.off < 0x800 ∧ f.off ≠ 0x104 ∧ f.lsb < 32) : RegsIn ctxKeys u (u.wr (.ctx c) 0 f x) :=
    wr (ctxKeys_of_off hc h.1 h.2.1 h.2.2)
  have h1 : RegsIn ctxKeys s s1 := (hwr (by decide)).trans (hwr (by decide))
  have h3 : RegsIn ctxKeys s s3 := ((h1.trans dstore).trans dstore).trans (ite refl dstore)
  refine ite (h1.trans (errCount ?_ ?_ ?_)) (h3.trans (hwr (by decide)))
  · exact ctxKeys_of_off hc (by decide) (by decide) (by decide)
  · exact ctxKeys_of_off hc (by decide) (by decide) (by decide)
  · exact ctxKeys_of_off hc (by decide) (by decide) (by decide)

/-- What a context's record and its signal may touch. -/
theorem recorded {k fl fs fe m crc b : Nat} {l e : List Byte} :
    Frame (.mem :: .tierRest :: .arrays :: signalParts) s ((s.putRecord c k fl fs fe m crc b l e).ctxSignal c) :=
  (Frame.putRecord.mono (hG := by decide)).step Frame.ctxSignal

theorem power_eq_of_frame {F : List Part} (h : Frame F s t) (hd : Part.doms ∉ F) (hq : Part.drop ∉ F) (hr : Part.raises ∉ F) (hl : Part.lifts ∉ F) :
    t.power = s.power := by
  have hdoms := h.same .doms hd
  have hdrop := h.same .drop hq
  have hraises := h.same .raises hr
  have hlifts := h.same .lifts hl
  simp only [Part.same, Prod.mk.injEq] at hdoms hdrop hraises hlifts
  cases ht : t.power
  cases hs : s.power
  simp_all

/-! ### Steps of a work item -/

/-- t is s but for the cameras' frames, the registers of records and signals, and what else these touch outside power. -/
structure ItemStep (s t : State) : Prop where
  power : t.power = s.power
  last : t.cams.lastCtx = s.cams.lastCtx
  regs : RegsIn ctxKeys s t

namespace ItemStep

theorem refl : ItemStep s s := ⟨rfl, rfl, .refl⟩

theorem trans (h : ItemStep s t) (k : ItemStep t u) : ItemStep s u := ⟨k.power.trans h.power, k.last.trans h.last, h.regs.trans k.regs⟩

theorem ite {a b : State} {q : Prop} [Decidable q] (ha : ItemStep s a) (hb : ItemStep s b) : ItemStep s (if q then a else b) := by
  split
  · exact ha
  · exact hb

theorem setCam {x : CamS} : ItemStep s (s.setCam c x) := ⟨rfl, rfl, .of_regs rfl⟩
theorem setGroup {x : GroupS} : ItemStep s (s.setGroup g x) := ⟨rfl, rfl, .of_regs rfl⟩

theorem of_frame {F : List Part} (h : Frame F s t) (hk : RegsIn ctxKeys s t) (hd : Part.doms ∉ F) (hq : Part.drop ∉ F) (hr : Part.raises ∉ F)
    (hl : Part.lifts ∉ F) (hcams : Part.cams ∉ F) : ItemStep s t :=
  ⟨power_eq_of_frame h hd hq hr hl, congrArg CamerasS.lastCtx (h.same .cams hcams), hk⟩

theorem dstore {a : Nat} {l : List Byte} : ItemStep s (s.dstore a l) :=
  of_frame Frame.dstore .dstore (by decide) (by decide) (by decide) (by decide) (by decide)

theorem ctxSignal : ItemStep s (s.ctxSignal c) :=
  of_frame Frame.ctxSignal .ctxSignal (by decide) (by decide) (by decide) (by decide) (by decide)

theorem putRecord (hc : c < 32) {k fl fs fe m crc b : Nat} {l e : List Byte} : ItemStep s (s.putRecord c k fl fs fe m crc b l e) :=
  of_frame Frame.putRecord (.putRecord hc) (by decide) (by decide) (by decide) (by decide) (by decide)

theorem signalTally : ItemStep s (s.signalTally i n) :=
  of_frame Frame.signalTally (RegsIn.signalTally.mono fun _ => .inl) (by decide) (by decide) (by decide) (by decide) (by decide)

end ItemStep

theorem cam_of_cams (h : t.cams.ctx = s.cams.ctx) : t.cam c = s.cam c := by rw [State.cam, State.cam, h]

theorem groupWrote_leaves {k : Nat} : ItemStep s (s.groupWrote g c k) ∧ (s.groupWrote g c k).cams.ctx = s.cams.ctx := by
  unfold State.groupWrote
  extract_lets x s1
  split
  · exact ⟨.refl, rfl⟩
  extract_lets left
  have h1 : ItemStep s s1 := .setGroup
  split
  · split
    · exact ⟨h1.trans .signalTally, (congrArg CamerasS.ctx (Frame.signalTally.same .cams (by decide) : _ = s1.cams)).trans rfl⟩
    · exact ⟨h1, rfl⟩
  · exact ⟨.setGroup, rfl⟩

/-- n stripes more of a context's first frame are done. -/
structure StripesDone (s t : State) (c : Nat) (f : FrameS) (rest : List FrameS) (n : Nat) : Prop where
  step : ItemStep s t
  delivered : (t.cam c).delivered = (s.cam c).delivered
  frames : ∃ h, (t.cam c).frames = h :: rest ∧ h.stripes = f.stripes + n ∧ h.lines = f.lines ∧ (0 < n → h.taken = false)

theorem doStripe_done {f : FrameS} {rest : List FrameS} (hf : (s.cam c).frames = f :: rest) : StripesDone s (s.doStripe c) c f rest 1 := by
  unfold State.doStripe
  extract_lets x buf
  split
  · next hnil => simp [x, hf] at hnil
  next f' rest' hcons =>
  obtain ⟨rfl, rfl⟩ : f = f' ∧ rest = rest' := by simpa [x, hf] using hcons
  extract_lets lines y0 y1 seen clean yuv planes rows s1 f1 s2
  have h1 : ItemStep s s1 := List.foldlRecOn rows _ (motive := ItemStep s) .refl fun _ ht _ _ => ht.trans .dstore
  have h2 : ItemStep s s2 := h1.trans .setCam
  have hcam : s2.cam c = { x with frames := f1 :: rest } := by rw [State.cam_setCam, if_pos rfl]
  clear_value s2 rows
  have hdone : StripesDone s s2 c f rest 1 := ⟨h2, by rw [hcam], f1, by rw [hcam], rfl, rfl, fun _ => rfl⟩
  split
  · have hkeep : (s2.ctxSignal c).cam c = s2.cam c := cam_of_cams (congrArg CamerasS.ctx (Frame.ctxSignal.same .cams (by decide)))
    exact ⟨h2.trans .ctxSignal, by rw [hkeep]; exact hdone.delivered, by rw [hkeep]; exact hdone.frames⟩
  · exact hdone

theorem doStripes_done {f : FrameS} {rest : List FrameS} (hf : (s.cam c).frames = f :: rest) :
    StripesDone s (s.doStripes c n) c f rest n := by
  induction n generalizing s f with
  | zero => exact ⟨.refl, rfl, f, hf, rfl, rfl, fun h => absurd h (by decide)⟩
  | succ n ih =>
    obtain ⟨hstep, hdel, f1, hframes, hstripes, hlines, htaken⟩ := doStripe_done hf
    obtain ⟨hstep', hdel', f2, hframes', hstripes', hlines', htaken'⟩ := ih hframes
    refine ⟨hstep.trans hstep', hdel'.trans hdel, f2, hframes', by omega, hlines'.trans hlines, fun _ => ?_⟩
    cases n with
    | zero =>
      obtain ⟨rfl, -⟩ := List.cons.inj (hframes.symm.trans hframes')
      exact htaken (by decide)
    | succ n => exact htaken' (Nat.succ_pos n)

/-- A context's first frame is delivered. -/
structure FrameDelivered (s t : State) (c : Nat) (rest : List FrameS) : Prop where
  step : ItemStep s t
  delivered : (t.cam c).delivered = (s.cam c).delivered + 1
  frames : (t.cam c).frames = rest

theorem frameDone_delivers {f : FrameS} {rest : List FrameS} (hc : c < 32) (hf : (s.cam c).frames = f :: rest) :
    FrameDelivered s (s.frameDone c) c rest := by
  unfold State.frameDone
  extract_lets x buf
  split
  · next hnil => simp [x, hf] at hnil
  next f' rest' hcons =>
  obtain ⟨rfl, rfl⟩ : f = f' ∧ rest = rest' := by simpa [x, hf] using hcons
  extract_lets flags s1 s2
  have h1 : ItemStep s s1 := .setCam
  have hcam1 : s1.cam c = { x with frames := rest, delivered := x.delivered + 1, ref := f.clean } := by rw [State.cam_setCam, if_pos rfl]
  have h2 : ItemStep s s2 := (h1.trans (.putRecord hc)).trans .ctxSignal
  have hkeep : s2.cams = s1.cams := recorded.same .cams (by decide)
  have hcam2 : s2.cam c = s1.cam c := cam_of_cams (congrArg CamerasS.ctx hkeep)
  have hdone : FrameDelivered s s2 c rest := ⟨h2, by rw [hcam2, hcam1], by rw [hcam2, hcam1]⟩
  split
  · next g _ =>
    obtain ⟨hstep, hctx⟩ := groupWrote_leaves (s := s2) (g := g) (c := c) (k := f.slot)
    have hcam3 := cam_of_cams (c := c) hctx
    exact ⟨h2.trans hstep, by rw [hcam3]; exact hdone.delivered, by rw [hcam3]; exact hdone.frames⟩
  · exact hdone

/-! ### The registers that decide a work item -/

theorem not_ctxKeys_isp {f : Fld} (hp : p < 2) (hoff : f.off < 0x1000) (hlsb : f.lsb < 32) : ¬ ctxKeys (regKey (.isp p) 0 f) := by
  simp only [ctxKeys, tallyKeys, waitKeys, keyPage, keyOff, regKey, Page.base]
  omega

theorem not_ctxKeys_height (hc : c < 32) : ¬ ctxKeys (regKey (.ctx c) 0 Reg.Ctx.HEIGHT_M1) := by
  have hhalf : c / 16 = 0 ∨ c / 16 = 1 := by omega
  rcases hhalf with hz | hz <;> simp only [ctxKeys, tallyKeys, waitKeys, keyPage, keyOff, regKey, Page.base, hz] <;> omega

theorem ItemStep.stripeCount (h : ItemStep s t) (hc : c < 32) : t.stripeCount c = s.stripeCount c := by
  rw [State.stripeCount, State.stripeCount, State.ctxH, State.ctxH, h.regs.rd_eq (not_ctxKeys_height hc)]

theorem ItemStep.mux (h : ItemStep s t) (hc : c < 32) : t.mux c = s.mux c := by
  rw [State.mux, State.mux, State.rdB, State.rdB, h.regs.rd_eq (not_ctxKeys_isp (by omega) (by decide) (by decide))]

theorem ItemStep.active (h : ItemStep s t) (hp : p < 2) : t.rd (.isp p) 0 Reg.Isp.ACTIVE_CTX = s.rd (.isp p) 0 Reg.Isp.ACTIVE_CTX :=
  h.regs.rd_eq (not_ctxKeys_isp hp (by decide) (by decide))

/-! ### The item is run -/

/-- One stripe of several leaves the frame first in its queue. -/
theorem runItem_of_more {f : FrameS} {rest : List FrameS} (hc : c < 32) (hf : (s.cam c).frames = f :: rest) (hmux : s.mux c = true)
    (hmore : f.stripes + 1 < s.stripeCount c) : StripesDone s (s.runItem c) c f rest 1 := by
  have hdone : StripesDone s (s.doStripe c) c f rest 1 := doStripe_done hf
  obtain ⟨h, hframes, hstripes, -⟩ := hdone.frames
  have hrun : s.runItem c = s.doStripe c := by
    unfold State.runItem
    rw [if_pos hmux]
    refine if_neg ?_
    show ¬ (s.doStripe c).stripeCount c ≤ (((s.doStripe c).cam c).frames.head?.map fun f => f.stripes).getD 0
    rw [hdone.step.stripeCount hc, hframes]
    simpa [hstripes] using hmore
  exact hrun ▸ hdone

/-- The last stripe, or a whole frame, delivers. -/
theorem runItem_of_last {f : FrameS} {rest : List FrameS} (hc : c < 32) (hf : (s.cam c).frames = f :: rest)
    (hlast : s.mux c = false ∨ s.stripeCount c ≤ f.stripes + 1) : FrameDelivered s (s.runItem c) c rest := by
  unfold State.runItem
  extract_lets s1
  have hdone : StripesDone s s1 c f rest (if s.mux c then 1 else s.stripeCount c) := doStripes_done hf
  obtain ⟨h, hframes, hstripes, -⟩ := hdone.frames
  have hdue : s1.stripeCount c ≤ ((s1.cam c).frames.head?.map fun f => f.stripes).getD 0 := by
    rw [hdone.step.stripeCount hc, hframes]
    show s.stripeCount c ≤ h.stripes
    rw [hstripes]
    rcases hlast with hmux | hle
    · rw [if_neg (by simp [hmux])]
      omega
    · split <;> omega
  rw [if_pos hdue]
  obtain ⟨hstep, hdel, hrest⟩ := frameDone_delivers hc hframes
  exact ⟨hdone.step.trans hstep, hdel.trans (congrArg (· + 1) hdone.delivered), hrest⟩

/-! ### The item is taken -/

/-- The pipeline has taken a context's first frame. -/
structure ItemTaken (s t : State) (p c : Nat) (f : FrameS) (rest : List FrameS) : Prop where
  power : t.power = s.power
  mem : t.mem = s.mem
  last : SMap.get 0 t.cams.lastCtx p = c + 1
  active : t.rd (.isp p) 0 Reg.Isp.ACTIVE_CTX = c
  frames : (t.cam c).frames = { f with taken := true } :: rest
  delivered : (t.cam c).delivered = (s.cam c).delivered
  others : ∀ d, d ≠ c → t.cam d = s.cam d
  switches : t.rd (.isp p) 0 Reg.Isp.SWITCHES = (if SMap.get 0 s.cams.lastCtx p = 0 ∨ SMap.get 0 s.cams.lastCtx p = c + 1 then
    s.rd (.isp p) 0 Reg.Isp.SWITCHES else (count31 (s.rd (.isp p) 0 Reg.Isp.SWITCHES) 1).1)
  regs : RegsIn (fun k => keyOff k = 0x10C ∨ keyOff k = 0x110) s t

theorem takeItem_takes {f : FrameS} {rest : List FrameS} (hc : c < 32) (hf : (s.cam c).frames = f :: rest) :
    ItemTaken s (s.takeItem p c) p c f rest := by
  unfold State.takeItem
  extract_lets x
  split
  · next hnil => simp [x, hf] at hnil
  next f' rest' hcons =>
  obtain ⟨rfl, rfl⟩ : f = f' ∧ rest = rest' := by simpa [x, hf] using hcons
  extract_lets last s1 s2 s3
  have hsw : regKey (.isp p) 0 Reg.Isp.SWITCHES ≠ regKey (.isp p) 0 Reg.Isp.ACTIVE_CTX := regKey_ne_of_off (by decide) (by decide) (by decide)
  have hsat : regKey (.isp p) 0 Reg.Isp.SWITCHES ≠ regKey (.isp p) 0 Reg.Isp.SWITCHES_SAT := by simp [regKey]
  have hkey {f : Fld} (h : f.off < 0x1000 ∧ f.lsb < 32) : keyOff (regKey (.isp p) 0 f) = f.off := by
    obtain ⟨hoff, hlsb⟩ := h
    simp only [keyOff, regKey, Page.base]
    omega
  have hcams : s3.cams = s2.cams := by
    simp only [s3]
    split
    · rfl
    · simp
  have hpow : s3.power = s.power ∧ s3.mem = s.mem := by
    simp only [s3]
    split
    · exact ⟨rfl, rfl⟩
    · simp only [State.count_power, State.count_mem]
      exact ⟨rfl, rfl⟩
  have hcam (d : Nat) : s3.cam d = if d = c then { x with frames := { f with taken := true } :: rest } else s.cam d :=
    (cam_of_cams (congrArg CamerasS.ctx hcams)).trans (s.cam_setCam c d { x with frames := { f with taken := true } :: rest })
  have hcam' : s3.cam c = { x with frames := { f with taken := true } :: rest } := (hcam c).trans (if_pos rfl)
  have hregs2 : RegsIn (fun k => keyOff k = 0x10C ∨ keyOff k = 0x110) s s2 := .of_regs rfl
  have hregs3 : RegsIn (fun k => keyOff k = 0x10C ∨ keyOff k = 0x110) s s3 :=
    hregs2.trans (.ite .refl (.count (.inl (hkey (by decide))) (.inl (hkey (by decide)))))
  exact {
    power := hpow.1
    mem := hpow.2
    last := (congrArg (fun y : CamerasS => SMap.get 0 y.lastCtx p) hcams).trans (SMap.get_set_self 0 s.cams.lastCtx p (c + 1))
    active := by rw [State.rd_wr_self]; exact Nat.mod_eq_of_lt hc
    frames := (congrArg CamS.frames hcam' : (s3.cam c).frames = _)
    delivered := (congrArg CamS.delivered hcam' : (s3.cam c).delivered = _)
    others := fun d hd => (hcam d).trans (if_neg hd)
    switches := by
      rw [State.rd_wr_other _ _ hsw]
      simp only [s3]
      split
      · rfl
      · exact State.rd_count_self hsat rfl
    regs := hregs3.trans (.wr (.inr (hkey (by decide)))) }

theorem ItemTaken.rd_eq {f : FrameS} {rest : List FrameS} {q : Page} {x : Fld} (h : ItemTaken s t p c f rest) (hoff : keyOff (regKey q 0 x) ≠ 0x10C)
    (hoff' : keyOff (regKey q 0 x) ≠ 0x110) : t.rd q 0 x = s.rd q 0 x := h.regs.rd_eq (by omega)

theorem ItemTaken.ctx_rd_eq {f : FrameS} {rest : List FrameS} {x : Fld} (h : ItemTaken s t p c f rest) (hc : c < 32)
    (hoff : x.off < 0x800 ∧ x.off ≠ 0x10C ∧ x.off ≠ 0x110 ∧ x.lsb < 32) : t.rd (.ctx c) 0 x = s.rd (.ctx c) 0 x := by
  have hhalf : c / 16 = 0 ∨ c / 16 = 1 := by omega
  refine h.rd_eq ?_ ?_ <;> rcases hhalf with hz | hz <;> simp only [keyOff, regKey, Page.base, hz] <;> omega

theorem ItemTaken.mux {f : FrameS} {rest : List FrameS} (h : ItemTaken s t p c f rest) : t.mux c = s.mux c := by
  rw [State.mux, State.mux, State.rdB, State.rdB, h.rd_eq] <;> simp only [keyOff, regKey, Page.base] <;> omega

theorem ItemTaken.domains {f : FrameS} {rest : List FrameS} (h : ItemTaken s t p c f rest) (hc : c < 32) :
    [memDomain (t.ctxOut c), memDomain (t.ctxStat c)] = [memDomain (s.ctxOut c), memDomain (s.ctxStat c)] := by
  rw [State.ctxOut, State.ctxStat, State.ctxOut, State.ctxStat, State.rd2, State.rd2, State.rd2, State.rd2, h.ctx_rd_eq hc (by decide), h.ctx_rd_eq hc (by decide),
    h.ctx_rd_eq hc (by decide), h.ctx_rd_eq hc (by decide)]

theorem ItemTaken.stripeCount {f : FrameS} {rest : List FrameS} (h : ItemTaken s t p c f rest) (hc : c < 32) :
    t.stripeCount c = s.stripeCount c := by
  rw [State.stripeCount, State.stripeCount, State.ctxH, State.ctxH, h.ctx_rd_eq hc (by decide)]

theorem domOn_of_power (h : t.power = s.power) (d : Nat) : t.domOn d = s.domOn d := by rw [State.domOn, State.domOn, State.dom, State.dom, h]

theorem allOn_of_power (h : t.power = s.power) {l : List Nat} (hon : AllOn s l) : AllOn t l := by
  rwa [AllOn, funext (domOn_of_power h)]

theorem workItem_takes {f : FrameS} {rest : List FrameS} (hp : p < 2) (hon : s.domOn (18 + p) = true) (hpick : s.pick p = some c) (hc : c < 32)
    (hf : (s.cam c).frames = f :: rest) (hmux : s.mux c = false) (hfe : f.ended = false) :
    ∃ t, exec (.workItem p) s = .next t ∧ ItemTaken s t p c f rest := by
  have htaken : ItemTaken s (s.takeItem p c) p c f rest := takeItem_takes hc hf
  refine ⟨s.takeItem p c, congrArg Host.Outcome.next ((if_neg (by simp [hon]; omega)).trans ?_), htaken⟩
  rw [hpick]
  refine if_pos ?_
  simp [htaken.mux, hmux, htaken.frames, hfe]

theorem workItem_runs {f : FrameS} {rest : List FrameS} (hp : p < 2) (hon : s.domOn (18 + p) = true) (hpick : s.pick p = some c) (hc : c < 32)
    (hf : (s.cam c).frames = f :: rest) (hready : s.mux c = true ∨ f.ended = true) (hall : AllOn s [memDomain (s.ctxOut c), memDomain (s.ctxStat c)]) :
    exec (.workItem p) s = .next ((s.takeItem p c).runItem c) := by
  have htaken : ItemTaken s (s.takeItem p c) p c f rest := takeItem_takes hc hf
  have hall' : AllOn (s.takeItem p c) [memDomain ((s.takeItem p c).ctxOut c), memDomain ((s.takeItem p c).ctxStat c)] := by
    rw [htaken.domains hc]
    exact allOn_of_power htaken.power hall
  refine congrArg Host.Outcome.next ((if_neg (by simp [hon]; omega)).trans ?_)
  rw [hpick]
  refine (if_neg ?_).trans ?_
  · simp only [htaken.mux, htaken.frames]
    rcases hready with h | h <;> simp [h]
  · split
    next s2 on e2 =>
    obtain ⟨rfl, rfl⟩ := Prod.mk.inj ((State.wakeAll_of_allOn hall').symm.trans e2)
    rfl

/-! ### A deadline passes, a member is absent -/

/-- A context's deadline has passed at the moment t1. -/
structure DeadlinePassed (s t : State) (c t1 : Nat) : Prop where
  cam : t.cam c = { s.cam c with tRef := some t1, skipped := true, freshRef := true }
  now : t1 ≤ t.now

theorem deadlineSkip_skips {t0 : Nat} (hc : c < 32) (hrun : s.st (.ctx c) 0 = 1) (hd : d = s.rd (.ctx c) 0 Reg.Ctx.DEADLINE) (hne : d ≠ 0)
    (hgroup : s.groupNo c = 0) (href : (s.cam c).tRef = some t0) :
    ∃ t, exec (.deadlineSkip c) s = .next t ∧ DeadlinePassed s t c (t0 + d * 1000) := by
  subst hd
  refine ⟨_, congrArg Host.Outcome.next (if_neg ?_), ?_⟩
  · simp [hrun, hgroup, hc, hne]
  split
  · next h => simp [href] at h
  next t1 h =>
  obtain rfl : t0 = t1 := Option.some.inj (href.symm.trans h)
  extract_lets at_ s1 y s2
  have hs2 : s2.cam c = { s.cam c with tRef := some at_, skipped := true, freshRef := true } := by
    rw [State.cam_setCam, if_pos rfl]
    rfl
  have hframe := recorded (s := s2) (c := c) (k := 0) (fl := 1) (fs := 0) (fe := at_) (m := 0) (crc := 0) (b := 0) (l := []) (e := [])
  have hnow : _ = s2.now := hframe.same .now (by decide)
  exact ⟨(cam_of_cams (congrArg CamerasS.ctx (hframe.same .cams (by decide)))).trans hs2, hnow ▸ le_max_right _ _⟩

/-- A member's window in the group's present slot has passed at the moment t1 without its FS. -/
structure MemberAbsent (s t : State) (g c t1 : Nat) : Prop where
  absent : c ∈ (t.group g).absent
  slot : (t.group g).slot = (s.group g).slot
  fresh : (t.cam c).freshRef = true
  now : t1 ≤ t.now

theorem not_ctxKeys_members (hg : g < 8) : ¬ ctxKeys (regKey (.isp 0) 0 (Reg.Isp.MEMBERS g)) :=
  not_ctxKeys_isp (by decide) (by simp; omega) (by simp)

/-- A slot with a member that is neither present nor absent stays open. -/
theorem groupAdvance_of_open (hd : d ∈ setBits (s.rd (.isp 0) 0 (Reg.Isp.MEMBERS g)) 32) (habsent : d ∉ (s.group g).absent)
    (hpresent : (s.group g).present = []) : s.groupAdvance g = s := by
  unfold State.groupAdvance
  extract_lets x members
  split
  · rfl
  · refine if_neg fun hall => ?_
    have := List.all_eq_true.mp hall d hd
    simp [x, habsent, hpresent] at this

/-- The record of one member of a slot leaves the slot waiting for another. -/
theorem groupWrote_of_left {k : Nat} {l : List Nat} (hwait : (s.group g).waiting = [(k, l)]) (hd : d ∈ l) (hdc : d ≠ c) :
    s.groupWrote g c k = s.setGroup g { s.group g with waiting := [(k, l.filter fun d => d != c)] } := by
  unfold State.groupWrote
  extract_lets x
  split
  · next h => simp [x, hwait] at h
  next w h =>
  obtain rfl : (k, l) = w := by simpa [x, hwait] using h
  extract_lets left
  have hleft : left.isEmpty = false := by
    rw [List.isEmpty_eq_false_iff]
    exact List.ne_nil_of_mem (List.mem_filter.mpr ⟨hd, by simpa using hdc⟩)
  rw [hleft, if_neg (by decide)]
  simp [x, hwait, left]

theorem groupAbsent_marks {m : Nat} (hg : g < 8) (hstart : (s.group g).started = true) (hcentre : (s.group g).centre = some m) (hc : c < 32)
    (hmc : bitAt (s.rd (.isp 0) 0 (Reg.Isp.MEMBERS g)) c = true) (hmd : bitAt (s.rd (.isp 0) 0 (Reg.Isp.MEMBERS g)) d = true) (hd : d < 32)
    (hdc : d ≠ c) (habsent : (s.group g).absent = []) (hpresent : (s.group g).present = []) (hwait : (s.group g).waiting = []) :
    ∃ t, exec (.groupAbsent g c) s = .next t ∧ MemberAbsent s t g c (m + s.rd (.isp 0) 0 (Reg.Isp.TOL g) * 1000) := by
  have hmem : c ∈ setBits (s.rd (.isp 0) 0 (Reg.Isp.MEMBERS g)) 32 := by simp [setBits, hc, hmc]
  have hmem' : d ∈ setBits (s.rd (.isp 0) 0 (Reg.Isp.MEMBERS g)) 32 := by simp [setBits, hd, hmd]
  refine ⟨_, rfl, ?_⟩
  extract_lets x members w
  split
  · next h => simp [x, hcentre] at h
  next m' h =>
  obtain rfl : m = m' := Option.some.inj (hcentre.symm.trans h)
  rw [if_neg (by simp [x, members, hstart, habsent, hpresent, hmem, hg])]
  extract_lets at_ s1 y s2 s3
  have hs2 : s2.group g = { x with absent := [c], waiting := [(x.slot, members)] } := by
    show (s1.setGroup g _).group g = _
    rw [State.group_setGroup, if_pos rfl]
    simp [x, w, habsent, hwait, insAsc]
  have hcam2 : (s2.cam c).freshRef = true := by
    rw [State.cam_setCam, if_pos rfl]
  have hframe : Frame _ s2 s3 := recorded
  have hstep : ItemStep s2 s3 := (ItemStep.putRecord hc).trans .ctxSignal
  have hcams : s3.cams = s2.cams := hframe.same .cams (by decide)
  have hnow : s3.now = s2.now := hframe.same .now (by decide)
  have hgroup : s3.group g = { x with absent := [c], waiting := [(x.slot, members)] } := by
    rw [State.group, hcams]
    exact hs2
  have hmembers : s3.rd (.isp 0) 0 (Reg.Isp.MEMBERS g) = s.rd (.isp 0) 0 (Reg.Isp.MEMBERS g) := hstep.regs.rd_eq (not_ctxKeys_members hg)
  have hwrote : s3.groupWrote g c x.slot = s3.setGroup g { s3.group g with waiting := [(x.slot, members.filter fun d => d != c)] } :=
    groupWrote_of_left (by rw [hgroup]) hmem' hdc
  clear_value s3
  rw [hwrote, groupAdvance_of_open (d := d) ?_ ?_ ?_]
  · refine ⟨?_, ?_, ?_, ?_⟩
    · rw [State.group_setGroup, if_pos rfl, hgroup]
      exact List.mem_singleton_self c
    · rw [State.group_setGroup, if_pos rfl, hgroup]
    · exact (congrArg CamS.freshRef (cam_of_cams (congrArg CamerasS.ctx hcams))).trans hcam2
    · exact hnow ▸ le_max_right _ _
  · rw [State.rd_setGroup, hmembers]
    exact hmem'
  · rw [State.group_setGroup, if_pos rfl, hgroup]
    simpa using hdc
  · rw [State.group_setGroup, if_pos rfl, hgroup]
    exact hpresent

/-- Settles O45: the item is taken, run a stripe or to its delivery, and the deadline and the window leave their marks. -/
theorem cameraEvents : Obligations.CameraEvents := by
  refine ⟨fun s p c f rest hp hon hpick hc hf => ⟨fun hmux hfe => ?_, fun hready hall => ?_⟩, fun s c d t0 hc hrun hd hne hgroup href => ?_,
    fun s g c m d hg hstart hcentre hc hmc hmd hd hdc habsent hpresent hwait =>
      ?_⟩
  · obtain ⟨t, hexec, htaken⟩ := workItem_takes hp hon hpick hc hf hmux hfe
    exact ⟨t, hexec, htaken.last, htaken.active, htaken.frames, htaken.others, htaken.power, htaken.mem, htaken.switches⟩
  · have htaken : ItemTaken s (s.takeItem p c) p c f rest := takeItem_takes hc hf
    have hstep : ItemStep (s.takeItem p c) ((s.takeItem p c).runItem c) := by
      by_cases hmore : (s.takeItem p c).mux c = true ∧ f.stripes + 1 < (s.takeItem p c).stripeCount c
      · exact (runItem_of_more hc htaken.frames hmore.1 hmore.2).step
      · refine (runItem_of_last hc htaken.frames ?_).step
        by_cases hmux : (s.takeItem p c).mux c = true
        · exact .inr (Nat.le_of_not_lt fun hlt => hmore ⟨hmux, hlt⟩)
        · exact .inl (Bool.eq_false_of_not_eq_true hmux)
    refine ⟨_, workItem_runs hp hon hpick hc hf hready hall, (congrArg (SMap.get 0 · p) hstep.last).trans htaken.last,
      (hstep.active hp).trans htaken.active, hstep.power.trans htaken.power, fun hmux hmore => ?_, fun hlast => ?_⟩
    · obtain ⟨-, hdel, h, hframes, hstripes, hlines, htk⟩ :=
        runItem_of_more hc htaken.frames (htaken.mux.trans hmux) (by rw [htaken.stripeCount hc]; exact hmore)
      exact ⟨hdel.trans htaken.delivered, h, hframes, hstripes, htk (by decide), hlines⟩
    · obtain ⟨-, hdel, hframes⟩ := runItem_of_last hc htaken.frames (by rw [htaken.mux, htaken.stripeCount hc]; exact hlast)
      exact ⟨hframes, hdel.trans (congrArg (· + 1) htaken.delivered)⟩
  · obtain ⟨t, hexec, hcam, hnow⟩ := deadlineSkip_skips hc hrun hd hne hgroup href
    exact ⟨t, hexec, by rw [hcam], by rw [hcam], by rw [hcam], by rw [hcam], hnow⟩
  · obtain ⟨t, hexec, hmarked⟩ := groupAbsent_marks hg hstart hcentre hc hmc hmd hd hdc habsent hpresent hwait
    exact ⟨t, hexec, hmarked.absent, hmarked.slot, hmarked.fresh, hmarked.now⟩

end
end Sys2Proof.Machine
end

section
/-! The PCIe link and the unmasking of an MSI-X vector (R241, R252, R313, R361, R363, R412). -/

namespace Sys2Proof.Machine

set_option Elab.async false

section
variable {s t : State} {p : Page} {fn k : Nat}

/-! ### A page returns to reset -/

theorem State.registersOnly_refl (s : State) : s.RegistersOnly s := rfl

theorem State.registersOnly_setRaw (s : State) (p : Page) (fn raw : Nat) : s.RegistersOnly (s.setRaw p fn raw) := by
  unfold State.RegistersOnly State.setRaw
  rw [State.vecEdge_regs]
  exact State.outboundOnly_vecEdge _ fn _ _

theorem State.registersOnly_clearPage (s : State) (p : Page) : s.RegistersOnly (s.clearPage p) := by
  unfold State.clearPage
  extract_lets s1
  have h1 : s.RegistersOnly s1 := by
    unfold s1
    split
    · exact s.registersOnly_refl
    · refine List.foldlRecOn _ _ (motive := s.RegistersOnly) s.registersOnly_refl fun t ht fn _ => ?_
      split
      · exact ht
      · exact ht.trans (t.registersOnly_setRaw ..)
  exact h1.trans rfl

theorem SMap.get_filter_of_false {α : Type} (d : α) (q : Nat × α → Bool) {m : SMap α} {k : Nat} (h : ∀ v, q (k, v) = false) :
    SMap.get d (m.filter q) k = d := by
  induction m with
  | nil => rfl
  | cons e m ih =>
    obtain ⟨k', v⟩ := e
    rw [List.filter_cons]
    split
    · next hq =>
      have hne : k' ≠ k := by
        rintro rfl
        rw [h v] at hq
        cases hq
      rw [SMap.get, if_neg hne, ih]
    · exact ih

/-- A field of the PCIE page reads its reset value once the page has been cleared. -/
theorem rd_clearRegs_pcie {f : Fld} (hoff : f.off < 0x1000) (hlsb : f.lsb < 32) : (s.clearRegs .pcie (lostOffset .pcie)).rd .pcie fn f = f.reset := by
  have haddr : regKey .pcie fn f / 32 % 2 ^ 24 = 0x0B0000 + f.off := by
    simp only [regKey, Page.base]
    omega
  refine SMap.get_filter_of_false _ _ fun v => ?_
  rw [haddr]
  show (!(decide (0x0B0000 ≤ 0x0B0000 + f.off) && decide (0x0B0000 + f.off < 0x0B0000 + 0x1000) && true)) = false
  rw [decide_eq_true (by omega), decide_eq_true (by omega)]
  rfl

theorem rd_clearPage_pcie {f : Fld} (hoff : f.off < 0x1000) (hlsb : f.lsb < 32) : (s.clearPage .pcie).rd .pcie fn f = f.reset := by
  unfold State.clearPage
  exact rd_clearRegs_pcie hoff hlsb

/-! ### The link -/

/-- What a reset of the PCIE domain leaves. -/
theorem clearPcie_leaves : s.clearPcie.sec.ide = [] ∧ s.clearPcie.power = s.power ∧ s.clearPcie.mem = s.mem ∧ s.clearPcie.tallies = s.tallies ∧
    s.clearPcie.arrays = s.arrays ∧ s.clearPcie.audio = s.audio ∧
    ∀ fn f, f.off < 0x1000 → f.lsb < 32 → s.clearPcie.rd .pcie fn f = f.reset := by
  unfold State.clearPcie
  extract_lets s1
  have honly : s.RegistersOnly s1 := s.registersOnly_clearPage .pcie
  have hregs : ∀ fn f, f.off < 0x1000 → f.lsb < 32 → s1.rd .pcie fn f = f.reset := fun _ _ hoff hlsb => rd_clearPage_pcie hoff hlsb
  clear_value s1
  exact ⟨rfl, (congrArg State.power honly :), honly.mem_eq, honly.tallies_eq, (congrArg State.arrays honly :), (congrArg State.audio honly :), hregs⟩

theorem perstNRise_link : exec .perstNRise s = .next { s with ports := { s.ports with
    perstN := true, link := if s.ports.lanesOk = true ∧ (s.ports.link = .down ∨ s.ports.link = .d3cold) then .training else s.ports.link } } := by
  refine congrArg Host.Outcome.next ?_
  unfold State.tryTrain
  by_cases h : s.ports.lanesOk = true ∧ (s.ports.link = .down ∨ s.ports.link = .d3cold)
  · rw [if_pos h, if_pos (by simpa [State.setPorts] using h)]
    rfl
  · rw [if_neg h, if_neg (by simpa [State.setPorts] using h)]
    rfl

theorem hostD3cold_leaves : ∃ t, exec .hostD3cold s = .next t ∧ (t.dom 22).st = .off ∧ (t.dom 22).req = 0 ∧ (t.dom 22).cold = true ∧
    t.ports.link = .d3cold ∧ t.mem = s.mem ∧ ∀ d, d ≠ 22 → t.dom d = s.dom d := by
  obtain ⟨-, hpower, hmem, -⟩ := clearPcie_leaves (s := s)
  refine ⟨_, rfl, ?_⟩
  generalize s.clearPcie = u at hpower hmem ⊢
  refine ⟨?_, ?_, ?_, rfl, hmem, fun d hd => ?_⟩
  · rw [State.dom_setDom_self]
  · rw [State.dom_setDom_self]
  · rw [State.dom_setDom_self]
  · rw [State.dom_setDom, if_neg hd]
    exact congrArg (fun x : PowerS => SMap.get {} x.doms d) hpower

theorem pcieLinkUp_of_training (h : s.ports.link = .training) : ∃ t, exec .pcieLinkUp s = .next t ∧ t.ports.link = .up ∧ (t.dom 22).st = .on ∧
    (t.dom 22).cold = ((s.dom 22).cold || (s.dom 22).st == .off) ∧ (∀ d, d ≠ 22 → t.dom d = s.dom d) ∧ t.regs = s.regs ∧ t.mem = s.mem := by
  have hself : ((s.setDom 22 { s.dom 22 with st := .on, cold := (s.dom 22).cold || (s.dom 22).st == .off }).setPorts { s.ports with link := .up }).dom 22 =
      { s.dom 22 with st := .on, cold := (s.dom 22).cold || (s.dom 22).st == .off } := s.dom_setDom_self ..
  refine ⟨(s.setDom 22 { s.dom 22 with st := .on, cold := (s.dom 22).cold || (s.dom 22).st == .off }).setPorts { s.ports with link := .up },
    congrArg Host.Outcome.next (by rw [h]), rfl, by rw [hself], by rw [hself], fun d hd => ?_, rfl, rfl⟩
  exact (s.dom_setDom ..).trans (if_neg hd)

/-! ### MSI-X -/

/-- A message that is sent, held or dropped leaves the vectors' mask and pending bits. -/
theorem sendMsix_msix : (s.sendMsix fn k).ports.msix = s.ports.msix := by
  unfold State.sendMsix
  split
  · rfl
  · unfold State.emitTlp
    split
    · rfl
    · split
      · rfl
      · rfl

/-- An unmasked vector holds neither mask nor pending bit, and its message leaves where nothing holds or drops it (R412). -/
theorem msixUnmask_sends (hfn : fn ≤ 8) (hk : k < 16) : ∃ t, exec (.msixUnmask fn k) s = .next t ∧
    SMap.get {} t.ports.msix (msixKey fn k) = { masked := false, pendingBit := false } ∧ t.regs = s.regs ∧ t.mem = s.mem ∧
    (fn = 0 ∨ ((s.ports.heldTlps.any fun h => h.1 == fn) = false ∧ s.weirHolds (fn - 1) 2 = false) →
      t.out = (if (SMap.get {} s.ports.msix (msixKey fn k)).masked && (SMap.get {} s.ports.msix (msixKey fn k)).pendingBit &&
        !s.ideDrops fn then s.out ++ [.msixMessage fn k] else s.out)) := by
  refine ⟨_, congrArg Host.Outcome.next (if_neg (by simp; omega)), ?_⟩
  extract_lets m s0 s1
  have hmsix : SMap.get {} s1.ports.msix (msixKey fn k) = { masked := false, pendingBit := false } := SMap.get_set_self {} s.ports.msix (msixKey fn k) { masked := false, pendingBit := false }
  have hide : s1.ideDrops fn = s.ideDrops fn := rfl
  split
  · next hdue =>
    have honly := s1.outboundOnly_sendMsix fn k
    refine ⟨?_, (congrArg State.regs honly :), (congrArg State.mem honly :), fun hfree => ?_⟩
    · rw [sendMsix_msix]
      exact hmsix
    · refine (sendMsix_out (s := s1) (k := k) hfree).trans ?_
      rw [hide]
      simp only [Bool.and_eq_true] at hdue
      show _ = if m.masked && m.pendingBit && !s.ideDrops fn then _ else _
      rw [hdue.1, hdue.2]
      cases s.ideDrops fn <;> rfl
  · next hdue =>
    refine ⟨hmsix, rfl, rfl, fun _ => ?_⟩
    show _ = if m.masked && m.pendingBit && !s.ideDrops fn then _ else _
    rw [Bool.eq_false_of_not_eq_true hdue]
    rfl

end

/-- Settles O46: each clause by what the command's reset, count or message leaves. -/
theorem pcieLink : Obligations.PcieLink := by
  refine ⟨fun s => perstNRise_link, fun s => ?_, fun s => hostD3cold_leaves, fun s => ⟨pcieLinkUp_of_training, fun h => ?_⟩, fun s hon => ⟨?_, fun hup => ?_⟩,
    fun s fn k hfn hk => msixUnmask_sends hfn hk⟩
  · obtain ⟨hide, hpower, hmem, htallies, harrays, haudio, hregs⟩ := clearPcie_leaves (s := s)
    refine ⟨_, rfl, ?_⟩
    generalize s.clearPcie = u at hide hpower hmem htallies harrays haudio hregs ⊢
    exact ⟨rfl, rfl, hide, hpower, hmem, htallies, harrays, haudio, hregs⟩
  · exact congrArg Host.Outcome.next (by rw [h]; rfl)
  · exact congrArg Host.Outcome.next (if_pos hon)
  · refine ⟨_, congrArg Host.Outcome.next (if_pos (by simp [hon, hup])), rfl, State.errCount_mem .., State.errCount_power .., ?_⟩
    exact (State.rd_setPorts ..).trans (State.rd_errCount_self ..)

end Sys2Proof.Machine
end

section
/-! Host DMA: TAIL, faults, and one line out and in (R234, R342, R380, R381). -/

namespace Sys2Proof.Machine

set_option Elab.async false

section
variable {s t u : State} {fn n len : Nat} {p : ShaP}

/-! ### The length of an ingest digest record -/

theorem length_shaRound {h : List (BitVec p.w)} {kw : BitVec p.w} (hlen : h.length = 8) : (shaRound p h kw).length = 8 := by
  unfold shaRound
  split
  · rfl
  · exact hlen

theorem length_shaBlock {h : List (BitVec p.w)} {b : List Byte} (hlen : h.length = 8) : (shaBlock p h b).length = 8 := by
  have hrounds (l : List (BitVec p.w × Nat)) : (l.foldl (fun h x => shaRound p h (x.1 + BitVec.ofNat p.w x.2)) h).length = 8 :=
    List.foldlRecOn l _ (motive := fun h : List (BitVec p.w) => h.length = 8) hlen fun _ hh _ _ => length_shaRound hh
  unfold shaBlock
  extract_lets ws ext r
  have hr : r.length = 8 := hrounds _
  simp [hlen, hr]

theorem length_leBytes (k v : Nat) : (leBytes k v).length = k := by
  induction k generalizing v with
  | zero => rfl
  | succ k ih => simp [leBytes, ih]

theorem length_sha256 (l : List Byte) : (sha256 l).length = 32 := by
  have hblocks (c : List (List Byte)) : (c.foldl (shaBlock shaP256) (sha256H.map (BitVec.ofNat 32))).length = 8 :=
    List.foldlRecOn c _ (motive := fun h : List (BitVec 32) => h.length = 8) rfl fun _ hh _ _ => length_shaBlock hh
  have hword (x : BitVec 32) : (beBytes 4 x.toNat).length = 4 := by simp [beBytes, length_leBytes]
  show (List.flatMap (fun x => beBytes 4 (BitVec.toNat x)) _).length = 32
  have hsum (b : List (BitVec 32)) : (b.flatMap fun x => beBytes 4 x.toNat).length = b.length * 4 := by
    induction b with
    | nil => rfl
    | cons x b ih =>
      rw [List.flatMap_cons, List.length_append, ih, hword, List.length_cons]
      omega
  exact (hsum _).trans (congrArg (· * 4) (hblocks _))

theorem length_ingestRecord (source unit seq : Nat) (l : List Byte) : (ingestRecord source unit seq l).length = 48 := by
  simp [ingestRecord, length_leBytes, length_sha256]

/-! ### TAIL and faults -/

theorem pcieWrite_tail {w : Nat} : s.pcieWrite fn 0x10C w =
    if s.rd .pcie fn Reg.Pcie.HD_FAULT ≠ 0 then s.errCount .pcie 0 0 1 else s.wr .pcie fn Reg.Pcie.TAIL w := if_pos rfl

theorem hostDmaTail_of_reaches {v : View} {w : Word} (h : Reaches s v .pcie 0x10C fn) :
    exec (.hostDmaTail v w) s = .next (s.pcieWrite fn 0x10C w.toNat) :=
  congrArg Host.Outcome.next (State.viaBus_of_reaches h (by simp) _ _)

/-- A function's host DMA context is in FAULT with a code. -/
structure HdFaulted (s t : State) (fn code : Nat) : Prop where
  st : t.st .pcie fn = 3
  fault : t.rd .pcie fn Reg.Pcie.HD_FAULT = code
  idx : t.rd .pcie fn Reg.Pcie.FAULT_IDX = s.rd .pcie fn Reg.Pcie.HEAD % 2 ^ 12
  head : t.rd .pcie fn Reg.Pcie.HEAD = s.rd .pcie fn Reg.Pcie.HEAD
  irq : IrqSet t .pcie 0 0
  mem : t.mem = s.mem
  tier : t.tier = s.tier

/-- The registers of a context that stops with a fault. -/
def State.hdFaultRegs (s : State) (fn code idx : Nat) : State :=
  (((s.wr .pcie fn Reg.Pcie.HD_FAULT code).wr .pcie fn Reg.Pcie.FAULT_IDX idx).wr .pcie fn (stateFld .pcie) 3).wr .pcie fn Reg.Hdr.STOP_REQ 0

theorem hdFault_eq {code : Nat} : ∃ x q, s.hdFault fn code = ((s.hdFaultRegs fn code (s.rd .pcie fn Reg.Pcie.HEAD)).setPorts x).irq .pcie q 0 :=
  ⟨_, _, rfl⟩

theorem hdFaultRegs_st {code idx : Nat} : (s.hdFaultRegs fn code idx).rd .pcie fn (stateFld .pcie) = 3 := by
  rw [State.hdFaultRegs, State.rd_wr_other _ _ (regKey_ne_of_off (by decide) (by decide) (by decide)), State.rd_wr_self]
  rfl

theorem hdFaultRegs_fault {code idx : Nat} (hcode : code < 2 ^ 8) : (s.hdFaultRegs fn code idx).rd .pcie fn Reg.Pcie.HD_FAULT = code := by
  have hidx : regKey .pcie fn Reg.Pcie.HD_FAULT ≠ regKey .pcie fn Reg.Pcie.FAULT_IDX := by simp [regKey]
  rw [State.hdFaultRegs, State.rd_wr_other _ _ (regKey_ne_of_off (by decide) (by decide) (by decide)),
    State.rd_wr_other _ _ (regKey_ne_of_off (by decide) (by decide) (by decide)), State.rd_wr_other _ _ hidx, State.rd_wr_self]
  exact Nat.mod_eq_of_lt hcode

theorem hdFaultRegs_idx {code idx : Nat} : (s.hdFaultRegs fn code idx).rd .pcie fn Reg.Pcie.FAULT_IDX = idx % 2 ^ 12 := by
  rw [State.hdFaultRegs, State.rd_wr_other _ _ (regKey_ne_of_off (by decide) (by decide) (by decide)),
    State.rd_wr_other _ _ (regKey_ne_of_off (by decide) (by decide) (by decide)), State.rd_wr_self]

theorem hdFaultRegs_head {code idx : Nat} : (s.hdFaultRegs fn code idx).rd .pcie fn Reg.Pcie.HEAD = s.rd .pcie fn Reg.Pcie.HEAD := by
  rw [State.hdFaultRegs, State.rd_wr_other _ _ (regKey_ne_of_off (by decide) (by decide) (by decide)),
    State.rd_wr_other _ _ (regKey_ne_of_off (by decide) (by decide) (by decide)),
    State.rd_wr_other _ _ (regKey_ne_of_off (by decide) (by decide) (by decide)),
    State.rd_wr_other _ _ (regKey_ne_of_off (by decide) (by decide) (by decide))]

theorem hdFault_faults {code : Nat} (hcode : code < 2 ^ 8) : HdFaulted s (s.hdFault fn code) fn code := by
  obtain ⟨x, q, heq⟩ := hdFault_eq (s := s) (fn := fn) (code := code)
  rw [heq]
  have hrd {f : Fld} (hf : f.off ≠ 0x010 ∧ f.off < 0x1000) (hlsb : f.lsb < 32) :
      (((s.hdFaultRegs fn code (s.rd .pcie fn Reg.Pcie.HEAD)).setPorts x).irq .pcie q 0).rd .pcie fn f =
        (s.hdFaultRegs fn code (s.rd .pcie fn Reg.Pcie.HEAD)).rd .pcie fn f := rd_irq_page hf hlsb
  exact {
    st := (hrd (by decide) (by decide)).trans hdFaultRegs_st
    fault := (hrd (by decide) (by decide)).trans (hdFaultRegs_fault hcode)
    idx := (hrd (by decide) (by decide)).trans hdFaultRegs_idx
    head := (hrd (by decide) (by decide)).trans hdFaultRegs_head
    irq := irqSet_irq_page _ (by decide)
    mem := (State.irq_mem ..).trans rfl
    tier := (State.irq_tier ..).trans rfl }

theorem hostDma_faults {desc data : List Byte} {e : Bool} {c : Instr} {code : Nat} (hready : s.hdReady fn = true)
    (hcause : (c = .hostDmaDescriptor fn desc data e ∧ s.ideDrops fn = false ∧ (decodeHostDesc desc).bad = true ∧ code = 1) ∨
      (c = .hostDmaDescriptor fn desc data e ∧ s.ideDrops fn = true ∧ code = 8) ∨ (c = .completionTimeout fn ∧ code = 8)) :
    exec c s = .next (s.hdFault fn code) ∧ code < 2 ^ 8 := by
  have hgo : ¬ (!s.hdReady fn) = true := by simp [hready]
  obtain ⟨rfl, hide, hbad, rfl⟩ | ⟨rfl, hide, rfl⟩ | ⟨rfl, rfl⟩ := hcause
  · exact ⟨congrArg Host.Outcome.next ((if_neg hgo).trans ((if_neg (by simp [hide])).trans (if_pos hbad))), by decide⟩
  · exact ⟨congrArg Host.Outcome.next ((if_neg hgo).trans (if_pos hide)), by decide⟩
  · exact ⟨congrArg Host.Outcome.next (if_pos hready), by decide⟩

/-! ### The end of a descriptor -/

/-- The descriptor at HEAD of the physical function is done; its record, if any, is stored. -/
structure DescDone (s t : State) (n len : Nat) : Prop where
  head : t.rd .pcie 0 Reg.Pcie.HEAD = (s.rd .pcie 0 Reg.Pcie.HEAD + 1) % len % 2 ^ 12
  xfer : SMap.get 0 t.ports.hdXfer 0 = n + 1
  xfers : t.rd .pcie 0 Reg.Pcie.XFERS = (count31 (s.rd .pcie 0 Reg.Pcie.XFERS) 1).1
  mem : t.mem = s.mem
  out : t.out = s.out

theorem descDone {x y : PortsS} (hx : x = { y with hdXfer := SMap.set 0 y.hdXfer 0 (n + 1), hdLine := SMap.set 0 y.hdLine 0 0 }) :
    DescDone s (((s.wr .pcie 0 Reg.Pcie.HEAD ((s.rd .pcie 0 Reg.Pcie.HEAD + 1) % len)).count .pcie 0 Reg.Pcie.XFERS Reg.Pcie.XFERS_SAT 1).setPorts x) n len := by
  subst hx
  exact {
    head := by
      rw [State.rd_setPorts, State.rd_count_other (by decide) (by decide), State.rd_wr_self]
    xfer := SMap.get_set_self 0 y.hdXfer 0 (n + 1)
    xfers := by
      rw [State.rd_setPorts, State.rd_count_self (by decide) rfl, State.rd_wr_other _ _ (by decide)]
    mem := State.count_mem ..
    out := State.count_out .. }

/-! ### One line -/

theorem ports_eq_of_frame {F : List Part} (h : Frame F s t) (hsl : Part.sluice ∉ F) (hib : Part.ibi ∉ F) (hua : Part.uartRx ∉ F)
    (hob : Part.outbound ∉ F) (hre : Part.portsRest ∉ F) : t.ports = s.ports := by
  have hsluice := h.same .sluice hsl
  have hibi := h.same .ibi hib
  have huart := h.same .uartRx hua
  have houtbound := h.same .outbound hob
  have hrest := h.same .portsRest hre
  simp only [Part.same, Prod.mk.injEq] at hsluice hibi huart houtbound hrest
  cases ht : t.ports
  cases hs : s.ports
  simp_all

/-- A line within one page and without an error in its memory reads its bytes; its page is stamped. -/
theorem readLine_within {x : Nat} (hup : s.upsets = []) (hwell : s.wellErrs = []) (hx : x % pageBytes + 64 ≤ pageBytes) :
    ∃ l, s.readLine x none = (s.stampAll l, none, s.bytes (s.addrOf x) 64) := by
  have hcut : min 64 (pageBytes - x % pageBytes) = 64 := by omega
  have hpieces : s.pieces x 64 = [(s.addrOf x, 64)] := by
    unfold State.pieces
    rw [hcut]
    rfl
  have hread : ∃ l, s.readAt x 64 = (s.stampAll l, s.bytes (s.addrOf x) 64) := by
    unfold State.readAt
    rw [hpieces]
    generalize ([(s.addrOf x, 64)].filterMap fun q => if wellBase ≤ q.1 then none else s.pageOf q.1) = l
    have hstamp : Frame _ s (s.stampAll l) := Frame.stampAll
    have hup' : (s.stampAll l).upsets = [] := (hstamp.same .upsets (by decide)).trans hup
    have hmem : (s.stampAll l).mem = s.mem := hstamp.same .mem (by decide)
    refine ⟨l, ?_⟩
    simp only [List.foldl_cons, List.foldl_nil, State.meetData_of_noUpsets hup', List.nil_append]
    rw [State.bytes, State.bytes, hmem]
  obtain ⟨l, hread⟩ := hread
  have hmeet {n : Nat} : s.meetLine n none = (s, false) := by
    unfold State.meetLine
    rw [hwell]
    rfl
  refine ⟨l, ?_⟩
  unfold State.readLine
  simp only [hmeet, hread]
  split <;> rfl

theorem readLine_clean {x : Nat} (hup : s.upsets = []) (hwell : s.wellErrs = []) (hx : x % 64 = 0) :
    ∃ l, s.readLine x none = (s.stampAll l, none, s.bytes (s.addrOf x) 64) :=
  readLine_within hup hwell (by simp only [pageBytes]; omega)

theorem hdLines_out {d : HostDesc} {data : List Byte} (hout : d.out = true) (hup : s.upsets = []) (hwell : s.wellErrs = []) (hx : d.obj % 64 = 0)
    (hfault : s.hdLineFault 0 d.obj d.obj false = none) :
    ∃ l, s.hdLines 0 d data 0 1 = ((s.stampAll l).emit (.hostWrite 0 d.host (s.bytes (s.addrOf d.obj) 64)), 1, none) := by
  obtain ⟨l, hread⟩ := readLine_clean hup hwell hx
  refine ⟨l, ?_⟩
  rw [State.hdLines]
  simp only [Nat.mul_zero, Nat.add_zero, hout, Bool.not_true, hfault, if_true, State.issueLine, hread, Bool.false_eq_true, if_false, State.hdLines]

theorem hdLines_in {d : HostDesc} {data : List Byte} (hout : d.out = false) (hfault : s.hdLineFault 0 d.obj d.obj true = none) :
    s.hdLines 0 d data 0 1 = (s.dstore (s.addrOf d.obj) (sliceBytes data 0 64), 1, none) := by
  rw [State.hdLines]
  simp only [Nat.mul_zero, Nat.add_zero, hout, Bool.not_false, hfault, State.chargeTlp, if_true, List.drop_zero, Bool.false_eq_true, if_false, State.hdLines]

/-- The fault of a line depends on the floor plan and the object translation table. -/
theorem hdLineFault_congr {b x : Nat} {w : Bool} (hregs : t.regs = s.regs) (htier : t.tier.ott = s.tier.ott) (hmoves : t.tier.moves = s.tier.moves) :
    t.hdLineFault fn b x w = s.hdLineFault fn b x w := by
  have hott (i : Nat) : t.ott i = s.ott i := by rw [State.ott, State.ott, htier]
  have hnamed (a : Nat) : t.wellNamed a = s.wellNamed a := by rw [State.wellNamed, State.wellNamed, State.frameNamed, State.frameNamed, htier, hmoves]
  have hpop (a : Nat) : t.populated a = s.populated a := by
    simp only [State.populated, State.rdB, State.rd_of_regs hregs]
  simp only [State.hdLineFault, hott, hnamed, hpop]

theorem addrOf_congr {x : Nat} (htier : t.tier.ott = s.tier.ott) : t.addrOf x = s.addrOf x := by
  simp only [State.addrOf, State.transAddr, State.ott, htier]

/-- A store leaves the page moves. -/
theorem dstore_moves {a : Nat} {l : List Byte} : (s.dstore a l).tier.moves = s.tier.moves := by
  have hclaim {u : State} {k : Nat} : (u.claim k).tier.moves = u.tier.moves := by
    unfold State.claim
    split <;> rfl
  have hwrote {u : State} {a f : Nat} : (u.wroteFrame a f).tier.moves = u.tier.moves := by
    unfold State.wroteFrame
    dsimp only
    split <;> rfl
  unfold State.dstore
  extract_lets pages s1
  have h1 : s1.tier.moves = s.tier.moves := List.foldlRecOn pages _ (motive := fun u : State => u.tier.moves = s.tier.moves) rfl fun u hu k _ => by
    rw [hclaim]
    split
    · exact hwrote.trans hu
    · split
      · exact hwrote.trans hu
      · exact hu
  split
  · exact h1
  · exact List.foldlRecOn pages _ (motive := fun u : State => u.tier.moves = s.tier.moves) h1 fun u hu k _ => by
      dsimp only
      split
      · exact hu
      · exact hu

theorem dstore_nil {a : Nat} : s.dstore a [] = s := by
  unfold State.dstore directPages
  simp [State.store, Memory.puts]

/-! ### The descriptor of one line -/

/-- The context runs a descriptor of one line from its first. -/
theorem hostDmaDescriptor_line {desc data : List Byte} {d : HostDesc} (hready : s.hdReady 0 = true) (hide : s.ideDrops 0 = false)
    (hd : d = decodeHostDesc desc) (hbad : d.bad = false) (hlen : d.len = 64) (hline : SMap.get 0 s.ports.hdLine 0 = 0)
    (hall : AllOn s (s.hdDomains d.obj 64 ++ s.hdDomains (s.rd2 .pcie 0 Reg.Pcie.DIG_LO Reg.Pcie.DIG_HI) 1))
    (hu : s.hdLines 0 d data 0 1 = (u, 1, none)) :
    exec (.hostDmaDescriptor 0 desc data false) s = .next (u.hdDone 0 d data) := by
  subst hd
  have hon : s.wakeAll (s.hdDomains (decodeHostDesc desc).obj (decodeHostDesc desc).len ++
      (if (decodeHostDesc desc).out then [] else s.hdDomains (s.rd2 .pcie 0 Reg.Pcie.DIG_LO Reg.Pcie.DIG_HI) 1)) = (s, true) := by
    refine State.wakeAll_of_allOn ?_
    rw [hlen]
    rw [AllOn, List.all_append, Bool.and_eq_true] at hall ⊢
    refine ⟨hall.1, ?_⟩
    split
    · rfl
    · exact hall.2
  refine congrArg Host.Outcome.next ((if_neg (by simp [hready])).trans ((if_neg (by simp [hide])).trans ((if_neg (by simp [hbad])).trans ?_)))
  split
  next s0 on e0 =>
  obtain ⟨rfl, rfl⟩ := Prod.mk.inj (hon.symm.trans e0)
  refine (if_neg (by decide)).trans ((if_neg (by decide)).trans ?_)
  extract_lets k0
  have hk0 : k0 = 0 := hline
  have hlines : s.hdLines 0 (decodeHostDesc desc) data k0 ((decodeHostDesc desc).len / 64 - k0) = (u, 1, none) := by
    rw [hk0, hlen]
    exact hu
  split
  next s1 k f e1 =>
  obtain ⟨rfl, hkf⟩ := Prod.mk.inj (hlines.symm.trans e1)
  obtain ⟨rfl, rfl⟩ := Prod.mk.inj hkf
  exact if_pos (by rw [hlen])

theorem obj_aligned {desc : List Byte} (hbad : (decodeHostDesc desc).bad = false) : (decodeHostDesc desc).obj % 64 = 0 := by
  simp only [decodeHostDesc, Bool.or_eq_false_iff] at hbad ⊢
  simpa using hbad.1.2

theorem hdDone_out {d : HostDesc} {data : List Byte} (hout : d.out = true) (hn : n = SMap.get 0 s.ports.hdXfer 0)
    (hlen : len = max 1 (s.rd .pcie 0 Reg.Pcie.RING_LEN)) : DescDone s (s.hdDone 0 d data) n len := by
  subst hn hlen
  unfold State.hdDone
  simp only [hout, if_true]
  exact descDone rfl

theorem hdDone_in {d : HostDesc} {data : List Byte} {dig : Nat} (hout : d.out = false) (hn : n = SMap.get 0 s.ports.hdXfer 0)
    (hlen : len = max 1 (s.rd .pcie 0 Reg.Pcie.RING_LEN)) (hdig : dig = s.rd2 .pcie 0 Reg.Pcie.DIG_LO Reg.Pcie.DIG_HI + 48 * (n % len))
    (hf : s.hdLineFault 0 dig dig true = none) (hf' : s.hdLineFault 0 dig (dig + 47) true = none) (hpage : dig % pageBytes + 48 ≤ pageBytes) :
    DescDone (s.dstore (s.addrOf dig) ((ingestRecord 2 8 n (sliceBytes data 0 d.len)).take 48)) (s.hdDone 0 d data) n len := by
  have hcut : min 48 (pageBytes - dig % pageBytes) = 48 := by omega
  have hdrop : (ingestRecord 2 8 n (sliceBytes data 0 d.len)).drop 48 = [] := List.drop_eq_nil_of_le (by rw [length_ingestRecord])
  unfold State.hdDone
  simp only [← hn, ← hlen, ← hdig, hout, hf, hf', hcut, hdrop, dstore_nil, Bool.false_eq_true, if_false, if_true]
  exact descDone rfl

end

/-- Settles O47: TAIL, the faults, and a descriptor of one line in either direction. -/
theorem hostDma : Obligations.HostDma := by
  refine ⟨fun s v w fn h => ?_, fun s fn desc data e c code hready hcause => ?_,
    fun s desc data d n len dig hready hide hd hbad hlen64 hline hn hlen hdig hfault hall => ⟨fun hout hup hwell => ?_, fun hout hf hf' hpage => ?_⟩⟩
  · rw [hostDmaTail_of_reaches h, pcieWrite_tail]
    exact ⟨fun h0 => congrArg Host.Outcome.next (if_neg (by simpa using h0)), fun h0 => congrArg Host.Outcome.next (if_pos h0)⟩
  · obtain ⟨hexec, hcode⟩ := hostDma_faults hready hcause
    obtain ⟨hst, hfault, hidx, hhead, hirq, hmem, htier⟩ := hdFault_faults (s := s) (fn := fn) hcode
    exact ⟨_, hexec, hst, hfault, hidx, hhead, hirq, hmem, htier⟩
  · obtain ⟨l, hlines⟩ := hdLines_out (data := data) hout hup hwell (hd ▸ obj_aligned (hd ▸ hbad)) (by simpa [hout] using hfault)
    have hstamp : Frame _ s (s.stampAll l) := Frame.stampAll
    have hregs : (s.stampAll l).regs = s.regs := hstamp.same .regs (by decide)
    have hports : (s.stampAll l).ports = s.ports := ports_eq_of_frame hstamp (by decide) (by decide) (by decide) (by decide) (by decide)
    have hmem : (s.stampAll l).mem = s.mem := hstamp.same .mem (by decide)
    have houts : (s.stampAll l).out = s.out := hstamp.same .out (by decide)
    have hexec := hostDmaDescriptor_line hready hide hd hbad hlen64 hline hall hlines
    generalize s.stampAll l = x at hregs hports hmem houts hexec
    obtain ⟨hhead, hxfer, hxfers, hkeep, hout'⟩ := hdDone_out (data := data) (s := x.emit (.hostWrite 0 d.host (s.bytes (s.addrOf d.obj) 64))) hout
      (hn.trans (by rw [State.emit_ports, hports])) (hlen.trans (by rw [State.rd_emit, State.rd_of_regs hregs]))
    refine ⟨_, hexec, hout'.trans ?_, hkeep.trans hmem, hhead.trans ?_, hxfer, hxfers.trans ?_⟩
    · exact congrArg (· ++ _) houts
    · rw [State.rd_emit, State.rd_of_regs hregs]
    · rw [State.rd_emit, State.rd_of_regs hregs]
  · have hlines := hdLines_in (data := data) hout (by simpa [hout] using hfault)
    have hstore : Frame _ s (s.dstore (s.addrOf d.obj) (sliceBytes data 0 64)) := Frame.dstore
    have hregs : (s.dstore (s.addrOf d.obj) (sliceBytes data 0 64)).regs = s.regs := hstore.same .regs (by decide)
    have hports := ports_eq_of_frame hstore (by decide) (by decide) (by decide) (by decide) (by decide)
    have hott : (s.dstore (s.addrOf d.obj) (sliceBytes data 0 64)).tier.ott = s.tier.ott := hstore.same .ott (by decide)
    have hmoves := dstore_moves (s := s) (a := s.addrOf d.obj) (l := sliceBytes data 0 64)
    have houts : (s.dstore (s.addrOf d.obj) (sliceBytes data 0 64)).out = s.out := hstore.same .out (by decide)
    have hexec := hostDmaDescriptor_line hready hide hd hbad hlen64 hline hall hlines
    generalize hx : s.dstore (s.addrOf d.obj) (sliceBytes data 0 64) = x at hregs hports hott hmoves houts hexec
    obtain ⟨hhead, hxfer, -, hkeep, hout'⟩ := hdDone_in (s := x) (data := data) hout (hn.trans (by rw [hports])) (hlen.trans (by rw [State.rd_of_regs hregs]))
      (hdig.trans (by rw [State.rd2, State.rd2, State.rd_of_regs hregs, State.rd_of_regs hregs]))
      ((hdLineFault_congr hregs hott hmoves).trans hf) ((hdLineFault_congr hregs hott hmoves).trans hf') hpage
    rw [addrOf_congr hott, hlen64] at hkeep hout' hhead
    have hstore' := Frame.dstore (s := x) (a := s.addrOf dig) (d := (ingestRecord 2 8 n (sliceBytes data 0 64)).take 48)
    refine ⟨_, hexec, hkeep, hhead.trans ?_, hxfer, hout'.trans ((hstore'.same .out (by decide)).trans houts)⟩
    rw [State.rd_of_regs (hstore'.same .regs (by decide)), State.rd_of_regs hregs]

end Sys2Proof.Machine
end

section
/-! Flash, I3C, UART and JTAG (R357, R368, R370, R382 to R384). -/

namespace Sys2Proof.Machine

set_option Elab.async false

section
variable {s t u : State} {addr len : Nat} {data : List Byte}

/-! ### Flash -/

theorem get_programFold {m : SMap Byte} {k x : Nat} :
    SMap.get 0xFF ((data.zipIdx k).foldl (fun m x => SMap.set 0xFF m (addr + x.2) x.1) m) x =
      if addr + k ≤ x ∧ x < addr + k + data.length then nth 0 data (x - (addr + k)) else SMap.get 0xFF m x := by
  induction data generalizing m k with
  | nil =>
    rw [if_neg (by simp)]
    rfl
  | cons b l ih =>
    rw [List.zipIdx_cons, List.foldl_cons, ih, List.length_cons]
    by_cases hself : x = addr + k
    · subst hself
      rw [if_neg (by omega), if_pos (by omega), SMap.get_set_self, Nat.sub_self]
      rfl
    · rw [SMap.get_set_other _ _ _ _ hself]
      by_cases hin : addr + (k + 1) ≤ x ∧ x < addr + (k + 1) + l.length
      · rw [if_pos hin, if_pos (by omega)]
        obtain ⟨j, rfl⟩ : ∃ j, x = addr + (k + 1) + j := ⟨x - (addr + (k + 1)), by omega⟩
        rw [show addr + (k + 1) + j - (addr + (k + 1)) = j by omega, show addr + (k + 1) + j - (addr + k) = j + 1 by omega]
        rfl
      · rw [if_neg hin, if_neg (by omega)]

theorem get_erase (m : SMap Byte) (q : Nat → Bool) (x : Nat) : SMap.get 0xFF (SMap.erase q m) x = if q x then 0xFF else SMap.get 0xFF m x := by
  unfold SMap.erase
  cases hq : q x with
  | true => exact SMap.get_filter_of_false _ _ fun v => by simp [hq]
  | false =>
    induction m with
    | nil => rfl
    | cons e m ih =>
      obtain ⟨k, v⟩ := e
      rw [List.filter_cons]
      by_cases hk : k = x
      · subst hk
        simp [SMap.get, hq]
      · split
        · simpa [SMap.get, hk] using ih
        · simpa [SMap.get, hk] using ih

/-- The flash takes commands of the steward: READY, with STEWARD ON. -/
theorem xspi_ready (hstage : s.rd .sys 0 Reg.Sys.STAGE = 6) (hon : s.domOn 23 = true) :
    ¬ (s.rd .sys 0 Reg.Sys.STAGE != 6 || !s.domOn 23) = true := by simp [hstage, hon]

theorem xspi_refused {b v : Bool} (hlc : s.sec.lc = 2) (hboot : b = true) (hv : v = false) : (s.sec.lc == 2 && b && !v) = true := by
  simp [hlc, hboot, hv]

theorem xspi_accepted {b v : Bool} (h : s.sec.lc ≠ 2 ∨ b = false ∨ v = true) : ¬ (s.sec.lc == 2 && b && !v) = true := by
  rcases h with h | h | h <;> simp [h]

theorem program_changes {v : Bool} (hstage : s.rd .sys 0 Reg.Sys.STAGE = 6) (hon : s.domOn 23 = true)
    (h : s.sec.lc ≠ 2 ∨ inBootCopy addr data.length = false ∨ v = true) : ∃ t, exec (.xspiCommand (.program addr data v)) s = .next t ∧
      (∀ x, SMap.get 0xFF t.ports.flash x = if addr ≤ x ∧ x < addr + data.length then nth 0 data (x - addr) else
        SMap.get 0xFF s.ports.flash x) ∧ t.regs = s.regs ∧ t.mem = s.mem :=
  ⟨_, congrArg Host.Outcome.next ((if_neg (xspi_ready hstage hon)).trans (if_neg (xspi_accepted h))), fun _ => get_programFold, rfl, rfl⟩

theorem erase_changes {v : Bool} (hstage : s.rd .sys 0 Reg.Sys.STAGE = 6) (hon : s.domOn 23 = true)
    (h : s.sec.lc ≠ 2 ∨ inBootCopy addr len = false ∨ v = true) : ∃ t, exec (.xspiCommand (.erase addr len v)) s = .next t ∧
      (∀ x, SMap.get 0xFF t.ports.flash x = if addr ≤ x ∧ x < addr + len then 0xFF else SMap.get 0xFF s.ports.flash x) ∧
      t.regs = s.regs ∧ t.mem = s.mem :=
  ⟨_, congrArg Host.Outcome.next ((if_neg (xspi_ready hstage hon)).trans (if_neg (xspi_accepted h))),
    fun x => (get_erase s.ports.flash (fun k => decide (addr ≤ k) && decide (k < addr + len)) x).trans (by simp), rfl, rfl⟩

/-! ### I3C -/

theorem i3cRequest_on {target : Nat} {l : List Byte} (hon : s.domOn 23 = true) (hst : s.st .i3c 0 ≠ 0) (hstage : s.rd .sys 0 Reg.Sys.STAGE ≠ 15) :
    s.i3cRequest target l = if 16 ≤ s.ports.ibi.length then (s.errCount .i3c 0 1 1).emit (.i3cNack target)
      else (s.setPorts { s.ports with ibi := s.ports.ibi ++ [(target, l)] }).emit (.i3cIbiAck target) :=
  if_neg (by simp [hon, hst, hstage])

theorem i3c_exec {target : Nat} {l : List Byte} {c : Instr} (h : c = .i3cIbi target l ∨ (c = .i3cHotJoin target ∧ l = [])) :
    exec c s = .next (s.i3cRequest target (l.take 4)) := by
  obtain rfl | ⟨rfl, rfl⟩ := h
  · rfl
  · rfl

theorem sendLines_eq : s.sendLines = { s with out := s.out ++ s.standpipeLines.map Out.uartLine } := by
  have hfold (l : List (List Nat)) (u : State) : l.foldl (fun s l => s.emit (.uartLine l)) u = { u with out := u.out ++ l.map Out.uartLine } := by
    induction l generalizing u with
    | nil => simp
    | cons x l ih =>
      rw [List.foldl_cons, ih]
      simp [State.emit]
  exact hfold _ _

/-! ### UART -/

theorem uartReceive_char {c : Nat} (hon : s.uartOn = true)
    (hcmd : (s.ports.uartCmd ++ [c]).drop ((s.ports.uartCmd ++ [c]).length - 8) ≠ restartString) (hstage : s.rd .sys 0 Reg.Sys.STAGE ≠ 15) :
    ∃ t, exec (.uartReceive (.char c)) s = .next t ∧
      t.ports.uartRx = (if 64 ≤ s.ports.uartRx.length then s.ports.uartRx else s.ports.uartRx ++ [c]) ∧
      t.ports.uartOverrun = (s.ports.uartOverrun || decide (64 ≤ s.ports.uartRx.length)) ∧ t.regs = s.regs ∧ t.mem = s.mem := by
  refine ⟨_, congrArg Host.Outcome.next ((if_neg (by simp [hon])).trans (if_neg hcmd)), ?_⟩
  by_cases hfull : 64 ≤ s.ports.uartRx.length
  · rw [if_neg hstage, if_pos hfull, if_pos hfull, decide_eq_true hfull, Bool.or_true]
    exact ⟨rfl, rfl, rfl, rfl⟩
  · rw [if_neg hstage, if_neg hfull, if_neg hfull, decide_eq_false hfull, Bool.or_false]
    exact ⟨rfl, rfl, rfl, rfl⟩

/-- The device runs its sequence from step 1. -/
structure Restarted (s t : State) : Prop where
  running : t.boot.running = true
  runs : t.boot.runs = (s.boot.runs + 1) % 2 ^ 32
  stage : t.rd .sys 0 Reg.Sys.STAGE = 4
  sidx : t.audio.sidx = s.audio.sidx
  mem : t.mem = []

theorem takeCopy_keeps {b : Bool} : (s.takeCopy b).boot.running = s.boot.running ∧ (s.takeCopy b).boot.runs = s.boot.runs := by
  unfold State.takeCopy
  exact ⟨rfl, rfl⟩

theorem bootCheck_keeps : s.bootCheck.boot.running = s.boot.running ∧ s.bootCheck.boot.runs = s.boot.runs := by
  unfold State.bootCheck
  extract_lets a x fail
  have hfail {m n : Nat} : (fail m n).boot.running = s.boot.running ∧ (fail m n).boot.runs = s.boot.runs := ⟨rfl, rfl⟩
  clear_value fail a
  split_ifs
  · exact takeCopy_keeps
  · exact takeCopy_keeps
  · exact hfail
  · exact takeCopy_keeps
  · exact hfail
  · exact hfail

theorem tryTrain_boot : s.tryTrain.boot = s.boot := by
  unfold State.tryTrain
  split <;> rfl

theorem bringUp_runs {x : SelfTest} : (s.bringUp x).boot.running = true ∧ (s.bringUp x).boot.runs = (s.boot.runs + 1) % 2 ^ 32 ∧
    (s.bringUp x).rd .sys 0 Reg.Sys.STAGE = 4 := by
  unfold State.bringUp
  extract_lets ok s1 y s2 lanes
  have hstage : s1.rd .sys 0 Reg.Sys.STAGE = 4 := State.rd_wr_self ..
  obtain ⟨u, hu, hrunning, hruns, hregs⟩ : ∃ u : State, s2 = u.bootCheck ∧ u.boot.running = true ∧ u.boot.runs = (s.boot.runs + 1) % 2 ^ 32 ∧
      u.regs = s1.regs := ⟨_, rfl, rfl, rfl, rfl⟩
  obtain ⟨hkeep, hkeep'⟩ := bootCheck_keeps (s := u)
  rw [← hu] at hkeep hkeep'
  have hregs' : s2.regs = s1.regs := by
    rw [hu]
    exact (Frame.bootCheck.same .regs (by decide)).trans hregs
  have htrain (v : State) : v.tryTrain.regs = v.regs := Frame.tryTrain.same .regs (by decide)
  clear_value s1 s2
  rw [tryTrain_boot]
  exact ⟨hkeep.trans hrunning, hkeep'.trans hruns, (State.rd_of_regs (htrain _) ..).trans ((State.rd_setPorts ..).trans ((State.rd_of_regs hregs' ..).trans hstage))⟩

theorem sidx_of_rest (h : Part.audioRest.same s t) : t.audio.sidx = s.audio.sidx := (congrArg AudioS.sidx h :)

theorem restart_runs (hstage : s.rd .sys 0 Reg.Sys.STAGE = 6 ∨ s.rd .sys 0 Reg.Sys.STAGE = 15) : Restarted s s.restart := by
  rw [State.restart, if_pos hstage]
  have hframe : Frame _ s.porReset (s.porReset.bringUp s.boot.test) := Frame.bringUp
  obtain ⟨hrunning, hruns, hst⟩ := bringUp_runs (s := s.porReset) (x := s.boot.test)
  have haudio := hframe.same .audioRest (by decide)
  have hboot : s.porReset.boot.runs = s.boot.runs := rfl
  rw [hboot] at hruns
  have hsidx : s.porReset.audio.sidx = s.audio.sidx := rfl
  have hmem : s.porReset.mem = [] := rfl
  have hkeep : (s.porReset.bringUp s.boot.test).audio.sidx = s.porReset.audio.sidx := sidx_of_rest haudio
  have hkeep' : (s.porReset.bringUp s.boot.test).mem = s.porReset.mem := hframe.same .mem (by decide)
  exact ⟨hrunning, hruns, hst, hkeep.trans hsidx, hkeep'.trans hmem⟩

theorem uartReceive_restart {c : Nat} (hon : s.uartOn = true)
    (hcmd : (s.ports.uartCmd ++ [c]).drop ((s.ports.uartCmd ++ [c]).length - 8) = restartString)
    (hstage : s.rd .sys 0 Reg.Sys.STAGE = 6 ∨ s.rd .sys 0 Reg.Sys.STAGE = 15) :
    ∃ t, exec (.uartReceive (.char c)) s = .next t ∧ Restarted s t := by
  refine ⟨_, congrArg Host.Outcome.next ((if_neg (by simp [hon])).trans (if_pos hcmd)), ?_⟩
  have hdone (x : PortsS) : Restarted s (s.setPorts x).restart := by
    obtain ⟨hrunning, hruns, hst, hsidx, hmem⟩ := restart_runs (s := s.setPorts x) hstage
    exact ⟨hrunning, hruns, hst, hsidx, hmem⟩
  split_ifs
  · exact hdone _
  · exact hdone _
  · exact hdone _

/-! ### JTAG -/

theorem pieces_byte (h : addr < transBase) : s.pieces addr 1 = [(addr, 1)] := by
  have hcut : min 1 (pageBytes - addr % pageBytes) = 1 := by simp only [pageBytes]; omega
  unfold State.pieces
  rw [hcut]
  simp [State.addrOf, h]

/-- A byte that no upset has struck is read as memory holds it. -/
theorem readAt_byte (hup : s.upsets = []) (h : addr < transBase) : ∃ l, s.readAt addr 1 = (s.stampAll l, [s.byte addr]) := by
  unfold State.readAt
  rw [pieces_byte h]
  generalize ([(addr, 1)].filterMap fun q => if wellBase ≤ q.1 then none else s.pageOf q.1) = l
  have hstamp : Frame _ s (s.stampAll l) := Frame.stampAll
  have hup' : (s.stampAll l).upsets = [] := (hstamp.same .upsets (by decide)).trans hup
  have hmem : (s.stampAll l).mem = s.mem := hstamp.same .mem (by decide)
  refine ⟨l, ?_⟩
  simp only [List.foldl_cons, List.foldl_nil, State.meetData_of_noUpsets hup', List.nil_append]
  rw [State.bytes, hmem]
  rfl

theorem wakeAll_memDomain (hon : s.domOn (memDomain addr) = true) : s.wakeAll [memDomain addr] = (s, true) :=
  State.wakeAll_of_allOn (by rw [AllOn, List.all_cons, hon]; rfl)

theorem wroteFrame_keeps {a f : Nat} : (s.wroteFrame a f).mem = s.mem ∧ (s.wroteFrame a f).tier = s.tier := by
  unfold State.wroteFrame
  dsimp only
  split <;> exact ⟨rfl, rfl⟩

/-- A store of one byte while no frame waits for zeroing. -/
theorem dstore_byte_eq {d : Byte} (hdirty : s.tier.dirty = []) : ∃ u : State, u.mem = s.mem ∧ u.tier = s.tier ∧
    s.dstore addr [d] = if addr < wellBase then u.store addr [d] else if u.frameNamed (pageFrame (addr / pageBytes)) then u else u.store addr [d] := by
  have hpages : directPages addr 1 = [addr / pageBytes] := by
    simp [directPages]
  let u := if addr / pageBytes < 0x1000 then s.wroteFrame (addr / pageBytes / 0x200) (addr / pageBytes % 0x200)
    else if addr / pageBytes < 0x2000 then s.wroteFrame 8 (addr / pageBytes - 0x1000) else s
  have hu : u.mem = s.mem ∧ u.tier = s.tier := by
    simp only [u]
    split
    · exact wroteFrame_keeps
    · split
      · exact wroteFrame_keeps
      · exact ⟨rfl, rfl⟩
  have hclaim (k : Nat) : u.claim k = u := if_neg (by simp [hu.2, hdirty])
  refine ⟨u, hu.1, hu.2, ?_⟩
  have hlo : max addr (addr / pageBytes * pageBytes) = addr := max_eq_left (Nat.div_mul_le_self ..)
  have hroom : [d].take ((addr / pageBytes + 1) * pageBytes - addr) = [d] := by
    refine List.take_of_length_le ?_
    simp only [pageBytes, List.length_singleton]
    omega
  unfold State.dstore
  rw [List.length_singleton, hpages]
  simp only [List.foldl_cons, List.foldl_nil]
  rw [show (State.claim _ (pageFrame (addr / pageBytes))) = u from hclaim _, hlo, Nat.sub_self, List.drop_zero, hroom]

theorem frameNamed_of_tier {k : Nat} (h : t.tier = s.tier) : t.frameNamed k = s.frameNamed k := by rw [State.frameNamed, State.frameNamed, h]

/-- A write of one byte that no named well frame refuses stores it. -/
theorem dstore_byte {d : Byte} (hdirty : s.tier.dirty = []) (h : addr < wellBase ∨ s.frameNamed (pageFrame (addr / pageBytes)) = false) (x : Nat) :
    (s.dstore addr [d]).byte x = if x = addr then d else s.byte x := by
  obtain ⟨u, hmem, htier, heq⟩ := dstore_byte_eq (addr := addr) (d := d) hdirty
  have hstore : s.dstore addr [d] = u.store addr [d] := by
    rw [heq, frameNamed_of_tier htier]
    rcases h with h | h
    · rw [if_pos h]
    · simp [h]
  rw [hstore, State.byte_store, State.byte_of_mem hmem]
  by_cases hx : x = addr
  · subst hx
    simp
  · rw [if_neg hx, dif_neg]
    rw [List.length_singleton]
    omega

theorem dstore_byte_named {d : Byte} (hdirty : s.tier.dirty = []) (hwell : wellBase ≤ addr)
    (h : s.frameNamed (pageFrame (addr / pageBytes)) = true) : (s.dstore addr [d]).mem = s.mem := by
  obtain ⟨u, hmem, htier, heq⟩ := dstore_byte_eq (addr := addr) (d := d) hdirty
  rw [heq, frameNamed_of_tier htier, h, if_pos rfl, if_neg (by omega), hmem]

theorem busRead_reads (hscope : bitAt s.sec.dbgScope 3 = true) (hpop : s.populated addr = true) (haddr : addr < transBase)
    (hon : s.domOn (memDomain addr) = true) (hup : s.upsets = []) : ∃ t, exec (.jtagAccess (.busRead addr)) s = .next t ∧
      t.out = s.out ++ [.jtagData (s.byte addr).toNat] ∧ t.mem = s.mem ∧ t.regs = s.regs := by
  obtain ⟨l, hread⟩ := readAt_byte hup haddr
  have hstamp : Frame _ s (s.stampAll l) := Frame.stampAll
  have hmem : (s.stampAll l).mem = s.mem := hstamp.same .mem (by decide)
  have hout : (s.stampAll l).out = s.out := hstamp.same .out (by decide)
  have hregs : (s.stampAll l).regs = s.regs := hstamp.same .regs (by decide)
  generalize s.stampAll l = u at hread hmem hout hregs
  refine ⟨(u.setPorts { u.ports with jtagBypass := false }).emit (.jtagData (s.byte addr).toNat),
    congrArg Host.Outcome.next ((if_neg (by simp [hscope])).trans ((if_neg (by simp [hpop])).trans ?_)), congrArg (· ++ _) hout, hmem, hregs⟩
  split
  next s1 on e1 =>
  obtain ⟨rfl, rfl⟩ := Prod.mk.inj ((wakeAll_memDomain hon).symm.trans e1)
  refine (if_pos rfl).trans ?_
  split
  next s2 l e2 =>
  obtain ⟨rfl, rfl⟩ := Prod.mk.inj (hread.symm.trans e2)
  rfl

theorem busWrite_stores {d : Byte} (hscope : bitAt s.sec.dbgScope 3 = true) (hpop : s.populated addr = true)
    (hon : s.domOn (memDomain addr) = true) :
    exec (.jtagAccess (.busWrite addr d)) s = .next ((s.setPorts { s.ports with jtagBypass := false }).dstore addr [d]) := by
  refine congrArg Host.Outcome.next ((if_neg (by simp [hscope])).trans ((if_neg (by simp [hpop])).trans ?_))
  split
  next s1 on e1 =>
  obtain ⟨rfl, rfl⟩ := Prod.mk.inj ((wakeAll_memDomain hon).symm.trans e1)
  exact if_pos rfl

end

/-- Settles O48: one lemma per port and command. -/
theorem servicePorts : Obligations.ServicePorts := by
  refine ⟨fun s addr len data v hstage hon => ⟨fun hlc hboot hv => ?_, program_changes hstage hon, erase_changes hstage hon, fun hlc hboot hv => ?_⟩,
    fun s target p c hon hst hstage hc => ⟨fun hlen => ?_, fun hlen => ?_⟩, fun s hstage => ⟨fun n => ?_, ?_⟩, fun s hstage => ⟨fun n => ?_, ?_⟩,
    fun s c hon => ⟨uartReceive_char hon, fun hcmd hstage => ?_, ?_, ?_⟩,
    fun s addr d => ⟨rfl, rfl, rfl, rfl, rfl, fun hscope => ⟨?_, ?_⟩, fun hscope hpop => ⟨?_, ?_⟩, fun hscope hpop haddr hon =>
      ⟨busRead_reads hscope hpop haddr hon, fun hdirty h => ?_, fun hdirty hwell h => ?_⟩⟩⟩
  · exact congrArg Host.Outcome.next ((if_neg (xspi_ready hstage hon)).trans (if_pos (xspi_refused hlc hboot hv)))
  · exact congrArg Host.Outcome.next ((if_neg (xspi_ready hstage hon)).trans (if_pos (xspi_refused hlc hboot hv)))
  · rw [i3c_exec hc, i3cRequest_on hon hst hstage, if_neg (by omega)]
    rfl
  · rw [i3c_exec hc, i3cRequest_on hon hst hstage, if_pos hlen]
  · exact congrArg Host.Outcome.next (if_pos (by simp [hstage]))
  · exact congrArg Host.Outcome.next ((if_pos (by simp [hstage])).trans sendLines_eq)
  · exact congrArg Host.Outcome.next (if_neg (by simp [hstage]))
  · exact congrArg Host.Outcome.next (if_neg (by simp [hstage]))
  · obtain ⟨t, hexec, hdone⟩ := uartReceive_restart hon hcmd hstage
    exact ⟨t, hexec, hdone.running, hdone.runs, hdone.stage, hdone.sidx, hdone.mem⟩
  · exact congrArg Host.Outcome.next (if_neg (by simp [hon]))
  · exact congrArg Host.Outcome.next (if_neg (by simp [hon]))
  · exact congrArg Host.Outcome.next (if_pos (by simp [hscope]))
  · exact congrArg Host.Outcome.next (if_pos (by simp [hscope]))
  · exact congrArg Host.Outcome.next ((if_neg (by simp [hscope])).trans (if_pos (by simp [hpop])))
  · exact congrArg Host.Outcome.next ((if_neg (by simp [hscope])).trans (if_pos (by simp [hpop])))
  · refine ⟨_, busWrite_stores hscope hpop hon, ?_, Frame.dstore.same .regs (by decide)⟩
    exact dstore_byte (s := s.setPorts { s.ports with jtagBypass := false }) hdirty h
  · refine ⟨_, busWrite_stores hscope hpop hon, ?_, Frame.dstore.same .regs (by decide)⟩
    exact dstore_byte_named (s := s.setPorts { s.ports with jtagBypass := false }) hdirty hwell h

end Sys2Proof.Machine
end

section
/-! The auxiliary stream port: words, DRAIN_GO and the end of a drain (R385 to R389). -/

namespace Sys2Proof.Machine

set_option Elab.async false

section
variable {s t u : State} {n : Nat}

/-- XOFF is the only register that the watermarks move. -/
theorem rd_aspXoff {f : Fld} (h : regKey .asp 0 f ≠ regKey .asp 0 Reg.Asp.XOFF) : s.aspXoff.rd .asp 0 f = s.rd .asp 0 f := by
  unfold State.aspXoff
  extract_lets p n
  split
  · split
    · exact State.rd_wr_other _ _ h
    · split
      · exact State.rd_wr_other _ _ h
      · rfl
  · exact State.rd_wr_other _ _ h

theorem aspXoff_keeps : s.aspXoff.ports = s.ports ∧ s.aspXoff.mem = s.mem := by
  unfold State.aspXoff
  extract_lets p n
  split_ifs <;> exact ⟨rfl, rfl⟩

theorem irq_sluice {p : Page} {q : Option Nat} {k : Nat} : (s.irq p q k).ports.sluice = s.ports.sluice := Frame.irq.same .sluice (by decide)

theorem drain_of_rest (h : Part.portsRest.same s t) : t.ports.drain = s.ports.drain := (congrArg PortsS.drain h :)

theorem irq_drain {p : Page} {q : Option Nat} {k : Nat} : (s.irq p q k).ports.drain = s.ports.drain :=
  drain_of_rest (Frame.irq.same .portsRest (by decide))

/-! ### A word -/

theorem aspWord_enters {d : BitVec 64} (hon : s.domOn 23 = true) (hst : s.st .asp 0 = 1) (hroom : s.ports.sluice.length < 8192) :
    ∃ t, exec (.aspWord d) s = .next t ∧ t.ports.sluice = s.ports.sluice ++ [d] ∧ t.mem = s.mem ∧
      t.rd .asp 0 Reg.Asp.DROPPED = s.rd .asp 0 Reg.Asp.DROPPED := by
  refine ⟨_, congrArg Host.Outcome.next ((if_neg (by simp [hon, hst])).trans (if_neg (by omega))), ?_, ?_, ?_⟩
  · rw [aspXoff_keeps.1]
    rfl
  · exact aspXoff_keeps.2
  · exact rd_aspXoff (by decide)

/-- A word is dropped and counted. -/
structure WordDropped (s t : State) : Prop where
  sluice : t.ports.sluice = s.ports.sluice
  mem : t.mem = s.mem
  dropped : t.rd .asp 0 Reg.Asp.DROPPED = (count31 (s.rd .asp 0 Reg.Asp.DROPPED) 1).1
  overrun : t.rd .asp 0 Reg.Asp.OVERRUN = 1
  irq : IrqSet t .asp 0 1

theorem wordDropped : WordDropped s (((s.count .asp 0 Reg.Asp.DROPPED Reg.Asp.DROPPED_SAT 1).wr .asp 0 Reg.Asp.OVERRUN 1).irq .asp none 1) where
  sluice := irq_sluice.trans (congrArg PortsS.sluice (State.count_ports ..))
  mem := by simp
  dropped := by
    rw [State.rd_irq_none (by decide), State.rd_wr_other _ _ (by decide), State.rd_count_self (by decide) rfl]
  overrun := by
    rw [State.rd_irq_none (by decide), State.rd_wr_self]
    rfl
  irq := State.irqSet_irq _ _ (by decide)

theorem aspWord_drops {d : BitVec 64} (hon : s.domOn 23 = true) (hst : s.st .asp 0 = 1) (hfull : 8192 ≤ s.ports.sluice.length) :
    ∃ t, exec (.aspWord d) s = .next t ∧ WordDropped s t :=
  ⟨_, congrArg Host.Outcome.next ((if_neg (by simp [hon, hst])).trans (if_pos hfull)), wordDropped⟩

/-! ### DRAIN_GO -/

theorem drainGo_of_reaches {v : View} {w : Word} (h : Reaches s v .asp 0x10C 0) :
    exec (.drainGo v w) s = .next (s.aspWrite 0x10C (setField w.toNat 31 1 1)) :=
  congrArg Host.Outcome.next (State.viaBus_of_reaches h (by simp) _ _)

/-- A write of DRAIN_GO while no drain runs. -/
theorem aspWrite_drainGo {w : Nat} (hgo : bitAt w 31 = true) (hdrain : s.ports.drain = none) (hn : field w 0 14 = n) :
    s.aspWrite 0x10C w = if s.ports.sluice.length < n then (s.wr .asp 0 Reg.Asp.DRAIN_LEN n).errCount .asp 0 1 1
      else ((s.wr .asp 0 Reg.Asp.DRAIN_LEN n).wr .asp 0 Reg.Asp.DRAIN_GO 1).setPorts { s.ports with drain := some n } := by
  subst hn
  unfold State.aspWrite
  simp only [if_true, hgo, Bool.not_true, Bool.false_eq_true, if_false, hdrain, Option.isSome_none]
  rfl

theorem drainGo_taken (hn : n < 2 ^ 14) :
    (((s.wr .asp 0 Reg.Asp.DRAIN_LEN n).wr .asp 0 Reg.Asp.DRAIN_GO 1).setPorts { s.ports with drain := some n }).rd .asp 0 Reg.Asp.DRAIN_GO = 1 ∧
    (((s.wr .asp 0 Reg.Asp.DRAIN_LEN n).wr .asp 0 Reg.Asp.DRAIN_GO 1).setPorts { s.ports with drain := some n }).rd .asp 0 Reg.Asp.DRAIN_LEN = n := by
  rw [State.rd_setPorts, State.rd_setPorts, State.rd_wr_self, State.rd_wr_other _ _ (by decide), State.rd_wr_self]
  exact ⟨rfl, Nat.mod_eq_of_lt hn⟩

/-! ### The end of a drain -/

/-- The drained words have left the sluice, and the ring and the transfer number have moved on. -/
structure Drained (s t : State) (n k off len m : Nat) : Prop where
  sluice : t.ports.sluice = s.ports.sluice.drop n
  drain : t.ports.drain = none
  mem : t.mem = s.mem
  off : t.rd .asp 0 Reg.Asp.DST_OFF = (off + m) % len % 2 ^ 24
  xfer : t.rd .asp 0 Reg.Asp.XFER_NUM = (k + 1) % 2 ^ 32
  go : t.rd .asp 0 Reg.Asp.DRAIN_GO = 0
  irq : IrqSet t .asp 0 0

theorem drained {k off len m : Nat} {x : PortsS} (hx : x = { s.ports with sluice := s.ports.sluice.drop n, drain := none }) :
    Drained s ((((((s.setPorts x).wr .asp 0 Reg.Asp.DST_OFF ((off + m) % len)).wr .asp 0 Reg.Asp.XFER_NUM ((k + 1) % 2 ^ 32)).wr .asp 0
      Reg.Asp.DRAIN_GO 0).aspXoff).irq .asp none 0) n k off len m where
  sluice := by
    rw [irq_sluice, aspXoff_keeps.1, hx]
    rfl
  drain := by
    rw [irq_drain, aspXoff_keeps.1, hx]
    rfl
  mem := by
    rw [State.irq_mem, aspXoff_keeps.2]
    rfl
  off := by
    rw [State.rd_irq_none (by decide), rd_aspXoff (by decide), State.rd_wr_other _ _ (by decide), State.rd_wr_other _ _ (by decide), State.rd_wr_self]
  xfer := by
    rw [State.rd_irq_none (by decide), rd_aspXoff (by decide), State.rd_wr_other _ _ (by decide), State.rd_wr_self, Nat.mod_mod]
  go := by
    rw [State.rd_irq_none (by decide), rd_aspXoff (by decide), State.rd_wr_self, Nat.zero_mod]
  irq := State.irqSet_irq _ _ (by decide)

theorem allOn_of_forall (h : ∀ d, s.domOn d = true) (l : List Nat) : AllOn s l := List.all_eq_true.mpr fun d _ => h d

/-- The end of a drain whose domains are ON. -/
theorem aspDrainEnd_drains {data : List Byte} {k off len dst dig : Nat} (hdrain : s.ports.drain = some n) (hall : ∀ d, s.domOn d = true)
    (hk : k = s.rd .asp 0 Reg.Asp.XFER_NUM) (hlen : len = max 1 (s.rd .asp 0 Reg.Asp.DST_LEN)) (hoff : off = s.rd .asp 0 Reg.Asp.DST_OFF)
    (hdst : dst = s.rd2 .asp 0 Reg.Asp.DST_LO Reg.Asp.DST_HI)
    (hdig : dig = s.rd2 .asp 0 Reg.Asp.DIG_LO Reg.Asp.DIG_HI + 48 * (k % (s.rd .asp 0 Reg.Asp.DIG_SLOTS_M1 + 1)))
    (hdata : data = ((s.ports.sluice.take n).flatMap fun w => leBytes 8 w.toNat)) :
    ∃ t, exec .aspDrainEnd s = .next t ∧ Drained ((s.aspStore dst (data.zipIdx.map fun x => (dst + (off + x.2) % len, x.1))).aspStore dig
        ((ingestRecord 3 0 k data).zipIdx.map fun x => (dig + x.2, x.1))) t n k off len data.length := by
  refine ⟨_, rfl, ?_⟩
  split
  · next h => simp [hdrain] at h
  next n' h =>
  obtain rfl : n = n' := Option.some.inj (hdrain.symm.trans h)
  simp only [← hk, ← hlen, ← hoff, ← hdst, ← hdig, ← hdata]
  rw [State.wakeAll_of_allOn (allOn_of_forall hall _)]
  exact drained rfl

end

/-- Settles O49: words enter or are dropped, DRAIN_GO is taken or counted, and the end of a drain moves the ring on. -/
theorem auxiliaryStreamPort : Obligations.AuxiliaryStreamPort := by
  refine ⟨fun s d hon hst => ⟨aspWord_enters hon hst, fun hfull => ?_⟩, fun s v w h hdrain => ?_,
    fun s n k len off dst dig data hdrain hall hk hlen hoff hdst hdig hdata => ?_⟩
  · obtain ⟨t, hexec, hdrop⟩ := aspWord_drops (d := d) hon hst hfull
    exact ⟨t, hexec, hdrop.sluice, hdrop.mem, hdrop.dropped, hdrop.overrun, hdrop.irq⟩
  · have hlen : field (setField w.toNat 31 1 1) 0 14 = field w.toNat 0 14 := field_setField_of_disjoint (by decide)
    have hgo := bitAt_setField_one w.toNat 31
    have hexec := drainGo_of_reaches (s := s) (w := w) h
    have hlt : field w.toNat 0 14 < 2 ^ 14 := Nat.mod_lt _ (by decide)
    generalize setField w.toNat 31 1 1 = x at hlen hgo hexec
    rw [aspWrite_drainGo hgo hdrain hlen] at hexec
    generalize field w.toNat 0 14 = n at hlt hexec ⊢
    refine ⟨fun hfit => ?_, fun hshort => ?_⟩
    · rw [if_neg (by omega)] at hexec
      obtain ⟨hset, hset'⟩ := drainGo_taken (s := s) hlt
      exact ⟨_, hexec, rfl, hset, hset', rfl, rfl⟩
    · rw [if_pos hshort] at hexec
      have hframe : Frame _ (s.wr .asp 0 Reg.Asp.DRAIN_LEN n) _ := Frame.errCount (p := .asp) (b := 0) (i := 1) (n := 1)
      refine ⟨_, hexec, (drain_of_rest (hframe.same .portsRest (by decide))).trans hdrain, State.errCount_mem .., hframe.same .sluice (by decide), ?_⟩
      rw [State.rd_errCount_self, State.rd_wr_other _ _ (by decide)]
  · obtain ⟨t, hexec, hdone⟩ := aspDrainEnd_drains hdrain hall hk hlen hoff hdst hdig hdata
    have hstore : Frame _ s ((s.aspStore dst (data.zipIdx.map fun x => (dst + (off + x.2) % len, x.1))).aspStore dig
        ((ingestRecord 3 0 k data).zipIdx.map fun x => (dig + x.2, x.1))) := Frame.aspStore.trans Frame.aspStore
    exact ⟨t, hexec, hdone.sluice.trans (congrArg (List.drop n) (hstore.same .sluice (by decide))), hdone.drain, hdone.mem, hdone.off, hdone.xfer,
      hdone.go, hdone.irq⟩

end Sys2Proof.Machine
end

section
/-! Clocks, training and telemetry (R15, R241, R349, R426, R428). -/

namespace Sys2Proof.Machine

set_option Elab.async false

section
variable {s t u : State} {a : Nat}

theorem oppSettled_leaves (ha : a < 8) : ∃ t, exec (.oppSettled a) s = .next t ∧ (t.arr a).oppSettling = false ∧ t.regs = s.regs ∧ t.mem = s.mem ∧
    ∀ b, b ≠ a → t.arr b = s.arr b := by
  refine ⟨_, congrArg Host.Outcome.next (if_neg (by omega)), ?_, rfl, rfl, fun b hb => ?_⟩
  · rw [State.arr_modArr_self]
  · rw [State.arr_modArr, if_neg hb]

/-! ### Training -/

/-- The margins of the trained channels are no status of the training. -/
def marginKeys (k : Nat) : Prop := keyPage k = 0xD8 ∧ 0x140 ≤ keyOff k

theorem marginKeys_of_off {f : Fld} (hoff : 0x140 ≤ f.off ∧ f.off < 0x1000) (hlsb : f.lsb < 32) : marginKeys (regKey .phy 0 f) := by
  simp only [marginKeys, keyPage, keyOff, regKey, Page.base]
  omega

/-- The registers that a retraining leaves. -/
structure Retrained (s t : State) (chs done good bad : Nat) : Prop where
  ready : t.rd .lpddr 0 Reg.Lpddr.CH_READY = or32 (clr32 (s.rd .lpddr 0 Reg.Lpddr.CH_READY) chs) good % 2 ^ 8
  done : t.rd .phy 0 Reg.Phy.TRAIN_DONE = or32 (clr32 (s.rd .phy 0 Reg.Phy.TRAIN_DONE) chs) done % 2 ^ 8
  fail : t.rd .phy 0 Reg.Phy.TRAIN_FAIL = or32 (clr32 (s.rd .phy 0 Reg.Phy.TRAIN_FAIL) chs) bad % 2 ^ 8

theorem retrain_leaves {w ok chs : Nat} (hst : s.st .lpddr 0 = 0) (hchs : chs = and32 (field w 0 8) (s.rd .floor 0 Reg.Floor.CH_PRESENT)) :
    Retrained s (s.retrain w ok) chs (and32 chs (ok % 256)) (and32 chs (ok % 256)) (and32 chs (clr32 255 ok)) := by
  subst hchs
  unfold State.retrain
  rw [if_neg (by simpa using hst)]
  extract_lets chs upd s1 s2
  have hmargins : RegsIn marginKeys s2 ((setBits chs 8).foldl (fun s c =>
      let (v, s) := s.takeFree
      (((s.wr .phy 0 (Reg.Phy.RD_MV c) v).wr .phy 0 (Reg.Phy.WR_MV c) (v / 256)).wr .phy 0 (Reg.Phy.RD_PS c) (v / 65536)).wr .phy 0
        (Reg.Phy.WR_PS c) (v / 2 ^ 24)) s2) := by
    refine .foldl fun u c hc => ?_
    have hc8 : c < 8 := List.mem_range.mp (List.mem_filter.mp hc).1
    have hw {u : State} {f : Fld} {x : Nat} (hoff : f.off = 0x140 + 4 * c) (hlsb : f.lsb < 32) : RegsIn marginKeys u (u.wr .phy 0 f x) :=
      .wr (marginKeys_of_off (by omega) hlsb)
    exact ((((RegsIn.of_regs rfl).trans (hw rfl (by simp))).trans (hw rfl (by simp))).trans (hw rfl (by simp))).trans (hw rfl (by simp))
  have hkeep {p : Page} {f : Fld} (h : ¬ marginKeys (regKey p 0 f)) := hmargins.rd_eq h
  refine ⟨(hkeep ?_).trans ?_, (hkeep ?_).trans ?_, (hkeep ?_).trans ?_⟩
  · unfold marginKeys; decide
  · simp only [s2, s1]
    simp (disch := decide) only [State.rd_wr_self, State.rd_wr_other]
    rfl
  · unfold marginKeys; decide
  · simp only [s2, s1]
    simp (disch := decide) only [State.rd_wr_self, State.rd_wr_other]
    rfl
  · unfold marginKeys; decide
  · simp only [s2, s1]
    simp (disch := decide) only [State.rd_wr_self, State.rd_wr_other]
    rfl

/-! ### The end of a telemetry window -/

/-- What the end of window k leaves in THERM. -/
structure WindowEnded (s t : State) (k half : Nat) : Prop where
  window : t.rd .therm 0 Reg.Therm.WINDOW = k % 2 ^ 32
  half : t.rd .therm 0 Reg.Therm.PWR_HALF_W = min half 255
  throttle : t.rd .therm 0 Reg.Therm.THROTTLE = b2n (s.throttled != 0)
  mem : t.mem = s.mem

theorem throttled_congr (h : ∀ a, t.rd (.ma a) 0 Reg.Ma.THROTTLED = s.rd (.ma a) 0 Reg.Ma.THROTTLED) : t.throttled = s.throttled := by
  simp only [State.throttled, State.rdB, h]

theorem windowEnded {k half tj p e : Nat} {u v : State} (hu : u = (s.wr .therm 0 Reg.Therm.PWR_HALF_W (min half 255)).wr .therm 0 Reg.Therm.TJ_C tj)
    (hv : v = (u.wr .therm 0 Reg.Therm.THROTTLE (b2n (u.throttled != 0))).wr .therm 0 Reg.Therm.WINDOW (k % 2 ^ 32)) :
    WindowEnded s ((v.wr .therm 0 Reg.Therm.PWR_MW p).wr .therm 0 Reg.Therm.ENERGY_J e) k half := by
  have hthrottled : u.throttled = s.throttled := throttled_congr fun a => by
    have hne {f : Fld} (hoff : f.off = 0x100 ∨ f.off = 0x104) (hlsb : f.lsb < 29) : regKey (.ma a) 0 Reg.Ma.THROTTLED ≠ regKey .therm 0 f := by
      simp only [regKey, Page.base]
      omega
    rw [hu, State.rd_wr_other _ _ (hne (by decide) (by decide)), State.rd_wr_other _ _ (hne (by decide) (by decide))]
  have hbit : b2n (u.throttled != 0) % 2 ^ 1 = b2n (s.throttled != 0) := by
    rw [hthrottled]
    cases s.throttled != 0 <;> rfl
  exact {
    window := by
      rw [hv]
      simp (disch := decide) only [State.rd_wr_self, State.rd_wr_other, Nat.mod_mod]
    half := by
      rw [hv, State.rd_wr_other _ _ (by decide), State.rd_wr_other _ _ (by decide), State.rd_wr_other _ _ (by decide), State.rd_wr_other _ _ (by decide), hu,
        State.rd_wr_other _ _ (by decide), State.rd_wr_self]
      exact Nat.mod_eq_of_lt (Nat.lt_of_le_of_lt (Nat.min_le_right ..) (by decide))
    throttle := by
      rw [hv, State.rd_wr_other _ _ (by decide), State.rd_wr_other _ _ (by decide), State.rd_wr_other _ _ (by decide), State.rd_wr_self]
      exact hbit
    mem := by
      rw [hv, hu]
      rfl }

theorem telemWindowEnd_leaves (mw : Nat) : ∃ t, exec (.telemWindowEnd mw) s = .next t ∧ t.now = (s.now / 10 ^ 8 + 1) * 10 ^ 8 ∧
    WindowEnded s t (s.now / 10 ^ 8) (rheDiv (mw : Int) 500).toNat ∧ t.supply.energy = s.supply.energy + mw := by
  refine ⟨_, rfl, ?_⟩
  extract_lets k x half
  split
  next v s1 e1 =>
  split
  next v2 s2 e2 =>
  extract_lets s3 s4
  obtain ⟨-, rfl⟩ := Prod.mk.inj e1
  obtain ⟨-, rfl⟩ := Prod.mk.inj e2
  obtain ⟨hwindow, hhalf, hthrottle, hmem⟩ := windowEnded (k := k) (half := half) (p := v2) (e := min (s4.supply.energy / 10000) (2 ^ 32 - 1)) (rfl : s3 = _) (rfl : s4 = _)
  exact ⟨rfl, ⟨hwindow, hhalf, hthrottle, hmem⟩, rfl⟩

end

/-- Settles O56: each command by the registers that it writes. -/
theorem clocksAndTelemetry : Obligations.ClocksAndTelemetry := by
  refine fun s => ⟨fun a ha => oppSettled_leaves ha, rfl, fun c hot hc => congrArg Host.Outcome.next (if_neg (by omega)), fun v w ok chs h => ?_, fun mw => ?_⟩
  · have hexec : exec (.retrain v w ok) s = .next (s.retrain w.toNat ok) :=
      congrArg Host.Outcome.next (State.viaBus_of_reaches h (by simp) _ _)
    refine ⟨fun hst hchs => ?_, fun hst => hexec.trans (congrArg Host.Outcome.next (if_pos hst))⟩
    obtain ⟨hready, hdone, hfail⟩ := retrain_leaves (ok := ok) hst hchs
    exact ⟨_, hexec, hready, hdone, hfail, Frame.retrain.same .mem (by decide)⟩
  · obtain ⟨t, hexec, hnow, hended, henergy⟩ := telemWindowEnd_leaves (s := s) mw
    exact ⟨t, hexec, hnow, hended.window, hended.half, hended.throttle, henergy, hended.mem⟩

end Sys2Proof.Machine
end

section
/-! The thermal trip, throttle steps and headroom (R417, R424, R425). -/

namespace Sys2Proof.Machine

set_option Elab.async false

section
variable {s t u : State} {a b k stall mv : Nat}

/-! ### The thermal trip -/

theorem porReset_kept {p : Page} {f : Fld} (h : porKeeps (regKey p 0 f) = true) : s.porReset.rd p 0 f = s.rd p 0 f := by
  show SMap.get f.reset (s.regs.filter fun e => porKeeps e.1) (regKey p 0 f) = SMap.get f.reset s.regs (regKey p 0 f)
  generalize s.regs = m at *
  induction m with
  | nil => rfl
  | cons e m ih =>
    obtain ⟨j, v⟩ := e
    rw [List.filter_cons]
    by_cases hj : j = regKey p 0 f
    · subst hj
      rw [if_pos h, SMap.get, SMap.get, if_pos rfl, if_pos rfl]
    · split
      · rw [SMap.get, SMap.get, if_neg hj, if_neg hj, ih]
      · rw [SMap.get, if_neg hj, ih]

theorem porReset_lost {p : Page} {f : Fld} (h : porKeeps (regKey p 0 f) = false) : s.porReset.rd p 0 f = f.reset :=
  SMap.get_filter_of_false f.reset (fun e => porKeeps e.1) fun _ => h

/-- The device stands in its thermal trip. -/
structure Tripped (s t : State) : Prop where
  boot : t.boot.tripped = true
  tripped : t.rd .therm 0 Reg.Therm.TRIPPED = 1
  mem : t.mem = []
  runs : t.boot.runs = s.boot.runs
  stage : t.rd .sys 0 Reg.Sys.STAGE = 0

theorem thermalTrip_trips {q : Int} (hk : k ≤ 10) (hq : 448 ≤ q) (hnot : s.boot.tripped = false) :
    ∃ t, exec (.thermalTrip k q) s = .next t ∧ Tripped s t := by
  refine ⟨_, congrArg Host.Outcome.next (if_neg ?_), ?_⟩
  · simp [hnot]
    omega
  have hkept := porReset_kept (s := s.wr .therm 0 Reg.Therm.TRIPPED 1) (p := .therm) (f := Reg.Therm.TRIPPED) (by decide)
  have hstage := porReset_lost (s := s.wr .therm 0 Reg.Therm.TRIPPED 1) (p := .sys) (f := Reg.Sys.STAGE) (by decide)
  have hmem : (s.wr .therm 0 Reg.Therm.TRIPPED 1).porReset.mem = [] := rfl
  have hruns : (s.wr .therm 0 Reg.Therm.TRIPPED 1).porReset.boot.runs = s.boot.runs := rfl
  rw [State.rd_wr_self] at hkept
  generalize (s.wr .therm 0 Reg.Therm.TRIPPED 1).porReset = x at *
  exact ⟨rfl, hkept, hmem, hruns, hstage⟩

/-- The sensors read what the release found. -/
theorem rd_tjFold {q : List Int} {j i : Nat} (hi : i < q.length) :
    ((q.zipIdx j).foldl (fun s t => s.wr .therm 0 (Reg.Therm.TJ_Q t.2) (ofInt 11 t.1)) s).rd .therm 0 (Reg.Therm.TJ_Q (j + i)) =
      ofInt 11 (nth 0 q i) % 2 ^ 11 := by
  induction q generalizing s j i with
  | nil => simp at hi
  | cons x q ih =>
    rw [List.zipIdx_cons, List.foldl_cons]
    cases i with
    | zero =>
      have hother (l : List (Int × Nat)) (u : State) (hl : ∀ y ∈ l, j < y.2) :
          (l.foldl (fun s t => s.wr .therm 0 (Reg.Therm.TJ_Q t.2) (ofInt 11 t.1)) u).rd .therm 0 (Reg.Therm.TJ_Q j) = u.rd .therm 0 (Reg.Therm.TJ_Q j) :=
        List.foldlRecOn l _ (motive := fun v : State => v.rd .therm 0 (Reg.Therm.TJ_Q j) = u.rd .therm 0 (Reg.Therm.TJ_Q j)) rfl fun v hv y hy => by
          have hlt := hl y hy
          rw [State.rd_wr_other _ _ (regKey_ne_of_off (by simp; omega) (by simp) (by simp)), hv]
      change State.rd _ _ _ (Reg.Therm.TJ_Q j) = _
      rw [hother _ _ fun y hy => ?_, State.rd_wr_self]
      · rfl
      · obtain ⟨_, _, _⟩ := List.mem_zipIdx (x := y.1) (i := y.2) hy
        omega
    | succ i =>
      rw [show j + (i + 1) = j + 1 + i by omega]
      exact ih (by simpa using hi)

/-- The device has left its thermal trip and runs its sequence. -/
structure TripLeft (s t : State) (q : List Int) : Prop where
  tripped : t.boot.tripped = false
  running : t.boot.running = true
  stage : t.rd .sys 0 Reg.Sys.STAGE = 4
  sensors : ∀ i, i < 11 → t.rd .therm 0 (Reg.Therm.TJ_Q i) = ofInt 11 (nth 0 q i)
  mem : t.mem = s.mem

theorem bringUp_regs {x : SelfTest} {p : Page} {f : Fld} (hfuse : regKey p 0 f ≠ regKey .fuse 0 Reg.Fuse.FUSE_OK)
    (hstage : regKey p 0 f ≠ regKey .sys 0 Reg.Sys.STAGE) : (s.bringUp x).rd p 0 f = s.rd p 0 f := by
  unfold State.bringUp
  extract_lets ok s1 y s2 lanes
  have h1 : s1.rd p 0 f = s.rd p 0 f := (State.rd_wr_other _ _ hstage).trans (State.rd_wr_other _ _ hfuse)
  obtain ⟨u, hu, hregs⟩ : ∃ u : State, s2 = u.bootCheck ∧ u.regs = s1.regs := ⟨_, rfl, rfl⟩
  have h2 : s2.regs = s1.regs := by
    rw [hu]
    exact (Frame.bootCheck.same .regs (by decide)).trans hregs
  have htrain (v : State) : v.tryTrain.regs = v.regs := Frame.tryTrain.same .regs (by decide)
  clear_value s1 s2
  exact (State.rd_of_regs (htrain _) ..).trans ((State.rd_setPorts ..).trans ((State.rd_of_regs h2 ..).trans h1))

theorem bringUp_tripped {x : SelfTest} : (s.bringUp x).boot.tripped = s.boot.tripped := by
  have hcheck (u : State) : u.bootCheck.boot.tripped = u.boot.tripped := by
    unfold State.bootCheck
    extract_lets a y fail
    have htake {v : Bool} : (u.takeCopy v).boot.tripped = u.boot.tripped := by
      unfold State.takeCopy
      rfl
    have hfail {m n : Nat} : (fail m n).boot.tripped = u.boot.tripped := rfl
    clear_value fail a
    split_ifs
    · exact htake
    · exact htake
    · exact hfail
    · exact htake
    · exact hfail
    · exact hfail
  unfold State.bringUp
  extract_lets ok s1 y s2 lanes
  obtain ⟨u, hu, htripped⟩ : ∃ u : State, s2 = u.bootCheck ∧ u.boot.tripped = s.boot.tripped := ⟨_, rfl, rfl⟩
  have h2 : s2.boot.tripped = s.boot.tripped := by
    rw [hu]
    exact (hcheck u).trans htripped
  clear_value s2
  rw [tryTrain_boot]
  exact h2

theorem thermalTripRelease_leaves {q : List Int} (htrip : s.boot.tripped = true) (hlen : q.length = 11) (hcool : ∀ x ∈ q, x < 380)
    (hporst : s.boot.porstN = true) : ∃ t, exec (.thermalTripRelease q) s = .next t ∧ TripLeft s t q := by
  refine ⟨_, congrArg Host.Outcome.next (if_neg ?_), ?_⟩
  · simpa [htrip, hlen] using hcool
  extract_lets y s1 s2
  have hfold : Frame [.regs] s1 s2 := Frame.foldl fun _ _ => Frame.wr
  have hboot : s2.boot = s1.boot := hfold.same .boot (by decide)
  have hsensors (i : Nat) (hi : i < 11) : s2.rd .therm 0 (Reg.Therm.TJ_Q i) = ofInt 11 (nth 0 q i) := by
    have hread := rd_tjFold (s := s1) (q := q) (j := 0) (i := i) (by omega)
    rw [Nat.zero_add, Nat.mod_eq_of_lt (ofInt_lt ..)] at hread
    exact hread
  have hmem : s2.mem = s.mem := hfold.same .mem (by decide)
  have htripped : s2.boot.tripped = false := congrArg BootS.tripped hboot
  have hup : s2.boot.porstN = true := (congrArg BootS.porstN hboot).trans hporst
  clear_value s2
  rw [if_pos hup]
  obtain ⟨hrunning, -, hstage⟩ := bringUp_runs (s := s2) (x := s2.boot.test)
  have hframe : Frame _ s2 (s2.bringUp s2.boot.test) := Frame.bringUp
  refine ⟨bringUp_tripped.trans htripped, hrunning, hstage, fun i hi => ?_, (hframe.same .mem (by decide)).trans hmem⟩
  rw [bringUp_regs ?_ ?_, hsensors i hi]
  · simp only [regKey, Page.base]; omega
  · simp only [regKey, Page.base]; omega

/-! ### Throttle steps -/

theorem oppActFld_at : (oppActFld a).off = 0x104 ∧ (oppActFld a).lsb = 0 ∧ (oppActFld a).width = 5 := by
  unfold oppActFld
  split <;> exact ⟨rfl, rfl, rfl⟩

/-- Another field of the array's page is not the operating point. -/
theorem oppAct_ne {f : Fld} (h : f.off ≠ 0x104 ∨ f.lsb ≠ 0) (hlsb : f.lsb < 32) : regKey (.ma a) 0 (oppActFld a) ≠ regKey (.ma a) 0 f := by
  obtain ⟨hoff, hlsb', -⟩ := oppActFld_at (a := a)
  simp only [regKey, hoff, hlsb']
  omega

theorem ma_ne_therm {f g : Fld} (ha : a ≤ 8) (hf : f.off < 0x1000 ∧ f.lsb < 32) (hg : g.off < 0x1000 ∧ g.lsb < 32) :
    regKey (.ma a) 0 f ≠ regKey .therm 0 g := by
  simp only [regKey, Page.base]
  omega

theorem oppAct_ne_therm {g : Fld} (ha : a ≤ 8) (hg : g.off < 0x1000 ∧ g.lsb < 32) : regKey (.ma a) 0 (oppActFld a) ≠ regKey .therm 0 g := by
  obtain ⟨hoff, hlsb, -⟩ := oppActFld_at (a := a)
  exact ma_ne_therm ha (by omega) hg

theorem deviate_regs : (s.deviate a stall).regs = s.regs := Frame.deviate.same .regs (by decide)

theorem throttleTo_oppAct {i : Nat} : (s.throttleTo a i stall).oppAct a = i % 2 ^ 5 := by
  have hwidth := (oppActFld_at (a := a)).2.2
  unfold State.throttleTo State.oppAct
  rw [State.rd_count_other (oppAct_ne (by decide) (by decide)) (oppAct_ne (by decide) (by decide)), State.rd_of_regs deviate_regs, State.rd_wr_self, hwidth]

theorem throttleTo_steps {i : Nat} :
    (s.throttleTo a i stall).rd (.ma a) 0 Reg.Ma.THROT_STEPS = (count31 (s.rd (.ma a) 0 Reg.Ma.THROT_STEPS) 1).1 := by
  unfold State.throttleTo
  rw [State.rd_count_self (by simp [regKey]) rfl, State.rd_of_regs deviate_regs, State.rd_wr_other _ _ (oppAct_ne (by decide) (by decide)).symm]

theorem throttleTo_rd {i : Nat} {p : Page} {f : Fld} (hopp : regKey p 0 f ≠ regKey (.ma a) 0 (oppActFld a))
    (hsteps : regKey p 0 f ≠ regKey (.ma a) 0 Reg.Ma.THROT_STEPS) (hsat : regKey p 0 f ≠ regKey (.ma a) 0 Reg.Ma.THROT_STEPS_SAT) :
    (s.throttleTo a i stall).rd p 0 f = s.rd p 0 f := by
  unfold State.throttleTo
  rw [State.rd_count_other hsteps hsat, State.rd_of_regs deviate_regs, State.rd_wr_other _ _ hopp]

/-- A field of the array's page that no throttle step writes. -/
theorem throttleTo_rd_ma {i : Nat} {f : Fld} (h : f.off = 0x104 ∧ f.lsb ≠ 0 ∨ f.off < 0x104) (hlsb : f.lsb < 32) :
    (s.throttleTo a i stall).rd (.ma a) 0 f = s.rd (.ma a) 0 f :=
  throttleTo_rd (oppAct_ne (by omega) hlsb).symm (regKey_ne_of_off (by simp; omega) hlsb (by decide)) (regKey_ne_of_off (by simp; omega) hlsb (by decide))

theorem throttleTo_mem {i : Nat} : (s.throttleTo a i stall).mem = s.mem := Frame.throttleTo.same .mem (by decide)

theorem stepDown_oppAct : (s.stepDown a stall).oppAct a = (s.oppAct a - 4) % 2 ^ 5 := by
  unfold State.stepDown
  split
  · next h => simp [h]
  · exact throttleTo_oppAct

theorem stepDown_rd_ma {f : Fld} (h : f.off = 0x104 ∧ f.lsb ≠ 0 ∨ f.off < 0x104) (hlsb : f.lsb < 32) :
    (s.stepDown a stall).rd (.ma a) 0 f = s.rd (.ma a) 0 f := by
  unfold State.stepDown
  split
  · rfl
  · exact throttleTo_rd_ma h hlsb

theorem stepDown_rd_therm {f : Fld} (ha : a ≤ 8) (hf : f.off < 0x1000 ∧ f.lsb < 32) : (s.stepDown a stall).rd .therm 0 f = s.rd .therm 0 f := by
  unfold State.stepDown
  split
  · rfl
  · exact throttleTo_rd (oppAct_ne_therm ha hf).symm (ma_ne_therm ha (by decide) hf).symm (ma_ne_therm ha (by decide) hf).symm

theorem setThrottled_rd {p : Page} {f : Fld} (hraw : regKey p 0 f ≠ regKey .therm 0 Reg.Hdr.IRQ_RAW) (hbit : regKey p 0 f ≠ regKey (.ma a) 0 Reg.Ma.THROTTLED) :
    (s.setThrottled a).rd p 0 f = s.rd p 0 f := by
  unfold State.setThrottled
  split
  · rfl
  · rw [State.rd_irq_none hraw, State.rd_wr_other _ _ hbit]

theorem setThrottled_throttled (ha : a ≤ 8) : (s.setThrottled a).rdB (.ma a) 0 Reg.Ma.THROTTLED = true := by
  unfold State.setThrottled
  split
  · next h => exact h
  · rw [State.rdB, State.rd_irq_none (ma_ne_therm ha (by decide) (by decide)), State.rd_wr_self]
    rfl

/-- An island has taken a throttle step down. -/
structure SteppedDown (s t : State) (a : Nat) : Prop where
  oppAct : t.oppAct a = (s.oppAct a - 4) % 2 ^ 5
  throttled : t.rdB (.ma a) 0 Reg.Ma.THROTTLED = true
  mem : t.mem = s.mem
  steps : t.rd (.ma a) 0 Reg.Ma.THROT_STEPS = (count31 (s.rd (.ma a) 0 Reg.Ma.THROT_STEPS) 1).1

theorem steppedDown {f : Fld} {x : Nat} (ha : a ≤ 8) (hregs : u.regs = s.regs) (hmem : u.mem = s.mem) (hopp : s.oppAct a ≠ 0) (hf : f.off < 0x1000 ∧ f.lsb < 32) :
    SteppedDown s (((u.wr .therm 0 f x).setThrottled a).stepDown a stall) a := by
  have hkeep {g : Fld} (hg : g.off < 0x1000 ∧ g.lsb < 32) (hbit : regKey (.ma a) 0 g ≠ regKey (.ma a) 0 Reg.Ma.THROTTLED) :
      ((u.wr .therm 0 f x).setThrottled a).rd (.ma a) 0 g = s.rd (.ma a) 0 g := by
    rw [setThrottled_rd (ma_ne_therm ha hg (by decide)) hbit, State.rd_wr_other _ _ (ma_ne_therm ha hg hf), State.rd_of_regs hregs]
  have hact : ((u.wr .therm 0 f x).setThrottled a).oppAct a = s.oppAct a := by
    obtain ⟨hoff, hlsb, -⟩ := oppActFld_at (a := a)
    exact hkeep (by omega) (oppAct_ne (by decide) (by decide))
  have hsteps := hkeep (g := Reg.Ma.THROT_STEPS) (by decide) (regKey_ne_of_off (by decide) (by decide) (by decide))
  have hthr := setThrottled_throttled (s := u.wr .therm 0 f x) ha
  have hmem' : ((u.wr .therm 0 f x).setThrottled a).mem = s.mem := (Frame.setThrottled.same .mem (by decide)).trans hmem
  generalize (u.wr .therm 0 f x).setThrottled a = v at hact hsteps hthr hmem' ⊢
  refine ⟨stepDown_oppAct.trans (by rw [hact]), ?_, ?_, ?_⟩
  all_goals unfold State.stepDown
  all_goals rw [if_neg (by rw [hact]; exact hopp)]
  · rw [State.rdB, throttleTo_rd_ma (by decide) (by decide)]
    exact hthr
  · exact throttleTo_mem.trans hmem'
  · rw [throttleTo_steps, hsteps]

theorem throttleStepDown_steps (ha : a ≤ 8) (hon : s.domOn (arrDomain a) = true) (hopp : s.oppAct a ≠ 0) :
    ∃ t, exec (.throttleStepDown a stall) s = .next t ∧ SteppedDown s t a :=
  ⟨_, congrArg Host.Outcome.next (if_neg (by simp [hon]; omega)), steppedDown ha rfl rfl hopp (by simp; omega)⟩

/-- An island has taken a throttle step up, to point x. -/
structure SteppedUp (s t : State) (a x : Nat) : Prop where
  oppAct : t.oppAct a = x
  throttled : t.rdB (.ma a) 0 Reg.Ma.THROTTLED = decide (x < s.oppWant a)
  mem : t.mem = s.mem

theorem oppWant_congr (himg : t.images = s.images) (hreq : t.rd (.ma a) 0 Reg.Ma.OPP_REQ = s.rd (.ma a) 0 Reg.Ma.OPP_REQ) :
    t.oppWant a = s.oppWant a := by
  simp only [State.oppWant, State.minPoint, himg, hreq]

/-- The end of a step up: at the wanted point the throttle ends. -/
theorem throttleEnd (hthr : s.rdB (.ma a) 0 Reg.Ma.THROTTLED = true) {x want : Nat} (hact : s.oppAct a = x) (hwant : s.oppWant a = want) :
    (if s.oppAct a < s.oppWant a then s else s.wr (.ma a) 0 Reg.Ma.THROTTLED 0).oppAct a = x ∧
    (if s.oppAct a < s.oppWant a then s else s.wr (.ma a) 0 Reg.Ma.THROTTLED 0).rdB (.ma a) 0 Reg.Ma.THROTTLED = decide (x < want) ∧
    (if s.oppAct a < s.oppWant a then s else s.wr (.ma a) 0 Reg.Ma.THROTTLED 0).mem = s.mem := by
  rw [hwant, hact]
  split
  · next h => exact ⟨hact, by rw [hthr, decide_eq_true h], rfl⟩
  · next h =>
    refine ⟨?_, ?_, rfl⟩
    · rw [State.oppAct, State.rd_wr_other _ _ (oppAct_ne (by decide) (by decide))]
      exact hact
    · rw [State.rdB, State.rd_wr_self, decide_eq_false h]
      rfl

theorem throttleStepUp_steps {x : Nat} (ha : a ≤ 8) (hon : s.domOn (arrDomain a) = true)
    (hx : x = (if s.oppAct a < s.oppWant a then (s.oppAct a + 1) % 2 ^ 5 else s.oppAct a)) (hthr : s.rdB (.ma a) 0 Reg.Ma.THROTTLED = true) :
    ∃ t, exec (.throttleStepUp a stall) s = .next t ∧ SteppedUp s t a x := by
  refine ⟨_, congrArg Host.Outcome.next (if_neg (by simp [hon, hthr]; omega)), ?_⟩
  split
  next v s1 e1 =>
  obtain ⟨-, rfl⟩ := Prod.mk.inj e1
  extract_lets lim s2 s3
  have hrd {g : Fld} (hg : g.off < 0x1000 ∧ g.lsb < 32) : s2.rd (.ma a) 0 g = s.rd (.ma a) 0 g :=
    State.rd_wr_other _ _ (ma_ne_therm ha hg (by simp; omega))
  have hact2 : s2.oppAct a = s.oppAct a := by
    obtain ⟨hoff, hlsb, -⟩ := oppActFld_at (a := a)
    exact hrd (by omega)
  have hwant2 : s2.oppWant a = s.oppWant a := oppWant_congr rfl (hrd (by decide))
  have hthr2 : s2.rdB (.ma a) 0 Reg.Ma.THROTTLED = true := (congrArg (· != 0) (hrd (by decide))).trans hthr
  have hmem2 : s2.mem = s.mem := rfl
  clear_value s2
  have h3 : s3.oppAct a = x ∧ s3.oppWant a = s.oppWant a ∧ s3.rdB (.ma a) 0 Reg.Ma.THROTTLED = true ∧ s3.mem = s.mem := by
    simp only [s3]
    rw [hx, hact2, hwant2]
    split
    · refine ⟨throttleTo_oppAct, (oppWant_congr (Frame.throttleTo.same .images (by decide)) (throttleTo_rd_ma (by decide) (by decide))).trans hwant2, ?_,
        throttleTo_mem.trans hmem2⟩
      rw [State.rdB, throttleTo_rd_ma (by decide) (by decide)]
      exact hthr2
    · exact ⟨hact2, hwant2, hthr2, hmem2⟩
  obtain ⟨hact3, hwant3, hthr3, hmem3⟩ := h3
  obtain ⟨hact, hend, hmem⟩ := throttleEnd hthr3 hact3 hwant3
  exact ⟨hact, hend, hmem.trans hmem3⟩

/-! ### Headroom -/

/-- What a sensed VDD_MA leaves. -/
structure HeadroomSensed (s t : State) (a mv : Nat) : Prop where
  sensed : t.rd .therm 0 Reg.Therm.VMA_MV = min mv 1023
  mem : t.mem = s.mem
  low : t.rdB (.ma a) 0 Reg.Ma.HEADROOM_LOW = (s.rdB (.ma a) 0 Reg.Ma.HEADROOM_LOW || decide (mv < islandMv a (s.oppAct a) + 25))
  step : mv < islandMv a (s.oppAct a) + 25 → t.oppAct a = (s.oppAct a - 4) % 2 ^ 5

theorem headroomLow_senses (ha : a ≤ 8) (hon : s.domOn (arrDomain a) = true) :
    ∃ t, exec (.headroomLow a mv stall) s = .next t ∧ HeadroomSensed s t a mv := by
  refine ⟨_, rfl, ?_⟩
  extract_lets s1 s2
  have hsensed1 : s1.rd .therm 0 Reg.Therm.VMA_MV = min mv 1023 :=
    (State.rd_wr_self ..).trans (Nat.mod_eq_of_lt (Nat.lt_of_le_of_lt (Nat.min_le_right ..) (by decide)))
  have hrd {g : Fld} (hg : g.off < 0x1000 ∧ g.lsb < 32) : s1.rd (.ma a) 0 g = s.rd (.ma a) 0 g :=
    State.rd_wr_other _ _ (ma_ne_therm ha hg (by decide))
  have hact1 : s1.oppAct a = s.oppAct a := by
    obtain ⟨hoff, hlsb, -⟩ := oppActFld_at (a := a)
    exact hrd (by omega)
  have hlow1 : s1.rdB (.ma a) 0 Reg.Ma.HEADROOM_LOW = s.rdB (.ma a) 0 Reg.Ma.HEADROOM_LOW := congrArg (· != 0) (hrd (by decide))
  have hon1 : s1.domOn (arrDomain a) = true := hon
  have hmem1 : s1.mem = s.mem := rfl
  clear_value s1
  have hgo : (decide (8 < a) || !s1.domOn (arrDomain a) || decide (islandMv a (s1.oppAct a) + 25 ≤ mv)) = decide (islandMv a (s.oppAct a) + 25 ≤ mv) := by
    rw [hon1, hact1, decide_eq_false (by omega)]
    rfl
  rw [hgo]
  by_cases hroom : islandMv a (s.oppAct a) + 25 ≤ mv
  · rw [if_pos (by simpa using hroom)]
    exact ⟨hsensed1, hmem1, by rw [hlow1, decide_eq_false (by omega), Bool.or_false], fun h => absurd h (by omega)⟩
  rw [if_neg (by simpa using hroom)]
  have hact2 : s2.oppAct a = (s.oppAct a - 4) % 2 ^ 5 := stepDown_oppAct.trans (by rw [hact1])
  have hlow2 : s2.rdB (.ma a) 0 Reg.Ma.HEADROOM_LOW = s.rdB (.ma a) 0 Reg.Ma.HEADROOM_LOW :=
    (congrArg (· != 0) (stepDown_rd_ma (by decide) (by decide))).trans hlow1
  have hsensed2 : s2.rd .therm 0 Reg.Therm.VMA_MV = min mv 1023 := (stepDown_rd_therm ha (by decide)).trans hsensed1
  have hmem2 : s2.mem = s.mem := (Frame.stepDown.same .mem (by decide)).trans hmem1
  clear_value s2
  have hshort : decide (mv < islandMv a (s.oppAct a) + 25) = true := decide_eq_true (by omega)
  split
  · next h => exact ⟨hsensed2, hmem2, by rw [h, hshort, Bool.or_true], fun _ => hact2⟩
  · refine ⟨?_, ?_, ?_, fun _ => ?_⟩
    · rw [State.rd_irq_none (by decide), State.rd_wr_other _ _ (ma_ne_therm ha (by decide) (by decide)).symm, hsensed2]
    · exact (State.irq_mem ..).trans hmem2
    · rw [State.rdB, State.rd_irq_none (ma_ne_therm ha (by decide) (by decide)), State.rd_wr_self, hshort, Bool.or_true]
      rfl
    · rw [State.oppAct, State.rd_irq_none (oppAct_ne_therm ha (by decide)), State.rd_wr_other _ _ (oppAct_ne (by decide) (by decide))]
      exact hact2

end
end Sys2Proof.Machine
end

section
/-! The collapse of VDD_MA and a restored rail (R310, R417, R418). -/

namespace Sys2Proof.Machine

set_option Elab.async false

section
variable {s t u : State} {a b c mv : Nat} {p : Page}

theorem SMap.get_filter_of_true {α : Type} (d : α) (q : Nat × α → Bool) {m : SMap α} {k : Nat} (h : ∀ v, q (k, v) = true) :
    SMap.get d (m.filter q) k = SMap.get d m k := by
  induction m with
  | nil => rfl
  | cons e m ih =>
    obtain ⟨j, v⟩ := e
    rw [List.filter_cons]
    by_cases hj : j = k
    · subst hj
      rw [if_pos (h v), SMap.get, SMap.get, if_pos rfl, if_pos rfl]
    · split
      · rw [SMap.get, SMap.get, if_neg hj, if_neg hj, ih]
      · rw [SMap.get, if_neg hj, ih]

/-! ### The registers that an array's loss of power writes -/

/-- The pages of main array b, and what tells of the waits that end with it. -/
def arrKeys (b k : Nat) : Prop := keyPage k = 0x10 + b ∨ keyPage k = 0x20 + b ∨ waitKeys k

theorem not_inPage {base addr : Nat} (l : Bool) (halign : base % 0x1000 = 0) (h : addr / 0x1000 ≠ base / 0x1000) :
    (!(decide (base ≤ addr) && decide (addr < base + 0x1000) && l)) = true := by
  have hout : ¬ (base ≤ addr ∧ addr < base + 0x1000) := by omega
  rw [← Bool.decide_and, decide_eq_false hout]
  rfl

theorem RegsIn.clearPage {K : Nat → Prop} (halign : p.base % 0x1000 = 0) (hlt : p.base < 2 ^ 24) (hK : ∀ k, keyPage k = p.base / 0x1000 → K k)
    (hclear : ∀ u : State, RegsIn K u (u.clearRegs p (lostOffset p))) : RegsIn K s (s.clearPage p) := by
  have hraw (fn : Nat) : K (regKey p fn Reg.Hdr.IRQ_RAW) := hK _ (by
    simp only [keyPage, regKey]
    omega)
  unfold State.clearPage
  refine RegsIn.trans ?_ (hclear _)
  exact ite refl (foldl fun u fn _ => ite refl fun _ _ _ hk => State.rd_setRaw_other fun h => hk (by
    rw [h]
    exact hraw fn))

theorem RegsIn.clearPage_ma (hb : b < 8) : RegsIn (arrKeys b) s (s.clearPage (.ma b)) := by
  have hbase : (Page.ma b).base = 0x010000 + b * 0x1000 := rfl
  refine clearPage (by omega) (by omega) (fun k hk => .inl (by omega)) fun u q n f hk => SMap.get_filter_of_true _ _ fun v => ?_
  exact not_inPage _ (by omega) fun h => hk (.inl (by
    show regKey q n f / 32 % 2 ^ 24 / 0x1000 = _
    omega))

theorem RegsIn.clearPage_dma (hb : b < 8) : RegsIn (arrKeys b) s (s.clearPage (.dma b)) := by
  have hbase : (Page.dma b).base = 0x020000 + b * 0x1000 := rfl
  refine clearPage (by omega) (by omega) (fun k hk => .inr (.inl (by omega))) fun u q n f hk => SMap.get_filter_of_true _ _ fun v => ?_
  exact not_inPage _ (by omega) fun h => hk (.inr (.inl (by
    show regKey q n f / 32 % 2 ^ 24 / 0x1000 = _
    omega)))

/-- The pages of a main array's domain. -/
theorem domainPages_arr (hb : b < 8) (h : p ∈ domainPages (arrDomain b)) : p = .ma b ∨ p = .dma b := by
  have hd : arrDomain b = 2 + b := if_neg (by omega)
  have hp : p.domain = 2 + b := by
    have := (List.mem_filter.mp h).2
    rw [hd] at this
    simp only [Bool.and_eq_true, beq_iff_eq] at this
    exact this.1.1
  cases p <;> simp only [Page.domain] at hp
  case ma a =>
    split at hp
    · omega
    · exact .inl (by rw [show a = b by omega])
  case dma a => exact .inr (by rw [show a = b by omega])
  all_goals omega

theorem losePower_arr (hb : b < 8) : s.losePower (arrDomain b) =
    (((domainPages (arrDomain b)).foldl State.clearPage s).zero (t0Base b) (384 * pageBytes)).clearArr b := by
  have hd : arrDomain b = 2 + b := if_neg (by omega)
  rw [hd]
  unfold State.losePower
  rw [if_neg (by omega)]
  have hmemory : domainMemory (2 + b) = (t0Base b, 384 * pageBytes) := by
    rw [domainMemory, if_neg (by omega), if_pos (by omega), Nat.add_sub_cancel_left]
  have harr : domArray (2 + b) = some b := by
    rw [domArray, if_neg (by omega), if_pos (by omega), Nat.add_sub_cancel_left]
  rw [hmemory, harr]
  dsimp only
  rw [if_neg (by omega), if_neg (by omega), if_neg (by omega), if_neg (by omega), if_neg (by omega), if_neg (by omega), if_neg (by omega)]
  rfl

/-! ### One array's collapse -/

theorem RegsIn.clearArr : RegsIn (arrKeys b) s (s.clearArr b) := by
  unfold State.clearArr
  extract_lets s1
  have h1 : RegsIn waitKeys s s1 := .foldl fun _ _ _ => dropWaits.trans dropWaits
  exact (h1.trans (of_regs rfl)).mono fun _ h => .inr (.inr h)

theorem RegsIn.losePower_arr (hb : b < 8) : RegsIn (arrKeys b) s (s.losePower (arrDomain b)) := by
  rw [Sys2Proof.Machine.losePower_arr hb]
  have hpages : RegsIn (arrKeys b) s ((domainPages (arrDomain b)).foldl State.clearPage s) := .foldl fun u q hq => by
    obtain rfl | rfl := domainPages_arr hb hq
    · exact clearPage_ma hb
    · exact clearPage_dma hb
  exact (hpages.trans (of_regs rfl)).trans clearArr

theorem losePower_arr_byte (hb : b < 8) (x : Nat) : (s.losePower (arrDomain b)).byte x =
    if t0Base b ≤ x ∧ x < t0Base b + 384 * pageBytes then 0 else s.byte x := by
  have hpages : ((domainPages (arrDomain b)).foldl State.clearPage s).mem = s.mem :=
    List.foldlRecOn _ _ (motive := fun u : State => u.mem = s.mem) rfl fun u hu q _ => (Frame.clearPage.same .mem (by decide)).trans hu
  have hclear (u : State) : (u.clearArr b).mem = u.mem := Frame.clearArr.same .mem (by decide)
  rw [losePower_arr hb, State.byte_of_mem (hclear _), State.byte_zero, State.byte_of_mem hpages]

/-- What the collapse of array b leaves of the registers, the domains and memory. -/
structure Collapsed (s t : State) (b : Nat) : Prop where
  regs : RegsIn (arrKeys b) s t
  doms : ∀ d, t.dom d = if d = arrDomain b then { s.dom d with st := .off, req := 0, cold := true, wakeAfter := false } else s.dom d
  byte : ∀ x, t.byte x = if t0Base b ≤ x ∧ x < t0Base b + 384 * pageBytes then 0 else s.byte x
  st : ∀ c ∈ s.ctxs b, t.st (.ma b) c = 3
  ctxs : ∀ a, t.ctxs a = s.ctxs a
  seq : t.power.seq = s.power.seq

/-- Both pages of a context in FAULT. -/
def State.faultCtx (s : State) (b c : Nat) : State := (s.setSt (.ma b) c 3).setSt (.dma b) c 3

theorem collapse_eq : s.collapse b = (s.ctxs b).foldl (fun s c => s.faultCtx b c)
    ((s.setDom (arrDomain b) { s.dom (arrDomain b) with st := .off, req := 0, cold := true, wakeAfter := false }).losePower (arrDomain b)) := rfl

theorem st_faultCtx (hb : b < 8) {d : Nat} : (s.faultCtx b c).st (.ma b) d = if d = c then 3 else s.st (.ma b) d := by
  have hdma : regKey (.ma b) d (stateFld (.ma b)) ≠ regKey (.dma b) c (stateFld (.dma b)) := by
    simp only [regKey, Page.base, stateFld]
    omega
  have hcut : (s.faultCtx b c).st (.ma b) d = (s.wr (.ma b) c (stateFld (.ma b)) 3).rd (.ma b) d (stateFld (.ma b)) := State.rd_wr_other _ _ hdma
  rw [hcut]
  split
  · next h =>
    subst h
    rw [State.rd_wr_self]
    rfl
  · next h =>
    refine State.rd_wr_other _ _ ?_
    simp only [regKey, Page.base, stateFld]
    omega

theorem st_faultFold (hb : b < 8) {l : List Nat} : ∀ c ∈ l, (l.foldl (fun s c => s.faultCtx b c) s).st (.ma b) c = 3 := by
  have hkeep (l : List Nat) (u : State) (d : Nat) (h : u.st (.ma b) d = 3) : (l.foldl (fun s c => s.faultCtx b c) u).st (.ma b) d = 3 :=
    List.foldlRecOn l _ (motive := fun v : State => v.st (.ma b) d = 3) h fun v hv x _ => by
      rw [st_faultCtx hb, hv, ite_self]
  induction l generalizing s with
  | nil => simp
  | cons x l ih =>
    rintro c (_ | ⟨_, hc⟩)
    · exact hkeep l _ _ (by rw [st_faultCtx hb, if_pos rfl])
    · exact ih c hc

theorem RegsIn.faultCtx (hb : b < 8) : RegsIn (arrKeys b) s (s.faultCtx b c) := by
  refine (wr (.inl ?_)).trans (wr (.inr (.inl ?_)))
  · simp only [keyPage, regKey, Page.base, stateFld]; omega
  · simp only [keyPage, regKey, Page.base, stateFld]; omega

theorem ctxs_of_assign (h : t.parts.assign = s.parts.assign) : t.ctxs a = s.ctxs a := by
  simp only [State.ctxs, State.assignOf, h]

theorem collapse_collapses (hb : b < 8) : Collapsed s (s.collapse b) b := by
  rw [collapse_eq]
  have hframe : Frame _ (s.setDom (arrDomain b) { s.dom (arrDomain b) with st := .off, req := 0, cold := true, wakeAfter := false })
      ((s.setDom (arrDomain b) { s.dom (arrDomain b) with st := .off, req := 0, cold := true, wakeAfter := false }).losePower (arrDomain b)) := Frame.losePower
  have hregs := RegsIn.losePower_arr (s := s.setDom (arrDomain b) { s.dom (arrDomain b) with st := .off, req := 0, cold := true, wakeAfter := false }) hb
  have hbyte := losePower_arr_byte (s := s.setDom (arrDomain b) { s.dom (arrDomain b) with st := .off, req := 0, cold := true, wakeAfter := false }) hb
  have hdom (d : Nat) := s.dom_setDom (arrDomain b) d { s.dom (arrDomain b) with st := .off, req := 0, cold := true, wakeAfter := false }
  have hassign : (s.setDom (arrDomain b) { s.dom (arrDomain b) with st := .off, req := 0, cold := true, wakeAfter := false }).parts = s.parts := rfl
  have hseq : (s.setDom (arrDomain b) { s.dom (arrDomain b) with st := .off, req := 0, cold := true, wakeAfter := false }).power.seq = s.power.seq := rfl
  have hmem : (s.setDom (arrDomain b) { s.dom (arrDomain b) with st := .off, req := 0, cold := true, wakeAfter := false }).mem = s.mem := rfl
  have hkeep : RegsIn (arrKeys b) s (s.setDom (arrDomain b) { s.dom (arrDomain b) with st := .off, req := 0, cold := true, wakeAfter := false }) := .of_regs rfl
  generalize s.setDom (arrDomain b) { s.dom (arrDomain b) with st := .off, req := 0, cold := true, wakeAfter := false } = u at *
  have hdoms : (u.losePower (arrDomain b)).power.doms = u.power.doms := hframe.same .doms (by decide)
  have hdrop := hframe.same .drop (by decide)
  have hassign' := hframe.same .assign (by decide)
  generalize u.losePower (arrDomain b) = v at *
  have hfold : Frame [.regs] v ((s.ctxs b).foldl (fun s c => s.faultCtx b c) v) := Frame.foldl fun _ _ => (Frame.refl.step Frame.setSt).step Frame.setSt
  have hst := st_faultFold (s := v) (l := s.ctxs b) hb
  have hregs' : RegsIn (arrKeys b) v ((s.ctxs b).foldl (fun s c => s.faultCtx b c) v) := .foldl fun _ _ _ => .faultCtx hb
  have hmem' := hfold.same .mem (by decide)
  have hdoms' := hfold.same .doms (by decide)
  have hdrop' := hfold.same .drop (by decide)
  have hassign'' := hfold.same .assign (by decide)
  generalize (s.ctxs b).foldl (fun s c => s.faultCtx b c) v = w at *
  simp only [Part.same, Prod.mk.injEq] at hdrop hassign' hmem' hdoms' hdrop' hassign''
  exact {
    regs := (hkeep.trans hregs).trans hregs'
    doms := fun d => by
      rw [State.dom, hdoms', hdoms]
      refine (hdom d).trans ?_
      split
      · next h => rw [h]
      · rfl
    byte := fun x => by rw [State.byte_of_mem hmem', hbyte, State.byte_of_mem hmem]
    st := hst
    ctxs := fun a => ctxs_of_assign (by rw [hassign''.1, hassign'.1, hassign])
    seq := by rw [hdrop'.1, hdrop.1, hseq] }

/-! ### The arrays of the island -/

/-- Array a stands collapsed, with the contexts l. -/
structure ArrDown (t : State) (a : Nat) (l : List Nat) : Prop where
  off : (t.dom (arrDomain a)).st = .off
  cold : (t.dom (arrDomain a)).cold = true
  st : ∀ c ∈ l, t.st (.ma a) c = 3
  byte : ∀ x, t0Base a ≤ x → x < t0Base a + 384 * pageBytes → t.byte x = 0

theorem not_arrKeys_st (ha : a < 8) (hb : b < 8) (hab : a ≠ b) : ¬ arrKeys b (regKey (.ma a) c (stateFld (.ma a))) := by
  simp only [arrKeys, waitKeys, keyPage, keyOff, regKey, Page.base, stateFld]
  omega

theorem arrDomain_inj (ha : a < 8) (hb : b < 8) (h : arrDomain a = arrDomain b) : a = b := by
  simp only [arrDomain] at h
  split at h <;> split at h <;> omega

theorem ArrDown.of_collapse (ha : a < 8) (hc : Collapsed s t a) : ArrDown t a (s.ctxs a) where
  off := by rw [hc.doms, if_pos rfl]
  cold := by rw [hc.doms, if_pos rfl]
  st := hc.st
  byte x h h' := by rw [hc.byte, if_pos ⟨h, h'⟩]

theorem ArrDown.collapse {l : List Nat} (ha : a < 8) (hb : b < 8) (hab : a ≠ b) (h : ArrDown s a l) (hc : Collapsed s t b) : ArrDown t a l := by
  have hne : arrDomain a ≠ arrDomain b := fun he => hab (arrDomain_inj ha hb he)
  exact {
    off := by rw [hc.doms, if_neg hne]; exact h.off
    cold := by rw [hc.doms, if_neg hne]; exact h.cold
    st := fun c hcl => (hc.regs.rd_eq (not_arrKeys_st ha hb hab)).trans (h.st c hcl)
    byte := fun x hx hx' => by
      rw [hc.byte]
      split
      · rfl
      · exact h.byte x hx hx' }

theorem collapseFold_down {l : List Nat} (hl : ∀ x ∈ l, x < 8) (hmem : a ∈ l) : ArrDown (l.foldl State.collapse s) a (s.ctxs a) := by
  have ha := hl a hmem
  have hkeep {m : List Nat} (hm : ∀ x ∈ m, x < 8) {u : State} (hctx : u.ctxs a = s.ctxs a) (h : ArrDown u a (s.ctxs a)) :
      ArrDown (m.foldl State.collapse u) a (s.ctxs a) :=
    (List.foldlRecOn m _ (motive := fun v : State => v.ctxs a = s.ctxs a ∧ ArrDown v a (s.ctxs a)) ⟨hctx, h⟩ fun v hv x hx => by
      have hdone := collapse_collapses (s := v) (hm x hx)
      refine ⟨(hdone.ctxs a).trans hv.1, ?_⟩
      by_cases hax : a = x
      · subst hax
        exact hv.1 ▸ ArrDown.of_collapse ha hdone
      · exact hv.2.collapse ha (hm x hx) hax hdone).2
  have hreach (m : List Nat) (hm : ∀ x ∈ m, x < 8) (u : State) (hctx : u.ctxs a = s.ctxs a) (hin : a ∈ m) : ArrDown (m.foldl State.collapse u) a (s.ctxs a) := by
    induction m generalizing u with
    | nil => simp at hin
    | cons x m ih =>
      have hdone := collapse_collapses (s := u) (hm x List.mem_cons_self)
      have hctx' : (u.collapse x).ctxs a = s.ctxs a := (hdone.ctxs a).trans hctx
      obtain _ | ⟨_, hin⟩ := hin
      · exact hkeep (fun y hy => hm y (List.mem_cons_of_mem _ hy)) hctx' (hctx ▸ ArrDown.of_collapse ha hdone)
      · exact ih (fun y hy => hm y (List.mem_cons_of_mem _ hy)) _ hctx' hin
  exact hreach l hl s rfl hmem

/-- What follows the collapses: the rails may go, and the interrupt sets. -/
theorem ArrDown.rails {l : List Nat} (ha : a < 8) (h : ArrDown s a l) : ArrDown ((s.railsMayGo 2).irq .sys none 1) a l := by
  have hframe : Frame _ s (s.railsMayGo 2) := Frame.railsMayGo
  have hregs : RegsIn (fun k => keyPage k = 0xF0) s (s.railsMayGo 2) := by
    unfold State.railsMayGo
    split
    · have hfree : RegsIn (fun k => keyPage k = 0xF0) s { s with free := s.free + 1 } := .of_regs rfl
      have hk : keyPage (regKey .therm 0 Reg.Therm.VMA_MV) = 0xF0 := by decide
      dsimp only
      exact (hfree.trans (.ite (.wr hk) .refl)).trans (.of_regs rfl)
    · split
      · exact .of_regs rfl
      · exact .refl
  have hdoms : (s.railsMayGo 2).power.doms = s.power.doms := hframe.same .doms (by decide)
  have hmem : (s.railsMayGo 2).mem = s.mem := hframe.same .mem (by decide)
  have hdom (d : Nat) : ((s.railsMayGo 2).irq .sys none 1).dom d = s.dom d := by
    rw [State.dom, State.irq_power, hdoms]
    rfl
  have hst (c : Nat) : ((s.railsMayGo 2).irq .sys none 1).st (.ma a) c = s.st (.ma a) c := by
    refine (State.rd_irq_none ?_).trans (hregs.rd_eq ?_)
    · simp only [regKey, Page.base, stateFld]; omega
    · simp only [keyPage, regKey, Page.base, stateFld]; omega
  exact ⟨by rw [hdom]; exact h.off, by rw [hdom]; exact h.cold, fun c hc => (hst c).trans (h.st c hc),
    fun x hx hx' => (State.byte_of_mem ((State.irq_mem ..).trans hmem) x).trans (h.byte x hx hx')⟩

theorem vddMaCollapse_collapses (hmv : mv < 580) (hseq : s.power.seq = none) (ha : a < 8) (hon : (s.dom (arrDomain a)).st = .on) :
    ∃ t, exec (.vddMaCollapse mv) s = .next t ∧ ArrDown t a (s.ctxs a) ∧ IrqSet t .sys 0 1 := by
  refine ⟨_, rfl, ?_⟩
  extract_lets s1 hit s2
  have hmem : a ∈ hit := List.mem_filter.mpr ⟨List.mem_range.mpr ha, by rw [hon]⟩
  have hlt : ∀ x ∈ hit, x < 8 := fun x hx => List.mem_range.mp (List.mem_filter.mp hx).1
  have hdown : ArrDown s2 a (s.ctxs a) := (collapseFold_down (s := s1) hlt hmem).rails ha
  have hirq : IrqSet s2 .sys 0 1 := State.irqSet_irq _ _ (by decide)
  have hseq2 : s2.power.seq = none := by
    have hframe : Frame powerParts s1 (hit.foldl State.collapse s1) := Frame.foldl fun _ _ => Frame.collapse
    have hfold : (hit.foldl State.collapse s1).power.seq = s1.power.seq :=
      List.foldlRecOn hit _ (motive := fun v : State => v.power.seq = s1.power.seq) rfl fun v hv x hx => (collapse_collapses (hlt x hx)).seq.trans hv
    have hrails := (Frame.railsMayGo (s := hit.foldl State.collapse s1) (d := 2)).same .drop (by decide)
    simp only [Part.same, Prod.mk.injEq] at hrails
    simp only [s2, State.irq_power]
    exact hrails.1.trans (hfold.trans hseq)
  clear_value s2
  rw [if_neg (by simp only [Bool.or_eq_true, decide_eq_true_eq, List.isEmpty_iff, not_or]; exact ⟨by omega, List.ne_nil_of_mem hmem⟩), hseq2]
  exact ⟨hdown, hirq⟩

/-! ### A restored rail -/

/-- One array's step when VDD_MA is restored at mv. -/
def State.restoreArr (s : State) (mv a : Nat) : State :=
  let low := s.rdB (.ma a) 0 Reg.Ma.HEADROOM_LOW && decide (islandMv a (s.oppAct a) + 25 ≤ mv)
  let s2 := if low then s.wr (.ma a) 0 Reg.Ma.HEADROOM_LOW 0 else s
  if a = 8 then (if low && !s2.rdB (.ma a) 0 Reg.Ma.THROTTLED then s2.wr (.ma a) 0 (oppActFld a) 4 else s2)
  else
    let s3 := if low then s2.modArr a fun x => { x with oppWait := some (x.oppWait.getD (s2.rd (.ma a) 0 Reg.Ma.OPP_REQ)) } else s2
    s3.applyOpp a

theorem supplyRailRestored_eq : exec (.supplyRailRestored .vddMa mv) s = .next ((List.range 9).foldl (fun s a => s.restoreArr mv a)
    { s.wr .therm 0 Reg.Therm.VMA_MV (min mv 1023) with supply := { s.supply with vmaRemoved := false } }) := rfl

theorem restoreArr_frame : Frame [.regs, .arrays] s (s.restoreArr mv a) := by
  unfold State.restoreArr
  extract_lets low s2 s3
  have h2 : Frame [.regs, .arrays] s s2 := Frame.ite Frame.wr.mono Frame.refl
  have h3 : Frame [.regs, .arrays] s s3 := h2.trans (Frame.ite Frame.modArr.mono Frame.refl)
  exact Frame.ite (Frame.ite (h2.step Frame.wr) h2) (h3.step Frame.applyOpp)

/-- The registers of an array's page. -/
def maKeys (k : Nat) : Prop := 0x10 ≤ keyPage k ∧ keyPage k < 0x19

theorem maKeys_of_off {f : Fld} (ha : a < 9) (hoff : f.off < 0x1000 ∧ f.lsb < 32) : maKeys (regKey (.ma a) b f) := by
  simp only [maKeys, keyPage, regKey, Page.base]
  omega

theorem RegsIn.applyOpp (ha : a < 9) : RegsIn maKeys s (s.applyOpp a) := by
  unfold State.applyOpp
  extract_lets x
  split
  · exact refl
  · exact ite refl (ite (wr (maKeys_of_off ha (by decide))) (((wr (maKeys_of_off ha (by decide))).trans (wr (maKeys_of_off ha (by decide)))).trans (of_regs rfl)))

theorem RegsIn.restoreArr (ha : a < 9) : RegsIn maKeys s (s.restoreArr mv a) := by
  obtain ⟨hoff, hlsb, -⟩ := oppActFld_at (a := a)
  unfold State.restoreArr
  extract_lets low s2 s3
  have h2 : RegsIn maKeys s s2 := ite (wr (maKeys_of_off ha (by decide))) refl
  have h3 : RegsIn maKeys s s3 := h2.trans (ite (of_regs rfl) refl)
  exact ite (ite (h2.trans (wr (maKeys_of_off ha (by omega)))) h2) (h3.trans (applyOpp ha))

theorem supplyRailRestored_vddMa : ∃ t, exec (.supplyRailRestored .vddMa mv) s = .next t ∧ t.supply.vmaRemoved = false ∧
    t.rd .therm 0 Reg.Therm.VMA_MV = min mv 1023 ∧ t.power = s.power ∧ t.mem = s.mem := by
  refine ⟨_, supplyRailRestored_eq, ?_⟩
  generalize hstart : ({ s.wr .therm 0 Reg.Therm.VMA_MV (min mv 1023) with supply := { s.supply with vmaRemoved := false } } : State) = s1
  have hsensed : s1.rd .therm 0 Reg.Therm.VMA_MV = min mv 1023 := by
    rw [← hstart]
    exact (State.rd_wr_self ..).trans (Nat.mod_eq_of_lt (Nat.lt_of_le_of_lt (Nat.min_le_right ..) (by decide)))
  have hkeep : s1.supply.vmaRemoved = false ∧ s1.power = s.power ∧ s1.mem = s.mem := by
    rw [← hstart]
    exact ⟨rfl, rfl, rfl⟩
  have hframe : Frame [.regs, .arrays] s1 ((List.range 9).foldl (fun s a => s.restoreArr mv a) s1) := Frame.foldl fun _ _ => restoreArr_frame
  have hregs : RegsIn maKeys s1 ((List.range 9).foldl (fun s a => s.restoreArr mv a) s1) := .foldl fun u a ha => .restoreArr (List.mem_range.mp ha)
  generalize (List.range 9).foldl (fun s a => s.restoreArr mv a) s1 = t at hframe hregs
  have hsupply : t.supply = s1.supply := hframe.same .supply (by decide)
  refine ⟨(congrArg SupplyS.vmaRemoved hsupply).trans hkeep.1, (hregs.rd_eq ?_).trans hsensed,
    (power_eq_of_frame hframe (by decide) (by decide) (by decide) (by decide)).trans hkeep.2.1, (hframe.same .mem (by decide)).trans hkeep.2.2⟩
  unfold maKeys
  decide

end

/-- Settles O55: trip and release, steps and headroom, collapse and restored rails. -/
theorem temperatureAndSupplies : Obligations.TemperatureAndSupplies := by
  refine ⟨fun s k q hk hq hnot => ?_, fun s q htrip hlen hcool hporst => ?_, fun s a x stall ha hon => ⟨fun hopp => ?_, fun hx hthr => ?_⟩,
    fun s a mv stall ha hon => ?_, fun s mv => ⟨fun hmv => congrArg Host.Outcome.next (if_pos (by simp [hmv])), fun hmv hseq a ha hon => ?_⟩,
    fun s mv => ⟨rfl, supplyRailRestored_vddMa⟩⟩
  · obtain ⟨t, hexec, hdone⟩ := thermalTrip_trips hk hq hnot
    exact ⟨t, hexec, hdone.boot, hdone.tripped, hdone.mem, hdone.runs, hdone.stage⟩
  · obtain ⟨t, hexec, hdone⟩ := thermalTripRelease_leaves htrip hlen hcool hporst
    exact ⟨t, hexec, hdone.tripped, hdone.running, hdone.stage, hdone.sensors, hdone.mem⟩
  · obtain ⟨t, hexec, hdone⟩ := throttleStepDown_steps (stall := stall) ha hon hopp
    exact ⟨t, hexec, hdone.oppAct, hdone.throttled, hdone.mem, hdone.steps⟩
  · obtain ⟨t, hexec, hdone⟩ := throttleStepUp_steps (stall := stall) ha hon hx hthr
    exact ⟨t, hexec, hdone.oppAct, hdone.throttled, hdone.mem⟩
  · obtain ⟨t, hexec, hdone⟩ := headroomLow_senses (mv := mv) (stall := stall) ha hon
    exact ⟨t, hexec, hdone.sensed, hdone.mem, hdone.low, hdone.step⟩
  · obtain ⟨t, hexec, hdown, hirq⟩ := vddMaCollapse_collapses hmv hseq ha hon
    exact ⟨t, hexec, hdown.off, hdown.cold, hdown.st, hdown.byte, hirq⟩

end Sys2Proof.Machine
end

section
/-! Random numbers and the SPDM requests (R352 to R356). -/

namespace Sys2Proof.Machine

set_option Elab.async false

section
variable {s t u : State} {v : View} {bank : Nat}

/-! ### Random numbers -/

theorem trngRead_seeded (hseeded : s.seeded = true) (hgen : s.sec.generates < 2 ^ 20) :
    s.trngRead v = (Config.drbgOut s.sec.drbg % 2 ^ 32, { s with sec := { s.sec with
      drbg := Config.drbgNext s.sec.drbg, generates := s.sec.generates + 1, valid := SMap.set false s.sec.valid (View.num v) true } }) := by
  rw [State.trngRead, if_pos hseeded, State.drbgTake, if_neg (by omega)]

theorem trngRead_unseeded (hseeded : s.seeded = false) :
    s.trngRead v = (0, { s with sec := { s.sec with valid := SMap.set false s.sec.valid (View.num v) false } }) := by
  rw [State.trngRead, hseeded, if_neg (by decide)]

theorem readPage_trngData : s.readPage v .trng bank 0x100 = ((s.trngRead v).2, (s.trngRead v).1) := rfl

theorem trngDataRead_of_reaches {x : Nat} (h : Reaches s v .trng 0x100 bank) (hread : s.trngRead v = (x, t)) :
    exec (.trngDataRead v) s = .next (t.answer v 0x0A1100 x) := by
  refine congrArg Host.Outcome.next ((State.busRead_of_reaches h (by simp) rfl).trans ?_)
  rw [readPage_trngData, hread]
  rfl

theorem trngSeeded_leaves (hon : s.domOn 26 = true) (hgo : s.rdB .sec 0 Reg.Sec.CMD_GO = false) :
    ∃ t, exec .trngSeeded s = .next t ∧ t.seeded = true ∧ t.sec.generates = 0 ∧ t.mem = s.mem := by
  refine ⟨_, congrArg Host.Outcome.next (if_neg (by simp [hon])), ?_⟩
  split
  next v s1 e1 =>
  obtain ⟨-, rfl⟩ := Prod.mk.inj e1
  extract_lets y s2
  have hwait : s2.rdB .sec 0 Reg.Sec.CMD_GO = false := (congrArg (· != 0) (State.rd_wr_other _ _ (by decide))).trans hgo
  have hseeded : s2.seeded = true := by
    rw [State.seeded, State.rdB, State.rd_wr_self]
    rfl
  rw [hwait, if_neg (by decide)]
  exact ⟨hseeded, rfl, rfl⟩

theorem healthFail_leaves (hon : s.domOn 26 = true) : ∃ t, exec .healthFail s = .next t ∧ t.seeded = false ∧
    t.rd .trng 0 Reg.Trng.HEALTH_FAIL = 1 ∧ IrqSet t .trng 0 0 ∧ t.sec = s.sec ∧ t.mem = s.mem := by
  refine ⟨_, congrArg Host.Outcome.next (if_neg (by simp [hon])), ?_, ?_, State.irqSet_irq _ _ (by decide), ?_, ?_⟩
  · rw [State.seeded, State.rdB]
    simp (disch := decide) only [State.rd_irq_none, State.rd_errCount_other, State.rd_wr_other, State.rd_wr_self]
    rfl
  · simp (disch := decide) only [State.rd_irq_none, State.rd_errCount_other, State.rd_wr_self]
    rfl
  · exact (State.irq_sec ..).trans ((State.errCount_sec ..).trans rfl)
  · exact (State.irq_mem ..).trans ((State.errCount_mem ..).trans rfl)

theorem drbgReseed_leaves (hon : s.domOn 26 = true) (hseeded : s.seeded = true) : ∃ t, exec .drbgReseed s = .next t ∧ t.sec.generates = 0 ∧
    t.seeded = true ∧ t.rd .trng 0 Reg.Trng.RESEEDS = (count31 (s.rd .trng 0 Reg.Trng.RESEEDS) 1).1 := by
  refine ⟨_, congrArg Host.Outcome.next (if_pos (by simp [hon, hseeded])), ?_⟩
  unfold State.reseed
  split
  next v s1 e1 =>
  obtain ⟨-, rfl⟩ := Prod.mk.inj e1
  refine ⟨?_, ?_, ?_⟩
  · rw [State.count_sec]
  · rw [State.seeded, State.rdB, State.rd_count_other (by decide) (by decide)]
    exact hseeded
  · rw [State.rd_count_self (by decide) rfl]
    rfl

/-! ### SPDM -/

/-- A signed answer leaves with 96 bytes of signature. -/
theorem signed_leaves (f : List Byte → Out) : ∃ g, (s.signed f).out = s.out ++ [f g] ∧ g.length = 96 ∧ (s.signed f).sec = s.sec ∧
    (s.signed f).regs = s.regs := by
  refine ⟨sliceBytes (Config.freeBytes s.free 96) 0 96, rfl, sliceBytes_length .., rfl, rfl⟩

theorem challenge_answers {slot : Nat} {nonce : List Byte} (hon : s.domOn 26 = true) (halgs : s.sec.spdm.algs = true) (hslot : slot = 0)
    (hchain : s.sec.certChain ≠ []) : ∃ t g, exec (.challenge slot nonce) s = .next t ∧
      t.out = s.out ++ [.spdmChallengeAuth (sha384 s.sec.certChain) g] ∧ g.length = 96 ∧ t.sec = s.sec ∧ t.regs = s.regs := by
  obtain ⟨g, hout, hlen, hsec, hregs⟩ := signed_leaves (s := s) fun g => .spdmChallengeAuth (sha384 s.sec.certChain) g
  refine ⟨_, g, congrArg Host.Outcome.next ((State.spdm_of_domOn hon _ _).trans (if_pos ?_)), hout, hlen, hsec, hregs⟩
  simp [halgs, hslot, hchain]

theorem measurements_ne_nil : s.measurements.isEmpty = false := rfl

theorem getMeasurements_all {sign : Bool} {nonce : List Byte} (hon : s.domOn 26 = true) (halgs : s.sec.spdm.algs = true) :
    exec (.getMeasurements 255 sign nonce) s =
      .next (if sign then s.signed fun g => .spdmMeasurements s.measurements g else s.emit (.spdmMeasurements s.measurements [])) := by
  refine congrArg Host.Outcome.next ((State.spdm_of_domOn hon _ _).trans ((if_pos halgs).trans ?_))
  simp only [Nat.reduceEqDiff, if_false, if_true, measurements_ne_nil, Bool.false_eq_true]

theorem keyExchange_answers {pub : List Byte} (hon : s.domOn 26 = true) (halgs : s.sec.spdm.algs = true) (hsession : s.sec.spdm.session = 0) :
    ∃ t g, exec (.keyExchange pub) s = .next t ∧ t.sec.spdm = { s.sec.spdm with session := 1, keyGen := s.sec.spdm.keyGen + 1 } ∧
      t.out = s.out ++ [.spdmKeyExchange g] ∧ g.length = 96 := by
  obtain ⟨g, hout, hlen, hsec, -⟩ := signed_leaves (s := s.setSpdm { s.sec.spdm with session := 1, keyGen := s.sec.spdm.keyGen + 1 }) fun g => .spdmKeyExchange g
  refine ⟨_, g, congrArg Host.Outcome.next ((State.spdm_of_domOn hon _ _).trans (if_pos ?_)), (congrArg SecS.spdm hsec).trans rfl, hout, hlen⟩
  simp [halgs, hsession]

end

/-- Settles O31: reads with and without a seed, and what seeds, fails and reseeds. -/
theorem randomNumbers : Obligations.RandomNumbers := by
  refine ⟨fun s v bank h => ⟨fun hseeded hgen => trngDataRead_of_reaches h (trngRead_seeded hseeded hgen),
    fun hseeded => trngDataRead_of_reaches h (trngRead_unseeded hseeded)⟩,
    fun s hon => ⟨trngSeeded_leaves hon, healthFail_leaves hon, drbgReseed_leaves hon⟩⟩

/-- Settles O29: each request is served or refused at once while SEC is ON. -/
theorem spdmRequests : Obligations.SpdmRequests := by
  intro s hon
  have hserve (ok : Bool) (go : State → State) := State.spdm_of_domOn hon ok go
  refine ⟨congrArg Host.Outcome.next (hserve ..), congrArg Host.Outcome.next (hserve ..), congrArg Host.Outcome.next (hserve ..), ?_, fun slot off len => ?_,
    fun slot nonce => challenge_answers hon, fun nonce halgs => ⟨getMeasurements_all hon halgs, ?_⟩, fun pub => keyExchange_answers hon,
    fun mac hsession => ?_, fun hsession => ⟨?_, ?_, ?_⟩, fun hsession => ⟨?_, ?_, ?_⟩⟩
  · refine congrArg Host.Outcome.next ((hserve ..).trans ?_)
    cases s.sec.spdm.algs with
    | false => rfl
    | true => simp [List.isEmpty_iff]
  · refine congrArg Host.Outcome.next ((hserve ..).trans ?_)
    by_cases h : s.sec.spdm.algs = true ∧ slot = 0 ∧ off < s.sec.certChain.length
    · have hchain : s.sec.certChain ≠ [] := List.ne_nil_of_length_pos (by omega)
      rw [if_pos h, if_pos (by simpa [hchain, and_assoc] using h)]
    · rw [if_neg h, if_neg fun h' => h ?_]
      simp only [Bool.and_eq_true, beq_iff_eq, decide_eq_true_eq] at h'
      exact ⟨h'.1.1.1, h'.1.1.2, h'.2⟩
  · obtain ⟨g, hout, hlen, hsec, hregs⟩ := signed_leaves (s := s) fun g => .spdmMeasurements s.measurements g
    exact ⟨_, g, getMeasurements_all (sign := true) hon halgs, hout, hlen, hsec, hregs⟩
  · exact congrArg Host.Outcome.next ((hserve ..).trans (if_pos (by simp [hsession])))
  · exact congrArg Host.Outcome.next ((hserve ..).trans (if_pos (by simp [hsession])))
  · exact congrArg Host.Outcome.next ((hserve ..).trans (if_pos (by simp [hsession])))
  · exact congrArg Host.Outcome.next ((hserve ..).trans (if_pos (by simp [hsession])))
  · exact congrArg Host.Outcome.next ((hserve ..).trans (if_neg (by simp [hsession])))
  · exact congrArg Host.Outcome.next ((hserve ..).trans (if_neg (by simp [hsession])))
  · exact congrArg Host.Outcome.next ((hserve ..).trans (if_neg (by simp [hsession])))

end Sys2Proof.Machine
end

section
/-! Stopping the contexts of a partition (R149, R215, R225). -/

namespace Sys2Proof.Machine

set_option Elab.async false

section
variable {s t u : State} {p : Page} {bank q : Nat}

/-- A page on which a partition has contexts: an array, a DMA engine or host DMA. -/
def Page.HoldsCtx (p : Page) : Prop := (∃ a, a ≤ 8 ∧ p = .ma a) ∨ (∃ a, a < 8 ∧ p = .dma a) ∨ p = .pcie

/-- The registers of the pages on which partitions have contexts, and the stall of a SEAL. -/
def ctxPageKeys (k : Nat) : Prop := (0x10 ≤ keyPage k ∧ keyPage k < 0x28) ∨ keyPage k = 0xB0 ∨ (keyPage k = 0xE0 ∧ keyOff k = 0x110)

theorem ctxPageKeys_of_stopKeys {k : Nat} (h : stopKeys k) : ctxPageKeys k := by
  simp only [stopKeys, waitKeys] at h
  simp only [ctxPageKeys]
  omega

theorem Page.HoldsCtx.keys (h : p.HoldsCtx) {b : Nat} {f : Fld} (hoff : f.off < 0x1000) (hlsb : f.lsb < 32) : ctxPageKeys (regKey p b f) := by
  simp only [ctxPageKeys, keyPage, keyOff, regKey]
  obtain ⟨a, ha, rfl⟩ | ⟨a, ha, rfl⟩ | rfl := h <;> simp only [Page.base] <;> omega

theorem Page.HoldsCtx.not_stopKeys (h : p.HoldsCtx) {b : Nat} : ¬ stopKeys (regKey p b (stateFld p)) := by
  simp only [stopKeys, waitKeys, keyPage, keyOff, regKey, stateFld]
  obtain ⟨a, ha, rfl⟩ | ⟨a, ha, rfl⟩ | rfl := h <;> simp only [Page.base] <;> omega

/-- What a context that stops leaves is its own STATE and STOP_REQ, and what its waits tell. -/
theorem enterStopped_regs (h : p.HoldsCtx) :
    RegsIn stopKeys ((s.setSt p bank 0).wr p bank Reg.Hdr.STOP_REQ 0) (s.enterStopped p bank) := by
  obtain ⟨a, -, rfl⟩ | ⟨a, -, rfl⟩ | rfl := h
  · exact RegsIn.clearCtx
  · exact RegsIn.clearDmaCtx
  · exact .refl

theorem RegsIn.ownSt (h : p.HoldsCtx) {x : Nat} : RegsIn ctxPageKeys s ((s.setSt p bank x).wr p bank Reg.Hdr.STOP_REQ q) :=
  (RegsIn.wr (h.keys (by simp [stateFld]) (by simp [stateFld]))).trans (RegsIn.wr (h.keys (by decide) (by decide)))

theorem RegsIn.enterStopped (h : p.HoldsCtx) : RegsIn ctxPageKeys s (s.enterStopped p bank) :=
  (RegsIn.ownSt h).trans ((enterStopped_regs h).mono fun _ => ctxPageKeys_of_stopKeys)

theorem RegsIn.stopReq (h : p.HoldsCtx) : RegsIn ctxPageKeys s (s.stopReq p bank) := by
  unfold State.stopReq
  split
  · exact ite (enterStopped h) (ownSt h)
  · exact enterStopped h
  · exact refl

/-! ### STATE after a stop -/

theorem Page.HoldsCtx.base_at (h : p.HoldsCtx) : p.base % 0x1000 = 0 ∧ p.base + 0x1000 ≤ 2 ^ 24 := by
  obtain ⟨a, ha, rfl⟩ | ⟨a, ha, rfl⟩ | rfl := h
  · simp only [Page.base]; omega
  · simp only [Page.base]; omega
  · exact ⟨rfl, by decide⟩

theorem Page.HoldsCtx.eq_of_base {r : Page} (h : p.HoldsCtx) (hr : r.HoldsCtx) (hb : r.base = p.base) : r = p := by
  have hma {a b : Nat} (hab : (Page.ma a).base = (Page.ma b).base) : a = b := by simp only [Page.base] at hab; omega
  have hdma {a b : Nat} (hab : (Page.dma a).base = (Page.dma b).base) : a = b := by simp only [Page.base] at hab; omega
  obtain ⟨a, ha, rfl⟩ | ⟨a, ha, rfl⟩ | rfl := h <;> obtain ⟨b, hb', rfl⟩ | ⟨b, hb', rfl⟩ | rfl := hr
  case inl.inl => rw [hma hb]
  case inr.inl.inr.inl => rw [hdma hb]
  case inr.inr.inr.inr => rfl
  all_goals simp only [Page.base] at hb; omega

/-- STATE of two contexts is one register only where they are one context. -/
theorem regKey_st_ne {r : Page} {c : Nat} (h : p.HoldsCtx) (hr : r.HoldsCtx) (hne : ¬ (r = p ∧ c = bank)) :
    regKey r c (stateFld r) ≠ regKey p bank (stateFld p) := by
  intro he
  obtain ⟨-, hp⟩ := h.base_at
  obtain ⟨-, hr'⟩ := hr.base_at
  simp only [regKey, stateFld] at he
  have hbank : c = bank := by omega
  exact hne ⟨h.eq_of_base hr (by omega), hbank⟩

theorem regKey_st_ne_stopReq {r : Page} {c : Nat} (h : p.HoldsCtx) (hr : r.HoldsCtx) :
    regKey r c (stateFld r) ≠ regKey p bank Reg.Hdr.STOP_REQ := by
  intro he
  obtain ⟨hp, -⟩ := h.base_at
  obtain ⟨hr', -⟩ := hr.base_at
  simp only [regKey, stateFld] at he
  omega

theorem st_ownSt {x d c : Nat} {r : Page} (h : p.HoldsCtx) (hr : r.HoldsCtx) :
    ((s.setSt p bank x).wr p bank Reg.Hdr.STOP_REQ d).st r c = if r = p ∧ c = bank then x % 4 else s.st r c := by
  have hcut : ((s.setSt p bank x).wr p bank Reg.Hdr.STOP_REQ d).st r c = (s.setSt p bank x).st r c :=
    State.rd_wr_other _ _ (regKey_st_ne_stopReq h hr)
  rw [hcut]
  split
  · next heq =>
    obtain ⟨rfl, rfl⟩ := heq
    exact State.rd_wr_self ..
  · next hne => exact State.rd_wr_other _ _ (regKey_st_ne h hr hne)

theorem st_enterStopped {c : Nat} {r : Page} (h : p.HoldsCtx) (hr : r.HoldsCtx) :
    (s.enterStopped p bank).st r c = if r = p ∧ c = bank then 0 else s.st r c :=
  ((enterStopped_regs h).rd_eq hr.not_stopKeys).trans (st_ownSt h hr)

/-- A context that gets a STOP_REQ is RUNNING no more, and no other context changes its STATE. -/
theorem st_stopReq {c : Nat} {r : Page} (h : p.HoldsCtx) (hr : r.HoldsCtx) :
    (r = p ∧ c = bank → (s.stopReq p bank).st r c ≠ 1) ∧ (¬ (r = p ∧ c = bank) → (s.stopReq p bank).st r c = s.st r c) := by
  unfold State.stopReq
  split
  · split
    · rw [st_enterStopped h hr]
      exact ⟨fun he => by rw [if_pos he]; decide, fun he => if_neg he⟩
    · rw [st_ownSt h hr]
      exact ⟨fun he => by rw [if_pos he]; decide, fun he => if_neg he⟩
  · rw [st_enterStopped h hr]
    exact ⟨fun he => by rw [if_pos he]; decide, fun he => if_neg he⟩
  · next hst _ => exact ⟨fun he => by rw [he.1, he.2]; exact hst, fun _ => rfl⟩

/-- After STOP_REQ on the contexts of a list none of them is RUNNING. -/
theorem st_stopReqs {l : List (Page × Nat)} (hl : ∀ x ∈ l, x.1.HoldsCtx) :
    ∀ x ∈ l, (l.foldl (fun s x => s.stopReq x.1 x.2) s).st x.1 x.2 ≠ 1 := by
  induction l generalizing s with
  | nil => exact fun x hx => absurd hx (by simp)
  | cons y l ih =>
    intro x hx
    have hy := hl y (by simp)
    have hl' : ∀ z ∈ l, z.1.HoldsCtx := fun z hz => hl z (by simp [hz])
    by_cases hmem : x ∈ l
    · exact ih hl' x hmem
    · obtain rfl : x = y := by simpa [hmem] using hx
      refine List.foldlRecOn l _ (motive := fun t : State => t.st x.1 x.2 ≠ 1) ((st_stopReq hy hy).1 ⟨rfl, rfl⟩) fun t ht z hz => ?_
      have hne : ¬ (x.1 = z.1 ∧ x.2 = z.2) := fun he => hmem (by rw [Prod.ext he.1 he.2]; exact hz)
      rw [(st_stopReq (hl' z hz) hy).2 hne]
      exact ht

/-! ### The contexts of a partition -/

theorem mem_insAsc {x y : Nat} {l : List Nat} : y ∈ insAsc x l ↔ y = x ∨ y ∈ l := by
  induction l with
  | nil => simp [insAsc]
  | cons z l ih =>
    unfold insAsc
    split
    · simp
    split
    · next h => simp [h]
    · simp only [List.mem_cons, ih]
      exact or_left_comm

theorem mem_arraysOf {a : Nat} (h : a ∈ s.arraysOf q) : a ≤ 8 := Nat.lt_succ_iff.mp (List.mem_range.mp (List.mem_filter.mp h).1)

theorem holdsCtx_of_mem_partPages {x : Page × Nat} (h : x ∈ s.partPages q) : x.1.HoldsCtx := by
  simp only [State.partPages, List.mem_append, List.mem_flatMap, List.mem_singleton] at h
  obtain ⟨a, ha, hx⟩ | rfl := h
  · have h8 := mem_arraysOf ha
    split at hx
    · exact .inl ⟨a, h8, by rw [List.mem_singleton.mp hx]⟩
    · next hne =>
      obtain rfl | rfl : x = (.ma a, q) ∨ x = (.dma a, q) := by simpa using hx
      · exact .inl ⟨a, h8, rfl⟩
      · exact .inr (.inl ⟨a, by omega, rfl⟩)
  · exact .inr (.inr rfl)

theorem RegsIn.stopReqs {l : List (Page × Nat)} (hl : ∀ x ∈ l, x.1.HoldsCtx) :
    RegsIn ctxPageKeys s (l.foldl (fun s x => s.stopReq x.1 x.2) s) := foldl fun _ x hx => stopReq (hl x hx)

theorem RegsIn.disablePart : RegsIn ctxPageKeys s (s.disablePart q) :=
  ite refl ((of_regs rfl).trans (stopReqs fun _ => holdsCtx_of_mem_partPages))

theorem not_ctxPageKeys_part {b : Nat} {f : Fld} (hoff : f.off < 0x1000) (hlsb : f.lsb < 32) : ¬ ctxPageKeys (regKey .part b f) := by
  simp only [ctxPageKeys, keyPage, keyOff, regKey, Page.base]
  omega

theorem disablePart_partOn {r : Nat} : (s.disablePart q).partOn r = s.partOn r :=
  congrArg (· != 0) (RegsIn.disablePart.rd_eq (not_ctxPageKeys_part (by decide) (by decide)))

/-- The contexts of an enabled partition that is being disabled have their STOP_REQ. -/
theorem disablePart_of_on (hon : s.partOn q = true) (hnot : s.parts.disabling.contains q = false) : s.disablePart q =
    (s.partPages q).foldl (fun s x => s.stopReq x.1 x.2) { s with parts := { s.parts with disabling := insAsc q s.parts.disabling } } :=
  if_neg (by simp only [hon, hnot]; decide)

theorem stopReqs_disabling {l : List (Page × Nat)} : (l.foldl (fun s x => s.stopReq x.1 x.2) s).parts.disabling = s.parts.disabling :=
  List.foldlRecOn l _ (motive := fun t : State => t.parts.disabling = s.parts.disabling) rfl fun t ht x _ =>
    (congrArg Prod.snd (Frame.stopReq.same .assign (by decide)) : (t.stopReq x.1 x.2).parts.disabling = t.parts.disabling).trans ht

theorem disablePart_disabling (r : Nat) : r ∈ (s.disablePart q).parts.disabling ↔
    r ∈ s.parts.disabling ∨ (r = q ∧ s.partOn q = true) := by
  by_cases hon : s.partOn q = true
  · cases hnot : s.parts.disabling.contains q with
    | true =>
      have hkeep : s.disablePart q = s := if_pos (by simp only [hnot, Bool.or_true])
      rw [hkeep]
      exact ⟨.inl, fun h => h.elim id fun he => he.1 ▸ List.contains_iff_mem.mp hnot⟩
    | false =>
      rw [disablePart_of_on hon hnot, stopReqs_disabling]
      simp [mem_insAsc, hon, or_comm]
  · have hkeep : s.disablePart q = s := if_pos (by simp [hon])
    rw [hkeep]
    exact ⟨.inl, fun h => h.elim id fun he => absurd he.2 hon⟩

end

end Sys2Proof.Machine
end

section
/-! The commands of the SEC page (R336, R346, R357 to R360). -/

namespace Sys2Proof.Machine

set_option Elab.async false

section
variable {s t u : State} {v : View} {w : Word} {addr code : Nat} {b : List Byte}

/-! ### How a command runs and ends -/

/-- The state in which a command that the write of 0x144 names runs. -/
def State.secArmed (s : State) (w : Word) : State := s.wr .sec 0 Reg.Sec.CMD_HI (field w.toNat 0 8)

/-- How a command ends with its status. -/
def State.secFinish (r : Nat × State) : State :=
  let u := ((r.2.wr .sec 0 Reg.Sec.CMD_STATUS r.1).wr .sec 0 Reg.Sec.CMD_GO 0).irq .sec none 0
  if r.1 = 0 then u else u.errCount .sec 0 0 1

/-- What the command of a CODE does before it ends. -/
def State.secRun (s : State) (addr : Nat) (b : List Byte) : Nat → Nat × State
  | 1 => s.ownerProg b
  | 2 => s.lcAdvance b
  | 3 => s.rollbackAdv b
  | 4 => s.dbgChallenge addr b
  | 5 => s.dbgResponse b
  | 6 => s.wellRekey
  | _ => (6, s)

theorem runSecCmd_eq (hup : s.upsets = []) :
    s.runSecCmd = State.secFinish (s.secRun s.cmdBlock (s.bytes s.cmdBlock 256) (leAt (s.bytes s.cmdBlock 256) 0 1)) := by
  rw [State.runSecCmd, State.meetData_of_noUpsets hup]
  rfl

theorem leAt_zero_one {n : Nat} : leAt (s.bytes addr (n + 1)) 0 1 = (s.byte addr).toNat := by
  have hslice : sliceBytes (s.bytes addr (n + 1)) 0 1 = s.bytes addr 1 := sliceBytes_bytes addr (n + 1) 0 1 (by omega)
  rw [leAt, hslice]
  rfl

/-- The write of 0x144 that names a command. -/
theorem secNamed_of_reaches (h : Reaches s v .sec 0x144 0) : s.secNamed v w.toNat code = s.secCmd (setField w.toNat 31 1 1) (some code) :=
  State.viaBus_of_reaches h (by simp) w.toNat fun s _ _ _ => s.secCmd (setField w.toNat 31 1 1) (some code)

theorem cmdBlock_armed : (s.secArmed w).cmdBlock = s.rd .sec 0 Reg.Sec.CMD_LO + field w.toNat 0 8 * 2 ^ 32 := by
  rw [State.cmdBlock, State.secArmed, State.rd_wr_other _ _ (by decide), State.rd_wr_self]
  exact congrArg (fun x => s.rd .sec 0 Reg.Sec.CMD_LO + x * 2 ^ 32) (Nat.mod_eq_of_lt (Nat.mod_lt _ (by decide)))

theorem seeded_armed : (s.secArmed w).seeded = s.seeded := congrArg (· != 0) (State.rd_wr_other _ _ (by decide))

/-- A named command whose block begins with its CODE runs, or waits for a seed. -/
theorem secCmd_eq (h : SecReady s v w addr code) : s.secCmd (setField w.toNat 31 1 1) (some code) =
    if (code = 4 ∨ code = 6) ∧ (!s.seeded) = true then ((s.secArmed w).wr .sec 0 Reg.Sec.CMD_GO 1).wr .sec 0 Reg.Sec.CMD_STATUS 1
    else (s.secArmed w).runSecCmd := by
  obtain ⟨-, hgo, haddr, hon, -, hcode⟩ := h
  have hfield : field (setField w.toNat 31 1 1) 0 8 = field w.toNat 0 8 := field_setField_of_disjoint (by omega)
  have harm : s.wr .sec 0 Reg.Sec.CMD_HI (field (setField w.toNat 31 1 1) 0 8) = s.secArmed w := by rw [hfield]; rfl
  have hblock : (s.secArmed w).cmdBlock = addr := cmdBlock_armed.trans haddr.symm
  have hwake : (s.secArmed w).wakeAll [memDomain addr] = (s.secArmed w, true) := wakeAll_memDomain hon
  have hbyte : ((s.secArmed w).byte addr).toNat = code := hcode
  rw [State.secCmd, hgo, if_neg (by decide), harm, bitAt_setField_one]
  simp only [hblock, hwake, hbyte, seeded_armed]
  exact (if_neg (by decide)).trans ((if_neg (by decide)).trans (if_neg (fun h => h rfl)))

theorem secNamed_eq (h : SecReady s v w addr code) (hb : b = s.bytes addr 256) (hseed : code = 4 ∨ code = 6 → s.seeded = true) :
    s.secNamed v w.toNat code = State.secFinish ((s.secArmed w).secRun addr b code) := by
  have hblock : (s.secArmed w).cmdBlock = addr := cmdBlock_armed.trans h.2.2.1.symm
  have hbytes : (s.secArmed w).bytes addr 256 = b := hb.symm
  have hlead : leAt b 0 1 = code := by rw [hb]; exact leAt_zero_one.trans h.2.2.2.2.2
  rw [secNamed_of_reaches h.1, secCmd_eq h, if_neg, runSecCmd_eq (s := s.secArmed w) h.2.2.2.2.1, hblock, hbytes, hlead]
  exact fun ⟨hc, hnot⟩ => by simp [hseed hc] at hnot

/-- What the end of a command leaves of what the command did. -/
structure SecFinished (r : Nat × State) (t : State) : Prop where
  status : t.rd .sec 0 Reg.Sec.CMD_STATUS = r.1
  go : t.rd .sec 0 Reg.Sec.CMD_GO = 0
  irq : IrqSet t .sec 0 0
  sec : t.sec = r.2.sec
  mem : t.mem = r.2.mem
  disabling : t.parts.disabling = r.2.parts.disabling
  rd : ∀ f : Fld, 0x10 < f.off ∧ f.off < 0x1000 ∧ f.lsb < 32 → f.off ≠ 0x144 → f.off ≠ 0x148 → f.off ≠ (Reg.Hdr.ERR_CNT 0).off →
    t.rd .sec 0 f = r.2.rd .sec 0 f
  set : ∀ k, k < 32 → IrqSet r.2 .sec 0 k → IrqSet t .sec 0 k

/-- A count on a page clears no interrupt of it. -/
theorem IrqSet.errCount {p : Page} {i k c n : Nat} (h : IrqSet s p 0 k) (hk : k < 32) : IrqSet (s.errCount p c i n) p 0 k := by
  have hcnt : regKey p 0 Reg.Hdr.IRQ_RAW ≠ regKey p c (Reg.Hdr.ERR_CNT i) := by simp only [regKey]; omega
  have hsat : regKey p 0 Reg.Hdr.IRQ_RAW ≠ regKey p c (Reg.Hdr.ERR_CNT_SAT i) := by simp only [regKey]; omega
  unfold State.errCount
  dsimp only
  split
  · refine IrqSet.irq_none ?_ hk p 30
    rw [IrqSet, State.rd_wr_other _ _ hsat, State.rd_wr_other _ _ hcnt]
    exact h
  · rw [IrqSet, State.rd_wr_other _ _ hcnt]
    exact h

theorem secFinish_finished {r : Nat × State} (hr : r.1 < 16) : SecFinished r (State.secFinish r) := by
  obtain ⟨st, u⟩ := r
  have hfinish : State.secFinish (st, u) = if st = 0 then ((u.wr .sec 0 Reg.Sec.CMD_STATUS st).wr .sec 0 Reg.Sec.CMD_GO 0).irq .sec none 0 else
      (((u.wr .sec 0 Reg.Sec.CMD_STATUS st).wr .sec 0 Reg.Sec.CMD_GO 0).irq .sec none 0).errCount .sec 0 0 1 := rfl
  generalize hw : (u.wr .sec 0 Reg.Sec.CMD_STATUS st).wr .sec 0 Reg.Sec.CMD_GO 0 = x at *
  have hstatus : x.rd .sec 0 Reg.Sec.CMD_STATUS = st := by
    rw [← hw, State.rd_wr_other _ _ (by decide), State.rd_wr_self]
    exact Nat.mod_eq_of_lt hr
  have hgo : x.rd .sec 0 Reg.Sec.CMD_GO = 0 := by rw [← hw, State.rd_wr_self]; rfl
  have hrest : x.sec = u.sec ∧ x.mem = u.mem ∧ x.parts.disabling = u.parts.disabling := by subst hw; exact ⟨rfl, rfl, rfl⟩
  have hother (f : Fld) (hf : f.off ≠ 0x144) (hf' : f.off ≠ 0x148) (hlsb : f.lsb < 32) : x.rd .sec 0 f = u.rd .sec 0 f := by
    rw [← hw, State.rd_wr_other _ _ (regKey_ne_of_off hf hlsb (by decide)), State.rd_wr_other _ _ (regKey_ne_of_off hf' hlsb (by decide))]
  let y := x.irq .sec none 0
  have hirq (f : Fld) (hf : f.off ≠ 0x10) (hlsb : f.lsb < 32) : y.rd .sec 0 f = x.rd .sec 0 f :=
    State.rd_irq_none (regKey_ne_of_off hf hlsb (by decide))
  have hcount (f : Fld) (hf : f.off ≠ 0x10) (hf' : f.off ≠ 0x20) (hlsb : f.lsb < 32) : (y.errCount .sec 0 0 1).rd .sec 0 f = y.rd .sec 0 f :=
    State.rd_errCount_other (regKey_ne_of_off hf' hlsb (by decide)) (regKey_ne_of_off hf' hlsb (by decide)) (regKey_ne_of_off hf hlsb (by decide))
  have hdone : SecFinished (st, u) y := {
    status := (hirq _ (by decide) (by decide)).trans hstatus
    go := (hirq _ (by decide) (by decide)).trans hgo
    irq := State.irqSet_irq _ _ (by decide)
    sec := (State.irq_sec ..).trans hrest.1
    mem := (State.irq_mem ..).trans hrest.2.1
    disabling := (congrArg Prod.snd (Frame.irq.same .assign (by decide)) :).trans hrest.2.2
    rd f hf h4 h8 h0 := (hirq f (by omega) hf.2.2).trans (hother f h4 h8 hf.2.2)
    set k hk h := IrqSet.irq_none (by rw [IrqSet, hother _ (by decide) (by decide) (by decide)]; exact h) hk _ _ }
  rw [hfinish]
  split
  · exact hdone
  · exact {
      status := (hcount _ (by decide) (by decide) (by decide)).trans hdone.status
      go := (hcount _ (by decide) (by decide) (by decide)).trans hdone.go
      irq := hdone.irq.errCount (by decide)
      sec := (State.errCount_sec ..).trans hdone.sec
      mem := (State.errCount_mem ..).trans hdone.mem
      disabling := (congrArg Prod.snd (Frame.errCount.same .assign (by decide)) :).trans hdone.disabling
      rd f hf h4 h8 h0 := (hcount f (by omega) h0 hf.2.2).trans (hdone.rd f hf h4 h8 h0)
      set k hk h := (hdone.set k hk h).errCount hk }

/-- A command that may run ends with the status that its effect gives. -/
theorem secNamed_finished {st : Nat} (h : SecReady s v w addr code) (hb : b = s.bytes addr 256) (hseed : code = 4 ∨ code = 6 → s.seeded = true)
    (hrun : (s.secArmed w).secRun addr b code = (st, u)) (hst : st < 16) : SecFinished (st, u) (s.secNamed v w.toNat code) := by
  rw [secNamed_eq h hb hseed, hrun]
  exact secFinish_finished hst

theorem SecFinished.ended {st : Nat} (h : SecFinished (st, u) t) : SecEnded t st := ⟨h.status, h.go, h.irq⟩

/-- A command that answers a status and does nothing else. -/
theorem secNamed_answers {st : Nat} (h : SecReady s v w addr code) (hb : b = s.bytes addr 256) (hseed : code = 4 ∨ code = 6 → s.seeded = true)
    (hrun : (s.secArmed w).secRun addr b code = (st, s.secArmed w)) (hst : st < 16) :
    SecEnded (s.secNamed v w.toNat code) st ∧ (s.secNamed v w.toNat code).sec = s.sec ∧ (s.secNamed v w.toNat code).mem = s.mem :=
  have hdone := secNamed_finished h hb hseed hrun hst
  ⟨hdone.ended, hdone.sec, hdone.mem⟩

/-! ### OWNER_PROG, LC_ADVANCE and ROLLBACK_ADV -/

theorem ownerProg_fills {slot : Nat} (hslot : slot = leAt b 8 1) (hle : slot ≤ 3) (hlc : u.sec.lc = 1)
    (hen : (SMap.get {} u.sec.owners slot).en = false) : u.ownerProg b = (0, { u with sec := { u.sec with
      owners := SMap.set {} u.sec.owners slot (Owner.mk (sliceBytes b 10 32) true (bitAt (leAt b 9 1) 0)) } }) := by
  subst hslot
  rw [State.ownerProg]
  simp only [Nat.not_lt.mpr hle, hlc, hen, if_false, ne_eq, not_true_eq_false, Bool.false_eq_true]

theorem ownerProg_lifecycle (hle : leAt b 8 1 ≤ 3) (hlc : u.sec.lc ≠ 1) : u.ownerProg b = (2, u) := by
  rw [State.ownerProg]
  simp only [Nat.not_lt.mpr hle, hlc, if_false, ne_eq, not_false_eq_true, if_true]

theorem ownerProg_programmed (hle : leAt b 8 1 ≤ 3) (hlc : u.sec.lc = 1) (hen : (SMap.get {} u.sec.owners (leAt b 8 1)).en = true) :
    u.ownerProg b = (3, u) := by
  rw [State.ownerProg]
  simp only [Nat.not_lt.mpr hle, hlc, hen, if_false, if_true, ne_eq, not_true_eq_false]

theorem lcAdvance_sealed (hop : leAt b 8 1 = 2) (hlc : u.sec.lc = 1) : u.lcAdvance b =
    if (!((List.range 4).any fun i => (SMap.get {} u.sec.owners i).en) || (List.range 8).any u.partOn) = true then (3, u)
    else (0, { u with sec := { u.sec with lcPending := some 2 } }) := by
  rw [State.lcAdvance, hop]
  exact if_neg (by simp [hlc])

theorem lcAdvance_lifecycle (hop : leAt b 8 1 = 2) (hlc : u.sec.lc ≠ 1) : u.lcAdvance b = (2, u) := by
  rw [State.lcAdvance, hop]
  exact if_pos hlc

theorem lcAdvance_rma {c : List Byte} (hop : leAt b 8 1 = 3) (hlc : u.sec.lc = 2) (hc : u.sec.challenge = some c) : u.lcAdvance b =
    if Config.ecdsaOk Config.grenariPub (sha384 c) (sliceBytes b 9 96) = true then
      (0, { u with sec := { u.sec with challenge := none, lcPending := some 3 } })
    else (4, { u with sec := { u.sec with challenge := none } }) := by
  rw [State.lcAdvance, hop]
  refine (if_neg (by simp [hlc])).trans ?_
  simp only [hc]

theorem partOn_armed (p : Nat) : (s.secArmed w).partOn p = s.partOn p := congrArg (· != 0) (State.rd_wr_other _ _ (by
  simp only [regKey, Page.base]; omega))

theorem rollbackAdv_raises (hi : leAt b 8 1 ≤ 15) (hv : leAt b 9 1 ≤ 64) (hlc : u.sec.lc = 1 ∨ u.sec.lc = 2) : u.rollbackAdv b =
    (0, { u with sec := { u.sec with rollback := SMap.set 0 u.sec.rollback (leAt b 8 1) (max (leAt b 9 1) (SMap.get 0 u.sec.rollback (leAt b 8 1))) } }) :=
  (if_neg (by omega)).trans (if_neg (by omega))

theorem rollbackAdv_lifecycle (hi : leAt b 8 1 ≤ 15) (hv : leAt b 9 1 ≤ 64) (h1 : u.sec.lc ≠ 1) (h2 : u.sec.lc ≠ 2) : u.rollbackAdv b = (2, u) :=
  (if_neg (by omega)).trans (if_pos ⟨h1, h2⟩)

/-! ### DBG_CHALLENGE -/

/-- Registers and secrets play no part in a store. -/
def State.retouch (s : State) (r : SMap Nat) (x : SecS) : State := { s with regs := r, sec := x }

variable {r : SMap Nat} {x : SecS}

theorem retouch_claim {k : Nat} : (s.retouch r x).claim k = (s.claim k).retouch r x := by
  have hdirty : (s.retouch r x).tier.dirty = s.tier.dirty := rfl
  rw [State.claim, State.claim, hdirty]
  split <;> rfl

theorem retouch_wroteFrame {a k : Nat} : (s.retouch r x).wroteFrame a k = (s.wroteFrame a k).retouch r x := by
  have harr : (s.retouch r x).arr a = s.arr a := rfl
  rw [State.wroteFrame, State.wroteFrame, harr]
  split <;> rfl

theorem retouch_dstore {n : Nat} {d : List Byte} : (s.retouch r x).dstore n d = (s.dstore n d).retouch r x := by
  have hfold (f : State → Nat → State) (hf : ∀ (u : State) (k : Nat), f (u.retouch r x) k = (f u k).retouch r x) (l : List Nat) (u : State) :
      l.foldl f (u.retouch r x) = (l.foldl f u).retouch r x := by
    induction l generalizing u with
    | nil => rfl
    | cons k l ih => rw [List.foldl_cons, List.foldl_cons, hf, ih]
  unfold State.dstore
  extract_lets pages s1 s2
  have h1 : s1 = s2.retouch r x := hfold _ (fun u k => by
    split
    · rw [retouch_wroteFrame, retouch_claim]
    split
    · rw [retouch_wroteFrame, retouch_claim]
    · exact retouch_claim) pages s
  rw [h1]
  clear_value s1 s2
  split
  · rfl
  · refine hfold _ (fun u k => ?_) pages s2
    have hnamed : (u.retouch r x).frameNamed (pageFrame k) = u.frameNamed (pageFrame k) := rfl
    dsimp only
    rw [hnamed]
    split <;> rfl

theorem dbgChallenge_forms {c : List Byte} (hlc : u.sec.lc ≠ 0) (hlock : u.rdB .sec 0 Reg.Sec.DBG_LOCKOUT = false)
    (hgen : u.sec.generates < 2 ^ 20)
    (hc : c = u.deviceId ++ leBytes 16 (Config.drbgOut u.sec.drbg) ++ sliceBytes b 8 4 ++ leBytes 1 u.sec.lc ++ List.replicate 11 0) :
    u.dbgChallenge addr b = (0, (u.dstore (addr + 8) c).retouch u.regs
      { u.sec with drbg := Config.drbgNext u.sec.drbg, generates := u.sec.generates + 1, challenge := some c }) := by
  have htake : u.drbgTake = (Config.drbgOut u.sec.drbg, { u with sec := { u.sec with
      drbg := Config.drbgNext u.sec.drbg, generates := u.sec.generates + 1 } }) := by rw [State.drbgTake, if_neg (by omega)]
  rw [State.dbgChallenge, if_neg hlc, hlock, if_neg (by decide), htake, ← retouch_dstore, hc]
  rfl

/-! ### DBG_RESPONSE -/

/-- A response is sound where its key is permitted and its signature of the challenge verifies. -/
abbrev State.soundResponse (s : State) (b c : List Byte) : Bool :=
  s.debugKeyOk (sha256 (sliceBytes b 8 96)) && Config.ecdsaOk (sliceBytes b 8 96) (sha384 c) (sliceBytes b 104 96)

/-- The scope that a challenge asks for. -/
abbrev askedScope (c : List Byte) : Nat := leAt c 48 4 % 16

theorem dbgResponse_opens {c : List Byte} (hc : u.sec.challenge = some c) (hok : u.soundResponse b c = true)
    (hscope : u.sec.lc = 2 → and32 (askedScope c) 0xB = 0) : u.dbgResponse b =
      (0, { u with sec := { u.sec with challenge := none, dbgScope := or32 u.sec.dbgScope (askedScope c) } }) := by
  rw [State.dbgResponse, hc]
  exact (if_pos hok).trans (if_neg fun h => h.2 (hscope h.1))

/-- The block after a response that fails: the challenge is gone and the failure is counted. -/
def SecS.failed (x : SecS) : SecS := { x with challenge := none, dbgFails := x.dbgFails + 1 }

/-- The block after any response: the challenge is gone. -/
def SecS.answered (x : SecS) : SecS := { x with challenge := none }

/-- The eighth failure locks debug out. -/
def State.lockAtEight (u : State) : State := if 8 ≤ u.sec.dbgFails then u.wr .sec 0 Reg.Sec.DBG_LOCKOUT 1 else u

/-- A response that fails is counted. -/
def State.responseFailed (u : State) : State := (({ u with sec := u.sec.failed }).errCount .sec 0 3 1).lockAtEight

theorem dbgResponse_fails {c : List Byte} (hc : u.sec.challenge = some c) (hok : u.soundResponse b c = false) :
    u.dbgResponse b = (4, u.responseFailed) := by
  rw [State.dbgResponse, hc]
  exact if_neg (by rw [Bool.not_eq_true]; exact hok)

theorem responseFailed_leaves : u.responseFailed.sec = u.sec.failed ∧
    u.responseFailed.mem = u.mem ∧ u.responseFailed.rd .sec 0 (Reg.Hdr.ERR_CNT 3) = (count31 (u.rd .sec 0 (Reg.Hdr.ERR_CNT 3)) 1).1 ∧
    (8 ≤ u.sec.dbgFails + 1 → u.responseFailed.rdB .sec 0 Reg.Sec.DBG_LOCKOUT = true) := by
  unfold State.responseFailed
  have h1 : (({ u with sec := u.sec.failed } : State).errCount .sec 0 3 1).sec = u.sec.failed := State.errCount_sec ..
  have hcnt : (({ u with sec := u.sec.failed } : State).errCount .sec 0 3 1).rd .sec 0 (Reg.Hdr.ERR_CNT 3) =
    (count31 (u.rd .sec 0 (Reg.Hdr.ERR_CNT 3)) 1).1 := State.rd_errCount_self ..
  have hmem : (({ u with sec := u.sec.failed } : State).errCount .sec 0 3 1).mem = u.mem := State.errCount_mem ..
  generalize ({ u with sec := u.sec.failed } : State).errCount .sec 0 3 1 = u1 at h1 hcnt hmem ⊢
  unfold State.lockAtEight
  split
  · exact ⟨h1, hmem, (State.rd_wr_other _ _ (by decide)).trans hcnt, fun _ => by rw [State.rdB, State.rd_wr_self]; rfl⟩
  · next hfew => exact ⟨h1, hmem, hcnt, fun h => absurd (by rw [h1]; exact h) hfew⟩

/-- The scope waits to open. -/
def State.asksScope (u : State) (scope : Nat) : State := { u with sec := { u.sec with dbgOpening := some scope } }

/-- In SEALED a scope that reaches memory waits until no partition is enabled. -/
def State.responseWaits (u : State) (scope : Nat) : State :=
  (((List.range 8).foldl State.disablePart { u with sec := { u.sec with challenge := none } }).asksScope scope).debugOpens

theorem dbgResponse_waits {c : List Byte} (hc : u.sec.challenge = some c) (hok : u.soundResponse b c = true) (hlc : u.sec.lc = 2)
    (hscope : and32 (askedScope c) 0xB ≠ 0) : u.dbgResponse b = (0, u.responseWaits (askedScope c)) := by
  have hgo : u.sec.lc = 2 ∧ and32 (askedScope c) 0xB ≠ 0 := ⟨hlc, hscope⟩
  unfold State.dbgResponse
  rw [hc]
  refine (if_pos hok).trans ?_
  refine (if_pos hgo).trans ?_
  rw [State.responseWaits, State.asksScope]

theorem disableParts_keeps {l : List Nat} : (l.foldl State.disablePart u).sec = u.sec ∧ (l.foldl State.disablePart u).mem = u.mem ∧
    (∀ r, (l.foldl State.disablePart u).partOn r = u.partOn r) ∧
    ∀ r, r ∈ u.parts.disabling ∨ (r ∈ l ∧ u.partOn r = true) → r ∈ (l.foldl State.disablePart u).parts.disabling := by
  induction l generalizing u with
  | nil => exact ⟨rfl, rfl, fun _ => rfl, fun r h => h.elim id fun h => absurd h.1 (by simp)⟩
  | cons q l ih =>
    obtain ⟨hsec, hmem, hon, hdis⟩ := ih (u := u.disablePart q)
    refine ⟨hsec.trans (Frame.disablePart.same .sec (by decide)), hmem.trans (Frame.disablePart.same .mem (by decide)),
      fun r => (hon r).trans disablePart_partOn, fun r h => hdis r ?_⟩
    rw [disablePart_disabling, disablePart_partOn]
    obtain h | ⟨h, hr⟩ := h
    · exact .inl (.inl h)
    · obtain rfl | h := List.mem_cons.mp h
      · exact .inl (.inr ⟨rfl, hr⟩)
      · exact .inr ⟨h, hr⟩

theorem debugOpens_waits {scope : Nat} (hopen : u.sec.dbgOpening = some scope) (hany : (List.range 8).any u.partOn = true) : u.debugOpens = u := by
  rw [State.debugOpens, hopen]
  exact if_pos hany

theorem debugOpens_opens {scope : Nat} (hopen : u.sec.dbgOpening = some scope) (hnone : (List.range 8).any u.partOn = false) : u.debugOpens =
    ({ u with sec := { u.sec with dbgOpening := none, dbgScope := or32 u.sec.dbgScope scope } }).irq .sec none 4 := by
  rw [State.debugOpens, hopen]
  exact if_neg (by rw [hnone]; decide)

/-- What a response leaves that waits for its partitions, or opens its scope at once. -/
structure ScopeWaits (s t : State) (scope : Nat) : Prop where
  challenge : t.sec.challenge = none
  mem : t.mem = s.mem
  waits : ∀ p, p < 8 → s.partOn p = true → t.parts.disabling.contains p = true ∧ t.sec.dbgScope = s.sec.dbgScope ∧ t.sec.dbgOpening = some scope
  opens : (List.range 8).any s.partOn = false → t.sec.dbgScope = or32 s.sec.dbgScope scope ∧ t.sec.dbgOpening = none ∧ IrqSet t .sec 0 4

theorem debugOpens_leaves {scope : Nat} (hsec : t.sec = s.sec.answered) (hmem : t.mem = s.mem) (hpart : t.partOn = s.partOn)
    (hdis : ∀ p, p < 8 → s.partOn p = true → t.parts.disabling.contains p = true) :
    ScopeWaits s (t.asksScope scope).debugOpens scope := by
  have hopen : (t.asksScope scope).sec.dbgOpening = some scope := rfl
  have hon : (t.asksScope scope).partOn = s.partOn := hpart
  cases hany : (List.range 8).any s.partOn with
  | true =>
    rw [debugOpens_waits hopen (by rw [hon]; exact hany)]
    exact ⟨(congrArg SecS.challenge hsec :), hmem, fun p hp h => ⟨hdis p hp h, (congrArg SecS.dbgScope hsec :), rfl⟩, fun h => absurd h (by rw [hany]; decide)⟩
  | false =>
    rw [debugOpens_opens hopen (by rw [hon]; exact hany)]
    refine ⟨(congrArg SecS.challenge (State.irq_sec ..)).trans (congrArg SecS.challenge hsec :), (State.irq_mem ..).trans hmem, fun p hp h => ?_,
      fun _ => ⟨(congrArg SecS.dbgScope (State.irq_sec ..)).trans (congrArg (fun x : SecS => or32 x.dbgScope scope) hsec :),
        congrArg SecS.dbgOpening (State.irq_sec ..), State.irqSet_irq _ _ (by decide)⟩⟩
    exact absurd h (List.any_eq_false.mp hany p (List.mem_range.mpr hp))

theorem responseWaits_leaves {scope : Nat} : ScopeWaits u (u.responseWaits scope) scope := by
  have hkeep := disableParts_keeps (l := List.range 8) (u := { u with sec := { u.sec with challenge := none } })
  unfold State.responseWaits
  generalize (List.range 8).foldl State.disablePart { u with sec := { u.sec with challenge := none } } = t at hkeep ⊢
  obtain ⟨hsec, hmem, hon, hdis⟩ := hkeep
  refine debugOpens_leaves hsec hmem (funext hon) fun p hp h => List.contains_iff_mem.mpr ?_
  exact hdis p (.inr ⟨List.mem_range.mpr hp, h⟩)

/-! ### WELL_REKEY -/

theorem wellRekey_draws (hst : u.st .lpddr 0 = 0) (hused : u.wellUsed = []) (hgen : u.sec.generates < 2 ^ 20) : u.wellRekey =
    (0, ({ u with sec := { u.sec with
      drbg := Config.drbgNext u.sec.drbg, generates := u.sec.generates + 1, wellKey := Config.drbgOut u.sec.drbg, wellCtr := 0 } }).wr .sec 0 Reg.Sec.REKEY_DUE 0) := by
  have htake : u.drbgTake = (Config.drbgOut u.sec.drbg, { u with sec := { u.sec with
      drbg := Config.drbgNext u.sec.drbg, generates := u.sec.generates + 1 } }) := by rw [State.drbgTake, if_neg (by omega)]
  rw [State.wellRekey, if_neg (by simp [hst, hused]), htake]

theorem wellRekey_refuses (h : u.st .lpddr 0 ≠ 0 ∨ u.wellUsed ≠ []) : u.wellRekey = (3, u) := if_pos (by simpa using h)

theorem st_armed : (s.secArmed w).st .lpddr 0 = s.st .lpddr 0 := State.rd_wr_other _ _ (by decide)

/-! ### The clauses -/

theorem ownerProg_fills_clause {slot : Nat} (hb : b = s.bytes addr 256) (h : SecReady s v w addr 1) (hslot : slot = leAt b 8 1) (hle : slot ≤ 3)
    (hlc : s.sec.lc = 1) (hen : (SMap.get {} s.sec.owners slot).en = false) :
    ∃ t, exec (.ownerProg v w) s = .next t ∧ SecEnded t 0 ∧ t.mem = s.mem ∧
      SMap.get {} t.sec.owners slot = Owner.mk (sliceBytes b 10 32) true (bitAt (leAt b 9 1) 0) ∧
      ∀ k, k ≠ slot → SMap.get {} t.sec.owners k = SMap.get {} s.sec.owners k := by
  have hdone := secNamed_finished h hb (by simp) (ownerProg_fills (u := s.secArmed w) hslot hle hlc hen) (by decide)
  refine ⟨_, rfl, hdone.ended, hdone.mem, ?_, fun k hk => ?_⟩
  · rw [hdone.sec]
    exact SMap.get_set_self ..
  · rw [hdone.sec]
    exact SMap.get_set_other _ _ _ _ hk

theorem lcAdvance_rma_clause {c : List Byte} {ok : Bool} (hb : b = s.bytes addr 256) (h : SecReady s v w addr 2) (hop : leAt b 8 1 = 3)
    (hlc : s.sec.lc = 2) (hc : s.sec.challenge = some c) (hok : ok = Config.ecdsaOk Config.grenariPub (sha384 c) (sliceBytes b 9 96)) :
    ∃ t, exec (.lcAdvance v w) s = .next t ∧ SecEnded t (if ok then 0 else 4) ∧ t.mem = s.mem ∧
      t.sec = { s.sec with challenge := none, lcPending := if ok then some 3 else s.sec.lcPending } := by
  have hrun := lcAdvance_rma (u := s.secArmed w) hop hlc hc
  rw [← hok] at hrun
  cases ok with
  | true =>
    have hdone := secNamed_finished h hb (by simp) (hrun.trans (if_pos rfl)) (by decide)
    exact ⟨_, rfl, hdone.ended, hdone.mem, hdone.sec⟩
  | false =>
    have hdone := secNamed_finished h hb (by simp) (hrun.trans (if_neg (by decide))) (by decide)
    exact ⟨_, rfl, hdone.ended, hdone.mem, hdone.sec⟩

theorem rollbackAdv_clause (hb : b = s.bytes addr 256) (h : SecReady s v w addr 3) (hi : leAt b 8 1 ≤ 15) (hv : leAt b 9 1 ≤ 64)
    (hlc : s.sec.lc = 1 ∨ s.sec.lc = 2) :
    ∃ t, exec (.rollbackAdv v w) s = .next t ∧ SecEnded t 0 ∧ t.mem = s.mem ∧
      SMap.get 0 t.sec.rollback (leAt b 8 1) = max (leAt b 9 1) (SMap.get 0 s.sec.rollback (leAt b 8 1)) ∧
      ∀ k, k ≠ leAt b 8 1 → SMap.get 0 t.sec.rollback k = SMap.get 0 s.sec.rollback k := by
  have hdone := secNamed_finished h hb (by simp) (rollbackAdv_raises (u := s.secArmed w) hi hv hlc) (by decide)
  refine ⟨_, rfl, hdone.ended, hdone.mem, ?_, fun k hk => ?_⟩
  · rw [hdone.sec]
    exact SMap.get_set_self ..
  · rw [hdone.sec]
    exact SMap.get_set_other _ _ _ _ hk

theorem lockout_armed : (s.secArmed w).rdB .sec 0 Reg.Sec.DBG_LOCKOUT = s.rdB .sec 0 Reg.Sec.DBG_LOCKOUT :=
  congrArg (· != 0) (State.rd_wr_other _ _ (by decide))

theorem dbgChallenge_clause {c : List Byte} (hb : b = s.bytes addr 256) (h : SecReady s v w addr 4) (hlc : s.sec.lc ≠ 0)
    (hlock : s.rdB .sec 0 Reg.Sec.DBG_LOCKOUT = false) (hseed : s.seeded = true) (hgen : s.sec.generates < 2 ^ 20)
    (hc : c = s.deviceId ++ leBytes 16 (Config.drbgOut s.sec.drbg) ++ sliceBytes b 8 4 ++ leBytes 1 s.sec.lc ++ List.replicate 11 0) :
    ∃ t, exec (.dbgChallenge v w) s = .next t ∧ SecEnded t 0 ∧ t.sec.challenge = some c ∧
      t.sec.drbg = Config.drbgNext s.sec.drbg ∧ t.mem = (s.dstore (addr + 8) c).mem := by
  have hdone := secNamed_finished h hb (fun _ => hseed)
    (dbgChallenge_forms (addr := addr) (u := s.secArmed w) hlc (lockout_armed.trans hlock) hgen hc) (by decide)
  refine ⟨_, rfl, hdone.ended, (congrArg SecS.challenge hdone.sec :), (congrArg SecS.drbg hdone.sec :), hdone.mem.trans ?_⟩
  exact (congrArg State.mem (retouch_dstore (s := s) (r := (s.secArmed w).regs) (x := s.sec)) :)

theorem dbgChallenge_lifecycle (hlc : u.sec.lc = 0) : u.dbgChallenge addr b = (2, u) := if_pos hlc

theorem dbgChallenge_lockout (hlc : u.sec.lc ≠ 0) (hlock : u.rdB .sec 0 Reg.Sec.DBG_LOCKOUT = true) : u.dbgChallenge addr b = (3, u) :=
  (if_neg hlc).trans (if_pos hlock)

theorem secNamed_waits (h : SecReady s v w addr code) (hcode : code = 4 ∨ code = 6) (hseed : s.seeded = false) :
    (s.secNamed v w.toNat code).rd .sec 0 Reg.Sec.CMD_GO = 1 ∧ (s.secNamed v w.toNat code).rd .sec 0 Reg.Sec.CMD_STATUS = 1 ∧
      (s.secNamed v w.toNat code).sec = s.sec ∧ (s.secNamed v w.toNat code).mem = s.mem := by
  rw [secNamed_of_reaches h.1, secCmd_eq h, if_pos ⟨hcode, by rw [hseed]; rfl⟩]
  refine ⟨?_, ?_, rfl, rfl⟩
  · rw [State.rd_wr_other _ _ (by decide), State.rd_wr_self]
    rfl
  · rw [State.rd_wr_self]
    rfl

theorem dbgResponse_clause {c : List Byte} {ok : Bool} (hb : b = s.bytes addr 256) (h : SecReady s v w addr 5) (hc : s.sec.challenge = some c)
    (hscope : s.sec.lc = 2 → and32 (askedScope c) 0xB = 0 ∨ ok = false) (hok : ok = s.soundResponse b c) :
    ∃ t, exec (.dbgResponse v w) s = .next t ∧ SecEnded t (if ok then 0 else 4) ∧ t.sec.challenge = none ∧
      t.sec.dbgScope = (if ok then or32 s.sec.dbgScope (askedScope c) else s.sec.dbgScope) ∧
      t.sec.dbgFails = (if ok then s.sec.dbgFails else s.sec.dbgFails + 1) ∧ t.mem = s.mem ∧
      (ok = false → t.rd .sec 0 (Reg.Hdr.ERR_CNT 3) = (count31 (s.rd .sec 0 (Reg.Hdr.ERR_CNT 3)) 1).1 ∧
        (8 ≤ s.sec.dbgFails + 1 → t.rdB .sec 0 Reg.Sec.DBG_LOCKOUT = true)) := by
  cases ok with
  | true =>
    have hdone := secNamed_finished h hb (by simp)
      (dbgResponse_opens (u := s.secArmed w) hc hok.symm fun hlc => (hscope hlc).resolve_right (by decide)) (by decide)
    exact ⟨_, rfl, hdone.ended, (congrArg SecS.challenge hdone.sec :), (congrArg SecS.dbgScope hdone.sec :), (congrArg SecS.dbgFails hdone.sec :), hdone.mem,
      fun hne => absurd hne (by decide)⟩
  | false =>
    have hdone := secNamed_finished h hb (by simp) (dbgResponse_fails (u := s.secArmed w) hc hok.symm) (by decide)
    obtain ⟨hsec, hmem, hcnt, hlock⟩ := responseFailed_leaves (u := s.secArmed w)
    have hsec' := hdone.sec.trans hsec
    have hcnt' : (s.secArmed w).rd .sec 0 (Reg.Hdr.ERR_CNT 3) = s.rd .sec 0 (Reg.Hdr.ERR_CNT 3) := State.rd_wr_other _ _ (by decide)
    refine ⟨_, rfl, hdone.ended, (congrArg SecS.challenge hsec' :), (congrArg SecS.dbgScope hsec' :), (congrArg SecS.dbgFails hsec' :), hdone.mem.trans hmem,
      fun _ => ⟨(hdone.rd _ (by decide) (by decide) (by decide) (by decide)).trans (hcnt.trans (by rw [hcnt'])), fun h8 => ?_⟩⟩
    exact (congrArg (· != 0) (hdone.rd _ (by decide) (by decide) (by decide) (by decide))).trans (hlock h8)

theorem ScopeWaits.armed {scope : Nat} (h : ScopeWaits (s.secArmed w) t scope) : ScopeWaits s t scope where
  challenge := h.challenge
  mem := h.mem
  waits p hp hon := h.waits p hp ((partOn_armed p).trans hon)
  opens hnone := h.opens (by rw [show (s.secArmed w).partOn = s.partOn from funext partOn_armed]; exact hnone)

theorem ScopeWaits.finished {scope : Nat} (h : ScopeWaits s u scope) (hdone : SecFinished (0, u) t) : ScopeWaits s t scope where
  challenge := by rw [hdone.sec]; exact h.challenge
  mem := hdone.mem.trans h.mem
  waits p hp hon := by rw [hdone.disabling, hdone.sec]; exact h.waits p hp hon
  opens hnone := by
    obtain ⟨h1, h2, h3⟩ := h.opens hnone
    rw [hdone.sec]
    exact ⟨h1, h2, hdone.set 4 (by decide) h3⟩

theorem dbgResponse_sealed_clause {c : List Byte} {scope : Nat} (hb : b = s.bytes addr 256) (h : SecReady s v w addr 5)
    (hc : s.sec.challenge = some c) (hlc : s.sec.lc = 2) (hscope : scope = askedScope c) (hne : and32 scope 0xB ≠ 0)
    (hok : s.soundResponse b c = true) :
    ∃ t, exec (.dbgResponse v w) s = .next t ∧ SecEnded t 0 ∧ t.sec.challenge = none ∧ t.mem = s.mem ∧
      (∀ p, p < 8 → s.partOn p = true → t.parts.disabling.contains p = true ∧ t.sec.dbgScope = s.sec.dbgScope ∧
        t.sec.dbgOpening = some scope) ∧
      ((List.range 8).any s.partOn = false → t.sec.dbgScope = or32 s.sec.dbgScope scope ∧ t.sec.dbgOpening = none ∧ IrqSet t .sec 0 4) := by
  subst hscope
  have hrun := dbgResponse_waits (u := s.secArmed w) hc hok hlc hne
  have hwaits := (responseWaits_leaves (u := s.secArmed w) (scope := askedScope c)).armed
  generalize (s.secArmed w).responseWaits (askedScope c) = x at hrun hwaits
  have hdone := secNamed_finished h hb (by simp) hrun (by decide)
  obtain ⟨hchal, hmem, hwait, hopen⟩ := hwaits.finished hdone
  exact ⟨_, rfl, hdone.ended, hchal, hmem, hwait, hopen⟩

theorem wellRekey_clause (hb : b = s.bytes addr 256) (h : SecReady s v w addr 6) (hst : s.st .lpddr 0 = 0) (hused : s.wellUsed = [])
    (hseed : s.seeded = true) (hgen : s.sec.generates < 2 ^ 20) :
    ∃ t, exec (.wellRekey v w) s = .next t ∧ SecEnded t 0 ∧ t.sec.wellKey = Config.drbgOut s.sec.drbg ∧ t.sec.wellCtr = 0 ∧
      t.rd .sec 0 Reg.Sec.REKEY_DUE = 0 ∧ t.mem = s.mem := by
  have hdone := secNamed_finished h hb (fun _ => hseed) (wellRekey_draws (u := s.secArmed w) (st_armed.trans hst) hused hgen) (by decide)
  refine ⟨_, rfl, hdone.ended, (congrArg SecS.wellKey hdone.sec :), (congrArg SecS.wellCtr hdone.sec :),
    (hdone.rd _ (by decide) (by decide) (by decide) (by decide)).trans ?_, hdone.mem⟩
  rw [State.rd_wr_self]
  rfl

end

/-- Settles O28: each command of the SEC page by its CODE. -/
theorem secPageCommands : Obligations.SecPageCommands := by
  intro s v w addr b hb
  have hany : (s.secArmed w).partOn = s.partOn := funext partOn_armed
  refine ⟨fun slot h => ownerProg_fills_clause hb h, fun h hle hlc => ⟨_, rfl, ?_⟩, fun h hle hlc hen => ⟨_, rfl, ?_⟩,
    fun h hop hlc hen hoff => ?_, fun h hop hlc hno => ⟨_, rfl, ?_⟩, fun h hop hlc => ⟨_, rfl, ?_⟩, fun c ok h => lcAdvance_rma_clause hb h,
    fun h => rollbackAdv_clause hb h, fun h hi hv h1 h2 => ⟨_, rfl, ?_⟩, fun c h => dbgChallenge_clause hb h,
    fun h hlc hseed => ⟨_, rfl, ?_⟩, fun h hlc hlock hseed => ⟨_, rfl, ?_⟩, fun code c hmem h hseed => ?_, fun h hc => ⟨_, rfl, ?_⟩,
    fun c ok h => dbgResponse_clause hb h, fun c scope h => dbgResponse_sealed_clause hb h, fun h => wellRekey_clause hb h,
    fun h hused hseed => ⟨_, rfl, ?_⟩⟩
  · exact secNamed_answers h hb (by simp) (ownerProg_lifecycle (u := s.secArmed w) hle hlc) (by decide)
  · exact secNamed_answers h hb (by simp) (ownerProg_programmed (u := s.secArmed w) hle hlc hen) (by decide)
  · have hrun := lcAdvance_sealed (u := s.secArmed w) hop hlc
    have hpass : ¬ (!((List.range 4).any fun i => (SMap.get {} s.sec.owners i).en) || (List.range 8).any s.partOn) = true := by
      rw [hen, hoff]
      decide
    rw [hany] at hrun
    have hdone := secNamed_finished h hb (by simp) (hrun.trans (if_neg hpass)) (by decide)
    exact ⟨_, rfl, hdone.ended, hdone.sec, hdone.mem⟩
  · have hrun := lcAdvance_sealed (u := s.secArmed w) hop hlc
    have hrefused : (!((List.range 4).any fun i => (SMap.get {} s.sec.owners i).en) || (List.range 8).any s.partOn) = true := by
      obtain hno | hno := hno <;> rw [hno]
      · rfl
      · exact Bool.or_true _
    rw [hany] at hrun
    exact secNamed_answers h hb (by simp) (hrun.trans (if_pos hrefused)) (by decide)
  · exact secNamed_answers h hb (by simp) (lcAdvance_lifecycle (u := s.secArmed w) hop hlc) (by decide)
  · exact secNamed_answers h hb (by simp) (rollbackAdv_lifecycle (u := s.secArmed w) hi hv h1 h2) (by decide)
  · exact secNamed_answers h hb (fun _ => hseed) (dbgChallenge_lifecycle (u := s.secArmed w) hlc) (by decide)
  · exact secNamed_answers h hb (fun _ => hseed) (dbgChallenge_lockout (u := s.secArmed w) hlc (lockout_armed.trans hlock)) (by decide)
  · obtain ⟨rfl, rfl⟩ | ⟨rfl, rfl⟩ : (code = 4 ∧ c = .dbgChallenge v w) ∨ (code = 6 ∧ c = .wellRekey v w) := by simpa using hmem
    · exact ⟨_, rfl, secNamed_waits h (.inl rfl) hseed⟩
    · exact ⟨_, rfl, secNamed_waits h (.inr rfl) hseed⟩
  · have hrun : (s.secArmed w).dbgResponse b = (3, s.secArmed w) := by
      rw [State.dbgResponse, (show (s.secArmed w).sec.challenge = none from hc)]
    exact secNamed_answers h hb (by simp) hrun (by decide)
  · exact secNamed_answers h hb (fun _ => hseed) (wellRekey_refuses (u := s.secArmed w) (by rw [st_armed]; exact hused)) (by decide)

end Sys2Proof.Machine
end

section
/-! The assignment of arrays (R213, R214, R218, R226). -/

namespace Sys2Proof.Machine

set_option Elab.async false

section
variable {s t u : State} {v : View} {w : Word} {a p op : Nat}

/-! ### What an event in the view of the physical function leaves of the partitions -/

theorem State.vecEdge_pf_parts {k : Nat} {was : Bool} : (s.vecEdge 0 k was).parts = s.parts := by
  unfold State.vecEdge
  dsimp only
  split
  · split
    · rfl
    · unfold State.sendMsix
      split
      · rfl
      · rfl
  · split <;> rfl

theorem State.irq_none_parts {q : Page} {k : Nat} : (s.irq q none k).parts = s.parts := State.vecEdge_pf_parts

theorem State.errCount_parts {q : Page} {b i n : Nat} : (s.errCount q b i n).parts = s.parts := by
  unfold State.errCount
  dsimp only
  split
  · exact State.irq_none_parts
  · rfl

/-! ### The write of 0x138 -/

/-- The state in which an assignment command acts: its operands stand in the register. -/
def State.assignAsked (s : State) (op a p : Nat) : State :=
  ((s.wr .part 0 Reg.Part.A_OP op).wr .part 0 Reg.Part.A_ARRAY a).wr .part 0 Reg.Part.A_PART p

theorem field_assignWord (hop : op < 4) : field (assignWord w.toNat op) 0 2 = op ∧ field (assignWord w.toNat op) 2 4 = field w.toNat 2 4 ∧
    field (assignWord w.toNat op) 6 3 = field w.toNat 6 3 ∧ bitAt (assignWord w.toNat op) 31 = true := by
  refine ⟨?_, ?_, ?_, bitAt_setField_one ..⟩
  · rw [assignWord, field_setField_of_disjoint (by omega), field_setField_self, Nat.mod_eq_of_lt (by omega)]
  · rw [assignWord, field_setField_of_disjoint (by omega), field_setField_of_disjoint (by omega)]
  · rw [assignWord, field_setField_of_disjoint (by omega), field_setField_of_disjoint (by omega)]

/-- The registers that a refusal looks at. -/
structure SameRefusal (s t : State) (a p : Nat) : Prop where
  present : t.rd .floor 0 (Reg.Floor.PRESENT a) = s.rd .floor 0 (Reg.Floor.PRESENT a)
  removed : t.rd .floor 0 (Reg.Floor.REMOVED a) = s.rd .floor 0 (Reg.Floor.REMOVED a)
  on : t.rd .part p Reg.Part.PART_EN = s.rd .part p Reg.Part.PART_EN
  weight : t.rd .part (p * 16 + a) Reg.Part.SHARE_W = s.rd .part (p * 16 + a) Reg.Part.SHARE_W
  assign : t.parts.assign = s.parts.assign
  images : t.images = s.images

theorem SameRefusal.assignRefusal (h : SameRefusal s t a p) : t.assignRefusal op a p = s.assignRefusal op a p := by
  have hof : t.assignOf a = s.assignOf a := by rw [State.assignOf, State.assignOf, h.assign]
  have hbound (q : Nat) : t.hasBound q a = s.hasBound q a := by rw [State.hasBound, State.hasBound, h.images]
  have hon : t.partOn p = s.partOn p := congrArg (· != 0) h.on
  have hw : t.shareW p a = s.shareW p a := h.weight
  have hpresent : t.rdB .floor 0 (Reg.Floor.PRESENT a) = s.rdB .floor 0 (Reg.Floor.PRESENT a) := congrArg (· != 0) h.present
  have hremoved : t.rdB .floor 0 (Reg.Floor.REMOVED a) = s.rdB .floor 0 (Reg.Floor.REMOVED a) := congrArg (· != 0) h.removed
  unfold State.assignRefusal
  simp only [hpresent, hremoved, hon, hw, hof, hbound]

/-- What the operands' writes leave. -/
theorem rd_assignAsked {q : Page} {b : Nat} {f : Fld} (h : regKey q b f % (2 ^ 24 * 32) / 32 ≠ 0x50138) :
    (s.assignAsked op a p).rd q b f = s.rd q b f := by
  have hne (g : Fld) (hg : g.off = 0x138 ∧ g.lsb < 32) : regKey q b f ≠ regKey .part 0 g := fun he => h (by
    rw [he]
    simp only [regKey, Page.base]
    omega)
  rw [State.assignAsked, State.rd_wr_other _ _ (hne _ (by decide)), State.rd_wr_other _ _ (hne _ (by decide)),
    State.rd_wr_other _ _ (hne _ (by decide))]

theorem sameRefusal_asked (ha : a < 16) : SameRefusal s (s.assignAsked op a p) a p :=
  ⟨rd_assignAsked (by simp only [regKey, Page.base]; omega), rd_assignAsked (by simp only [regKey, Page.base]; omega),
    rd_assignAsked (by simp only [regKey, Page.base]; omega), rd_assignAsked (by simp only [regKey, Page.base]; omega), rfl, rfl⟩

/-- The state after an assignment command has its status. -/
def State.assignJudged (s : State) (op a p : Nat) : State := (s.assignAsked op a p).wr .part 0 Reg.Part.A_STATUS (s.assignRefusal op a p)

/-- The write of 0x138 with A_GO, where no command waits. -/
theorem assignCmd_eq (hgo : s.rdB .part 0 Reg.Part.A_GO = false) (hop : op < 4) (ha : a = field w.toNat 2 4) (hp : p = field w.toNat 6 3) :
    s.assignCmd (assignWord w.toNat op) =
      if s.assignRefusal op a p ≠ 0 then (s.assignJudged op a p).errCount .part 0 0 1
      else if (s.assignJudged op a p).assignScrubs op a p then
        if ((s.assignJudged op a p).wake (arrDomain a)).domOn (arrDomain a) then ((s.assignJudged op a p).wake (arrDomain a)).assignDo op a p
        else ((s.assignJudged op a p).wake (arrDomain a)).wr .part 0 Reg.Part.A_GO 1
      else (s.assignJudged op a p).assignDo op a p := by
  obtain ⟨h0, h2, h6, h31⟩ := field_assignWord (w := w) hop
  have ha16 : a < 16 := ha ▸ Nat.mod_lt _ (by decide)
  have hrefusal : (((s.wr .part 0 Reg.Part.A_OP op).wr .part 0 Reg.Part.A_ARRAY a).wr .part 0 Reg.Part.A_PART p).assignRefusal op a p =
    s.assignRefusal op a p := (sameRefusal_asked ha16).assignRefusal
  rw [State.assignCmd, h0, h2, h6, h31, ← ha, ← hp, hgo]
  dsimp only
  rw [if_neg (by decide), if_neg (by decide), hrefusal]
  rfl

/-- A command that is accepted acts on its array, whose domain is ON where the array is scrubbed. -/
theorem assignCmd_accepted (hgo : s.rdB .part 0 Reg.Part.A_GO = false) (hop : op < 4) (ha : a = field w.toNat 2 4) (hp : p = field w.toNat 6 3)
    (hok : s.assignRefusal op a p = 0) (hon : (s.assignJudged op a p).assignScrubs op a p = true → s.domOn (arrDomain a) = true) :
    s.assignCmd (assignWord w.toNat op) = (s.assignJudged op a p).assignDo op a p := by
  rw [assignCmd_eq hgo hop ha hp, if_neg (not_not.mpr hok)]
  split
  · next hscrub =>
    have hdom : (s.assignJudged op a p).domOn (arrDomain a) = true := hon hscrub
    rw [State.wake_of_domOn hdom, if_pos hdom]
  · rfl

theorem partReg_assign (h : Reaches s v .part 0x138 0) (hpf : View.isVf v = false) {x : Nat} : s.partReg v 0x138 x = s.assignCmd x := by
  have hbus := State.viaBus_of_reaches h (by simp) x fun s _ _ o => s.partWrite v o x
  refine hbus.trans ?_
  cases v with
  | vf q => exact absurd hpf (by simp [View.isVf])
  | _ => rfl

/-- What judging leaves. -/
theorem judged_keeps : (s.assignJudged op a p).parts = s.parts ∧ (s.assignJudged op a p).arrays = s.arrays ∧
    (s.assignJudged op a p).mem = s.mem := ⟨rfl, rfl, rfl⟩

theorem assignOf_setAssign {x : Assign} {b : Nat} : (s.setAssign a x).assignOf b = if b = a then x else s.assignOf b := by
  rw [State.assignOf, State.setAssign]
  split
  · next h => rw [h]; exact SMap.get_set_self ..
  · next h => exact SMap.get_set_other _ _ _ _ h

/-! ### Scrubs -/

/-- The registers that a scrub of an array may write: those of a wake, RECUR_VALID of its contexts and its scrub counter. -/
def scrubKeys (k : Nat) : Prop := wakeKeys k ∨ maKeys k ∨ (keyPage k = 0x50 ∧ keyOff k = 0x144)

theorem RegsIn.scrubSwitch (ha : a < 9) : RegsIn maKeys s (s.scrubSwitch a) :=
  (of_regs rfl : RegsIn maKeys s (s.modArr a _)).trans (.foldl fun _ _ _ => .ite (.wr (maKeys_of_off ha (by decide))) .refl)

theorem RegsIn.countScrub {n : Nat} : RegsIn scrubKeys s (s.countScrub a n) := by
  have hkey {f : Fld} (hf : f.off = 0x144 ∧ f.lsb < 32) : scrubKeys (regKey .part a f) := by
    simp only [scrubKeys, keyPage, keyOff, regKey, Page.base]
    omega
  exact (of_regs rfl : RegsIn scrubKeys s s.takeFree.2).trans (.count (hkey (by decide)) (hkey (by decide)))

theorem RegsIn.scrubArray (ha : a < 9) : RegsIn scrubKeys s (s.scrubArray a) := by
  have hwake : RegsIn scrubKeys s (s.wake (arrDomain a)) := wake.mono fun _ => .inl
  have hzero (u : State) : RegsIn scrubKeys u (u.zero (t0Base a) (t0Frames a * pageBytes)) := of_regs rfl
  have hswitch (u : State) : RegsIn scrubKeys u (u.scrubSwitch a) := (scrubSwitch ha).mono fun _ hk => .inr (.inl hk)
  have hmod (u : State) (f : ArrayS → ArrayS) : RegsIn scrubKeys u (u.modArr a f) := of_regs rfl
  exact (((hwake.trans (hzero _)).trans (hswitch _)).trans (hmod _ _)).trans countScrub

theorem not_scrubKeys_part {b : Nat} {f : Fld} (hoff : f.off < 0x144) (hlsb : f.lsb < 32) : ¬ scrubKeys (regKey .part b f) := by
  simp only [scrubKeys, wakeKeys, powerKeys, maKeys, keyPage, keyOff, regKey, Page.base]
  omega

theorem assignOf_of_assign (h : t.parts.assign = s.parts.assign) (b : Nat) : t.assignOf b = s.assignOf b := by rw [State.assignOf, State.assignOf, h]

theorem scrubArray_assignOf {b : Nat} : (s.scrubArray a).assignOf b = s.assignOf b :=
  assignOf_of_assign (congrArg Prod.fst (Frame.scrubArray.same .assign (by decide)) :) b

theorem dropMember_shared {l : List Nat} (hl : s.assignOf a = .shared l) : ∀ b, (s.dropMember a p).assignOf b =
    if b = a then (if (l.filter fun q => q != p).isEmpty then .unassigned else .shared (l.filter fun q => q != p)) else s.assignOf b := by
  intro b
  have hmod (f : ArrayS → ArrayS) : (s.modArr a f).assignOf b = s.assignOf b := rfl
  unfold State.dropMember
  rw [hl]
  dsimp only
  split
  · rw [assignOf_setAssign, scrubArray_assignOf, hmod]
  · rw [assignOf_setAssign, hmod]

theorem RegsIn.dropMember (ha : a < 9) : RegsIn scrubKeys s (s.dropMember a p) := by
  unfold State.dropMember
  split
  · dsimp only
    have hmod (f : ArrayS → ArrayS) : RegsIn scrubKeys s (s.modArr a f) := of_regs rfl
    refine (hmod _).trans (ite ((scrubArray ha).trans (of_regs rfl)) (of_regs rfl))
  · exact refl

/-! ### The four commands -/

theorem le_of_assignRefusal (h : s.assignRefusal op a p = 0) : a ≤ 8 := by
  by_contra hlt
  refine absurd h ?_
  unfold State.assignRefusal
  dsimp only
  rw [if_pos (by simp only [decide_eq_true (Nat.lt_of_not_le hlt), Bool.true_or])]
  decide

theorem refusal_lt : s.assignRefusal op a p < 8 := by
  unfold State.assignRefusal
  dsimp only
  split
  · decide
  split
  · split
    · split <;> decide
    · decide
  · split
    · decide
    · split <;> decide
  · split
    · decide
    split
    · decide
    · split
      · decide
      · split <;> decide
  · split
    · split
      · decide
      · split <;> decide
    · decide

/-- A_STATUS after a command, through what writes elsewhere. -/
theorem judged_status (h : RegsIn scrubKeys (s.assignJudged op a p) t) : t.rd .part 0 Reg.Part.A_STATUS = s.assignRefusal op a p := by
  rw [h.rd_eq (not_scrubKeys_part (by decide) (by decide)), State.assignJudged, State.rd_wr_self]
  exact Nat.mod_eq_of_lt refusal_lt

theorem judged_shareW (ha : a < 16) : (s.assignJudged op a p).shareW p a = s.shareW p a := by
  have hne : regKey .part (p * 16 + a) Reg.Part.SHARE_W ≠ regKey .part 0 Reg.Part.A_STATUS := by
    simp only [regKey, Page.base]
    omega
  exact (State.rd_wr_other _ _ hne).trans (sameRefusal_asked ha).weight

/-- A command that is accepted, with what it does to its array. -/
theorem assign_accepted (h : Reaches s v .part 0x138 0) (hpf : View.isVf v = false) (ha : a = field w.toNat 2 4) (hp : p = field w.toNat 6 3)
    (hgo : s.rdB .part 0 Reg.Part.A_GO = false) (hop : op < 4) (hok : s.assignRefusal op a p = 0)
    (hon : (s.assignJudged op a p).assignScrubs op a p = true → s.domOn (arrDomain a) = true) :
    s.partReg v 0x138 (assignWord w.toNat op) = (s.assignJudged op a p).assignDo op a p :=
  (partReg_assign h hpf).trans (assignCmd_accepted hgo hop ha hp hok hon)

theorem assign_refused (h : Reaches s v .part 0x138 0) (hpf : View.isVf v = false) (ha : a = field w.toNat 2 4) (hp : p = field w.toNat 6 3)
    (hgo : s.rdB .part 0 Reg.Part.A_GO = false) (hop : op < 4) (hno : s.assignRefusal op a p ≠ 0) :
    (s.partReg v 0x138 (assignWord w.toNat op)).rd .part 0 Reg.Part.A_STATUS = s.assignRefusal op a p ∧
      (s.partReg v 0x138 (assignWord w.toNat op)).parts = s.parts ∧ (s.partReg v 0x138 (assignWord w.toNat op)).arrays = s.arrays ∧
      (s.partReg v 0x138 (assignWord w.toNat op)).mem = s.mem ∧
      (s.partReg v 0x138 (assignWord w.toNat op)).rd .part 0 (Reg.Hdr.ERR_CNT 0) = (count31 (s.rd .part 0 (Reg.Hdr.ERR_CNT 0)) 1).1 := by
  have hexec : s.partReg v 0x138 (assignWord w.toNat op) = (s.assignJudged op a p).errCount .part 0 0 1 :=
    (partReg_assign h hpf).trans ((assignCmd_eq hgo hop ha hp).trans (if_pos hno))
  have hcnt : (s.assignJudged op a p).rd .part 0 (Reg.Hdr.ERR_CNT 0) = s.rd .part 0 (Reg.Hdr.ERR_CNT 0) :=
    (State.rd_wr_other _ _ (by decide)).trans (rd_assignAsked (by decide))
  rw [hexec]
  refine ⟨?_, State.errCount_parts, State.errCount_arrays .., State.errCount_mem .., ?_⟩
  · rw [State.rd_errCount_other (by decide) (by decide) (by decide)]
    exact judged_status .refl
  · rw [State.rd_errCount_self, hcnt]

theorem assign_waits (h : Reaches s v .part 0x138 0) (hpf : View.isVf v = false) (hgo : s.rdB .part 0 Reg.Part.A_GO = true) (x : Nat) :
    s.partReg v 0x138 x = s.errCount .part 0 0 1 := (partReg_assign h hpf).trans (if_pos hgo)

theorem release_leaves (ha : a ≤ 8) (hok : s.assignRefusal 0 a p = 0) (hon : s.domOn (arrDomain a) = true) :
    ((s.assignJudged 0 a p).assignDo 0 a p).assignOf a = .unassigned ∧
      (∀ b, b ≠ a → ((s.assignJudged 0 a p).assignDo 0 a p).assignOf b = s.assignOf b) ∧
      ((s.assignJudged 0 a p).assignDo 0 a p).rd .part 0 Reg.Part.A_STATUS = 0 ∧
      ∀ x, t0Base a ≤ x → x < t0Base a + t0Frames a * pageBytes → ((s.assignJudged 0 a p).assignDo 0 a p).byte x = 0 := by
  have hof (b : Nat) : ((s.assignJudged 0 a p).assignDo 0 a p).assignOf b = if b = a then .unassigned else s.assignOf b := by
    rw [show (s.assignJudged 0 a p).assignDo 0 a p = ((s.assignJudged 0 a p).scrubArray a).setAssign a .unassigned from rfl,
      assignOf_setAssign, scrubArray_assignOf]
    rfl
  have hregs : RegsIn scrubKeys (s.assignJudged 0 a p) ((s.assignJudged 0 a p).assignDo 0 a p) :=
    (RegsIn.scrubArray (by omega)).trans (RegsIn.of_regs rfl)
  have hmem : ((s.assignJudged 0 a p).assignDo 0 a p).mem = (s.zero (t0Base a) (t0Frames a * pageBytes)).mem :=
    State.scrubArray_mem (s := s.assignJudged 0 a p) hon
  refine ⟨(hof a).trans (if_pos rfl), fun b hb => (hof b).trans (if_neg hb), (judged_status hregs).trans hok, fun x hlo hhi => ?_⟩
  rw [State.byte_of_mem hmem, State.byte_zero, if_pos ⟨hlo, hhi⟩]

/-- An array that a partition joins with its staged weight and no charge. -/
def ArrayS.joined (x : ArrayS) (p weight : Nat) : ArrayS := { x with wAct := SMap.set 0 x.wAct p weight, eP := SMap.set 0 x.eP p 0 }

theorem ArrayS.joined_shares {x : ArrayS} {weight : Nat} : SMap.get 0 (x.joined p weight).wAct p = weight ∧ SMap.get 0 (x.joined p weight).eP p = 0 :=
  ⟨SMap.get_set_self 0 x.wAct p weight, SMap.get_set_self 0 x.eP p 0⟩

theorem shareAdd_leaves {l : List Nat} (ha : a ≤ 8) (hok : s.assignRefusal 2 a p = 0) (hl : membersOf (s.assignOf a) = some l) :
    ((s.assignJudged 2 a p).assignDo 2 a p).assignOf a = .shared (insAsc p l) ∧
      SMap.get 0 (((s.assignJudged 2 a p).assignDo 2 a p).arr a).wAct p = s.shareW p a ∧
      SMap.get 0 (((s.assignJudged 2 a p).assignDo 2 a p).arr a).eP p = 0 ∧
      (∀ b, b ≠ a → ((s.assignJudged 2 a p).assignDo 2 a p).assignOf b = s.assignOf b) ∧
      ((s.assignJudged 2 a p).assignDo 2 a p).rd .part 0 Reg.Part.A_STATUS = 0 ∧ ((s.assignJudged 2 a p).assignDo 2 a p).mem = s.mem := by
  have hl' : membersOf ((s.assignJudged 2 a p).assignOf a) = some l := hl
  generalize hu : s.assignJudged 2 a p = u at hl' ⊢
  have hdo : u.assignDo 2 a p = (u.modArr a fun x => x.joined p (u.shareW p a)).setAssign a (.shared (insAsc p l)) := by
    rw [State.assignDo, hl']
    rfl
  have harr : (u.assignDo 2 a p).arr a = (u.arr a).joined p (u.shareW p a) := by
    rw [hdo]
    exact (State.arr_modArr_self u a fun x => x.joined p (u.shareW p a) :)
  have hof (b : Nat) : (u.assignDo 2 a p).assignOf b = if b = a then .shared (insAsc p l) else u.assignOf b := by
    rw [hdo, assignOf_setAssign]
    rfl
  refine ⟨(hof a).trans (if_pos rfl), ?_, ?_, fun b hb => ((hof b).trans (if_neg hb)).trans (by rw [← hu]; rfl), ?_, by rw [hdo, ← hu]; rfl⟩
  · rw [harr, ArrayS.joined_shares.1, ← hu, judged_shareW (by omega)]
  · rw [harr, ArrayS.joined_shares.2]
  · subst hu
    exact (judged_status (RegsIn.of_regs (by rw [hdo]; rfl))).trans hok

theorem shareRemove_leaves {l : List Nat} (ha : a ≤ 8) (hok : s.assignRefusal 3 a p = 0) (hl : s.assignOf a = .shared l) :
    ((s.assignJudged 3 a p).assignDo 3 a p).assignOf a =
        (if (l.filter fun q => q != p).isEmpty then .unassigned else .shared (l.filter fun q => q != p)) ∧
      (∀ b, b ≠ a → ((s.assignJudged 3 a p).assignDo 3 a p).assignOf b = s.assignOf b) ∧
      ((s.assignJudged 3 a p).assignDo 3 a p).rd .part 0 Reg.Part.A_STATUS = 0 := by
  have hof := dropMember_shared (s := s.assignJudged 3 a p) (p := p) hl
  exact ⟨(hof a).trans (if_pos rfl), fun b hb => (hof b).trans (if_neg hb), (judged_status (RegsIn.dropMember (by omega))).trans hok⟩

end

/-- Settles O26: each assignment command, accepted, refused or ignored. -/
theorem assignmentCommands : Obligations.AssignmentCommands := by
  intro s v w a p h hpf ha hp
  refine ⟨fun hgo c hc => ?_, fun hgo => ⟨fun hok hon => ?_, fun hok => ?_, fun l hok hl => ?_, fun l hok hl hon => ?_, fun op c hc hno => ?_⟩⟩
  · obtain rfl | rfl | rfl | rfl : c = .assignRelease v w ∨ c = .assignOwn v w ∨ c = .shareAdd v w ∨ c = .shareRemove v w := by simpa using hc
    all_goals exact congrArg Host.Outcome.next (assign_waits h hpf hgo _)
  · exact ⟨_, congrArg Host.Outcome.next (assign_accepted h hpf ha hp hgo (by decide) hok fun _ => hon),
      release_leaves (le_of_assignRefusal hok) hok hon⟩
  · refine ⟨_, congrArg Host.Outcome.next (assign_accepted h hpf ha hp hgo (by decide) hok fun hscrub => absurd hscrub (by simp [State.assignScrubs])),
      ?_, fun b hb => ?_, (judged_status (RegsIn.of_regs rfl)).trans hok, rfl, rfl⟩
    · exact (assignOf_setAssign (s := s.assignJudged 1 a p)).trans (if_pos rfl)
    · exact (assignOf_setAssign (s := s.assignJudged 1 a p)).trans (if_neg hb)
  · exact ⟨_, congrArg Host.Outcome.next (assign_accepted h hpf ha hp hgo (by decide) hok fun hscrub => absurd hscrub (by simp [State.assignScrubs])),
      shareAdd_leaves (le_of_assignRefusal hok) hok hl⟩
  · exact ⟨_, congrArg Host.Outcome.next (assign_accepted h hpf ha hp hgo (by decide) hok fun _ => hon),
      shareRemove_leaves (le_of_assignRefusal hok) hok hl⟩
  · obtain ⟨rfl, rfl⟩ | ⟨rfl, rfl⟩ | ⟨rfl, rfl⟩ | ⟨rfl, rfl⟩ : (op = 0 ∧ c = .assignRelease v w) ∨ (op = 1 ∧ c = .assignOwn v w) ∨
        (op = 2 ∧ c = .shareAdd v w) ∨ (op = 3 ∧ c = .shareRemove v w) := by simpa using hc
    all_goals exact ⟨_, rfl, assign_refused h hpf ha hp hgo (by decide) hno⟩

end Sys2Proof.Machine
end

section
/-! The life of a partition (R195, R198, R212, R225). -/

namespace Sys2Proof.Machine

set_option Elab.async false

section
variable {s t u : State} {v : View} {w : Word} {a p ps n : Nat}

theorem assign_of_frame {F : List Part} (h : Frame F s t) (hF : Part.assign ∉ F) : t.parts.assign = s.parts.assign :=
  (congrArg Prod.fst (h.same .assign hF) :)

theorem disabling_of_frame {F : List Part} (h : Frame F s t) (hF : Part.assign ∉ F) : t.parts.disabling = s.parts.disabling :=
  (congrArg Prod.snd (h.same .assign hF) :)

/-! ### The quota -/

/-- The registers of the OTT page. -/
def ottKeys (k : Nat) : Prop := keyPage k = 0x38

theorem ottKeys_of_off {b : Nat} {f : Fld} (hoff : f.off < 0x1000) (hlsb : f.lsb < 32) : ottKeys (regKey .ott b f) := by
  simp only [ottKeys, keyPage, regKey, Page.base]
  omega

theorem RegsIn.evictTo {k : Nat} : RegsIn ottKeys s (s.evictTo p n k).1 := by
  induction k generalizing s with
  | zero => exact refl
  | succ k ih =>
    unfold State.evictTo
    split
    · exact refl
    · split
      · exact refl
      · next i _ =>
        have hdrop : RegsIn ottKeys s (s.dropRes i) := of_regs (Frame.dropRes.same .regs (by decide))
        exact (hdrop.trans (count (ottKeys_of_off (by decide) (by decide)) (ottKeys_of_off (by decide) (by decide)))).trans ih

theorem RegsIn.cutQuota : RegsIn ottKeys s (s.cutQuota p) := by
  unfold State.cutQuota
  split
  next s1 ok he =>
  have h1 : RegsIn ottKeys s s1 := by
    have h : RegsIn ottKeys s (s.evictTo p (s.quota p) (s.resPages p).length).1 := evictTo
    rw [he] at h
    exact h
  exact ite h1 (h1.trans (irq fun _ => ottKeys_of_off (by decide) (by decide)))

/-- A quota that covers the use evicts nothing. -/
theorem cutQuota_of_le (h : s.useT1 p ≤ s.quota p) : s.cutQuota p = s := by
  have hevict : s.evictTo p (s.quota p) (s.resPages p).length = (s, true) := by
    cases (s.resPages p).length with
    | zero => exact congrArg (Prod.mk s) (decide_eq_true h)
    | succ k => exact if_pos h
  rw [State.cutQuota, hevict]
  rfl

theorem not_ottKeys_part {b : Nat} {f : Fld} (hoff : f.off < 0x1000) (hlsb : f.lsb < 32) : ¬ ottKeys (regKey .part b f) := by
  simp only [ottKeys, keyPage, regKey, Page.base]
  omega

/-- What a quota's fit looks at. -/
theorem quotaFits_congr (hquota : ∀ q, t.quota q = s.quota q) (hisp : ∀ i, i < 2 → t.rd (.isp i) 0 Reg.Isp.CIS_RES = s.rd (.isp i) 0 Reg.Isp.CIS_RES)
    (hcis : t.rd .floor 0 Reg.Floor.CIS_PRESENT = s.rd .floor 0 Reg.Floor.CIS_PRESENT) : t.quotaFits ps n = s.quotaFits ps n := by
  unfold State.quotaFits State.cisFrames
  rw [hisp 0 (by decide), hisp 1 (by decide), hcis, funext hquota]

/-! ### The write of 0x104 -/

theorem partReg_part (h : Reaches s v .part 0x104 0) (hpf : View.isVf v = false) (hps : ps = s.rd .part 0 Reg.Part.PSEL) {x : Nat} :
    s.partReg v 0x104 x = (s.writePartEn ps (bitAt x 0)).writeQuota ps (field x 16 11) := by
  have hbus := State.viaBus_of_reaches h (by simp) x fun s _ _ o => s.partWrite v o x
  subst hps
  refine hbus.trans ?_
  cases v with
  | vf q => exact absurd hpf (by simp [View.isVf])
  | _ => rfl

theorem writeQuota_partOn {q : Nat} : (s.writeQuota ps n).partOn q = s.partOn q := by
  have hne (f : Fld) (hf : f.off = 0x104 → f.lsb ≠ 0) (hlsb : f.lsb < 32) (hoff : f.off < 0x1000) {b : Nat} : regKey .part q Reg.Part.PART_EN ≠ regKey .part b f := by
    simp only [regKey, Page.base]
    omega
  unfold State.writeQuota
  split
  · exact congrArg (· != 0) ((RegsIn.cutQuota.rd_eq (not_ottKeys_part (by decide) (by decide))).trans
      (State.rd_wr_other _ _ (hne _ (by decide) (by decide) (by decide))))
  · exact congrArg (· != 0) (State.rd_errCount_other (hne _ (by decide) (by decide) (by decide)) (hne _ (by decide) (by decide) (by decide))
      (hne _ (by decide) (by decide) (by decide)))

theorem writeQuota_mem : (s.writeQuota ps n).mem = s.mem := Frame.writeQuota.same .mem (by decide)

theorem field_setField_zero {x : Nat} : field (setField w.toNat 0 1 x) 16 11 = field w.toNat 16 11 := field_setField_of_disjoint (by omega)

theorem quotaFits_on : (s.wr .part ps Reg.Part.PART_EN 1).quotaFits ps n = s.quotaFits ps n := by
  have hne {q : Page} {b : Nat} {f : Fld} (h : regKey q b f % (2 ^ 24 * 32) ≠ 0x50104 * 32) : (s.wr .part ps Reg.Part.PART_EN 1).rd q b f = s.rd q b f :=
    State.rd_wr_other _ _ fun he => h (by rw [he]; simp only [regKey, Page.base]; omega)
  refine quotaFits_congr (fun q => hne ?_) (fun i hi => hne ?_) (hne (by decide))
  · simp only [regKey, Page.base]
    omega
  · simp only [regKey, Page.base]
    omega

theorem quotaFits_counted : (s.errCount .part 0 0 1).quotaFits ps n = s.quotaFits ps n := by
  have hne {q : Page} {b : Nat} {f : Fld} (h : regKey q b f % (2 ^ 24 * 32) / 32 ≠ 0x50020 ∧ regKey q b f % (2 ^ 24 * 32) / 32 ≠ 0x50010) :
      (s.errCount .part 0 0 1).rd q b f = s.rd q b f :=
    State.rd_errCount_other (fun he => h.1 (by rw [he]; decide)) (fun he => h.1 (by rw [he]; decide)) fun he => h.2 (by rw [he]; decide)
  refine quotaFits_congr (fun q => hne ?_) (fun i hi => hne ?_) (hne (by decide))
  · simp only [regKey, Page.base]
    omega
  · simp only [regKey, Page.base]
    omega

theorem counted_partOn {q : Nat} : (s.errCount .part 0 0 1).partOn q = s.partOn q := by
  have hne (f : Fld) (hoff : f.off < 0x104) (hlsb : f.lsb < 32) : regKey .part q Reg.Part.PART_EN ≠ regKey .part 0 f := by
    simp only [regKey, Page.base]
    omega
  exact congrArg (· != 0) (State.rd_errCount_other (hne _ (by decide) (by decide)) (hne _ (by decide) (by decide)) (hne _ (by decide) (by decide)))

theorem errCnt_quota : ((s.wr .part ps Reg.Part.T1_QUOTA n).cutQuota ps).rd .part 0 (Reg.Hdr.ERR_CNT 0) = s.rd .part 0 (Reg.Hdr.ERR_CNT 0) := by
  have hne : regKey .part 0 (Reg.Hdr.ERR_CNT 0) ≠ regKey .part ps Reg.Part.T1_QUOTA := by
    simp only [regKey]
    omega
  rw [RegsIn.cutQuota.rd_eq (not_ottKeys_part (by decide) (by decide)), State.rd_wr_other _ _ hne]

theorem partEnable_enables (h : Reaches s v .part 0x104 0) (hpf : View.isVf v = false) (hps : ps = s.rd .part 0 Reg.Part.PSEL)
    (hnot : s.parts.disabling.contains ps = false) : ∃ t, exec (.partEnable v w) s = .next t ∧ t.partOn ps = true ∧ t.mem = s.mem := by
  refine ⟨_, congrArg Host.Outcome.next (partReg_part h hpf hps), ?_, ?_⟩
  · rw [writeQuota_partOn, bitAt_setField_one, State.writePartEn, if_pos rfl, hnot, if_neg (by decide), State.partOn, State.rdB, State.rd_wr_self]
    rfl
  · rw [writeQuota_mem, Frame.writePartEn.same .mem (by decide)]

theorem partEnable_refused (h : Reaches s v .part 0x104 0) (hpf : View.isVf v = false) (hps : ps = s.rd .part 0 Reg.Part.PSEL)
    (hbusy : s.parts.disabling.contains ps = true) (hfits : s.quotaFits ps (field w.toNat 16 11) = true) :
    ∃ t, exec (.partEnable v w) s = .next t ∧ t.partOn ps = s.partOn ps ∧
      t.rd .part 0 (Reg.Hdr.ERR_CNT 0) = (count31 (s.rd .part 0 (Reg.Hdr.ERR_CNT 0)) 1).1 := by
  refine ⟨_, congrArg Host.Outcome.next (partReg_part h hpf hps), ?_, ?_⟩
  · rw [writeQuota_partOn, bitAt_setField_one, State.writePartEn, if_pos rfl, hbusy, if_pos rfl, counted_partOn]
  · rw [bitAt_setField_one, State.writePartEn, if_pos rfl, hbusy, if_pos rfl, State.writeQuota, quotaFits_counted, field_setField_zero, if_pos hfits,
      errCnt_quota, State.rd_errCount_self]

/-- The registers that the write of a quota reaches. -/
def quotaKeys (k : Nat) : Prop := keyPage k = 0x38 ∨ keyPage k = 0x50

theorem RegsIn.writeQuota : RegsIn quotaKeys s (s.writeQuota ps n) := by
  have hpart {b : Nat} {f : Fld} (hoff : f.off < 0x1000) (hlsb : f.lsb < 32) : quotaKeys (regKey .part b f) := by
    simp only [quotaKeys, keyPage, regKey, Page.base]
    omega
  exact ite ((wr (hpart (by decide) (by decide))).trans (cutQuota.mono fun _ => .inl))
    (errCount (hpart (by decide) (by decide)) (hpart (by decide) (by decide)) (hpart (by decide) (by decide)))

theorem Page.HoldsCtx.not_quotaKeys {q : Page} (h : q.HoldsCtx) {b : Nat} : ¬ quotaKeys (regKey q b (stateFld q)) := by
  simp only [quotaKeys, keyPage, regKey, stateFld]
  obtain ⟨a, ha, rfl⟩ | ⟨a, ha, rfl⟩ | rfl := h <;> simp only [Page.base] <;> omega

theorem partDisable_disables (h : Reaches s v .part 0x104 0) (hpf : View.isVf v = false) (hps : ps = s.rd .part 0 Reg.Part.PSEL)
    (hon : s.partOn ps = true) (hnot : s.parts.disabling.contains ps = false) : ∃ t, exec (.partDisable v w) s = .next t ∧
      t.parts.disabling.contains ps = true ∧ (∀ x ∈ s.partPages ps, t.st x.1 x.2 ≠ 1) ∧ t.partOn ps = true ∧ t.mem = s.mem := by
  have hdo : s.writePartEn ps (bitAt (setField w.toNat 0 1 0) 0) = s.disablePart ps := by
    rw [bitAt_setField_zero]
    exact if_neg (by decide)
  have hreg := (partReg_part h hpf hps).trans (congrArg (fun t : State => t.writeQuota ps (field (setField w.toNat 0 1 0) 16 11)) hdo)
  refine ⟨_, congrArg Host.Outcome.next hreg, ?_, fun x hx => ?_, ?_, ?_⟩
  · have hkeep : ((s.disablePart ps).writeQuota ps (field (setField w.toNat 0 1 0) 16 11)).parts.disabling = (s.disablePart ps).parts.disabling :=
      (congrArg Prod.snd (Frame.writeQuota.same .assign (by decide)) :)
    rw [hkeep]
    exact List.contains_iff_mem.mpr ((disablePart_disabling ps).mpr (.inr ⟨rfl, hon⟩))
  · have hholds := holdsCtx_of_mem_partPages hx
    rw [State.st, RegsIn.writeQuota.rd_eq hholds.not_quotaKeys, disablePart_of_on hon hnot]
    exact st_stopReqs (l := s.partPages ps) (fun y hy => holdsCtx_of_mem_partPages hy) x hx
  · rw [writeQuota_partOn, disablePart_partOn, hon]
  · rw [writeQuota_mem, Frame.disablePart.same .mem (by decide)]

theorem t1Quota_eq (h : Reaches s v .part 0x104 0) (hpf : View.isVf v = false) (hps : ps = s.rd .part 0 Reg.Part.PSEL) (hn : n = field w.toNat 16 11)
    (hbit : bitAt w.toNat 0 = true) (hnot : s.parts.disabling.contains ps = false) :
    exec (.t1Quota v w) s = .next ((s.wr .part ps Reg.Part.PART_EN 1).writeQuota ps n) := by
  refine congrArg Host.Outcome.next ((partReg_part h hpf hps).trans ?_)
  rw [hbit, ← hn, State.writePartEn, if_pos rfl, hnot, if_neg (by decide)]

theorem t1Quota_fits (hn : n < 2 ^ 11) (hfits : s.quotaFits ps n = true) (ht : t = (s.wr .part ps Reg.Part.PART_EN 1).writeQuota ps n) :
    t.quota ps = n ∧ t.partOn ps = true ∧ t.mem = s.mem ∧ (s.useT1 ps ≤ n → t.tier = s.tier) := by
  subst ht
  have hon : ((s.wr .part ps Reg.Part.PART_EN 1).writeQuota ps n).partOn ps = true := by
    rw [writeQuota_partOn, State.partOn, State.rdB, State.rd_wr_self]
    rfl
  have hmem : ((s.wr .part ps Reg.Part.PART_EN 1).writeQuota ps n).mem = s.mem := writeQuota_mem
  have hcut : (s.wr .part ps Reg.Part.PART_EN 1).writeQuota ps n =
      ((s.wr .part ps Reg.Part.PART_EN 1).wr .part ps Reg.Part.T1_QUOTA n).cutQuota ps := if_pos (quotaFits_on.trans hfits)
  have hquota : ((s.wr .part ps Reg.Part.PART_EN 1).wr .part ps Reg.Part.T1_QUOTA n).quota ps = n :=
    (State.rd_wr_self ..).trans (Nat.mod_eq_of_lt hn)
  refine ⟨?_, hon, hmem, fun huse => ?_⟩
  · rw [hcut]
    exact (RegsIn.cutQuota.rd_eq (not_ottKeys_part (by decide) (by decide))).trans hquota
  · rw [hcut, cutQuota_of_le (by rw [hquota]; exact huse)]
    rfl

theorem t1Quota_refused (hno : s.quotaFits ps n = false) (ht : t = (s.wr .part ps Reg.Part.PART_EN 1).writeQuota ps n) :
    t.quota ps = s.quota ps ∧ t.tier = s.tier ∧ t.mem = s.mem ∧
      t.rd .part 0 (Reg.Hdr.ERR_CNT 0) = (count31 (s.rd .part 0 (Reg.Hdr.ERR_CNT 0)) 1).1 := by
  have hcount : (s.wr .part ps Reg.Part.PART_EN 1).writeQuota ps n = (s.wr .part ps Reg.Part.PART_EN 1).errCount .part 0 0 1 :=
    if_neg (by rw [quotaFits_on, hno]; decide)
  have hne (f : Fld) (hoff : f.off < 0x104) (hlsb : f.lsb < 32) {b : Nat} : regKey .part ps Reg.Part.T1_QUOTA ≠ regKey .part b f := by
    simp only [regKey]
    omega
  have hcnt : regKey .part 0 (Reg.Hdr.ERR_CNT 0) ≠ regKey .part ps Reg.Part.PART_EN := by
    simp only [regKey]
    omega
  rw [ht, hcount]
  refine ⟨?_, State.errCount_tier .., State.errCount_mem .., ?_⟩
  · rw [State.quota, State.rd_errCount_other (hne _ (by decide) (by decide)) (hne _ (by decide) (by decide)) (hne _ (by decide) (by decide))]
    exact State.rd_wr_other _ _ (by simp only [regKey]; omega)
  · rw [State.rd_errCount_self, State.rd_wr_other _ _ hcnt]

/-! ### Teardown -/

theorem unload_images {x : Image} : (s.unload x).images = s.images.filter fun y => !(y == x) := by
  unfold State.unload
  extract_lets s1 s2
  have h2 : Frame [.regs, .ott, .tierRest, .arrays, .tallies] s s2 :=
    (((Frame.refl.step Frame.ottFree).step Frame.freeTallies).trans (Frame.foldl fun _ _ => Frame.dirtyFrame.mono))
  exact congrArg (List.filter _) (h2.same .images (by decide))

theorem unloads_images {l : List Image} : ∀ y ∈ (l.foldl State.unload s).images, y ∈ s.images ∧ y ∉ l := by
  induction l generalizing s with
  | nil => exact fun y hy => ⟨hy, by simp⟩
  | cons x l ih =>
    intro y hy
    obtain ⟨hmem, hnot⟩ := ih y hy
    rw [unload_images, List.mem_filter] at hmem
    have hne : y ≠ x := by simpa using hmem.2
    exact ⟨hmem.1, by simp [hne, hnot]⟩

/-- What the teardown of a partition makes of an array's assignment. -/
def Assign.without (x : Assign) (p : Nat) : Assign :=
  match x with
  | .shared l => if (l.filter fun q => q != p).isEmpty then .unassigned else .shared (l.filter fun q => q != p)
  | _ => .unassigned

/-- The end of a partition on one of its arrays. -/
def State.leaveArray (s : State) (p a : Nat) : State :=
  match s.assignOf a with
  | .owned _ => (s.scrubArray a).setAssign a .unassigned
  | _ => s.dropMember a p

theorem leaveArray_assignOf {b : Nat} (ha : a ∈ s.arraysOf p) :
    (s.leaveArray p a).assignOf b = if b = a then (s.assignOf a).without p else s.assignOf b := by
  unfold State.leaveArray
  cases hx : s.assignOf a with
  | unassigned => exact absurd (List.mem_filter.mp ha).2 (by rw [hx]; exact Bool.false_ne_true)
  | owned q =>
    dsimp only
    rw [assignOf_setAssign, scrubArray_assignOf]
    rfl
  | shared l =>
    dsimp only
    rw [dropMember_shared hx]
    rfl

theorem mem_arraysOf_congr (h : t.assignOf a = s.assignOf a) : a ∈ t.arraysOf p ↔ a ∈ s.arraysOf p := by
  simp only [State.arraysOf, List.mem_filter, h]

theorem leaveArrays_assignOf {l : List Nat} (hnodup : l.Nodup) (hl : ∀ a ∈ l, a ∈ s.arraysOf p) :
    ∀ b, (l.foldl (fun s a => s.leaveArray p a) s).assignOf b = if b ∈ l then (s.assignOf b).without p else s.assignOf b := by
  induction l generalizing s with
  | nil => exact fun b => by simp
  | cons a l ih =>
    intro b
    obtain ⟨hnot, hnodup⟩ := List.nodup_cons.mp hnodup
    have hstep (c : Nat) := leaveArray_assignOf (b := c) (hl a (by simp))
    have hkeep (c : Nat) (hc : c ∈ l) : (s.leaveArray p a).assignOf c = s.assignOf c := (hstep c).trans (if_neg (ne_of_mem_of_not_mem hc hnot))
    rw [List.foldl_cons, ih hnodup fun c hc => (mem_arraysOf_congr (hkeep c hc)).mpr (hl c (by simp [hc]))]
    by_cases hb : b ∈ l
    · rw [if_pos hb, if_pos (by simp [hb]), hkeep b hb]
    · rw [if_neg hb, hstep]
      by_cases hba : b = a
      · rw [if_pos hba, if_pos (by simp [hba]), hba]
      · rw [if_neg hba, if_neg (by simp [hba, hb])]

theorem arraysOf_nodup : (s.arraysOf p).Nodup := List.nodup_range.filter _

theorem arraysOf_congr (h : t.parts.assign = s.parts.assign) : t.arraysOf p = s.arraysOf p := by
  unfold State.arraysOf
  simp only [assignOf_of_assign h]

/-- What a teardown leaves. -/
structure TornDown (s t : State) (p : Nat) : Prop where
  off : t.partOn p = false
  done : t.parts.disabling.contains p = false
  images : ∀ i ∈ t.images, i.part ≠ p
  assign : ∀ a ∈ s.arraysOf p, t.assignOf a = (s.assignOf a).without p

/-- The partition is no longer being disabled. -/
def State.disabled (s : State) (p : Nat) : State := { s with parts := { s.parts with disabling := s.parts.disabling.filter fun q => q != p } }

/-- The last step of a teardown: the partition is disabled. -/
def State.partEnds (s : State) (p : Nat) : State := (((s.resetPart p).wr .part p Reg.Part.PART_EN 0).disabled p).debugOpens

/-- The registers of the SEC page. -/
def secKeys (k : Nat) : Prop := keyPage k = 0xA0

theorem RegsIn.debugOpens : RegsIn secKeys s s.debugOpens := by
  have hirq (u : State) : RegsIn secKeys u (u.irq .sec none 4) := irq fun fn => by
    simp only [secKeys, keyPage, regKey, Page.base]
    omega
  unfold State.debugOpens
  split
  · exact refl
  · exact ite refl ((of_regs rfl).trans (hirq _))

theorem disabled_opens (hoff : s.rd .part p Reg.Part.PART_EN = 0) : (s.disabled p).debugOpens.partOn p = false ∧
    (s.disabled p).debugOpens.parts.disabling.contains p = false ∧ (s.disabled p).debugOpens.images = s.images ∧
    (s.disabled p).debugOpens.parts.assign = s.parts.assign := by
  have hlast : Frame (.sec :: eventParts) (s.disabled p) (s.disabled p).debugOpens := Frame.debugOpens
  have hpart : ¬ secKeys (regKey .part p Reg.Part.PART_EN) := by
    simp only [secKeys, keyPage, regKey, Page.base]
    omega
  refine ⟨?_, ?_, hlast.same .images (by decide), (assign_of_frame hlast (by decide)).trans rfl⟩
  · rw [State.partOn, State.rdB, RegsIn.debugOpens.rd_eq hpart]
    exact congrArg (· != 0) hoff
  · rw [disabling_of_frame hlast (by decide)]
    simp [State.disabled]

theorem resetPart_assign : (s.resetPart p).parts.assign = s.parts.assign := assign_of_frame Frame.resetPart (by decide)

theorem resetPart_images : (s.resetPart p).images = s.images := Frame.resetPart.same .images (by decide)

/-- The enable of a partition is clear. -/
theorem rd_partOff : (s.wr .part p Reg.Part.PART_EN 0).rd .part p Reg.Part.PART_EN = 0 := State.rd_wr_self ..

theorem off_opens : ((s.wr .part p Reg.Part.PART_EN 0).disabled p).debugOpens.partOn p = false ∧
    ((s.wr .part p Reg.Part.PART_EN 0).disabled p).debugOpens.parts.disabling.contains p = false ∧
    ((s.wr .part p Reg.Part.PART_EN 0).disabled p).debugOpens.images = s.images ∧
    ((s.wr .part p Reg.Part.PART_EN 0).disabled p).debugOpens.parts.assign = s.parts.assign := disabled_opens rd_partOff

theorem partEnds_ends : (s.partEnds p).partOn p = false ∧ (s.partEnds p).parts.disabling.contains p = false ∧
    (s.partEnds p).images = s.images ∧ (s.partEnds p).parts.assign = s.parts.assign := by
  have hopens := off_opens (s := s.resetPart p) (p := p)
  rw [resetPart_images, resetPart_assign] at hopens
  exact hopens

/-- A teardown before the arrays leave: images, entries, tallies and frames go. -/
def State.partClears (s : State) (p : Nat) : State :=
  let s1 := (s.images.filter fun i => i.part == p).foldl State.unload s
  let mine := s1.tier.ott.filter fun e => ottPart e.2 == p
  let frames := s1.tier.dirty ++ mine.flatMap fun e => ottFrames e.2
  let s2 := (s1.tier.runs.filter fun r => r.2.2 == p).foldl (fun s r => s.ottFree r.1 r.2.1) s1
  let s3 := (s2.tier.ott.filter fun e => ottPart e.2 == p).foldl (fun s e => s.ottFree e.1 1) s2
  let s4 := (s3.tallies.filter fun t => t.2.alloc && t.2.owner == p).foldl (fun s t => s.setTally t.1 {}) s3
  frames.foldl State.zeroFrame s4

theorem partClears_keeps : (s.partClears p).parts.assign = s.parts.assign ∧ ∀ i ∈ (s.partClears p).images, i.part ≠ p := by
  unfold State.partClears
  extract_lets s1 mine frames s2 s3 s4
  have himages : ∀ i ∈ s1.images, i.part ≠ p := fun i hi hpart => by
    obtain ⟨hmem, hnot⟩ := unloads_images i hi
    exact hnot (List.mem_filter.mpr ⟨hmem, by simp [hpart]⟩)
  have h1 : s1.parts.assign = s.parts.assign :=
    (congrArg Prod.fst ((Frame.foldl fun _ _ => Frame.unload : Frame [.regs, .ott, .tierRest, .arrays, .tallies, .images] s s1).same .assign (by decide)) :)
  have hrest : Frame [.mem, .regs, .ott, .tierRest, .arrays, .tallies] s1 (frames.foldl State.zeroFrame s4) :=
    ((((Frame.foldl fun _ _ => Frame.ottFree.mono : Frame [.mem, .regs, .ott, .tierRest, .arrays, .tallies] s1 s2).trans
      (Frame.foldl fun _ _ => Frame.ottFree.mono)).trans (Frame.foldl fun _ _ => (Frame.setTally fun _ => Nat.zero_le _).mono)).trans
      (Frame.foldl fun _ _ => Frame.zeroFrame.mono))
  refine ⟨(congrArg Prod.fst (hrest.same .assign (by decide)) :).trans h1, ?_⟩
  rw [show (frames.foldl State.zeroFrame s4).images = s1.images from hrest.same .images (by decide)]
  exact himages

/-- STOP_REQ on every context of a partition. -/
def State.stopPart (s : State) (p : Nat) : State := (s.partPages p).foldl (fun s x => s.stopReq x.1 x.2) s

theorem partitionTeardown_eq (hdis : s.parts.disabling.contains p = true) (hquiet : s.partQuiet p = true)
    (hon : AllOn (s.stopPart p) (((List.range 9).filter fun a => s.assignOf a == .owned p).map arrDomain)) :
    exec (.partitionTeardown p) s =
      .next (State.partEnds (((s.stopPart p).partClears p).arraysOf p |>.foldl (fun s a => s.leaveArray p a) ((s.stopPart p).partClears p)) p) := by
  refine congrArg Host.Outcome.next ((if_neg (by rw [hdis, hquiet]; decide)).trans ?_)
  have hwake := State.wakeAll_of_allOn hon
  split
  next t on e0 =>
  obtain ⟨rfl, rfl⟩ := Prod.mk.inj (hwake.symm.trans e0)
  refine (if_neg (by decide)).trans ?_
  rw [State.partEnds, State.disabled, State.partClears]
  rfl

theorem mem_arraysOf_owned (ha : a ≤ 8) (h : s.assignOf a = .owned p) : a ∈ s.arraysOf p :=
  List.mem_filter.mpr ⟨List.mem_range.mpr (by omega), by rw [h]; exact beq_self_eq_true p⟩

theorem mem_arraysOf_shared {l : List Nat} (ha : a ≤ 8) (h : s.assignOf a = .shared l) (hp : p ∈ l) : a ∈ s.arraysOf p :=
  List.mem_filter.mpr ⟨List.mem_range.mpr (by omega), by rw [h]; exact List.contains_iff_mem.mpr hp⟩

theorem partitionTeardown_leaves (hdis : s.parts.disabling.contains p = true) (hquiet : s.partQuiet p = true)
    (hon : ∀ a, a ≤ 8 → s.assignOf a = .owned p → s.domOn (arrDomain a) = true) :
    ∃ t, exec (.partitionTeardown p) s = .next t ∧ TornDown s t p := by
  have hstop : Frame stopParts s (s.stopPart p) := Frame.foldl fun _ _ => Frame.stopReq
  have hpower : (s.stopPart p).power = s.power := power_eq_of_frame hstop (by decide) (by decide) (by decide) (by decide)
  have hall : AllOn (s.stopPart p) (((List.range 9).filter fun a => s.assignOf a == .owned p).map arrDomain) := by
    refine allOn_of_power hpower (List.all_eq_true.mpr fun d hd => ?_)
    obtain ⟨a, ha, rfl⟩ := List.mem_map.mp hd
    obtain ⟨ha9, hown⟩ := List.mem_filter.mp ha
    exact hon a (Nat.lt_succ_iff.mp (List.mem_range.mp ha9)) (by simpa using hown)
  have hassign : (s.stopPart p).parts.assign = s.parts.assign := (congrArg Prod.fst (hstop.same .assign (by decide)) :)
  obtain ⟨hclear, himages⟩ := partClears_keeps (s := s.stopPart p) (p := p)
  refine ⟨_, partitionTeardown_eq hdis hquiet hall, ?_⟩
  generalize (s.stopPart p).partClears p = u at hclear himages ⊢
  have hu : u.parts.assign = s.parts.assign := hclear.trans hassign
  have hleave := leaveArrays_assignOf (s := u) (p := p) (l := u.arraysOf p) arraysOf_nodup fun _ h => h
  have hleaveImages : ((u.arraysOf p).foldl (fun s a => s.leaveArray p a) u).images = u.images :=
    (Frame.foldl fun x a => by
      unfold State.leaveArray
      split
      · exact (Frame.refl.step Frame.scrubArray).step Frame.setAssign
      · exact Frame.dropMember : Frame (.assign :: scrubParts) u _).same .images (by decide)
  generalize (u.arraysOf p).foldl (fun s a => s.leaveArray p a) u = x at hleave hleaveImages ⊢
  obtain ⟨hoff, hdone, hendImages, hendAssign⟩ := partEnds_ends (s := x) (p := p)
  refine ⟨hoff, hdone, fun i hi => himages i ?_, fun a ha => ?_⟩
  · rw [hendImages, hleaveImages] at hi
    exact hi
  · rw [assignOf_of_assign hendAssign, hleave, if_pos (by rw [arraysOf_congr hu]; exact ha), assignOf_of_assign hu]

/-! ### Function-level reset -/

theorem vfFlr_resets (hp : p < 8) : ∃ t, exec (.vfFlr p) s = .next t ∧ t.st .pcie (p + 1) = 0 ∧ t.rd .pcie (p + 1) Reg.Pcie.HEAD = 0 ∧
    t.rd .pcie (p + 1) Reg.Pcie.TAIL = 0 ∧ t.rd .pcie (p + 1) Reg.Pcie.HD_FAULT = 0 ∧ t.mem = s.mem ∧
    (s.partOn p = true → t.parts.disabling.contains p = true) := by
  have hmem : (s.disablePart p).mem = s.mem := Frame.disablePart.same .mem (by decide)
  have hdis : s.partOn p = true → (s.disablePart p).parts.disabling.contains p = true := fun hon =>
    List.contains_iff_mem.mpr ((disablePart_disabling p).mpr (.inr ⟨rfl, hon⟩))
  refine ⟨_, congrArg Host.Outcome.next (if_neg (by omega)), ?_⟩
  generalize s.disablePart p = u at hmem hdis ⊢
  have hne {f g : Fld} (h : f.off ≠ g.off) (hf : f.lsb < 32) (hg : g.lsb < 32) : regKey .pcie (p + 1) f ≠ regKey .pcie (p + 1) g :=
    regKey_ne_of_off h hf hg
  refine ⟨?_, ?_, ?_, ?_, hmem, hdis⟩
  · rw [State.st, State.rd_setPorts, State.rd_wr_other _ _ (hne (by decide) (by decide) (by decide)),
      State.rd_wr_other _ _ (hne (by decide) (by decide) (by decide)), State.rd_wr_other _ _ (hne (by decide) (by decide) (by decide)),
      State.rd_wr_other _ _ (hne (by decide) (by decide) (by decide)), State.setSt, State.rd_wr_self]
    rfl
  · rw [State.rd_setPorts, State.rd_wr_other _ _ (hne (by decide) (by decide) (by decide)),
      State.rd_wr_other _ _ (hne (by decide) (by decide) (by decide)), State.rd_wr_self]
    rfl
  · rw [State.rd_setPorts, State.rd_wr_other _ _ (hne (by decide) (by decide) (by decide)), State.rd_wr_self]
    rfl
  · rw [State.rd_setPorts, State.rd_wr_self]
    rfl

end

/-- Settles O27: a partition's start, quota, disabling, teardown and reset. -/
theorem partitionLife : Obligations.PartitionLife := by
  refine ⟨fun s v w ps h hpf hps => ⟨partEnable_enables h hpf hps, partEnable_refused h hpf hps, partDisable_disables h hpf hps,
    fun n hn hbit hnot => ?_⟩, fun s p hdis hquiet hon => ?_, fun s p hp => vfFlr_resets hp⟩
  · have hexec := t1Quota_eq h hpf hps hn hbit hnot
    exact ⟨fun hfits => ⟨_, hexec, t1Quota_fits (hn ▸ Nat.mod_lt _ (by decide)) hfits rfl⟩, fun hno => ⟨_, hexec, t1Quota_refused hno rfl⟩⟩
  · obtain ⟨t, hexec, htorn⟩ := partitionTeardown_leaves hdis hquiet hon
    refine ⟨t, hexec, htorn.off, htorn.done, htorn.images, fun a ha hown => ?_, fun a l ha hl hp => ?_⟩
    · rw [htorn.assign a (mem_arraysOf_owned ha hown), hown]
      rfl
    · rw [htorn.assign a (mem_arraysOf_shared ha hl hp), hl]
      rfl

end Sys2Proof.Machine
end

section
/-! The register commands of an array's page (R15, R53, R84, R96, R142, R423). -/

namespace Sys2Proof.Machine

set_option Elab.async false

section
variable {s t u : State} {v : View} {w : Word} {a bank : Nat}

theorem busWrite_ma {off x : Nat} (h : Reaches s v (.ma a) off bank) (hoff : 0x100 ≤ off) :
    s.busWrite v ((Page.ma a).base + off) 4 x = s.maWrite v a bank off x := by
  rw [State.busWrite_of_reaches h (by simp)]
  exact if_neg (by omega)

theorem maWrite_cmplRd {x : Nat} : s.maWrite v a bank 0x1CC x = s.wr (.ma a) bank Reg.Ma.CMPL_RD (field x 0 12) := by
  have hplain : s.maWrite v a bank 0x1CC x = s.wrFields (.ma a) bank 0x1CC x Reg.Ma.all := by
    rw [State.maWrite, if_neg (by decide), if_neg (by decide), if_neg (by omega), if_neg (by omega), if_neg (by omega)]
  have hmine : (Reg.Ma.all.filter fun f => f.off == 0x1CC) = [Reg.Ma.CMPL_RD] := by decide
  rw [hplain, State.wrFields, hmine]
  exact if_neg (by rw [Bool.and_eq_true]; exact fun h => absurd h.2 (by decide))

theorem maWrite_resClr {x : Nat} (hx : bitAt x 0 = true) :
    s.maWrite v a bank 0x1B8 x = (s.wr (.ma a) bank Reg.Ma.RES_MISMATCH 0).wr (.ma a) bank Reg.Ma.REPLAY_AC 0 := by
  rw [State.maWrite, if_neg (by decide), if_neg (by decide), if_neg (by omega), if_pos ⟨rfl, hx⟩]
  rfl

theorem maWrite_seqClr {x : Nat} (hx : bitAt x 0 = true) :
    s.maWrite v a bank 0x1DC x = (s.wr (.ma a) bank Reg.Ma.EMPTY_ROWS 0).wr (.ma a) bank Reg.Ma.STATE_SAT 0 := by
  rw [State.maWrite, if_neg (by decide), if_neg (by decide), if_neg (by omega), if_neg (by omega), if_pos ⟨rfl, hx⟩]
  rfl

theorem maWrite_cntClr {x : Nat} (hx : bitAt x 0 = true) : s.maWrite v a bank 0x190 x =
    (((s.wr (.ma a) bank Reg.Ma.NAN_IN 0).wr (.ma a) bank Reg.Ma.INF_IN 0).wr (.ma a) bank Reg.Ma.ESC_ORPHAN 0).wr (.ma a) bank
      Reg.Ma.SCALE_BAD 0 := by
  rw [State.maWrite, if_neg (by decide), if_neg (by decide), if_pos ⟨rfl, hx⟩]
  rfl

theorem exec_cntClr (h : Reaches s v (.ma a) 0x190 bank) :
    exec (.cntClr v ((Page.ma a).base + 0x190) w) s = .next (s.busWrite v ((Page.ma a).base + 0x190) 4 (setField w.toNat 0 1 1)) := by
  have hpage : pageAt ((Page.ma a).base + 0x190) = some (.ma a, 0x190) := h.1
  have hexec : exec (.cntClr v ((Page.ma a).base + 0x190) w) s = execCntClr v ((Page.ma a).base + 0x190) w s := rfl
  rw [hexec, execCntClr, hpage]
  rfl

/-- Taking up an operating point leaves the requested one. -/
theorem rd_applyOpp_req : (s.applyOpp a).rd (.ma a) 0 Reg.Ma.OPP_REQ = s.rd (.ma a) 0 Reg.Ma.OPP_REQ := by
  have hact : regKey (.ma a) 0 Reg.Ma.OPP_REQ ≠ regKey (.ma a) 0 Reg.Ma.OPP_ACT := regKey_ne_of_off (by decide) (by decide) (by decide)
  have hpend : regKey (.ma a) 0 Reg.Ma.OPP_REQ ≠ regKey (.ma a) 0 Reg.Ma.PENDING := regKey_ne_of_off (by decide) (by decide) (by decide)
  unfold State.applyOpp
  extract_lets x
  split
  · rfl
  split
  · rfl
  · extract_lets p i1 act i2 s1
    split
    · exact State.rd_wr_other _ _ hpend
    · rw [State.rd_setArr, State.rd_wr_other _ _ hact, State.rd_wr_other _ _ hpend]

/-- A point up to 28 that the physical function asks for is staged. -/
theorem oppWrite_stages (ha : a < 8) (hpf : View.isVf v = false) {x : Nat} (hx : field x 0 5 ≤ 28) :
    (s.oppWrite v a x).rd (.ma a) 0 Reg.Ma.OPP_REQ = field x 0 5 ∧ (s.oppWrite v a x).mem = s.mem := by
  have hstaged : s.oppWrite v a x =
      ((s.wr (.ma a) 0 Reg.Ma.OPP_REQ (field x 0 5)).modArr a fun y => { y with oppWait := some (field x 0 5) }).applyOpp a := by
    unfold State.oppWrite
    dsimp only
    rw [if_neg (by omega), if_neg ?_]
    rw [decide_eq_false (by omega), Bool.or_false]
    split
    · exact absurd hpf (by simp [View.isVf])
    · decide
  rw [hstaged]
  refine ⟨?_, (Frame.applyOpp.same .mem (by decide)).trans rfl⟩
  rw [rd_applyOpp_req, State.rd_modArr, State.rd_wr_self]
  exact Nat.mod_eq_of_lt (Nat.lt_of_le_of_lt hx (by decide))

theorem oppWrite_reserved (ha : a < 8) {x : Nat} (hx : 28 < field x 0 5) : s.oppWrite v a x = s.errCount (.ma a) 0 3 1 := by
  unfold State.oppWrite
  dsimp only
  rw [if_neg (by omega), if_pos (by rw [decide_eq_true hx, Bool.or_true])]

theorem exec_oppReq (h : Reaches s v (.ma a) 0x100 bank) (ha : a < 8) : exec (.oppReq v a w) s = .next (s.oppWrite v a w.toNat) := by
  have hbus := State.viaBus_of_reaches h (by simp) w.toNat fun s _ _ _ => s.oppWrite v a w.toNat
  have haddr : (Page.ma a).base + 0x100 = 0x010100 + a * 0x1000 := by
    simp only [Page.base]
    omega
  rw [haddr] at hbus
  exact congrArg Host.Outcome.next ((if_neg (by omega)).trans hbus)

end

/-- Settles O16: each register command by the write that it names. -/
theorem arrayRegisterCommands : Obligations.ArrayRegisterCommands := by
  intro s v a bank w ha
  have hset : bitAt (setField w.toNat 0 1 1) 0 = true := bitAt_setField_one ..
  have hle : ¬ 8 < a := by omega
  refine ⟨fun h => ?_, fun h => ?_, fun h => ?_, fun h => ?_, fun h ha8 hpf hx => ?_, fun h ha8 hx => ?_⟩
  · exact congrArg Host.Outcome.next ((if_neg hle).trans ((busWrite_ma h (by decide)).trans maWrite_cmplRd))
  · exact congrArg Host.Outcome.next ((if_neg hle).trans ((busWrite_ma h (by decide)).trans (maWrite_resClr hset)))
  · exact congrArg Host.Outcome.next ((if_neg hle).trans ((busWrite_ma h (by decide)).trans (maWrite_seqClr hset)))
  · exact (exec_cntClr h).trans (congrArg Host.Outcome.next ((busWrite_ma h (by decide)).trans (maWrite_cntClr hset)))
  · exact ⟨_, exec_oppReq h ha8, oppWrite_stages ha8 hpf hx⟩
  · exact (exec_oppReq h ha8).trans (congrArg Host.Outcome.next (oppWrite_reserved ha8 hx))

end Sys2Proof.Machine
end

section
/-! The commands of the TALLY page (R158, R159). -/

namespace Sys2Proof.Machine

set_option Elab.async false

section
variable {s t u : State} {v : View} {w : Word} {p : Page} {pv : Option Nat} {i base len : Nat}

/-! ### Where the writes go -/

theorem busWrite_tally {off x : Nat} (hp : p = (tallyView v).1) (hpv : pv = (tallyView v).2) (h : Reaches s v p off 0) (hoff : 0x100 ≤ off) :
    s.busWrite v (p.base + off) 4 x = s.tallyWrite p pv off x := by
  subst hp hpv
  have hown : OwnDomain (tallyView v).1 off := by cases v <;> simp [tallyView]
  rw [State.busWrite_of_reaches h hown]
  refine (if_neg (by omega)).trans ?_
  cases v <;> rfl

theorem tallyWrite_sig {x : Nat} : s.tallyWrite p pv 0x10C x = s.tallySig p pv x := rfl

theorem tallyWrite_init {x : Nat} : s.tallyWrite p pv 0x110 x = s.tallyInit p pv x := rfl

theorem tallyWrite_cmd {x : Nat} : s.tallyWrite p pv 0x120 x = s.tallyCmd pv x := rfl

/-- The page of the tally unit that a view has, with its own errors. -/
structure TallyPage (p : Page) (pv : Option Nat) : Prop where
  page : p = .tallyPf ∧ pv = none ∨ ∃ q, p = .tallyVf q ∧ pv = some q

theorem tallyPage_of_view (hp : p = (tallyView v).1) (hpv : pv = (tallyView v).2) : TallyPage p pv := by
  subst hp hpv
  cases v with
  | vf q => exact ⟨.inr ⟨q, rfl, rfl⟩⟩
  | _ => exact ⟨.inl ⟨rfl, rfl⟩⟩

/-- An error of the tally unit is counted on the page of its view. -/
theorem TallyPage.rd_tallyErr (h : TallyPage p pv) (hi : i < 4) : (s.tallyErr pv i).rd p 0 (Reg.Hdr.ERR_CNT i) =
    (count31 (s.rd p 0 (Reg.Hdr.ERR_CNT i)) 1).1 := by
  obtain ⟨rfl, rfl⟩ | ⟨q, rfl, rfl⟩ := h.page
  · exact State.rd_errCount_self ..
  · unfold State.tallyErr
    dsimp only
    have hmod : (count31 (s.rd (.tallyVf q) 0 (Reg.Hdr.ERR_CNT i)) 1).1 % 2 ^ (Reg.Hdr.ERR_CNT i).width =
        (count31 (s.rd (.tallyVf q) 0 (Reg.Hdr.ERR_CNT i)) 1).1 := Nat.mod_eq_of_lt (count31_lt _ _)
    split
    · have hsat : regKey (.tallyVf q) 0 (Reg.Hdr.ERR_CNT i) ≠ regKey (.tallyVf q) 0 (Reg.Hdr.ERR_CNT_SAT i) := by
        simp only [regKey]
        omega
      have hraw : regKey (.tallyVf q) 0 (Reg.Hdr.ERR_CNT i) ≠ regKey (.tallyVf q) (q + 1) Reg.Hdr.IRQ_RAW := by
        simp only [regKey]
        omega
      rw [State.rd_orRaw_other _ hraw, State.rd_wr_other _ _ hsat, State.rd_wr_self, hmod]
    · rw [State.rd_wr_self, hmod]

/-- A command that fails: no tally and no wait moves, and ERR_CNT1 counts. -/
structure TallyFails (s t : State) (p : Page) : Prop where
  tallies : t.tallies = s.tallies
  waiters : t.waiters = s.waiters
  mem : t.mem = s.mem
  err : t.rd p 0 (Reg.Hdr.ERR_CNT 1) = (count31 (s.rd p 0 (Reg.Hdr.ERR_CNT 1)) 1).1

theorem TallyPage.fails (h : TallyPage p pv) (hrest : u.tallies = s.tallies ∧ u.waiters = s.waiters ∧ u.mem = s.mem)
    (herr : u.rd p 0 (Reg.Hdr.ERR_CNT 1) = s.rd p 0 (Reg.Hdr.ERR_CNT 1)) : TallyFails s (u.tallyErr pv 1) p where
  tallies := (Frame.tallyErr.same .tallies (by decide)).trans hrest.1
  waiters := (Frame.tallyErr.same .waiters (by decide)).trans hrest.2.1
  mem := (Frame.tallyErr.same .mem (by decide)).trans hrest.2.2
  err := (h.rd_tallyErr (by decide)).trans (by rw [herr])

theorem TallyFails.facts (h : TallyFails s t p) : t.tallies = s.tallies ∧ t.waiters = s.waiters ∧ t.mem = s.mem ∧
    t.rd p 0 (Reg.Hdr.ERR_CNT 1) = (count31 (s.rd p 0 (Reg.Hdr.ERR_CNT 1)) 1).1 := ⟨h.tallies, h.waiters, h.mem, h.err⟩

/-! ### SIG_INC and INIT -/

theorem tallySig_signals {x : Nat} (hreach : s.reaches pv (field x 0 13) = true) : s.tallySig p pv x =
    ((s.wr p 0 Reg.Tally.SIG_IDX (field x 0 13)).wr p 0 Reg.Tally.SIG_INC (field x 16 16)).signalTally (field x 0 13) (max 1 (field x 16 16)) := by
  unfold State.tallySig
  dsimp only
  rw [hreach]
  rfl

theorem tally_setTally {x : Tally} (j : Nat) : (s.setTally i x).tally j = if j = i then x else s.tally j := by
  rw [State.tally, State.setTally]
  split
  · next h => rw [h]; exact SMap.get_set_self ..
  · next h => exact SMap.get_set_other _ _ _ _ h

/-- The operands of INIT stand in their register. -/
def State.initAsked (s : State) (p : Page) (x : Nat) : State :=
  (s.wr p 0 Reg.Tally.INIT_COUNT (field x 0 16)).wr p 0 Reg.Tally.INIT_THRESH (field x 16 16)

theorem tallyInit_eq {x : Nat} (hi : i = s.rd p 0 Reg.Tally.TSEL) (hreach : s.reaches pv i = true) : s.tallyInit p pv x =
    if (s.hasWaiter i || field x 16 16 == 0 || !(s.tally i).alloc) = true then (s.initAsked p x).tallyErr pv 1
    else (s.initAsked p x).setTally i { s.tally i with
      count := field x 0 16, thresh := field x 16 16, level := s.rdB p 0 Reg.Tally.INIT_MODE } := by
  subst hi
  unfold State.tallyInit
  dsimp only
  rw [hreach]
  rfl

theorem tallyInit_sets {x : Nat} (hi : i = s.rd p 0 Reg.Tally.TSEL) (hreach : s.reaches pv i = true) (hwait : s.hasWaiter i = false)
    (hthresh : field x 16 16 ≠ 0) (halloc : (s.tally i).alloc = true) :
    (s.tallyInit p pv x).tally i = { s.tally i with
      count := field x 0 16, thresh := field x 16 16, level := s.rdB p 0 Reg.Tally.INIT_MODE } ∧
    (∀ j, j ≠ i → (s.tallyInit p pv x).tally j = s.tally j) ∧ (s.tallyInit p pv x).waiters = s.waiters ∧ (s.tallyInit p pv x).mem = s.mem := by
  rw [tallyInit_eq hi hreach, if_neg (by simp [hwait, hthresh, halloc])]
  exact ⟨(tally_setTally i).trans (if_pos rfl), fun j hj => (tally_setTally j).trans (if_neg hj), rfl, rfl⟩

theorem tallyInit_fails {x : Nat} (hpage : TallyPage p pv) (hi : i = s.rd p 0 Reg.Tally.TSEL) (hreach : s.reaches pv i = true)
    (hbad : s.hasWaiter i = true ∨ field x 16 16 = 0 ∨ (s.tally i).alloc = false) : TallyFails s (s.tallyInit p pv x) p := by
  rw [tallyInit_eq hi hreach, if_pos (by obtain h | h | h := hbad <;> simp [h])]
  have hne {f : Fld} (hf : f.off = 0x110 ∧ f.lsb < 32) : regKey p 0 (Reg.Hdr.ERR_CNT 1) ≠ regKey p 0 f :=
    regKey_ne_of_off (by rw [hf.1]; decide) (by decide) hf.2
  exact hpage.fails ⟨rfl, rfl, rfl⟩ ((State.rd_wr_other _ _ (hne (by decide))).trans (State.rd_wr_other _ _ (hne (by decide))))

/-! ### Allocation and release -/

theorem mem_tallyRun (j : Nat) : j ∈ tallyRun base len ↔ base ≤ j ∧ j < base + len := by
  simp only [tallyRun, List.mem_map, List.mem_range]
  constructor
  · rintro ⟨k, hk, rfl⟩
    omega
  · rintro ⟨hlo, hhi⟩
    exact ⟨j - base, by omega, by omega⟩

theorem tally_setRun (f : State → Nat → State) (x : Tally) (hf : ∀ u i, f u i = u.setTally i x) (l : List Nat) (j : Nat) :
    (l.foldl f s).tally j = if j ∈ l then x else s.tally j := by
  induction l generalizing s with
  | nil => simp
  | cons i l ih =>
    rw [List.foldl_cons, ih, hf, tally_setTally]
    by_cases hj : j ∈ l
    · simp [hj]
    · simp [hj]

theorem tally_allocTallies {q : Nat} (j : Nat) : (s.allocTallies q base len).tally j =
    if base ≤ j ∧ j < base + len then { owner := q, alloc := true } else s.tally j := by
  rw [State.allocTallies, tally_setRun _ { owner := q, alloc := true } (fun _ _ => rfl)]
  simp only [mem_tallyRun]

theorem tally_freeTallies (j : Nat) : (s.freeTallies base len).tally j = if base ≤ j ∧ j < base + len then {} else s.tally j := by
  rw [State.freeTallies, tally_setRun _ {} (fun _ _ => rfl)]
  simp only [mem_tallyRun]

/-- The operands of an allocation stand in their register. -/
def State.allocAsked (s : State) (x : Nat) : State :=
  (((s.wr .tallyPf 0 Reg.Tally.A_BASE (field x 0 13)).wr .tallyPf 0 Reg.Tally.A_PART (field x 13 3)).wr .tallyPf 0 Reg.Tally.A_LEN
    (field x 16 14)).wr .tallyPf 0 Reg.Tally.A_FREE (b2n (bitAt x 30))

theorem tallyCmd_eq {x : Nat} (hgo : bitAt x 31 = true) (hbase : base = field x 0 13) (hlen : len = field x 16 14) : s.tallyCmd none x =
    if (len == 0 || decide (8192 < base + len)) = true then (s.allocAsked x).tallyErr none 1
    else if bitAt x 30 = true then
      if (tallyRun base len).any s.hasWaiter = true then (s.allocAsked x).tallyErr none 1 else (s.allocAsked x).freeTallies base len
    else if ((tallyRun base len).any fun i => (s.tally i).alloc) = true then (s.allocAsked x).tallyErr none 1
    else (s.allocAsked x).allocTallies (field x 13 3) base len := by
  subst hbase hlen
  unfold State.tallyCmd
  dsimp only
  rw [hgo]
  rfl

theorem field_allocWord (free : Nat) : field (allocWord w.toNat free) 0 13 = field w.toNat 0 13 ∧
    field (allocWord w.toNat free) 13 3 = field w.toNat 13 3 ∧ field (allocWord w.toNat free) 16 14 = field w.toNat 16 14 ∧
    bitAt (allocWord w.toNat free) 31 = true ∧ bitAt (allocWord w.toNat free) 30 = bitAt (setField w.toNat 30 1 free) 30 := by
  refine ⟨?_, ?_, ?_, bitAt_setField_one .., bitAt_setField_of_ne (by decide)⟩
  · rw [allocWord, field_setField_of_disjoint (by omega), field_setField_of_disjoint (by omega)]
  · rw [allocWord, field_setField_of_disjoint (by omega), field_setField_of_disjoint (by omega)]
  · rw [allocWord, field_setField_of_disjoint (by omega), field_setField_of_disjoint (by omega)]

theorem allocAsked_tally {x : Nat} (j : Nat) : (s.allocAsked x).tally j = s.tally j := rfl

theorem allocTallies_asked {x q : Nat} : (∀ j, ((s.allocAsked x).allocTallies q base len).tally j =
    if base ≤ j ∧ j < base + len then { owner := q, alloc := true } else s.tally j) ∧ ((s.allocAsked x).allocTallies q base len).mem = s.mem :=
  ⟨fun j => by rw [tally_allocTallies, allocAsked_tally], Frame.allocTallies.same .mem (by decide)⟩

theorem freeTallies_asked {x : Nat} : (∀ j, ((s.allocAsked x).freeTallies base len).tally j =
    if base ≤ j ∧ j < base + len then {} else s.tally j) ∧ ((s.allocAsked x).freeTallies base len).mem = s.mem :=
  ⟨fun j => by rw [tally_freeTallies, allocAsked_tally], Frame.freeTallies.same .mem (by decide)⟩

theorem allocAsked_fails {x : Nat} : TallyFails s ((s.allocAsked x).tallyErr none 1) .tallyPf :=
  TallyPage.fails ⟨.inl ⟨rfl, rfl⟩⟩ ⟨rfl, rfl, rfl⟩ (by
    unfold State.allocAsked
    simp (disch := decide) only [State.rd_wr_other])

theorem tallyCmd_allocates (hbase : base = field w.toNat 0 13) (hlen : len = field w.toNat 16 14) (hpos : 0 < len) (hend : base + len ≤ 8192)
    (hfree : ∀ i, base ≤ i → i < base + len → (s.tally i).alloc = false) :
    (∀ j, (s.tallyCmd none (allocWord w.toNat 0)).tally j =
      if base ≤ j ∧ j < base + len then { owner := field w.toNat 13 3, alloc := true } else s.tally j) ∧
    (s.tallyCmd none (allocWord w.toNat 0)).mem = s.mem := by
  obtain ⟨h0, h13, h16, h31, h30⟩ := field_allocWord (w := w) 0
  have hnone : ¬ ((tallyRun base len).any fun i => (s.tally i).alloc) = true := by
    rw [List.any_eq_true]
    rintro ⟨i, hi, ha⟩
    obtain ⟨hlo, hhi⟩ := (mem_tallyRun i).mp hi
    exact absurd ha (by rw [hfree i hlo hhi]; decide)
  rw [tallyCmd_eq h31 (hbase.trans h0.symm) (hlen.trans h16.symm), if_neg (by simp; omega), h30, bitAt_setField_zero, if_neg (by decide),
    if_neg hnone, h13]
  exact allocTallies_asked

theorem tallyCmd_frees (hbase : base = field w.toNat 0 13) (hlen : len = field w.toNat 16 14) (hpos : 0 < len) (hend : base + len ≤ 8192)
    (hfree : ∀ i, base ≤ i → i < base + len → s.hasWaiter i = false) :
    (∀ j, (s.tallyCmd none (allocWord w.toNat 1)).tally j = if base ≤ j ∧ j < base + len then {} else s.tally j) ∧
    (s.tallyCmd none (allocWord w.toNat 1)).mem = s.mem := by
  obtain ⟨h0, h13, h16, h31, h30⟩ := field_allocWord (w := w) 1
  have hnone : ¬ (tallyRun base len).any s.hasWaiter = true := by
    rw [List.any_eq_true]
    rintro ⟨i, hi, ha⟩
    obtain ⟨hlo, hhi⟩ := (mem_tallyRun i).mp hi
    exact absurd ha (by rw [hfree i hlo hhi]; decide)
  rw [tallyCmd_eq h31 (hbase.trans h0.symm) (hlen.trans h16.symm), if_neg (by simp; omega), h30, bitAt_setField_one, if_pos rfl, if_neg hnone]
  exact freeTallies_asked

theorem tallyCmd_allocate_fails (hbase : base = field w.toNat 0 13) (hlen : len = field w.toNat 16 14)
    (hbad : len = 0 ∨ 8192 < base + len ∨ ∃ i, base ≤ i ∧ i < base + len ∧ (s.tally i).alloc = true) :
    TallyFails s (s.tallyCmd none (allocWord w.toNat 0)) .tallyPf := by
  obtain ⟨h0, -, h16, h31, h30⟩ := field_allocWord (w := w) 0
  rw [tallyCmd_eq h31 (hbase.trans h0.symm) (hlen.trans h16.symm), h30, bitAt_setField_zero]
  split
  · exact allocAsked_fails
  · next hin =>
    obtain h | h | ⟨i, hlo, hhi, ha⟩ := hbad
    · exact absurd (by simp [h]) hin
    · exact absurd (by simp [h]) hin
    · rw [if_neg (by decide), if_pos (List.any_eq_true.mpr ⟨i, (mem_tallyRun i).mpr ⟨hlo, hhi⟩, ha⟩)]
      exact allocAsked_fails

theorem tallyCmd_free_fails (hbase : base = field w.toNat 0 13) (hlen : len = field w.toNat 16 14)
    (hbad : len = 0 ∨ 8192 < base + len ∨ ∃ i, base ≤ i ∧ i < base + len ∧ s.hasWaiter i = true) :
    TallyFails s (s.tallyCmd none (allocWord w.toNat 1)) .tallyPf := by
  obtain ⟨h0, -, h16, h31, h30⟩ := field_allocWord (w := w) 1
  rw [tallyCmd_eq h31 (hbase.trans h0.symm) (hlen.trans h16.symm), h30, bitAt_setField_one]
  split
  · exact allocAsked_fails
  · next hin =>
    obtain h | h | ⟨i, hlo, hhi, ha⟩ := hbad
    · exact absurd (by simp [h]) hin
    · exact absurd (by simp [h]) hin
    · rw [if_pos rfl, if_pos (List.any_eq_true.mpr ⟨i, (mem_tallyRun i).mpr ⟨hlo, hhi⟩, ha⟩)]
      exact allocAsked_fails

theorem tallyCmd_vf {q x : Nat} : (s.tallyCmd (some q) x).tallies = s.tallies ∧ (s.tallyCmd (some q) x).waiters = s.waiters ∧
    (s.tallyCmd (some q) x).mem = s.mem := by
  have hframe : Frame eventParts s (s.tallyCmd (some q) x) := Frame.tallyIgnored
  exact ⟨hframe.same .tallies (by decide), hframe.same .waiters (by decide), hframe.same .mem (by decide)⟩

end

/-- Settles O20: each command of the TALLY page, done or refused. -/
theorem tallyPageCommands : Obligations.TallyPageCommands := by
  intro s v w p pv hp hpv
  have hpage := tallyPage_of_view hp hpv
  have hwrite {off x : Nat} (h : Reaches s v p off 0) (hoff : 0x100 ≤ off) :
      s.busWrite v ((tallyView v).1.base + off) 4 x = s.tallyWrite p pv off x := hp ▸ busWrite_tally hp hpv h hoff
  refine ⟨fun h hreach => ?_, fun h i hi hreach hwait hthresh halloc => ⟨_, congrArg Host.Outcome.next ((hwrite h (by decide)).trans tallyWrite_init), ?_⟩,
    fun h i hi hreach hbad => ⟨_, congrArg Host.Outcome.next ((hwrite h (by decide)).trans tallyWrite_init), ?_⟩,
    fun h hnone base len hbase hlen hpos hend => ⟨fun hfree => ⟨_, congrArg Host.Outcome.next ((hwrite h (by decide)).trans tallyWrite_cmd), ?_⟩,
      fun hfree => ⟨_, congrArg Host.Outcome.next ((hwrite h (by decide)).trans tallyWrite_cmd), ?_⟩⟩,
    fun h base len hbase hlen => ⟨fun hnone hbad => ⟨_, congrArg Host.Outcome.next ((hwrite h (by decide)).trans tallyWrite_cmd), ?_⟩,
      fun hnone hbad => ⟨_, congrArg Host.Outcome.next ((hwrite h (by decide)).trans tallyWrite_cmd), ?_⟩, fun hvf c hc => ?_⟩⟩
  · exact congrArg Host.Outcome.next ((hwrite h (by decide)).trans (tallyWrite_sig.trans (tallySig_signals hreach)))
  · exact tallyInit_sets hi hreach hwait hthresh halloc
  · exact (tallyInit_fails hpage hi hreach hbad).facts
  · subst hnone
    exact tallyCmd_allocates hbase hlen hpos hend hfree
  · subst hnone
    exact tallyCmd_frees hbase hlen hpos hend hfree
  · obtain ⟨rfl, -⟩ : p = .tallyPf ∧ pv = none := by simpa [hnone] using hpage.page
    subst hnone
    exact (tallyCmd_allocate_fails hbase hlen hbad).facts
  · obtain ⟨rfl, -⟩ : p = .tallyPf ∧ pv = none := by simpa [hnone] using hpage.page
    subst hnone
    exact (tallyCmd_free_fails hbase hlen hbad).facts
  · obtain ⟨q, rfl⟩ := Option.ne_none_iff_exists'.mp hvf
    obtain rfl | rfl := hc
    · exact ⟨_, congrArg Host.Outcome.next ((hwrite h (by decide)).trans tallyWrite_cmd), tallyCmd_vf (x := allocWord w.toNat 0)⟩
    · exact ⟨_, congrArg Host.Outcome.next ((hwrite h (by decide)).trans tallyWrite_cmd), tallyCmd_vf (x := allocWord w.toNat 1)⟩

end Sys2Proof.Machine
end

section
/-! The commands of the OTT page (R188, R189, R209, R210). -/

namespace Sys2Proof.Machine

set_option Elab.async false

section
variable {s t u : State} {v : View} {w : Word} {i len cmd f k : Nat}

/-! ### Where a command goes -/

/-- The state in which an OTT command acts. -/
def State.ottAsked (s : State) (cmd part : Nat) : State :=
  ((s.wr .ott 0 Reg.Ott.CMD cmd).wr .ott 0 Reg.Ott.C_PART part).wr .ott 0 Reg.Ott.C_GO 1

/-- What a command does to its entry, run or page. -/
def State.ottDo (s : State) (cmd part i len e : Nat) : State :=
  let bad := len == 0 || decide (2 ^ 20 < i + len)
  match cmd with
  | 0 => if bad then s.ottDone 5 else if s.ottInUse i len then s.ottDone 1 else (s.ottAlloc i len part).ottDone 0
  | 1 =>
    if bad then s.ottDone 5
    else if s.ottQuiet i len then (s.ottFree i len).ottDone 0
    else { s.wr .ott 0 Reg.Ott.C_STATUS 4 with tier := { s.tier with release := some (i, len) } }
  | 2 => s.ottSetCmd i e
  | _ => s.ottMoveCmd i (s.rd .ott 0 Reg.Ott.C_DATA_LO % 1024)

theorem rd_ottAsked {q : Page} {b part : Nat} {g : Fld} (h : regKey q b g / 32 % 2 ^ 24 ≠ 0x3812C) :
    (s.ottAsked cmd part).rd q b g = s.rd q b g := by
  have hne (x : Fld) (hx : x.off = 0x12C ∧ x.lsb < 32) : regKey q b g ≠ regKey .ott 0 x := fun he => h (by
    rw [he]
    simp only [regKey, Page.base]
    omega)
  rw [State.ottAsked, State.rd_wr_other _ _ (hne _ (by decide)), State.rd_wr_other _ _ (hne _ (by decide)), State.rd_wr_other _ _ (hne _ (by decide))]

theorem field_ottWord (hcmd : cmd < 4) : field (ottWord w.toNat cmd) 0 2 = cmd ∧ field (ottWord w.toNat cmd) 2 3 = field w.toNat 2 3 ∧
    bitAt (ottWord w.toNat cmd) 31 = true := by
  refine ⟨?_, ?_, bitAt_setField_one ..⟩
  · rw [ottWord, field_setField_of_disjoint (by omega), field_setField_self, Nat.mod_eq_of_lt (by omega)]
  · rw [ottWord, field_setField_of_disjoint (by omega), field_setField_of_disjoint (by omega)]

theorem ottCmd_eq {x : Nat} (hgo : s.rdB .ott 0 Reg.Ott.C_GO = false) (hx : bitAt x 31 = true) : s.ottCmd x =
    (s.ottAsked (field x 0 2) (field x 2 3)).ottDo (field x 0 2) (field x 2 3) ((s.ottAsked (field x 0 2) (field x 2 3)).rd .ott 0 Reg.Ott.C_IDX)
      ((s.ottAsked (field x 0 2) (field x 2 3)).rd .ott 0 Reg.Ott.C_LEN)
      ((s.ottAsked (field x 0 2) (field x 2 3)).rd2 .ott 0 Reg.Ott.C_DATA_LO Reg.Ott.C_DATA_HI) := by
  rw [State.ottCmd, hgo, if_neg (by decide), hx]
  dsimp only
  rw [if_neg (by decide)]
  rfl

theorem ottNamed_eq (h : Reaches s v .ott 0x12C 0) (hpf : View.isVf v = false) (hgo : s.rdB .ott 0 Reg.Ott.C_GO = false)
    (hi : i = s.rd .ott 0 Reg.Ott.C_IDX) (hlen : len = s.rd .ott 0 Reg.Ott.C_LEN) (hcmd : cmd < 4) : s.ottNamed v w.toNat cmd =
    (s.ottAsked cmd (field w.toNat 2 3)).ottDo cmd (field w.toNat 2 3) i len (s.rd2 .ott 0 Reg.Ott.C_DATA_LO Reg.Ott.C_DATA_HI) := by
  obtain ⟨h0, h2, h31⟩ := field_ottWord (w := w) hcmd
  have hbus : s.ottNamed v w.toNat cmd = s.ottWrite v 0x12C (ottWord w.toNat cmd) := (State.busWrite_of_reaches h (by simp) _).trans (if_neg (by decide))
  have hcut : s.ottWrite v 0x12C (ottWord w.toNat cmd) = s.ottCmd (ottWord w.toNat cmd) := by
    rw [State.ottWrite, if_neg (by decide), hpf, if_neg (by decide), if_pos rfl]
  rw [hbus, hcut, ottCmd_eq hgo h31, h0, h2, State.rd2, rd_ottAsked (by decide), rd_ottAsked (by decide), rd_ottAsked (by decide), rd_ottAsked (by decide),
    hi, hlen]
  rfl

theorem rd_ottDone {x : Nat} (hx : x < 8) : (s.ottDone x).rd .ott 0 Reg.Ott.C_STATUS = x ∧ (s.ottDone x).rd .ott 0 Reg.Ott.C_GO = 0 := by
  constructor
  · rw [State.ottDone, State.rd_wr_other _ _ (by decide), State.rd_wr_self]
    exact Nat.mod_eq_of_lt hx
  · rw [State.ottDone, State.rd_wr_self]
    rfl

/-! ### ALLOC -/

theorem ottDo_allocates {part e : Nat} (hpos : 0 < len) (hend : i + len ≤ 2 ^ 20) (hfree : s.ottInUse i len = false) :
    s.ottDo 0 part i len e = (s.ottAlloc i len part).ottDone 0 :=
  (if_neg (by simp; omega)).trans (if_neg (by rw [hfree]; decide))

theorem ottDo_inUse {part e : Nat} (hpos : 0 < len) (hend : i + len ≤ 2 ^ 20) (hused : s.ottInUse i len = true) :
    s.ottDo 0 part i len e = s.ottDone 1 := (if_neg (by simp; omega)).trans (if_pos hused)

/-! ### RELEASE -/

theorem ottQuiet_congr (hst : ∀ a b, t.st (.ma a) b = s.st (.ma a) b ∧ t.st (.dma a) b = s.st (.dma a) b) (himages : t.images = s.images) :
    t.ottQuiet i len = s.ottQuiet i len := by
  have hquiet (m : Image) : t.imageQuiet m = s.imageQuiet m := by
    unfold State.imageQuiet
    simp only [fun a b => (hst a b).1, fun a b => (hst a b).2]
  rw [State.ottQuiet, State.ottQuiet, himages]
  exact congrArg _ (funext hquiet)

theorem quiet_asked {part : Nat} : (s.ottAsked cmd part).ottQuiet i len = s.ottQuiet i len :=
  ottQuiet_congr (fun a b => ⟨rd_ottAsked (by simp only [regKey, Page.base, stateFld]; omega), rd_ottAsked (by simp only [regKey, Page.base, stateFld]; omega)⟩) rfl

theorem ott_of_tier (h : t.tier = s.tier) (k : Nat) : t.ott k = s.ott k := by rw [State.ott, State.ott, h]

theorem ottDone_tier {x : Nat} : (s.ottDone x).tier = s.tier := rfl

/-- Moves that end leave the entries of other pages. -/
theorem dropMoves_ott {gone : PageMove → Bool} (hk : ∀ m ∈ s.tier.moves, gone m = true → m.page ≠ k) : (s.dropMoves gone).ott k = s.ott k := by
  unfold State.dropMoves
  extract_lets mine x s1
  have h1 : s1.ott k = s.ott k :=
    List.foldlRecOn mine _ (motive := fun u : State => u.ott k = s.ott k) rfl fun u hu m hm => by
      obtain ⟨hmem, hgone⟩ := List.mem_filter.mp hm
      rw [State.ott_setOtt, if_neg (Ne.symm (hk m hmem hgone)), hu]
  split
  · exact (ott_of_tier ottDone_tier k).trans h1
  · exact h1

/-- The runs that a release leaves of a list: what lies outside its range. -/
def cutRuns (i len : Nat) (l : List (Nat × Nat × Nat)) : List (Nat × Nat × Nat) := l.flatMap fun r =>
  if r.1 + r.2.1 ≤ i ∨ i + len ≤ r.1 then [r]
  else (if r.1 < i then [(r.1, i - r.1, r.2.2)] else []) ++
    (if i + len < r.1 + r.2.1 then [(i + len, r.1 + r.2.1 - (i + len), r.2.2)] else [])

theorem mem_cutRuns {l : List (Nat × Nat × Nat)} {r : Nat × Nat × Nat} (hr : r ∈ cutRuns i len l) : r.1 + r.2.1 ≤ i ∨ i + len ≤ r.1 := by
  obtain ⟨q, -, hq⟩ := List.mem_flatMap.mp hr
  split at hq
  · next hout =>
    rw [List.mem_singleton.mp hq]
    exact hout
  · rw [List.mem_append] at hq
    obtain hq | hq := hq
    · split at hq
      · rw [List.mem_singleton.mp hq]
        simp only
        omega
      · simp at hq
    · split at hq
      · rw [List.mem_singleton.mp hq]
        exact .inr (Nat.le_refl _)
      · simp at hq

/-- Whether an entry lies in a range. -/
def inRun (i len k : Nat) : Bool := decide (i ≤ k) && decide (k < i + len)

theorem inRun_iff : inRun i len k = true ↔ i ≤ k ∧ k < i + len := by simp [inRun]

/-- What a release leaves of the entries, those of its range being invalid, and of the runs, none of which meets its range. -/
theorem ottFree_leaves : (∀ k, (s.ottFree i len).ott k = if i ≤ k ∧ k < i + len then 0 else s.ott k) ∧
    ∀ r ∈ (s.ottFree i len).tier.runs, r.1 + r.2.1 ≤ i ∨ i + len ≤ r.1 := by
  unfold State.ottFree
  extract_lets inRange s0 mine s1 s2 cut
  have hin (k : Nat) : inRange k = inRun i len k := rfl
  have hkeep (k : Nat) (hk : inRange k = false) : s2.ott k = s.ott k := by
    have h0 : s0.ott k = s.ott k := dropMoves_ott fun m _ hm he => by
      rw [he, hk] at hm
      exact Bool.false_ne_true hm
    clear_value s0
    have h1 : s1.ott k = s.ott k :=
      List.foldlRecOn _ _ (motive := fun u : State => u.ott k = s.ott k) h0 fun u hu d _ => (rfl : (u.dirtyFrame d).ott k = u.ott k).trans hu
    clear_value s1
    refine List.foldlRecOn _ _ (motive := fun u : State => u.ott k = s.ott k) h1 fun u hu a _ => ?_
    split
    · exact hu
    · exact hu
  clear_value s2
  have hcut : ∀ r ∈ cut, r.1 + r.2.1 ≤ i ∨ i + len ≤ r.1 := fun r hr => mem_cutRuns hr
  clear_value cut inRange
  refine ⟨fun k => ?_, hcut⟩
  by_cases h : i ≤ k ∧ k < i + len
  · rw [if_pos h]
    exact SMap.get_filter_of_false _ _ fun e => by rw [hin, inRun_iff.mpr h]; rfl
  · have hout : inRange k = false := (hin k).trans (Bool.eq_false_iff.mpr (mt inRun_iff.mp h))
    rw [if_neg h]
    exact (SMap.get_filter_of_true _ _ fun e => by rw [hout]; rfl).trans (hkeep k hout)

theorem ottFree_mem : (s.ottFree i len).mem = s.mem := Frame.ottFree.same .mem (by decide)

theorem ottDone_keeps {x : Nat} : (s.ottDone x).tier = s.tier ∧ (s.ottDone x).mem = s.mem := ⟨rfl, rfl⟩

/-- A release that is done. -/
theorem ottFree_done : (∀ k, ((s.ottFree i len).ottDone 0).ott k = if i ≤ k ∧ k < i + len then 0 else s.ott k) ∧
    (∀ r ∈ ((s.ottFree i len).ottDone 0).tier.runs, r.1 + r.2.1 ≤ i ∨ i + len ≤ r.1) ∧
    ((s.ottFree i len).ottDone 0).rd .ott 0 Reg.Ott.C_STATUS = 0 ∧ ((s.ottFree i len).ottDone 0).mem = s.mem := by
  obtain ⟨hott, hruns⟩ := ottFree_leaves (s := s) (i := i) (len := len)
  have hmem := ottFree_mem (s := s) (i := i) (len := len)
  generalize s.ottFree i len = u at hott hruns hmem ⊢
  exact ⟨fun k => (ott_of_tier ottDone_tier k).trans (hott k), hruns, (rd_ottDone (by decide)).1, hmem⟩

theorem ottDo_releases {part e : Nat} (hpos : 0 < len) (hend : i + len ≤ 2 ^ 20) (hquiet : s.ottQuiet i len = true) :
    s.ottDo 1 part i len e = (s.ottFree i len).ottDone 0 := (if_neg (by simp; omega)).trans (if_pos hquiet)

theorem ottDo_waits {part e : Nat} (hpos : 0 < len) (hend : i + len ≤ 2 ^ 20) (hquiet : s.ottQuiet i len = false) :
    s.ottDo 1 part i len e = { s.wr .ott 0 Reg.Ott.C_STATUS 4 with tier := { s.tier with release := some (i, len) } } :=
  (if_neg (by simp; omega)).trans (if_neg (by rw [hquiet]; decide))

/-! ### SET -/

theorem claim_ott : (s.claim f).ott k = s.ott k := by
  unfold State.claim
  split <;> rfl

theorem ottSetCmd_sets {e : Nat} (hmap : ((List.range 9).any fun a => (s.arr a).pageMap.any fun q => q.2.ott == some i) = false)
    (hok : ¬ (ottValid (s.ott i) = true ∧ ottValid e = true ∧ (ottPlace e = 2 ∨ ottHomeV e = true))) :
    (s.ottSetCmd i e).ott i = e % 2 ^ 64 ∧ (∀ k, k ≠ i → (s.ottSetCmd i e).ott k = s.ott k) ∧
      (s.ottSetCmd i e).rd .ott 0 Reg.Ott.C_STATUS = 0 ∧ (s.ottSetCmd i e).rd .ott 0 Reg.Ott.C_GO = 0 := by
  have hgo : s.ottSetCmd i e = ((((ottFrames e).filter fun k => !(ottFrames (s.ott i)).contains k).foldl State.claim s).setOtt i e).ottDone 0 := by
    unfold State.ottSetCmd
    extract_lets e0 mapped
    rw [show mapped = false from hmap, if_neg]
    simp only [Bool.false_or, Bool.and_eq_true, Bool.or_eq_true, beq_iff_eq]
    exact fun h => hok ⟨h.1.1, h.1.2, h.2⟩
  have hclaim (l : List Nat) (k : Nat) : (l.foldl State.claim s).ott k = s.ott k :=
    List.foldlRecOn l _ (motive := fun u : State => u.ott k = s.ott k) rfl fun u hu d _ => claim_ott.trans hu
  rw [hgo]
  refine ⟨State.ott_setOtt_self .., fun k hk => ?_, rd_ottDone (by decide)⟩
  rw [ott_of_tier ottDone_tier, State.ott_setOtt, if_neg hk, hclaim]

/-! ### MOVE -/

theorem bitAt_mod {e : Nat} (h : f < 64) : bitAt (e % 2 ^ 64) f = bitAt e f := by
  rw [bitAt_eq_testBit, bitAt_eq_testBit, Nat.testBit_mod_two_pow, decide_eq_true h, Bool.true_and]

theorem frames_congr (hcis : t.rd .floor 0 Reg.Floor.CIS_PRESENT = s.rd .floor 0 Reg.Floor.CIS_PRESENT)
    (hisp : ∀ n, n < 2 → t.rd (.isp n) 0 Reg.Isp.CIS_RES = s.rd (.isp n) 0 Reg.Isp.CIS_RES) (htier : t.tier = s.tier) :
    t.cisFrames = s.cisFrames ∧ t.ispFrames = s.ispFrames := by
  have hframes : t.cisFrames = s.cisFrames := by rw [State.cisFrames, State.cisFrames, hcis]
  have hnamed : t.frameNamed = s.frameNamed := by
    funext k
    rw [State.frameNamed, State.frameNamed, htier]
  refine ⟨hframes, ?_⟩
  rw [State.ispFrames, State.ispFrames, hisp 0 (by decide), hisp 1 (by decide), hframes, hnamed]

theorem ottDo_set {part e : Nat} : s.ottDo 2 part i len e = s.ottSetCmd i e := rfl

theorem ottDo_move {part e : Nat} : s.ottDo 3 part i len e = s.ottMoveCmd i (s.rd .ott 0 Reg.Ott.C_DATA_LO % 1024) := rfl

/-- Another move joins those in progress. -/
def State.addMove (s : State) (m : PageMove) : State := { s with tier := { s.tier with moves := s.tier.moves ++ [m] } }

theorem addMove_moves {m : PageMove} : (s.addMove m).tier.moves = s.tier.moves ++ [m] := rfl

theorem setOtt_moves {e : Nat} : (s.setOtt i e).tier.moves = s.tier.moves := rfl

theorem addMove_ott {m : PageMove} (k : Nat) : (s.addMove m).ott k = s.ott k := rfl

/-- A page begins to move into a frame, from its old one or, by a fill, from the well. -/
def State.startMove (s : State) (i f : Nat) (fill : Bool) : State :=
  ((s.claim (frameT1 f)).setOtt i (setField (s.ott i) 9 1 1)).addMove (PageMove.mk i f fill 0)

theorem startMove_starts {fill : Bool} : (s.startMove i f fill).tier.moves = s.tier.moves ++ [PageMove.mk i f fill 0] ∧
    ottMig ((s.startMove i f fill).ott i) = true ∧ ∀ k, k ≠ i → (s.startMove i f fill).ott k = s.ott k := by
  have hmoves : (s.claim (frameT1 f)).tier.moves = s.tier.moves := by
    unfold State.claim
    split <;> rfl
  have hott (k : Nat) : (s.startMove i f fill).ott k = if k = i then setField (s.ott i) 9 1 1 % 2 ^ 64 else s.ott k := by
    rw [State.startMove, addMove_ott, State.ott_setOtt, claim_ott]
  refine ⟨?_, ?_, fun k hk => (hott k).trans (if_neg hk)⟩
  · rw [State.startMove, addMove_moves, setOtt_moves, hmoves]
  rw [hott i, if_pos rfl, ottMig, bitAt_mod (by decide), bitAt_setField_one]

/-- The copy of a page that the cistern holds begins into its new frame. -/
theorem ottMoveCmd_starts (hvalid : ottValid (s.ott i) = true) (hplace : ottPlace (s.ott i) ≠ 0) (hmig : ottMig (s.ott i) = false)
    (hbad : ottBad (s.ott i) = false) (hwr : ottWr (s.ott i) = false) (hheld : ottPlace (s.ott i) = 1 ∨ ottRes (s.ott i) = true)
    (hcis : f ∈ s.cisFrames) (hfree : s.frameNamed (frameT1 f) = false) (hisp : f ∉ s.ispFrames) :
    (s.ottMoveCmd i f).tier.moves = s.tier.moves ++ [PageMove.mk i f false 0] ∧ ottMig ((s.ottMoveCmd i f).ott i) = true ∧
      ∀ k, k ≠ i → (s.ottMoveCmd i f).ott k = s.ott k := by
  have hheld' : (ottPlace (s.ott i) == 1 || ottRes (s.ott i)) = true := by simpa using hheld
  have hstart : s.ottMoveCmd i f = s.startMove i f false := by
    unfold State.ottMoveCmd
    extract_lets e p held start
    have hcan : (!ottValid e || ottPlace e == 0 || ottMig e || ottBad e) = false := by
      simp only [e, hvalid, hmig, hbad, Bool.not_true, Bool.false_or, Bool.or_false, beq_eq_false_iff_ne]
      exact hplace
    have hframe : (!s.cisFrames.contains f || s.frameNamed (frameT1 f) || s.ispFrames.contains f) = false := by
      simp [hcis, hfree, hisp]
    have hweak : (ottWr e && s.partRuns p) = false := by simp only [e, hwr, Bool.false_and]
    have hnot : held = true := hheld'
    rw [hcan, if_neg (by decide), hframe, if_neg (by decide), hweak, if_neg (by decide), if_pos hnot]
    simp only [start, hnot]
    rfl
  rw [hstart]
  exact startMove_starts

end

/-- Settles O22: each command of the OTT page. -/
theorem ottCommands : Obligations.OttCommands := by
  intro s v w i len h hpf hgo hi hlen
  have hdo {cmd : Nat} (hcmd : cmd < 4) := ottNamed_eq (w := w) h hpf hgo hi hlen hcmd
  refine ⟨fun hpos hend hfree => ⟨_, congrArg Host.Outcome.next ((hdo (by decide)).trans (ottDo_allocates hpos hend hfree)), ?_⟩,
    fun hpos hend hused => ⟨_, congrArg Host.Outcome.next ((hdo (by decide)).trans (ottDo_inUse hpos hend hused)), ?_⟩,
    fun hpos hend hquiet => ⟨_, congrArg Host.Outcome.next ((hdo (by decide)).trans (ottDo_releases hpos hend (quiet_asked.trans hquiet))), ?_⟩,
    fun hpos hend hquiet => ⟨_, congrArg Host.Outcome.next ((hdo (by decide)).trans (ottDo_waits hpos hend (quiet_asked.trans hquiet))), ?_⟩,
    fun e he hmap hok => ⟨_, congrArg Host.Outcome.next ((hdo (by decide)).trans ottDo_set), ?_⟩,
    fun f hf hvalid hplace hmig hbad hwr hheld hcis hfree hisp => ⟨_, congrArg Host.Outcome.next ((hdo (by decide)).trans ottDo_move), ?_⟩⟩
  · exact ⟨rfl, rfl, (rd_ottDone (by decide)).1, (rd_ottDone (by decide)).2, rfl⟩
  · exact ⟨rfl, (rd_ottDone (by decide)).1, (rd_ottDone (by decide)).2, rfl⟩
  · have hott (k : Nat) : (s.ottAsked 1 (field w.toNat 2 3)).ott k = s.ott k := rfl
    obtain ⟨hfree, hruns, hstatus, hmem⟩ := ottFree_done (s := s.ottAsked 1 (field w.toNat 2 3)) (i := i) (len := len)
    exact ⟨fun k => (hfree k).trans (by rw [hott]), hruns, hstatus, hmem⟩
  · refine ⟨rfl, ?_, ?_, rfl⟩
    · exact (State.rd_wr_self (s.ottAsked 1 (field w.toNat 2 3)) .ott 0 Reg.Ott.C_STATUS 4 :)
    · have hgo1 : ((s.ottAsked 1 (field w.toNat 2 3)).wr .ott 0 Reg.Ott.C_STATUS 4).rd .ott 0 Reg.Ott.C_GO = 1 := by
        rw [State.rd_wr_other _ _ (by decide), State.ottAsked, State.rd_wr_self]
        rfl
      exact hgo1
  · rw [← he]
    exact ottSetCmd_sets (s := s.ottAsked 2 (field w.toNat 2 3)) hmap hok
  · have hlo : (s.ottAsked 3 (field w.toNat 2 3)).rd .ott 0 Reg.Ott.C_DATA_LO % 1024 = f := by rw [rd_ottAsked (by decide), hf]
    obtain ⟨hcis', hisp'⟩ := frames_congr (s := s) (t := s.ottAsked 3 (field w.toNat 2 3)) (rd_ottAsked (by decide))
      (fun n hn => rd_ottAsked (by simp only [regKey, Page.base]; omega)) rfl
    rw [hlo]
    exact ottMoveCmd_starts (s := s.ottAsked 3 (field w.toNat 2 3)) hvalid hplace hmig hbad hwr hheld (by rw [hcis']; exact hcis) hfree
      (by rw [hisp']; exact hisp)

end Sys2Proof.Machine
end

section
/-! What ends on its own in the tiers (R185 to R189, R221): a RELEASE that waits, a zeroing, and a page copy. -/

namespace Sys2Proof.Machine

set_option Elab.async false

section
variable {s t u : State} {i len k src dst x : Nat} {m : PageMove}

/-! ### A RELEASE that waits, and a zeroing -/

theorem releaseResume_releases (hwait : s.tier.release = some (i, len)) (hquiet : s.ottQuiet i len = true) :
    s.releaseResume.tier.release = none ∧ (∀ k, s.releaseResume.ott k = if i ≤ k ∧ k < i + len then 0 else s.ott k) ∧
      s.releaseResume.rd .ott 0 Reg.Ott.C_STATUS = 0 ∧ s.releaseResume.rd .ott 0 Reg.Ott.C_GO = 0 ∧ s.releaseResume.mem = s.mem := by
  obtain ⟨hott, -⟩ := ottFree_leaves (s := s) (i := i) (len := len)
  have hmem := ottFree_mem (s := s) (i := i) (len := len)
  rw [State.releaseResume, hwait]
  dsimp only
  rw [if_pos hquiet]
  generalize s.ottFree i len = u at hott hmem ⊢
  exact ⟨rfl, hott, (rd_ottDone (by decide)).1, (rd_ottDone (by decide)).2, hmem⟩

theorem frameZeroing_zeroes (hdirty : s.tier.dirty.contains k = true) (hfree : s.frameNamed k = false) :
    exec (.frameZeroing k) s = .next (s.zeroFrame k) := congrArg Host.Outcome.next (if_pos (by rw [hdirty, hfree]; rfl))

theorem frameZeroing_named (hdirty : s.tier.dirty.contains k = true) (hnamed : s.frameNamed k = true) :
    exec (.frameZeroing k) s = .next s := congrArg Host.Outcome.next (if_neg (by rw [hdirty, hnamed]; decide))

theorem zeroFrame_leaves : (∀ x, (s.zeroFrame k).byte x = if frameAddr k ≤ x ∧ x < frameAddr k + pageBytes then 0 else s.byte x) ∧
    (s.zeroFrame k).tier.dirty.contains k = false ∧ (s.zeroFrame k).tier.ott = s.tier.ott ∧ (s.zeroFrame k).regs = s.regs := by
  refine ⟨fun x => State.byte_zero .., ?_, rfl, rfl⟩
  rw [Bool.eq_false_iff]
  intro h
  obtain ⟨-, hne⟩ := List.mem_filter.mp (List.contains_iff_mem.mp h)
  simp at hne

/-! ### A page copy in memory -/

theorem wfFrom_lt {α : Type} [DecidableEq α] {d : α} {m : SMap α} {lo : Nat} (h : SMap.wfFrom d (some lo) m = true) : ∀ c ∈ m, lo < c.1 := by
  induction m generalizing lo with
  | nil => exact fun c hc => absurd hc (by simp)
  | cons e m ih =>
    obtain ⟨k, v⟩ := e
    simp only [SMap.wfFrom, Bool.and_eq_true, decide_eq_true_eq] at h
    intro c hc
    obtain rfl | hc := List.mem_cons.mp hc
    · exact h.1.1
    · exact h.1.1.trans (ih h.2 c hc)

/-- The addresses of canonical memory are all different. -/
theorem wfFrom_pairwise {α : Type} [DecidableEq α] {d : α} {m : SMap α} {lo : Option Nat} (h : SMap.wfFrom d lo m = true) :
    m.Pairwise fun c e => c.1 < e.1 := by
  induction m generalizing lo with
  | nil => exact List.Pairwise.nil
  | cons e m ih =>
    obtain ⟨k, v⟩ := e
    simp only [SMap.wfFrom, Bool.and_eq_true] at h
    exact List.pairwise_cons.mpr ⟨wfFrom_lt h.2, ih h.2⟩

theorem SMap.get_of_no_key {α : Type} {d : α} {m : SMap α} (h : ∀ c ∈ m, c.1 ≠ k) : SMap.get d m k = d := by
  induction m with
  | nil => rfl
  | cons e m ih =>
    obtain ⟨k', v⟩ := e
    rw [SMap.get, if_neg (h (k', v) (by simp)), ih fun c hc => h c (by simp [hc])]

/-- Bytes stored at different addresses. -/
theorem byte_storeCells {l : List Host.Cell} (hl : l.Pairwise fun c e => c.1 ≠ e.1) :
    (l.foldl (fun s c => s.store c.1 [c.2]) s).byte x = SMap.get (s.byte x) l x := by
  induction l generalizing s with
  | nil => rfl
  | cons e l ih =>
    obtain ⟨k, v⟩ := e
    obtain ⟨hne, hl⟩ := List.pairwise_cons.mp hl
    rw [List.foldl_cons, ih hl, State.byte_store, SMap.get]
    by_cases hk : k = x
    · subst hk
      rw [if_pos rfl, SMap.get_of_no_key fun c hc => (hne c hc).symm]
      simp
    · rw [if_neg hk, dif_neg (by simp; omega)]

theorem get_shifted {m : List Host.Cell} {d : Byte} (hm : ∀ c ∈ m, src ≤ c.1) :
    SMap.get d (m.map fun c => (c.1 - src + dst, c.2)) x = if dst ≤ x then SMap.get d m (x - dst + src) else d := by
  induction m with
  | nil => simp
  | cons e m ih =>
    obtain ⟨k, v⟩ := e
    have hk : src ≤ k := hm (k, v) (by simp)
    rw [List.map_cons, SMap.get, ih fun c hc => hm c (by simp [hc]), SMap.get]
    by_cases hx : dst ≤ x
    · have hiff : k - src + dst = x ↔ k = x - dst + src := by omega
      simp only [hiff, hx, if_true]
    · have hne : k - src + dst ≠ x := by omega
      simp only [hne, hx, if_false]

/-- What a page copy does to memory (R187): the new frame reads what the old one held. -/
theorem byte_copyPage (hinv : MemInv s) : (s.copyPage src dst).byte x = if dst ≤ x ∧ x < dst + pageBytes then s.byte (x - dst + src) else s.byte x := by
  unfold State.copyPage
  extract_lets mine
  have hsorted : (s.mem.filter fun c => decide (src ≤ c.1) && decide (c.1 < src + pageBytes)).Pairwise fun c e => c.1 < e.1 :=
    (wfFrom_pairwise hinv).filter _
  have hfrom : ∀ c ∈ s.mem.filter fun c => decide (src ≤ c.1) && decide (c.1 < src + pageBytes), src ≤ c.1 ∧ c.1 < src + pageBytes := fun c hc => by
    simpa using (List.mem_filter.mp hc).2
  have hmine : mine.Pairwise fun c e => c.1 ≠ e.1 := by
    refine List.pairwise_map.mpr (hsorted.imp_of_mem fun {c e} hc he hlt => ?_)
    have := (hfrom c hc).1
    simp only
    omega
  rw [byte_storeCells hmine, get_shifted fun c hc => (hfrom c hc).1, State.byte_zero]
  have hget (d : Byte) (y : Nat) (hy : ¬ (src ≤ y ∧ y < src + pageBytes)) :
      SMap.get d (s.mem.filter fun c => decide (src ≤ c.1) && decide (c.1 < src + pageBytes)) y = d :=
    SMap.get_of_no_key fun c hc he => hy (he ▸ hfrom c hc)
  by_cases hx : dst ≤ x ∧ x < dst + pageBytes
  · rw [if_pos hx.1, if_pos hx, if_pos hx]
    exact (SMap.get_filter_key (fun k => decide (src ≤ k) && decide (k < src + pageBytes)) s.mem (x - dst + src)).trans (if_pos (by simp; omega))
  · rw [if_neg hx, if_neg hx]
    split
    · exact hget _ _ (by omega)
    · rfl

/-! ### The end of a page copy -/

theorem mem_storeCells {l : List Host.Cell} : (l.foldl (fun s c => s.store c.1 [c.2]) s).mem = l.foldl (fun m c => Memory.puts m c.1 [c.2]) s.mem := by
  induction l generalizing s with
  | nil => rfl
  | cons e l ih => exact ih

theorem copyPage_mem_congr (h : t.mem = s.mem) : (t.copyPage src dst).mem = (s.copyPage src dst).mem := by
  unfold State.copyPage
  dsimp only
  have hzero : (t.zero dst pageBytes).mem = (s.zero dst pageBytes).mem := by rw [State.zero, State.zero, h]
  rw [mem_storeCells, mem_storeCells, hzero, h]

theorem copyPage_tier : (s.copyPage src dst).tier = s.tier := by
  unfold State.copyPage
  exact List.foldlRecOn _ _ (motive := fun u : State => u.tier = s.tier) rfl fun u hu c _ => hu

/-- The lines of a copy that no weir holds are all issued. -/
theorem issueMove_goes (hweirs : ∀ k, SMap.get false s.parts.weirEn k = false) : (s.issueMove m).2 = true := by
  unfold State.issueMove
  split
  · rfl
  · next hmore =>
    have hlt : m.line < 1024 := by simp at hmore; omega
    have hall (q n : Nat) : (s.issueLines q [0, 1] n).2 = n := by
      unfold State.issueLines
      simp only [List.foldl_cons, List.foldl_nil, hweirs, Bool.false_eq_true, if_false]
    dsimp only
    rw [hall]
    exact decide_eq_true (by omega)

theorem meetMove_clean (hup : s.upsets = []) (hwell : s.wellErrs = []) : s.meetMove m src = (s, [], false) := by
  have hframe (f : Nat) : s.meetFrame f = (s, false) := by
    rw [State.meetFrame, hwell]
    rfl
  unfold State.meetMove
  split
  · rw [hframe]
    split
    next s1 lost he =>
    have hsame : (s, false) = (s1, lost) := (ite_self (c := 1024 ≤ m.line) (s, false)).symm.trans he
    obtain ⟨rfl, rfl⟩ := Prod.mk.inj hsame
    rfl
  · rw [State.meetWords_of_struck (State.struck_of_noUpsets hup _)]
    rfl

/-- The page of a copy that ends gets its new frame. -/
def State.moveEnds (s : State) (i e : Nat) (m : PageMove) : State :=
  let s5 := { s with tier := { s.tier with moves := s.tier.moves.filter fun x => x.page != i } }
  let e1 := setField (setField e 9 1 0) 12 13 m.frame
  if m.fill then (s5.setOtt i (setField e1 8 1 1)).stampPage i else (s5.dirtyFrame (frameT1 (ottFrame e % 1024))).setOtt i e1

/-- A MOVE command whose page has moved is done. -/
def State.moveDone (s : State) (i : Nat) : State :=
  if s.rdB .ott 0 Reg.Ott.C_GO && s.rd .ott 0 Reg.Ott.CMD == 3 && s.rd .ott 0 Reg.Ott.C_IDX == i then s.ottDone 0 else s

/-- A page copy that neither waits nor loses a line. -/
theorem completeMove_eq (hm : s.tier.moves.find? (fun m => m.page == i) = some m)
    (hdma : ((List.range 8).any fun a => (s.dma a).runs.any fun r => r.page == some i) = false)
    (hsrc : src = if m.fill then frameAddr (frameWell (ottHome (s.ott i))) else ottAddr (s.ott i))
    (hon : AllOn s [memDomain src, memDomain (frameAddr (frameT1 m.frame))]) (hweirs : ∀ k, SMap.get false s.parts.weirEn k = false)
    (hup : s.upsets = []) (hwell : s.wellErrs = []) :
    s.completeMove i = (((s.issueMove m).1.copyPage src (frameAddr (frameT1 m.frame))).moveEnds i (s.ott i) m).moveDone i := by
  have hissue : Frame [.weirs, .tierRest] s (s.issueMove m).1 := Frame.issueMove
  have hgo := issueMove_goes (m := m) hweirs
  have hclean := meetMove_clean (s := (s.issueMove m).1) (m := m) (src := src) ((hissue.same .upsets (by decide)).trans hup)
    ((hissue.same .wellErrs (by decide)).trans hwell)
  have hwake := State.wakeAll_of_allOn hon
  unfold State.completeMove
  rw [hm]
  dsimp only
  rw [hdma, if_neg (by decide), ← hsrc, hwake]
  dsimp only
  rw [if_neg (by decide)]
  rw [hgo, if_neg (by decide), hclean]
  dsimp only
  rw [if_neg (by decide)]
  rfl

theorem ottFrame_mod {e : Nat} : ottFrame (e % 2 ^ 64) = ottFrame e := by
  refine Nat.eq_of_testBit_eq fun j => ?_
  rw [ottFrame, ottFrame, testBit_field, testBit_field, Nat.testBit_mod_two_pow]
  by_cases hj : j < 13
  · rw [decide_eq_true (by omega : 12 + j < 64), Bool.true_and]
  · rw [decide_eq_false hj, Bool.false_and, Bool.false_and]

/-- The entry of a page in its new frame. -/
theorem movedEntry {e f : Nat} : ottFrame (setField (setField e 9 1 0) 12 13 f) = f % 2 ^ 13 ∧
    ottMig (setField (setField e 9 1 0) 12 13 f) = false := by
  refine ⟨field_setField_self .., ?_⟩
  rw [ottMig, bitAt_eq_testBit, testBit_setField, if_neg (by omega), ← bitAt_eq_testBit, bitAt_setField_zero]

theorem filledEntry {e f : Nat} : ottFrame (setField (setField (setField e 9 1 0) 12 13 f) 8 1 1) = f % 2 ^ 13 ∧
    ottMig (setField (setField (setField e 9 1 0) 12 13 f) 8 1 1) = false ∧
    ottRes (setField (setField (setField e 9 1 0) 12 13 f) 8 1 1) = true := by
  refine ⟨(field_setField_of_disjoint (by omega)).trans movedEntry.1, ?_, bitAt_setField_one ..⟩
  rw [ottMig, bitAt_setField_of_ne (by decide)]
  exact movedEntry.2

/-- What the end of a copy leaves of the tiers. -/
structure MoveEnded (s t : State) (i : Nat) (m : PageMove) : Prop where
  frame : ottFrame (t.ott i) = m.frame % 2 ^ 13
  mig : ottMig (t.ott i) = false
  res : m.fill = true → ottRes (t.ott i) = true
  others : ∀ k, k ≠ i → t.ott k = s.ott k
  moves : ∀ q ∈ t.tier.moves, q.page ≠ i
  mem : t.mem = s.mem

/-- The moves of a page are over. -/
def State.endMoves (s : State) (i : Nat) : State := { s with tier := { s.tier with moves := s.tier.moves.filter fun x => x.page != i } }

theorem moveEnds_fill (h : m.fill = true) {e : Nat} : s.moveEnds i e m =
    ((s.endMoves i).setOtt i (setField (setField (setField e 9 1 0) 12 13 m.frame) 8 1 1)).stampPage i := if_pos h

theorem moveEnds_move (h : m.fill = false) {e : Nat} : s.moveEnds i e m =
    ((s.endMoves i).dirtyFrame (frameT1 (ottFrame e % 1024))).setOtt i (setField (setField e 9 1 0) 12 13 m.frame) := if_neg (by rw [h]; decide)

theorem endMoves_moves : ∀ q ∈ (s.endMoves i).tier.moves, q.page ≠ i := fun q hq => by
  simpa using (List.mem_filter.mp hq).2

theorem endMoves_ott : (s.endMoves i).ott k = s.ott k := rfl

theorem stampPage_ott : (s.stampPage i).ott k = s.ott k := rfl

theorem dirtyFrame_ott {f : Nat} : (s.dirtyFrame f).ott k = s.ott k := rfl

theorem moveEnds_ended {e : Nat} : MoveEnded s (s.moveEnds i e m) i m := by
  cases h : m.fill with
  | true =>
    rw [moveEnds_fill h]
    obtain ⟨hframe, hmig, hres⟩ := filledEntry (e := e) (f := m.frame)
    generalize setField (setField (setField e 9 1 0) 12 13 m.frame) 8 1 1 = e1 at hframe hmig hres ⊢
    have hself : (((s.endMoves i).setOtt i e1).stampPage i).ott i = e1 % 2 ^ 64 := by rw [stampPage_ott, State.ott_setOtt_self]
    exact {
      frame := by rw [hself, ottFrame_mod, hframe]
      mig := by rw [hself, ottMig, bitAt_mod (by decide)]; exact hmig
      res _ := by rw [hself, ottRes, bitAt_mod (by decide)]; exact hres
      others k hk := by rw [stampPage_ott, State.ott_setOtt, if_neg hk, endMoves_ott]
      moves := endMoves_moves
      mem := rfl }
  | false =>
    rw [moveEnds_move h]
    obtain ⟨hframe, hmig⟩ := movedEntry (e := e) (f := m.frame)
    generalize setField (setField e 9 1 0) 12 13 m.frame = e1 at hframe hmig ⊢
    generalize frameT1 (ottFrame e % 1024) = f
    have hself : (((s.endMoves i).dirtyFrame f).setOtt i e1).ott i = e1 % 2 ^ 64 := State.ott_setOtt_self ..
    exact {
      frame := by rw [hself, ottFrame_mod, hframe]
      mig := by rw [hself, ottMig, bitAt_mod (by decide)]; exact hmig
      res hfill := absurd (h.symm.trans hfill) (by decide)
      others k hk := by rw [State.ott_setOtt, if_neg hk, dirtyFrame_ott, endMoves_ott]
      moves := endMoves_moves
      mem := rfl }

theorem moveDone_keeps : (s.moveDone i).tier = s.tier ∧ (s.moveDone i).mem = s.mem := by
  unfold State.moveDone
  split
  · exact ottDone_keeps
  · exact ⟨rfl, rfl⟩

theorem MoveEnded.done (h : MoveEnded s t i m) : MoveEnded s (t.moveDone i) i m := by
  obtain ⟨htier, hmem⟩ := moveDone_keeps (s := t) (i := i)
  have hott := ott_of_tier htier
  exact {
    frame := by rw [hott]; exact h.frame
    mig := by rw [hott]; exact h.mig
    res hfill := by rw [hott]; exact h.res hfill
    others k hk := (hott k).trans (h.others k hk)
    moves := by rw [htier]; exact h.moves
    mem := hmem.trans h.mem }

end

/-- Settles O23: the three events of the tiers, and a page copy in memory. -/
theorem tierEvents : Obligations.TierEvents := by
  refine ⟨fun s i len hwait hquiet => ⟨_, rfl, releaseResume_releases hwait hquiet⟩,
    fun s k hdirty => ⟨fun hfree => ⟨_, frameZeroing_zeroes hdirty hfree, zeroFrame_leaves⟩, frameZeroing_named hdirty⟩,
    fun s i m src hm hdma hsrc hon hweirs hup hwell => ?_, fun s src dst x hinv _ => byte_copyPage hinv⟩
  have hissue : Frame [.weirs, .tierRest] s (s.issueMove m).1 := Frame.issueMove
  have hott (k : Nat) : (s.issueMove m).1.ott k = s.ott k := congrArg (fun o => SMap.get 0 o k) (hissue.same .ott (by decide))
  have hmem := copyPage_mem_congr (src := src) (dst := frameAddr (frameT1 m.frame)) (hissue.same .mem (by decide))
  have hcopy (k : Nat) := ott_of_tier (copyPage_tier (s := (s.issueMove m).1) (src := src) (dst := frameAddr (frameT1 m.frame))) k
  refine ⟨_, congrArg Host.Outcome.next (completeMove_eq hm hdma hsrc hon hweirs hup hwell), ?_⟩
  generalize (s.issueMove m).1.copyPage src (frameAddr (frameT1 m.frame)) = u at hmem hcopy ⊢
  have hended := (moveEnds_ended (s := u) (i := i) (m := m) (e := s.ott i)).done
  exact ⟨hended.mem.trans hmem, hended.frame, hended.mig, hended.res, fun k hk => (hended.others k hk).trans ((hcopy k).trans (hott k)), hended.moves⟩

end Sys2Proof.Machine
end

section
/-! The arbiter of a SHARED array, epochs and weir windows (R216 to R218, R222, R223). -/

namespace Sys2Proof.Machine

set_option Elab.async false

section
variable {s t u : State} {a p q k : Nat} {members running l : List Nat}

/-! ### The arbiter -/

/-- Members whose gates are open stay as they are. -/
theorem openGates (hopen : ∀ c ∈ l, s.memberGate a c = (s, true)) (acc : List Nat) :
    l.foldl (fun (acc : State × List Nat) c =>
      ((acc.1.memberGate a c).1, if (acc.1.memberGate a c).2 = true then acc.2 ++ [c] else acc.2)) (s, acc) = (s, acc ++ l) := by
  induction l generalizing acc with
  | nil => simp
  | cons c l ih =>
    rw [List.foldl_cons]
    dsimp only
    rw [hopen c (by simp)]
    exact (ih (fun d hd => hopen d (by simp [hd])) (acc ++ [c])).trans (by simp)

/-- The turn goes to a member. -/
def State.giveTurn (s : State) (a p : Nat) : State := s.modArr a fun x => { x with turn := some p }

/-- A switch to another member: it is counted, and the array is scrubbed. -/
def State.switchTo (s : State) (a : Nat) : State :=
  ((s.scrubSwitch a).count .part a Reg.Part.SWITCHES Reg.Part.SWITCHES_SAT 1).countScrub a 1800

theorem arbiterChoice_eq (hshared : s.assignOf a = .shared members) (hmop : (s.arr a).mop = none) (hturn : (s.arr a).turn = none)
    (hon : s.domOn (arrDomain a) = true) (hrun : running = members.filter fun c => s.st (.ma a) c == 1)
    (hopen : ∀ c ∈ running, s.memberGate a c = (s, true)) (hp : (s.arr a).choose (running.filter fun c => !s.ringFull a c) = some p) :
    exec (.arbiterChoice a) s = .next (match (s.arr a).last with
      | some q => if p = q then s.giveTurn a p else (s.giveTurn a p).switchTo a
      | none => s.giveTurn a p) := by
  have hidle : ((s.arr a).mop.isSome || (s.arr a).turn.isSome || !s.domOn (arrDomain a)) = false := by
    rw [hmop, hturn, hon]
    rfl
  have hlast : ((s.giveTurn a p).arr a).last = (s.arr a).last := by
    rw [State.giveTurn, State.arr_modArr_self]
  have hgates := openGates hopen []
  rw [List.nil_append] at hgates
  subst hrun
  have hexec : exec (.arbiterChoice a) s = execArbiterChoice a s := rfl
  rw [hexec, execArbiterChoice, hshared]
  dsimp only
  rw [hidle, if_neg (by decide)]
  refine congrArg Host.Outcome.next ?_
  rw [hgates]
  dsimp only
  rw [hp]
  dsimp only
  rw [show ((s.modArr a fun x => { x with turn := some p }).arr a).last = (s.arr a).last from hlast]
  cases (s.arr a).last <;> rfl

/-! ### The switch scrub -/

theorem scrubSwitch_arr : (s.scrubSwitch a).arr a = { s.arr a with acc := [], stats := [], residues := [] } := by
  have hfold (u : State) (l : List Nat) : (l.foldl (fun s c => if s.rdB (.ma a) c Reg.Ma.RECUR_VALID then s.wr (.ma a) c Reg.Ma.RECUR_VALID 0 else s) u).arr a =
      u.arr a :=
    List.foldlRecOn l _ (motive := fun v : State => v.arr a = u.arr a) rfl fun v hv c _ => by
      split
      · exact hv
      · exact hv
  exact (hfold _ _).trans (State.arr_modArr_self ..)

theorem rd_clearRecur {l : List Nat} (c : Nat) (hc : c ∈ l) :
    (l.foldl (fun s c => if s.rdB (.ma a) c Reg.Ma.RECUR_VALID then s.wr (.ma a) c Reg.Ma.RECUR_VALID 0 else s) s).rdB (.ma a) c Reg.Ma.RECUR_VALID =
      false := by
  have hkeep {u : State} {d : Nat} (h : u.rdB (.ma a) c Reg.Ma.RECUR_VALID = false) :
      (if u.rdB (.ma a) d Reg.Ma.RECUR_VALID then u.wr (.ma a) d Reg.Ma.RECUR_VALID 0 else u).rdB (.ma a) c Reg.Ma.RECUR_VALID = false := by
    split
    · by_cases hcd : c = d
      · rw [hcd, State.rdB, State.rd_wr_self]
        rfl
      · rw [State.rdB, State.rd_wr_other _ _ (by simp only [regKey]; omega)]
        exact h
    · exact h
  induction l generalizing s with
  | nil => exact absurd hc (by simp)
  | cons d l ih =>
    rw [List.foldl_cons]
    by_cases hcd : c = d
    · refine List.foldlRecOn l _ (motive := fun v : State => v.rdB (.ma a) c Reg.Ma.RECUR_VALID = false) ?_ fun v hv e _ => hkeep hv
      subst hcd
      split
      · rw [State.rdB, State.rd_wr_self]
        rfl
      · next h => exact Bool.eq_false_iff.mpr h
    · exact ih ((List.mem_cons.mp hc).resolve_left hcd)

theorem countScrub_arr {n b : Nat} : (s.countScrub a n).arr b = s.arr b := State.arr_of_arrays (Frame.countScrub.same .arrays (by decide)) b

theorem rd_countScrub {q : Page} {b n : Nat} {f : Fld} (h : regKey q b f ≠ regKey .part a Reg.Part.SCRUB_NC)
    (h' : regKey q b f ≠ regKey .part a Reg.Part.SCRUB_NC_SAT) : (s.countScrub a n).rd q b f = s.rd q b f := State.rd_count_other h h'

/-- What a switch leaves of an array, its registers and memory. -/
structure Switched (s t : State) (a p : Nat) : Prop where
  turn : (t.arr a).turn = some p
  acc : (t.arr a).acc = []
  stats : (t.arr a).stats = []
  residues : (t.arr a).residues = []
  recur : ∀ c, c < 9 → t.rdB (.ma a) c Reg.Ma.RECUR_VALID = false
  switches : t.rd .part a Reg.Part.SWITCHES = (count31 (s.rd .part a Reg.Part.SWITCHES) 1).1
  mem : t.mem = s.mem

theorem switchTo_switches (ha : a ≤ 8) : Switched s ((s.giveTurn a p).switchTo a) a p := by
  have harr : ((s.giveTurn a p).switchTo a).arr a = { s.arr a with turn := some p, acc := [], stats := [], residues := [] } := by
    rw [State.switchTo, countScrub_arr, State.arr_of_arrays (State.count_arrays ..), scrubSwitch_arr, State.giveTurn, State.arr_modArr_self]
  have hma {c : Nat} {f : Fld} (hf : f.off < 0x1000 ∧ f.lsb < 32) : regKey (.ma a) c Reg.Ma.RECUR_VALID ≠ regKey .part a f := by
    simp only [regKey, Page.base]
    omega
  have hpart {f : Fld} (hf : f.off < 0x1000 ∧ f.lsb < 32) : regKey .part a Reg.Part.SWITCHES ≠ regKey (.ma a) 0 f := by
    simp only [regKey, Page.base]
    omega
  refine ⟨by rw [harr], by rw [harr], by rw [harr], by rw [harr], fun c hc => ?_, ?_, ?_⟩
  · rw [State.switchTo, State.rdB, rd_countScrub (hma (by decide)) (hma (by decide)), State.rd_count_other (hma (by decide)) (hma (by decide))]
    exact rd_clearRecur c (List.mem_range.mpr hc)
  · have hscrub : ((s.giveTurn a p).scrubSwitch a).rd .part a Reg.Part.SWITCHES = s.rd .part a Reg.Part.SWITCHES := by
      refine (RegsIn.scrubSwitch (by omega)).rd_eq ?_
      simp only [maKeys, keyPage, regKey, Page.base]
      omega
    rw [State.switchTo, rd_countScrub (regKey_ne_of_off (by decide) (by decide) (by decide)) (regKey_ne_of_off (by decide) (by decide) (by decide)),
      State.rd_count_self (by simp only [regKey]; omega) rfl, hscrub]
  · rw [State.switchTo, State.countScrub_mem, State.count_mem, State.scrubSwitch_mem]
    rfl

/-! ### Epochs -/

/-- What an epoch boundary does to one SHARED array: every charge is 0, and the staged weights are active. -/
def ArrayS.epoch (x : ArrayS) (members : List Nat) (w : Nat → Nat) : ArrayS :=
  { x with eP := members.foldl (fun t p => SMap.set 0 t p 0) x.eP, wAct := members.foldl (fun t p => SMap.set 0 t p (w p)) x.wAct }

/-- An epoch boundary at array `a`. -/
def State.epochAt (s : State) (a : Nat) : State :=
  match s.assignOf a with
  | .shared members => s.modArr a fun x => x.epoch members fun p => s.shareW p a
  | _ => s

theorem get_foldl_set {d : Nat} {f : Nat → Nat} {m : List (Nat × Nat)} (hp : p ∈ l) :
    SMap.get d (l.foldl (fun t q => SMap.set d t q (f q)) m) p = f p := by
  induction l generalizing m with
  | nil => exact absurd hp (by simp)
  | cons q l ih =>
    rw [List.foldl_cons]
    by_cases hl : p ∈ l
    · exact ih hl
    · obtain rfl := (List.mem_cons.mp hp).resolve_right hl
      refine List.foldlRecOn l _ (motive := fun t => SMap.get d t p = f p) (SMap.get_set_self ..) fun t ht r hr => ?_
      have hne : p ≠ r := fun h => hl (h.symm ▸ hr)
      exact (SMap.get_set_other _ _ _ _ hne).trans ht

theorem Frame.epochAt : Frame [.arrays] s (s.epochAt a) := by
  rw [State.epochAt]
  split
  · exact Frame.modArr
  · exact Frame.refl

theorem arr_epochAt_other (h : q ≠ a) : (s.epochAt a).arr q = s.arr q := by
  rw [State.epochAt]
  split
  · exact (State.arr_modArr ..).trans (if_neg h)
  · rfl

theorem epochAt_congr (hassign : t.assignOf a = s.assignOf a) (hshare : ∀ p, t.shareW p a = s.shareW p a) (harr : t.arr a = s.arr a) :
    (t.epochAt a).arr a = (s.epochAt a).arr a := by
  rw [State.epochAt, State.epochAt, hassign]
  split
  · rw [State.arr_modArr_self, State.arr_modArr_self, harr, funext hshare]
  · exact harr

/-- Each array meets the boundary once. -/
theorem arr_epochs (hl : l.Nodup) : (l.foldl State.epochAt s).arr a = if a ∈ l then (s.epochAt a).arr a else s.arr a := by
  induction l generalizing s with
  | nil => rfl
  | cons b l ih =>
    obtain ⟨hb, hl⟩ := List.nodup_cons.mp hl
    rw [List.foldl_cons, ih hl]
    by_cases hab : a = b
    · subst hab
      rw [if_neg hb, if_pos (by simp)]
    · have hframe : Frame [.arrays] s (s.epochAt b) := Frame.epochAt
      simp only [List.mem_cons, hab, false_or, arr_epochAt_other hab]
      rw [epochAt_congr (assignOf_of_assign (congrArg Prod.fst (hframe.same .assign (by decide))) a) (fun p => State.rd_of_regs (hframe.same .regs (by decide)) ..)
        (arr_epochAt_other hab)]

theorem epochAt_shared (h : s.assignOf a = .shared members) (hp : p ∈ members) :
    SMap.get 0 ((s.epochAt a).arr a).eP p = 0 ∧ SMap.get 0 ((s.epochAt a).arr a).wAct p = s.shareW p a := by
  rw [State.epochAt, h]
  dsimp only
  rw [State.arr_modArr_self]
  exact ⟨get_foldl_set hp, get_foldl_set hp⟩

theorem epochAt_notShared (h : ∀ members, s.assignOf a ≠ .shared members) : s.epochAt a = s := by
  rw [State.epochAt]
  split
  next m hm => exact absurd hm (h m)
  next => rfl

theorem epochBoundary_eq : exec .epochBoundary s = .next ((List.range 8).foldl State.epochAt { s with now := (s.now / 1000000 + 1) * 1000000 }) := rfl

/-! ### Weir windows -/

/-- The registers in which a window's end counts: the stall counters of the weirs and WEIR_WINDOWS. -/
def windowKeys (k : Nat) : Prop := keyPage k = 0x50 ∧ (keyOff k = 0x114 ∨ keyOff k = 0x118 ∨ keyOff k = 0x11C ∨ keyOff k = 0x124)

theorem windowKeys_part {b : Nat} {f : Fld} :
    (f.off = 0x114 ∨ f.off = 0x118 ∨ f.off = 0x11C ∨ f.off = 0x124) ∧ f.lsb < 32 → windowKeys (regKey .part b f) := by
  simp only [windowKeys, keyPage, keyOff, regKey, Page.base]
  omega

theorem weirRegs_cases (k : Nat) : weirRegs k = weirRegs 0 ∨ weirRegs k = weirRegs 1 ∨ weirRegs k = weirRegs 2 :=
  match k with
  | 0 => .inl rfl
  | 1 => .inr (.inl rfl)
  | _ + 2 => .inr (.inr rfl)

theorem RegsIn.countHeld : RegsIn windowKeys s s.countHeld := by
  unfold State.countHeld
  extract_lets s1 ps s2
  have h1 : RegsIn windowKeys s s1 := .foldl fun u h _ => by
    obtain hr | hr | hr := weirRegs_cases (h.1 % 3) <;> rw [hr] <;> exact .count (windowKeys_part (by decide)) (windowKeys_part (by decide))
  have h2 : RegsIn windowKeys s1 s2 := .foldl fun u p _ => .wr (windowKeys_part (by decide))
  exact (h1.trans h2).trans (.of_regs rfl)

theorem rd_countHeld {f : Fld} (hf : (f.off = 0x108 ∨ f.off = 0x10C ∨ f.off = 0x110) ∧ f.lsb < 32) : s.countHeld.rd .part p f = s.rd .part p f := by
  refine RegsIn.countHeld.rd_eq ?_
  simp only [windowKeys, keyPage, keyOff, regKey, Page.base]
  omega

/-- A window opens at weir `k`. -/
def State.openWindow (s : State) (k : Nat) : State :=
  { s with parts := { s.parts with tokens := SMap.set 0xFFFF s.parts.tokens k (s.rd .part (k / 3) (weirRegs (k % 3)).2.2.1),
                                   budget := SMap.set 0xFFFF s.parts.budget k (s.rd .part (k / 3) (weirRegs (k % 3)).2.2.1),
                                   weirEn := SMap.set false s.parts.weirEn k (s.rdB .part (k / 3) (weirRegs (k % 3)).2.2.2) } }

/-- The windows of the first `n` weirs are open in t. -/
structure WindowsOpen (s t : State) (n : Nat) : Prop where
  tokens : ∀ k < n, SMap.get 0xFFFF t.parts.tokens k = (s.rd .part (k / 3) (weirRegs (k % 3)).2.2.1 : Nat)
  enable : ∀ k < n, SMap.get false t.parts.weirEn k = s.rdB .part (k / 3) (weirRegs (k % 3)).2.2.2
  regs : t.regs = s.regs
  held : t.parts.held = s.parts.held
  assign : t.parts.assign = s.parts.assign
  heldTlps : t.ports.heldTlps = s.ports.heldTlps
  mem : t.mem = s.mem
  now : t.now = s.now

theorem windowsOpen (n : Nat) : WindowsOpen s ((List.range n).foldl State.openWindow s) n := by
  induction n with
  | zero => exact ⟨by simp, by simp, rfl, rfl, rfl, rfl, rfl, rfl⟩
  | succ n ih =>
    rw [List.range_succ, List.foldl_concat]
    refine ⟨fun k hk => ?_, fun k hk => ?_, ih.regs, ih.held, ih.assign, ih.heldTlps, ih.mem, ih.now⟩
    · by_cases hkn : k = n
      · subst hkn
        exact (SMap.get_set_self ..).trans (congrArg _ (State.rd_of_regs ih.regs ..))
      · exact (SMap.get_set_other _ _ _ _ hkn).trans (ih.tokens k (by omega))
    · by_cases hkn : k = n
      · subst hkn
        exact (SMap.get_set_self ..).trans (congrArg (· != 0) (State.rd_of_regs ih.regs ..))
      · exact (SMap.get_set_other _ _ _ _ hkn).trans (ih.enable k (by omega))

theorem releaseTlps_of_none (h : s.ports.heldTlps = []) : s.releaseTlps = { s with ports := { s.ports with heldTlps := [] } } := by
  rw [State.releaseTlps, h]
  rfl

theorem weirWindowStart_eq : exec .weirWindowStart s =
    .next ((List.range 24).foldl State.openWindow (State.countHeld { s with now := (s.now / 1000 + 1) * 1000 })).releaseTlps := rfl

theorem weirRegs_staged (k : Nat) : (((weirRegs k).2.2.1.off = 0x108 ∨ (weirRegs k).2.2.1.off = 0x10C ∨ (weirRegs k).2.2.1.off = 0x110) ∧
    (weirRegs k).2.2.1.lsb < 32) ∧ ((weirRegs k).2.2.2.off = 0x108 ∨ (weirRegs k).2.2.2.off = 0x10C ∨ (weirRegs k).2.2.2.off = 0x110) ∧
    (weirRegs k).2.2.2.lsb < 32 := by
  obtain hr | hr | hr := weirRegs_cases k <;> rw [hr] <;> decide

/-- What the start of a window leaves where no outbound TLP waits for it. -/
structure WindowStarted (s t : State) : Prop where
  weirs : ∀ p k, p < 8 → k < 3 → t.tokens p k = (s.rd .part p (weirRegs k).2.2.1 : Nat) ∧
    SMap.get false t.parts.weirEn (p * 3 + k) = s.rdB .part p (weirRegs k).2.2.2
  held : t.parts.held = []
  assign : t.parts.assign = s.parts.assign
  mem : t.mem = s.mem
  now : t.now = s.now

theorem windowStart_leaves (hheld : s.ports.heldTlps = []) : WindowStarted s ((List.range 24).foldl State.openWindow s.countHeld).releaseTlps := by
  have hcount : Frame [.regs, .weirs] s s.countHeld := Frame.countHeld
  have hopen := windowsOpen (s := s.countHeld) 24
  have hcleared : s.countHeld.parts.held = [] := rfl
  have hstaged (p : Nat) {f : Fld} (hf : (f.off = 0x108 ∨ f.off = 0x10C ∨ f.off = 0x110) ∧ f.lsb < 32) : s.countHeld.rd .part p f = s.rd .part p f :=
    rd_countHeld hf
  generalize s.countHeld = u at *
  generalize (List.range 24).foldl State.openWindow u = t at *
  rw [releaseTlps_of_none (hopen.heldTlps.trans ((congrArg Prod.snd (hcount.same .outbound (by decide))).trans hheld))]
  refine ⟨fun p k hp hk => ⟨(hopen.tokens _ (by omega)).trans ?_, (hopen.enable _ (by omega)).trans ?_⟩, hopen.held.trans hcleared,
    hopen.assign.trans (congrArg Prod.fst (hcount.same .assign (by decide))), hopen.mem.trans (hcount.same .mem (by decide)),
    hopen.now.trans (hcount.same .now (by decide))⟩
  · rw [show (p * 3 + k) / 3 = p by omega, show (p * 3 + k) % 3 = k by omega, hstaged p (weirRegs_staged k).1]
  · rw [show (p * 3 + k) / 3 = p by omega, show (p * 3 + k) % 3 = k by omega, State.rdB, hstaged p (weirRegs_staged k).2]
    rfl

end

/-- Settles O17: the turn is given, and a switch scrubs. -/
theorem arbiterChooses : Obligations.ArbiterChooses := by
  intro s a p members running ha hshared hmop hturn hon hrun hopen hp
  have hexec := arbiterChoice_eq hshared hmop hturn hon hrun hopen hp
  refine ⟨fun hlast => hexec.trans ?_, fun q hq hne => ?_⟩
  · obtain h | h := hlast <;> rw [h]
    · rfl
    · exact congrArg Host.Outcome.next (if_pos rfl)
  · rw [hq] at hexec
    have hswitch := switchTo_switches (s := s) (p := p) ha
    exact ⟨_, hexec.trans (congrArg Host.Outcome.next (if_neg hne)), hswitch.turn, hswitch.acc, hswitch.stats, hswitch.residues, hswitch.recur,
      hswitch.switches, hswitch.mem⟩

/-- Settles O18: each array and each weir meets its boundary once. -/
theorem epochsAndWindows : Obligations.EpochsAndWindows := by
  refine ⟨fun s => ⟨_, epochBoundary_eq, ?_⟩, fun s hheld => ⟨_, weirWindowStart_eq, ?_⟩⟩
  · have hframe {u : State} : Frame [.arrays] u ((List.range 8).foldl State.epochAt u) := .foldl fun _ _ => Frame.epochAt
    refine ⟨fun a members p ha hshared hp => ?_, fun a hnone => ?_, hframe.same .regs (by decide), hframe.same .mem (by decide), ?_, ?_⟩
    · rw [arr_epochs List.nodup_range, if_pos (List.mem_range.mpr ha)]
      exact epochAt_shared hshared hp
    · rw [arr_epochs List.nodup_range, epochAt_notShared (s := { s with now := (s.now / 1000000 + 1) * 1000000 }) hnone]
      exact ite_self _
    · rw [show State.now _ = _ from hframe.same .now (by decide)]
      exact Nat.mul_mod_left ..
    · rw [show State.now _ = _ from hframe.same .now (by decide)]
      show s.now < (s.now / 1000000 + 1) * 1000000
      omega
  · have hwindow := windowStart_leaves (s := { s with now := (s.now / 1000 + 1) * 1000 }) hheld
    refine ⟨hwindow.weirs, hwindow.held, hwindow.assign, hwindow.mem, ?_, ?_⟩
    · rw [hwindow.now]
      exact Nat.mul_mod_left ..
    · rw [hwindow.now]
      show s.now < (s.now / 1000 + 1) * 1000
      omega

end Sys2Proof.Machine
end

section
/-! The start of an operation that nothing holds back, and what a run leaves (R88, R94, R95). -/

namespace Sys2Proof.Machine

set_option Elab.async false

section
variable {s t : State} {a b ctx op fault ac : Nat} {m : MEnv} {r own : MRes} {e : MopEnv} {mine : Desc → Bool} {body : State → MEnv → State}

/-! ### The start -/

theorem waitGate_of_noWait {d : Desc} (h : d.waitEn = false) : s.waitGate a ctx d = (s, true) := by
  unfold State.waitGate
  rw [h]
  rfl

theorem menv_chain {d : Desc} (h : d.gang = 0) : (s.menv a ctx d).chain = [a] := by
  unfold State.menv
  extract_lets m
  have hm : m.chain = [a] := if_pos h
  split
  · split
    · exact hm
    · exact hm
  · exact hm

theorem menv_d {d : Desc} : (s.menv a ctx d).d = d := by
  unfold State.menv
  extract_lets m
  split
  · split <;> rfl
  · rfl

theorem menv_ctx {d : Desc} : (s.menv a ctx d).ctx = ctx := by
  unfold State.menv
  extract_lets m
  split
  · split <;> rfl
  · rfl

theorem menv_a {d : Desc} : (s.menv a ctx d).a = a := by
  unfold State.menv
  extract_lets m
  split
  · split <;> rfl
  · rfl

/-- A ready operation runs its body at once. -/
theorem startMop_of_ready (h : MacroReady s a ctx op) (hmine : mine (s.descAt a ctx) = true) :
    s.startMop a mine body = body s (s.macroAt a ctx) := by
  obtain ⟨-, hstart, -, -, hwait, hgang, htally, hcheck, -, hon⟩ := h
  have hchain : (s.macroAt a ctx).chain.length = 1 := by rw [menv_chain hgang]; rfl
  rw [State.startMop, hstart]
  dsimp only
  rw [hmine, if_neg (by simp), htally, if_neg (by decide), waitGate_of_noWait hwait]
  dsimp only
  rw [hchain, if_neg (by decide), if_neg (by simp), hcheck]
  dsimp only
  rw [State.wakeAll_of_allOn hon]
  rfl

/-! ### The end of a run -/

theorem undefRun_of_clear (h : s.overlaps m = false) : s.undefRun m r = r := by
  rw [State.undefRun, h]
  rfl

theorem storeErrors_arrays (hfault : fault ≠ 0x3D) : (s.storeErrors b e fault).arrays = s.arrays := by
  have hcorr {p : Page} : (if e.corr = 0 then s else s.errCount p 0 0 e.corr).arrays = s.arrays := by
    split
    · rfl
    · exact State.errCount_arrays ..
  unfold State.storeErrors
  extract_lets p s1 s2
  have h1 : s1.arrays = s.arrays := hcorr
  clear_value s1
  split
  · rw [if_pos hfault]
    exact h1
  · exact h1

/-- What a member of a run that met no fault leaves in flight. -/
theorem endMember_mop : ∃ y, ((s.endMember m b e r own 0 ac none).arr b).mop = some y ∧ y.ctx = m.ctx ∧ y.opcode = m.d.op ∧ y.tag = m.d.tag ∧
    y.fault = 0 ∧ y.operand = opNone ∧ y.satCnt = r.sat ∧ y.flushCnt = r.flush ∧ y.nOut = r.nOut ∧ y.replays = own.replays := by
  unfold State.endMember
  extract_lets p part k cnt s0 s1 missed mine s2 old mop s3 s4 s5
  have h4 : s4.arrays = s3.arrays := by
    unfold s4
    split
    · rfl
    · split <;> rfl
  have h5 : s5.arrays = s3.arrays := (storeErrors_arrays (by decide)).trans h4
  rw [if_neg (by simp), State.arr_of_arrays h5]
  unfold s3
  rw [State.putMop, State.arr_modArr_self]
  exact ⟨_, rfl, rfl, rfl, rfl, rfl, rfl, rfl, rfl, rfl, rfl⟩

theorem undefRun_fault : (s.undefRun m r).fault = r.fault := by
  unfold State.undefRun
  split <;> rfl

/-- A run on one array that met no fault ends on that array alone. -/
theorem endRun_alone {alone : MopEnv → MRes} (hfault : r.fault = 0) : ∃ n ac, s.endRun m [(b, e)] r alone =
    State.endMember { s.putOut (s.ctxPart m.a m.ctx) (s.undefRun m r).out with free := n } m b e (s.undefRun m r) (s.undefRun m r) 0 ac none := by
  have hend : (s.undefRun m r).fault = 0 := undefRun_fault.trans hfault
  unfold State.endRun
  extract_lets part r' s1 s2
  have hr : r' = s.undefRun m r := rfl
  clear_value r'
  subst hr
  rw [hend]
  split
  next s3 f crc h3 =>
  have h3 : (s2, 0, none) = (s3, f, crc) := by
    rw [← h3]
    split <;> rfl
  obtain ⟨rfl, rfl, rfl⟩ := Prod.mk.inj h3 |>.imp id Prod.mk.inj
  split
  next ac s4 h4 =>
  have h4 : ∃ n, s4 = { s1 with free := n } := by
    split at h4 <;> obtain ⟨-, rfl⟩ := Prod.mk.inj h4 <;> exact ⟨_, rfl⟩
  obtain ⟨n, rfl⟩ := h4
  exact ⟨n, ac, rfl⟩

/-- What a run on one array leaves in flight where it met no fault. -/
theorem endRun_mop {alone : MopEnv → MRes} (hfault : r.fault = 0) : ∃ y, ((s.endRun m [(b, e)] r alone).arr b).mop = some y ∧
    y.satCnt = (s.undefRun m r).sat ∧ y.flushCnt = (s.undefRun m r).flush := by
  obtain ⟨n, ac, heq⟩ := endRun_alone (s := s) (m := m) (b := b) (e := e) (alone := alone) hfault
  obtain ⟨y, hy, -, -, -, -, -, hsat, hflush, -⟩ :=
    endMember_mop (s := { s.putOut (s.ctxPart m.a m.ctx) (s.undefRun m r).out with free := n }) (b := b) (ac := ac) (m := m)
      (r := s.undefRun m r) (own := s.undefRun m r) (e := e)
  exact ⟨y, (congrArg (fun u : State => (u.arr b).mop) heq).trans hy, hsat, hflush⟩

/-- Where tensors overlap the counts are free values. -/
theorem undefRun_of_overlap (h : s.overlaps m = true) : (s.undefRun m r).sat = Config.freeNat (s.free + r.frees + 3) ∧
    (s.undefRun m r).flush = Config.freeNat (s.free + r.frees + 4) := by
  rw [State.undefRun, h]
  exact ⟨rfl, rfl⟩

/-- A move that stands ready runs on what its start leaves. -/
theorem moveConvert_of_ready (h : MacroReady s a ctx 0x05) : exec (.moveConvert a e) s =
    .next ((s.moveStart (s.macroAt a ctx) e).endRun (s.macroAt a ctx) [(a, s.moveEnv (s.macroAt a ctx) e)]
      ((s.moveStart (s.macroAt a ctx) e).runMove (s.macroAt a ctx) (s.moveEnv (s.macroAt a ctx) e))
      fun e' => (s.moveStart (s.macroAt a ctx) e).runMove (s.macroAt a ctx) e') := by
  obtain ⟨-, -, hop, -⟩ := id h
  exact congrArg Host.Outcome.next (startMop_of_ready h (by rw [hop]; rfl))

/-! ### A move whose tensors come to overlap when a lost cistern copy is dropped -/

/-- Rows at the end of the object's first page and at the start of its second. -/
def moveIn : TD := { obj := 1, fmt := 0xE, ndim := 2, offset := 65472, d0 := 1, d1 := 2, s1 := 64, s2 := 128, s3 := 128 }

/-- Rows at the start of the object's first page. -/
def moveOut : TD := { obj := 1, fmt := 7, ndim := 2, offset := 0, d0 := 1, d1 := 2, s1 := 64, s2 := 128, s3 := 128 }

/-- A move between two pages with one home: the first holds its copy in cistern frame 3, the second none. Its first element saturates. The next
free value is number `n`. -/
def moveState (n : Nat) : State :=
  let first := 1 + 2 * 2 + 64 + 128 + 256 + 2048 + 3 * 4096 + 5 * 2 ^ 25 + 2 * 2 ^ 45
  let second := 1 + 2 * 2 + 64 + 2048 + 5 * 2 ^ 25
  let s := Tests.macroState 0x05 1 3 0 0 0 []
  State.store { s with
    free := n
    tier := { s.tier with ott := [(1, first), (2, second)] }
    images := [{ arrays := 1, bind := [0], tensors := [{}, moveIn, {}, moveOut], objs := [{ ott := 1, pages := 2, wr := true }] }] }
    (wellBase + 5 * pageBytes + 65472) [0xE8, 3]

/-- The first word of the first page's copy is lost. -/
def moveLoss : MopEnv := { mism := [], ue := some (0, 3 * 8192), corr := 0, slice := some 0 }

/-- What the run of the move starts from, and its results. -/
def moveBegun (n : Nat) : State := (moveState n).moveStart ((moveState n).macroAt 0 0) moveLoss
def moveRun (n : Nat) : MRes := (moveBegun n).runMove ((moveState n).macroAt 0 0) ((moveState n).moveEnv ((moveState n).macroAt 0 0) moveLoss)

theorem moveState_ready : ∀ n ∈ [0, 1], MacroReady (moveState n) 0 0 0x05 := by decide +kernel

theorem moveBegun_overlaps : ∀ n ∈ [0, 1], (moveBegun n).overlaps ((moveState n).macroAt 0 0) = true ∧ (moveBegun n).free = n := by decide +kernel

theorem moveRun_counts : ∀ n ∈ [0, 1], (moveRun n).fault = 0 ∧ (moveRun n).sat = 1 ∧ (moveRun n).flush = 0 ∧ (moveRun n).frees = 0 := by
  decide +kernel

end

/-- Refutes O7: where MOVE/CONVERT meets an uncorrectable word of a RES copy the copy is dropped before the run, and the page is read and written
at its home again; an output that overlapped nothing may then overlap its input in a second page of that home, and the run's counts are free
values (log 2), not those of its meaning. -/
theorem not_tensorOpsLeaveTheirRun : ¬ Obligations.TensorOpsLeaveTheirRun := by
  intro h
  have hcounts (n : Nat) (hn : n ∈ [0, 1]) : Config.freeNat (n + 3) = 1 ∧ Config.freeNat (n + 4) = 0 := by
    obtain ⟨-, -, -, -, hmove, -⟩ := h (moveState n) 0 0 moveLoss
    obtain ⟨hfault, hsat, hflush, hfrees⟩ := moveRun_counts n hn
    obtain ⟨hover, hfree⟩ := moveBegun_overlaps n hn
    obtain ⟨t, ht, ⟨x, hx, -, -, -, -, -, hxsat, hxflush, -⟩, -⟩ := hmove (moveState_ready n hn) (moveBegun n) _ rfl rfl hfault
    obtain ⟨hfsat, hfflush⟩ := undefRun_of_overlap (r := moveRun n) hover
    obtain rfl := Host.Outcome.next.inj ((moveConvert_of_ready (moveState_ready n hn)).symm.trans ht)
    obtain ⟨y, hy, hysat, hyflush⟩ := endRun_mop (s := moveBegun n) (b := 0) (r := moveRun n) hfault
    obtain rfl := Option.some.inj (hx.symm.trans hy)
    rw [hfree, hfrees] at hfsat hfflush
    exact ⟨hfsat.symm.trans (hysat.symm.trans (hxsat.trans hsat)), hfflush.symm.trans (hyflush.symm.trans (hxflush.trans hflush))⟩
  exact absurd ((hcounts 0 (by simp)).2.symm.trans (hcounts 1 (by simp)).1) (by decide)

end Sys2Proof.Machine
end

section
/-! The operations TALLY, LIFT, SEAL and DOZE (R153, R156, R232 to R238, R315 to R317, R327). -/

namespace Sys2Proof.Machine

set_option Elab.async false

section
variable {s t u : State} {a b ctx i mode : Nat} {m : MEnv} {d : Desc}

/-! ### TALLY -/

theorem tallySignalOp_of_ready (h : MacroReady s a ctx 0x20) (hsub : (s.descAt a ctx).sub ≠ 1) : exec (.tallySignalOp a) s =
    .next (s.putMop a ctx { s.mopOf a ctx (s.descAt a ctx) with
      ac := 16, opSig := some (s.physTally a ctx ((s.descAt a ctx).os 0 0 13), max 1 ((s.descAt a ctx).os 0 16 16)) }) := by
  obtain ⟨-, -, hop, -⟩ := id h
  refine congrArg Host.Outcome.next ((startMop_of_ready h (by rw [hop]; simpa using hsub)).trans ?_)
  rw [menv_d, menv_ctx]

theorem tallyWaitOp_of_ready (h : MacroReady s a ctx 0x20) (hsub : (s.descAt a ctx).sub = 1) :
    ((s.arr a).released.contains ctx = true →
      exec (.tallyWaitOp a) s = .next (s.putMop a ctx { s.mopOf a ctx (s.descAt a ctx) with ac := 16 })) ∧
    (i = s.physTally a ctx ((s.descAt a ctx).os 0 0 13) → (s.arr a).released.contains ctx = false →
      (s.waiters.any fun w => w.arr == a && !w.dma && w.ctx == ctx) = false → ((s.beginWait a false ctx i).arr a).released.contains ctx = false →
      exec (.tallyWaitOp a) s = .next (s.beginWait a false ctx i)) := by
  obtain ⟨-, -, hop, -⟩ := id h
  refine ⟨fun hrel => congrArg Host.Outcome.next ((startMop_of_ready h (by rw [hop, hsub]; rfl)).trans ?_),
    fun hi hrel hwaits hkept => congrArg Host.Outcome.next ((startMop_of_ready h (by rw [hop, hsub]; rfl)).trans ?_)⟩
  · rw [menv_d, menv_ctx, hrel, if_pos rfl]
  · rw [menv_d, menv_ctx, ← hi]
    dsimp only
    rw [hrel, if_neg (by decide), hwaits, if_neg (by decide), hkept, if_neg (by decide)]

/-- A tally whose COUNT lies below its THRESH releases nothing. -/
theorem dueOf_of_below (h : (s.tally i).count < (s.tally i).thresh) : s.dueOf i = [] := by
  have hdue (n : Nat) : dueWaiters (s.tally i) n = 0 := by
    rw [dueWaiters, if_neg (show ¬ (s.tally i).thresh ≤ (s.tally i).count by omega), if_neg (show (s.tally i).thresh ≠ 0 by omega),
      Nat.div_eq_of_lt h, Nat.min_zero, ite_self]
  rw [State.dueOf, hdue, List.take_zero]

theorem released_count_le (x : Tally) {n : Nat} : (x.released n).count ≤ x.count := by
  rw [Tally.released]
  dsimp only
  split
  · exact le_rfl
  · exact Nat.sub_le ..

/-- What a wait that begins on a tally below its THRESH leaves. -/
structure WaitBegun (s t : State) (a ctx i : Nat) : Prop where
  waiters : t.waiters = s.waiters ++ [Waiter.mk a false ctx i s.now]
  waiting : t.rd (.ma a) ctx Reg.Ma.WAITING = 1
  phys : t.rd (.ma a) ctx Reg.Ma.WAIT_PHYS = i % 2 ^ 13
  mem : t.mem = s.mem
  arrays : t.arrays = s.arrays

theorem beginWait_begins (h : (s.tally i).count < (s.tally i).thresh) : WaitBegun s (s.beginWait a false ctx i) a ctx i := by
  unfold State.beginWait
  extract_lets s1 s2
  have hs2 : s2 = (s1.wr (.ma a) ctx Reg.Ma.WAITING 1).wr (.ma a) ctx Reg.Ma.WAIT_PHYS i := if_neg (by decide)
  clear_value s2
  have htally : s2.tally i = s.tally i := by rw [hs2]; rfl
  rw [State.evalRelease_eq, dueOf_of_below (htally ▸ h), List.foldl_nil]
  have hframe : Frame [.tallies] s2 (if (s2.tally i).level then s2 else s2.setTally i ((s2.tally i).released (s2.waitersOf i).length)) :=
    .ite .refl (.setTally fun hi => (released_count_le _).trans (hi.tally_le i))
  refine ⟨(hframe.same .waiters (by decide)).trans ?_, (State.rd_of_regs (hframe.same .regs (by decide)) ..).trans ?_,
    (State.rd_of_regs (hframe.same .regs (by decide)) ..).trans ?_, (hframe.same .mem (by decide)).trans ?_, (hframe.same .arrays (by decide)).trans ?_⟩
  · rw [hs2]
    rfl
  · have hne : regKey (.ma a) ctx Reg.Ma.WAITING ≠ regKey (.ma a) ctx Reg.Ma.WAIT_PHYS := by
      simp only [regKey]
      omega
    rw [hs2, State.rd_wr_other _ _ hne, State.rd_wr_self]
    rfl
  · rw [hs2, State.rd_wr_self]
  · rw [hs2]
    rfl
  · rw [hs2]
    rfl

/-! ### LIFT: the scores -/

theorem length_cellsAt {t : TD} {o i1 i2 i3 : Nat} (h : t.d0 ≤ 64) : (s.cellsAt m t o i1 i2 i3).length ≤ t.d0 := by
  have hrow (ro : Nat) : (s.rowCells t o ro).length = t.d0 := by
    unfold State.rowCells
    split <;> simp
  unfold State.cellsAt
  split
  · simp only [State.wcmpRow, List.length_flatMap, List.length_map, List.length_range]
    have hblocks : ceilDiv t.d0 256 ≤ 1 := by
      simp only [ceilDiv]
      omega
    obtain hn | hn : ceilDiv t.d0 256 = 0 ∨ ceilDiv t.d0 256 = 1 := by omega
    · simp [hn]
    · simp [hn]
  · unfold State.markedRow
    split
    · exact (hrow _).le
    · exact ((List.length_map ..).trans (List.length_zipIdx.trans (hrow _))).le

theorem length_foldl_step {α β γ : Type} {step : List β × γ → α → List β × γ} (h : ∀ acc c, (step acc c).1.length = acc.1.length + 1) (l : List α)
    (acc : List β × γ) : (l.foldl step acc).1.length = acc.1.length + l.length := by
  induction l generalizing acc with
  | nil => rfl
  | cons c l ih =>
    rw [List.foldl_cons, ih, h, List.length_cons]
    omega

theorem length_slRow {sl : TD} {o rows r : Nat} {cells : List Cell} : (s.slRow sl o rows r cells).1.length = cells.length := by
  unfold State.slRow
  extract_lets e cnt step
  have hstep (acc : List Elem × Nat × Nat × Option (Nat × Nat)) (c : Cell) : (step acc c).1.length = acc.1.length + 1 := by
    unfold step
    dsimp only
    split <;> rfl
  have hlen := length_foldl_step hstep cells ([], 0, 0, none)
  dsimp only
  rw [List.length_reverse, hlen]
  exact Nat.zero_add _

/-- The port delivers one element for each cell of a row. -/
theorem length_port_row {t : TD} {cells : List Cell} : (nth [] (s.port m t [cells]).els 0).length = cells.length := by
  unfold State.port
  extract_lets own
  split
  · exact List.length_map ..
  · exact length_slRow

/-! ### LIFT: what it reads and raises -/

/-- What the reads of a LIFT leave before its scores are compared: stamps, corrected words and counters. -/
def State.liftRead (s : State) (a ctx : Nat) (m : MEnv) (t : TD) : State :=
  ((s.stampAll t.pages).upsetEnv (s.spans t)).1.addCnt a ctx (s.port m t [s.cellsAt m t t.obj 0 0 0]).cnt

/-- The scores of a LIFT. -/
def State.liftScores (s : State) (m : MEnv) (t : TD) : List Int :=
  (nth [] (s.port m t [s.cellsAt m t t.obj 0 0 0]).els 0).map fun e => rhe e.v - (if t.fmt = 0xE then 0 else m.d.za)

/-- The raises of a LIFT. -/
def State.raiseScores (s : State) (a tb : Nat) (l : List (Nat × Int)) : State :=
  l.foldl (fun s x => s.raise
    { record := s.rd .liftPage 0 (Reg.Lift.THR_RECORD x.1), score := x.2, index := x.1 - tb, origin := a, sidx := s.audio.dueSidx }) s

theorem upsetEnv_of_corrected {l : List (Nat × Nat)} (h : ∀ x ∈ s.struck l, x.2 = false) : (s.upsetEnv l).2.ue = none := by
  have hbad : (s.struck l).filter (fun x => x.2) = [] := List.filter_eq_nil_iff.mpr fun x hx => by simp [h x hx]
  unfold State.upsetEnv State.meetWords
  dsimp only
  rw [hbad]
  rfl

theorem resError_of_noLoss {l : List Nat} {e : MopEnv} (h : e.ue = none) : s.resError l e = (s, e) := by
  unfold State.resError
  rw [h]
  split
  next hue => exact absurd hue (by simp)
  next => rfl

/-- A LIFT that stands ready and meets no fault raises the records of the scores that it chooses. -/
theorem lift_of_ready {t : TD} {chosen : List (Nat × Int)} (h : MacroReady s a ctx 0x21) (ht : t = (s.macroAt a ctx).tdD (s.descAt a ctx).tdA)
    (hport : (s.port (s.macroAt a ctx) t [s.cellsAt (s.macroAt a ctx) t t.obj 0 0 0]).faults = [])
    (hstruck : ∀ x ∈ s.struck (s.spans t), x.2 = false)
    (hchosen : chosen = if (s.descAt a ctx).os 0 7 1 = 1 then
        ((s.liftRead a ctx (s.macroAt a ctx) t).passing ((s.descAt a ctx).os 0 0 7) (s.liftScores (s.macroAt a ctx) t)).take 1
      else (s.liftRead a ctx (s.macroAt a ctx) t).passing ((s.descAt a ctx).os 0 0 7) (s.liftScores (s.macroAt a ctx) t)) :
    exec (.lift a) s = .next (State.putMop ((s.liftRead a ctx (s.macroAt a ctx) t).raiseScores a ((s.descAt a ctx).os 0 0 7) chosen) a ctx
      { ((s.liftRead a ctx (s.macroAt a ctx) t).raiseScores a ((s.descAt a ctx).os 0 0 7) chosen).mopOf a ctx (s.descAt a ctx) with
        ac := 16 + t.d0 }) := by
  obtain ⟨-, -, hop, -⟩ := id h
  have hue : ((s.stampAll t.pages).upsetEnv (s.spans t)).2.ue = none := by
    refine upsetEnv_of_corrected fun x hx => hstruck x ?_
    have hupsets : (s.stampAll t.pages).upsets = s.upsets := Frame.stampAll.same .upsets (by decide)
    rwa [State.struck, hupsets] at hx
  refine congrArg Host.Outcome.next ((startMop_of_ready h (by rw [hop]; rfl)).trans ?_)
  subst hchosen
  unfold State.liftRead State.liftScores State.raiseScores
  rw [menv_d]
  dsimp only
  rw [← ht, resError_of_noLoss hue, hport, hue, menv_ctx]
  rfl

/-- What the raises of a LIFT leave. -/
structure ScoresRaised (s t : State) (a tb : Nat) (l : List (Nat × Int)) : Prop where
  count : t.power.raises.length = s.power.raises.length + l.length
  raised : ∀ h ∈ l, ∃ r ∈ t.power.raises, r.record = s.rd .liftPage 0 (Reg.Lift.THR_RECORD h.1) ∧ r.score = h.2 ∧ r.index = h.1 - tb ∧
    r.origin = a ∧ r.ts = s.now
  kept : ∀ r ∈ s.power.raises, r ∈ t.power.raises

theorem raiseScores_raises {tb : Nat} {l : List (Nat × Int)} : ScoresRaised s (s.raiseScores a tb l) a tb l := by
  induction l generalizing s with
  | nil => exact ⟨rfl, by simp, fun _ hr => hr⟩
  | cons x l ih =>
    have h := ih (s := s.raise { record := s.rd .liftPage 0 (Reg.Lift.THR_RECORD x.1), score := x.2, index := x.1 - tb, origin := a,
                                 sidx := s.audio.dueSidx })
    refine ⟨h.count.trans ?_, fun y hy => ?_, fun r hr => h.kept r (mem_insRaise.mpr (.inr hr))⟩
    · rw [show (State.power _).raises.length = s.power.raises.length + 1 from length_insRaise, List.length_cons]
      omega
    · obtain rfl | hy := List.mem_cons.mp hy
      · exact ⟨_, h.kept _ (mem_insRaise.mpr (.inl rfl)), rfl, rfl, rfl, rfl, rfl⟩
      · exact h.raised y hy

theorem Frame.raiseScores {tb : Nat} {l : List (Nat × Int)} : Frame [.raises] s (s.raiseScores a tb l) := foldl fun _ _ => raise

/-- The reads of a LIFT leave the LIFT page alone. -/
theorem liftRead_keeps {t : TD} (ha : a ≤ 8) : RegsIn (fun k => keyPage k ≠ 0x98) s (s.liftRead a ctx m t) := by
  have hma {f : Fld} (hf : f.off < 0x1000 ∧ f.lsb < 32) : keyPage (regKey (.ma a) ctx f) ≠ 0x98 := by
    simp only [keyPage, regKey, Page.base]
    omega
  have hcount (u : State) {f g : Fld} (n : Nat) (hf : f.off < 0x1000 ∧ f.lsb < 32) (hg : g.off < 0x1000 ∧ g.lsb < 32) :
      RegsIn (fun k => keyPage k ≠ 0x98) u (u.count (.ma a) ctx f g n) := .count (hma hf) (hma hg)
  have hadd (u : State) (c : Cnt) : RegsIn (fun k => keyPage k ≠ 0x98) u (u.addCnt a ctx c) :=
    (((RegsIn.ite .refl (hcount _ _ (by decide) (by decide))).trans (.ite .refl (hcount _ _ (by decide) (by decide)))).trans
      (.ite .refl (hcount _ _ (by decide) (by decide)))).trans (.ite .refl (hcount _ _ (by decide) (by decide)))
  have herr (u : State) (w : Nat) : RegsIn (fun k => keyPage k ≠ 0x98) u (u.errCount (errPage w) 0 0 1) := by
    have hkey {b : Nat} {f : Fld} (hf : f.off < 0x1000 ∧ f.lsb < 32) : keyPage (regKey (errPage w) b f) ≠ 0x98 := by
      unfold errPage
      split
      · simp only [keyPage, regKey, Page.base]
        omega
      · split
        · simp only [keyPage, regKey, Page.base]
          omega
        · split
          · simp only [keyPage, regKey, Page.base]
            omega
          · simp only [keyPage, regKey, Page.base]
            omega
    exact .errCount (hkey (by decide)) (hkey (by decide)) (hkey (by decide))
  have hstamp : RegsIn (fun k => keyPage k ≠ 0x98) s (s.stampAll t.pages) := .of_regs (Frame.stampAll.same .regs (by decide))
  have hmeet (u : State) (l : List (Nat × Nat)) : RegsIn (fun k => keyPage k ≠ 0x98) u (u.upsetEnv l).1 :=
    (RegsIn.of_regs rfl : RegsIn _ u { u with upsets := _ }).trans (.foldl fun _ _ _ => herr _ _)
  exact (hstamp.trans (hmeet _ _)).trans (hadd _ _)

theorem passing_congr {tb : Nat} {l : List Int} (h : RegsIn (fun k => keyPage k ≠ 0x98) s t) (hl : tb + l.length ≤ 128) :
    t.passing tb l = s.passing tb l := by
  have hrd {f : Fld} (hf : f.off < 0x1000 ∧ f.lsb < 32) : t.rd .liftPage 0 f = s.rd .liftPage 0 f := by
    refine h.rd_eq ?_
    simp only [keyPage, regKey, Page.base]
    omega
  refine List.filter_congr fun x hx => ?_
  obtain ⟨y, hy, rfl⟩ := List.mem_map.mp hx
  have hlt : y.2 < l.length := by
    obtain ⟨-, hlt, -⟩ := List.mem_zipIdx hy
    simpa using hlt
  dsimp only
  rw [State.rdB, State.rdB, hrd (by dsimp only; omega), hrd (by dsimp only; omega)]

theorem passing_lt {tb : Nat} {l : List Int} {x : Nat × Int} (hx : x ∈ s.passing tb l) : x.1 < tb + l.length := by
  obtain ⟨hx, -⟩ := List.mem_filter.mp hx
  obtain ⟨y, hy, rfl⟩ := List.mem_map.mp hx
  obtain ⟨-, hlt, -⟩ := List.mem_zipIdx hy
  dsimp only
  omega

/-! ### LIFT: the whole -/

theorem sysInput_of_checked (hop : opValid m.d.op = true) (h : s.checkDesc m = none) : m.sysInput = none := by
  unfold State.checkDesc at h
  extract_lets one opd l at h
  rw [if_pos hop, List.head?_eq_none_iff, List.filterMap_eq_nil_iff] at h
  refine h m.sysInput ?_
  unfold l
  simp only [List.mem_cons, true_or, or_true]

/-- The scores of a LIFT that passes its checks name thresholds of the LIFT page (R327). -/
theorem liftScores_fit (h : MacroReady s a ctx 0x21) :
    ((s.descAt a ctx).os 0 0 7) + (s.liftScores (s.macroAt a ctx) ((s.macroAt a ctx).tdD (s.descAt a ctx).tdA)).length ≤ 128 := by
  obtain ⟨-, -, hop, hvalid, -, -, -, hcheck, -⟩ := h
  have hinput := sysInput_of_checked (by rw [menv_d]; rwa [hop]) hcheck
  have hd : (s.macroAt a ctx).d = s.descAt a ctx := menv_d
  unfold MEnv.sysInput at hinput
  rw [hd, hop] at hinput
  extract_lets t at hinput
  rw [if_neg (by decide), if_pos rfl] at hinput
  have ht : t = (s.macroAt a ctx).tdD (s.descAt a ctx).tdA := rfl
  clear_value t
  subst ht
  split at hinput
  next hfit =>
    obtain ⟨-, hd0, -, -, -, hsum⟩ := hfit
    have hlen := length_cellsAt (s := s) (m := s.macroAt a ctx) (o := ((s.macroAt a ctx).tdD (s.descAt a ctx).tdA).obj) (i1 := 0) (i2 := 0) (i3 := 0) hd0
    rw [State.liftScores, List.length_map, length_port_row]
    omega
  next => exact absurd hinput (by simp)

end

/-- Settles O9: a TALLY that stands ready signals, goes on or waits. -/
theorem tallyMacroOps : Obligations.TallyMacroOps := by
  intro s a ctx h
  refine ⟨tallySignalOp_of_ready h, fun hsub => (tallyWaitOp_of_ready h hsub (i := 0)).1, fun i hi hsub hrel hwaits hbelow => ?_⟩
  have hbegun := beginWait_begins (a := a) (ctx := ctx) hbelow
  have harr := State.arr_of_arrays hbegun.arrays a
  exact ⟨_, (tallyWaitOp_of_ready h hsub).2 hi hrel hwaits (by rw [harr]; exact hrel), hbegun.waiters, hbegun.waiting, hbegun.phys, hbegun.mem,
    congrArg ArrayS.mop harr⟩

/-- Settles O10: the reads of a LIFT leave the thresholds, and each score that it chooses raises its record. -/
theorem liftRaisesItsRecords : Obligations.LiftRaisesItsRecords := by
  intro s a ctx d td hits h hd htd hport hstruck hhits
  have hmd : (s.macroAt a ctx).d = s.descAt a ctx := menv_d
  subst hd
  have hread : RegsIn (fun k => keyPage k ≠ 0x98) s (s.liftRead a ctx (s.macroAt a ctx) td) := liftRead_keeps h.1
  have hframe : Frame (.tierRest :: .upsets :: eventParts) s (s.liftRead a ctx (s.macroAt a ctx) td) :=
    ((Frame.refl.step .stampAll).step .upsetEnv).step .addCnt
  have hpass : (s.liftRead a ctx (s.macroAt a ctx) td).passing ((s.descAt a ctx).os 0 0 7) (s.liftScores (s.macroAt a ctx) td) = hits := by
    rw [passing_congr hread (by rw [htd]; exact liftScores_fit h), hhits, State.liftScores, hmd]
  have hexec := lift_of_ready h htd hport hstruck rfl
  rw [hpass] at hexec
  have hsub : (if (s.descAt a ctx).os 0 7 1 = 1 then hits.take 1 else hits) ⊆ hits := by
    split
    · exact List.take_subset ..
    · exact List.Subset.refl _
  generalize hc : (if (s.descAt a ctx).os 0 7 1 = 1 then hits.take 1 else hits) = chosen at hexec hsub
  have hraised := raiseScores_raises (s := s.liftRead a ctx (s.macroAt a ctx) td) (a := a) (tb := (s.descAt a ctx).os 0 0 7) (l := chosen)
  have hpower : (s.liftRead a ctx (s.macroAt a ctx) td).power = s.power := power_eq_of_frame hframe (by decide) (by decide) (by decide) (by decide)
  refine ⟨_, chosen, hexec, rfl, ⟨_, congrArg ArrayS.mop (State.arr_modArr_self ..), rfl, rfl, rfl⟩, ?_, fun x hx => ?_, ?_, ?_⟩
  · exact hraised.count.trans (by rw [hpower])
  · obtain ⟨r, hr, hrec, hscore, hindex, horigin, hts⟩ := hraised.raised x hx
    have hkey : keyPage (regKey .liftPage 0 (Reg.Lift.THR_RECORD x.1)) = 0x98 := by
      have hlt : x.1 < 128 := lt_of_lt_of_le (passing_lt (hpass.symm ▸ hsub hx)) (by rw [htd]; exact liftScores_fit h)
      simp only [keyPage, regKey, Page.base]
      omega
    exact ⟨r, hr, hrec.trans (hread.rd_eq (by rw [hkey]; decide)), hscore, hindex, horigin, hts.trans (hframe.same .now (by decide))⟩
  · exact ((Frame.refl.step .raiseScores |>.step .putMop : Frame [.raises, .arrays] _ _).same .doms (by decide)).trans (hframe.same .doms (by decide))
  · exact ((Frame.refl.step .raiseScores |>.step .putMop : Frame [.raises, .arrays] _ _).same .mem (by decide)).trans (hframe.same .mem (by decide))

end Sys2Proof.Machine
end

section
/-! SEAL and DOZE (R232 to R238, R315 to R317). -/

namespace Sys2Proof.Machine

set_option Elab.async false

section
variable {s t u : State} {a b ctx i mode : Nat} {m : MEnv} {d : Desc}

/-! ### SEAL -/

theorem unstallSeal_of_noWaiters (h : s.seals.waiters = []) : s.unstallSeal a = s := by
  rw [State.unstallSeal, h]
  rfl

theorem sealEntry_of_noWaiters (h : s.seals.waiters = []) (hroom : s.seals.ledger.length < 4096) : s.sealEntry a = true := by
  rw [State.sealEntry, h]
  simpa using hroom

theorem upsetEnv_of_noUpsets (h : s.upsets = []) (l : List (Nat × Nat)) :
    s.upsetEnv l = (s, { mism := [], corr := 0, slice := none, ue := none }) := by
  rw [State.upsetEnv, State.meetWords_of_struck (State.struck_of_noUpsets h l)]
  rfl

/-- What a SEAL hashes: the record's body. -/
def State.sealRecord (s : State) (m : MEnv) : List Byte :=
  sealBody m.img (m.d.tdAux != 0) (sha256 (if m.d.tdA = 0 then [] else s.sealBytes (m.tdD m.d.tdA)))
    (if m.d.tdAux = 0 then List.replicate 32 0 else sha256 (s.sealBytes (m.tdD m.d.tdAux)))

/-- The cycles of a SEAL. -/
def State.sealCost (s : State) (m : MEnv) (a : Nat) : Nat :=
  sealAc (if m.d.tdAux = 0 then 0 else (m.tdD m.d.tdAux).rows * (m.tdD m.d.tdAux).rowBytes) (if m.d.tdA = 0 then 0 else (m.tdD m.d.tdA).d1) (s.acMhz a)

/-- The pages that a SEAL reads. -/
def MEnv.sealPages (m : MEnv) : List Nat :=
  (if m.d.tdA = 0 then [] else (m.tdD m.d.tdA).pages) ++ (if m.d.tdAux = 0 then [] else (m.tdD m.d.tdAux).pages)

/-- A SEAL that stands ready, finds an entry and meets no fault appends its record. -/
theorem sealOp_of_ready (h : MacroReady s a ctx 0x22) (hsec : s.domOn 26 = true) (hwait : s.seals.waiters = [])
    (hroom : s.seals.ledger.length < 4096) (hbad : (s.stampAll (s.macroAt a ctx).sealPages).badFaults (s.macroAt a ctx) = [])
    (hupsets : s.upsets = []) : exec (.sealOp a) s = .next
      (let u := (State.appendSeal (s.stampAll (s.macroAt a ctx).sealPages)
          ((s.stampAll (s.macroAt a ctx).sealPages).sealRecord (s.macroAt a ctx)) ctx (logicalOf (s.macroAt a ctx).img a)
          (s.macroAt a ctx).d.tag).grantSeals
      u.putMop a ctx { u.mopOf a ctx (s.macroAt a ctx).d with
        ac := (s.stampAll (s.macroAt a ctx).sealPages).sealCost (s.macroAt a ctx) a }) := by
  obtain ⟨-, -, hop, -⟩ := id h
  have hstamped : (s.stampAll (s.macroAt a ctx).sealPages).upsets = [] := (Frame.stampAll.same .upsets (by decide) : _ = _).trans hupsets
  refine congrArg Host.Outcome.next ((startMop_of_ready h (by rw [hop]; rfl)).trans ?_)
  rw [State.wakeAll_of_allOn (by simpa using hsec)]
  dsimp only
  rw [if_neg (by decide), sealEntry_of_noWaiters hwait hroom, if_neg (by decide), unstallSeal_of_noWaiters hwait]
  unfold MEnv.sealPages at hbad hstamped
  rw [upsetEnv_of_noUpsets hstamped]
  dsimp only
  rw [resError_of_noLoss rfl]
  dsimp only
  rw [hbad, menv_ctx]
  rfl

theorem ott_congr (h : t.tier.ott = s.tier.ott) : t.ott = s.ott := by
  funext k
  rw [State.ott, State.ott, h]

theorem sealBytes_congr (hott : t.tier.ott = s.tier.ott) (hmem : t.mem = s.mem) (x : TD) : t.sealBytes x = s.sealBytes x := by
  have hobj : t.objBytes = s.objBytes := by
    funext o k n
    simp only [State.objBytes, State.objByte, ott_congr hott, State.byte_of_mem hmem]
  simp only [State.sealBytes, State.sealRow, hobj]

theorem sealRecord_congr (hott : t.tier.ott = s.tier.ott) (hmem : t.mem = s.mem) : t.sealRecord m = s.sealRecord m := by
  simp only [State.sealRecord, sealBytes_congr hott hmem]

theorem badFaults_congr (hott : t.tier.ott = s.tier.ott) : t.badFaults m = s.badFaults m := by
  simp only [State.badFaults, ott_congr hott]

/-- What the append of a record leaves. -/
structure Appended (s t : State) (r : List Byte) : Prop where
  ledger : t.seals.ledger = s.seals.ledger ++ [r]
  seq : t.seals.seq = (s.seals.seq + 1) % 2 ^ 32
  irq : IrqSet t .sealPage 0 0
  mem : t.mem = s.mem

/-- The ledger takes a record. -/
def State.addRecord (s : State) (r : List Byte) : State :=
  { s with seals := { s.seals with ledger := s.seals.ledger ++ [r], seq := (s.seals.seq + 1) % 2 ^ 32 } }

/-- A full ledger shows in IRQ_RAW. -/
def State.noteFull (s : State) : State := if 4096 ≤ s.seals.ledger.length then s.irq .sealPage none 1 else s

theorem noteFull_appended {r : List Byte} (h : Appended s t r) : Appended s t.noteFull.grantSeals r := by
  obtain ⟨hledger, hseq, hirq, hmem⟩ := h
  rw [State.noteFull]
  split
  · exact ⟨(congrArg SealS.ledger (State.irq_seals t .sealPage none 1)).trans hledger, (congrArg SealS.seq (State.irq_seals t .sealPage none 1)).trans hseq,
      hirq.irq_none (by decide) .sealPage 1, (State.irq_mem ..).trans hmem⟩
  · exact ⟨hledger, hseq, hirq, hmem⟩

theorem addRecord_appended {r : List Byte} : Appended s ((s.addRecord r).irq .sealPage none 0) r :=
  ⟨congrArg SealS.ledger (State.irq_seals ..), congrArg SealS.seq (State.irq_seals ..), State.irqSet_irq _ _ (by decide), State.irq_mem ..⟩

theorem appendSeal_appends {body : List Byte} {part logical tag : Nat} : Appended s ((s.appendSeal body part logical tag).grantSeals)
    (body ++ sha256 body ++ leBytes 4 s.seals.seq ++ leBytes 4 (part % 8 + logical % 16 * 8 + tag % 65536 * 65536) ++ leBytes 8 s.now) :=
  noteFull_appended addRecord_appended

theorem putMop_mop {x : Mop} : ((s.putMop a ctx x).arr a).mop = some x := congrArg ArrayS.mop (State.arr_modArr_self ..)

/-- A SEAL that stands ready appends its record and leaves itself in flight. -/
theorem sealOp_appends (h : MacroReady s a ctx 0x22) (hsec : s.domOn 26 = true) (hwait : s.seals.waiters = [])
    (hroom : s.seals.ledger.length < 4096) (hbad : s.badFaults (s.macroAt a ctx) = []) (hupsets : s.upsets = []) :
    ∃ u ac, exec (.sealOp a) s = .next (u.putMop a ctx { u.mopOf a ctx (s.macroAt a ctx).d with ac := ac }) ∧
      Appended s u (s.sealRecord (s.macroAt a ctx) ++ sha256 (s.sealRecord (s.macroAt a ctx)) ++ leBytes 4 s.seals.seq ++
        leBytes 4 (ctx % 8 + logicalOf (s.macroAt a ctx).img a % 16 * 8 + (s.macroAt a ctx).d.tag % 65536 * 65536) ++ leBytes 8 s.now) := by
  have hstamp : Frame [.tierRest] s (s.stampAll (s.macroAt a ctx).sealPages) := Frame.stampAll
  have hott : (s.stampAll (s.macroAt a ctx).sealPages).tier.ott = s.tier.ott := hstamp.same .ott (by decide)
  have hmem : (s.stampAll (s.macroAt a ctx).sealPages).mem = s.mem := hstamp.same .mem (by decide)
  have hledger : (s.stampAll (s.macroAt a ctx).sealPages).seals.ledger = s.seals.ledger := hstamp.same .ledger (by decide)
  have hnow : (s.stampAll (s.macroAt a ctx).sealPages).now = s.now := hstamp.same .now (by decide)
  have hseq : (s.stampAll (s.macroAt a ctx).sealPages).seals.seq = s.seals.seq := congrArg Prod.snd (hstamp.same .sealRest (by decide))
  have hexec := sealOp_of_ready h hsec hwait hroom (by rw [badFaults_congr hott]; exact hbad) hupsets
  rw [sealRecord_congr hott hmem] at hexec
  refine ⟨_, _, hexec, ?_⟩
  obtain ⟨hl, hs, hirq, hm⟩ := appendSeal_appends (s := s.stampAll (s.macroAt a ctx).sealPages) (body := s.sealRecord (s.macroAt a ctx))
    (part := ctx) (logical := logicalOf (s.macroAt a ctx).img a) (tag := (s.macroAt a ctx).d.tag)
  rw [hledger, hseq, hnow] at hl
  rw [hseq] at hs
  exact ⟨hl, hs, hirq, hm.trans hmem⟩

/-! ### DOZE -/

theorem doze_of_ready_none (h : MacroReady s a ctx 0x23) (hmode : (s.descAt a ctx).os 0 0 2 = 0) (hreq : (s.dom (arrDomain a)).req = 0) :
    exec (.doze a) s = .next (s.putMop a ctx { s.mopOf a ctx (s.descAt a ctx) with ac := 16 }) := by
  obtain ⟨-, -, hop, -⟩ := id h
  refine congrArg Host.Outcome.next ((startMop_of_ready h (by rw [hop]; rfl)).trans ?_)
  rw [menv_d, menv_ctx]
  dsimp only
  rw [hmode, if_pos rfl, if_pos hreq]

/-- REQ of a domain takes a mode. -/
def State.request (s : State) (d mode : Nat) : State := s.setDom d { s.dom d with req := mode }

theorem request_refusal {x mode target : Nat} {c : Option Nat} : (s.request x mode).refusal x target c = s.refusal x target c := rfl

/-- Step 1 of the entry into a mode that nothing refuses. -/
def State.dozed (s : State) (d mode : Nat) : State :=
  (s.request d mode).setDom d { (s.request d mode).dom d with st := .entering 1 mode, req := mode, dozed := none }

theorem entryStep1_of_allowed {x : Nat} {c : Option Nat} (h : s.refusal x mode c = 0) :
    (s.request x mode).entryStep1 x c = (s.dozed x mode, true) := by
  have hreq : ((s.request x mode).dom x).req = mode := by rw [State.request, State.dom_setDom, if_pos rfl]
  rw [State.entryStep1, hreq, request_refusal, h]
  rfl

theorem dozed_dom {x y : Nat} : (s.dozed x mode).dom y = if y = x then { s.dom x with st := .entering 1 mode, req := mode, dozed := none } else s.dom y := by
  rw [State.dozed, State.dom_setDom, State.request, State.dom_setDom, State.dom_setDom, if_pos rfl]
  split <;> rfl

theorem doze_of_ready (h : MacroReady s a ctx 0x23) (hmode : mode = (s.descAt a ctx).os 0 0 2) (hne : mode ≠ 0)
    (hallow : s.refusal (arrDomain a) mode (some ctx) = 0) : exec (.doze a) s =
      .next (let u := (s.dozed (arrDomain a) mode).takeFree
        u.2.putMop a ctx { u.2.mopOf a ctx (s.descAt a ctx) with ac := 16 + u.1 % 2 ^ 16, dozeStop := true }) := by
  obtain ⟨-, -, hop, -⟩ := id h
  have hreq : ((s.request (arrDomain a) mode).dom (arrDomain a)).req = mode := by rw [State.request, State.dom_setDom, if_pos rfl]
  refine congrArg Host.Outcome.next ((startMop_of_ready h (by rw [hop]; rfl)).trans ?_)
  rw [menv_d, menv_ctx]
  dsimp only
  rw [← hmode, if_neg hne, ← State.request, hreq, if_neg hne, request_refusal, hallow, entryStep1_of_allowed hallow]
  rfl

end

/-- Settles O11: a SEAL that finds an entry free appends its record. -/
theorem sealAppendsOneRecord : Obligations.SealAppendsOneRecord := by
  intro s a ctx d m body h hd hm hsec hwait hroom hbad hupsets hbody
  obtain ⟨-, -, hop, -⟩ := id h
  have hmd : (s.macroAt a ctx).d = d := menv_d.trans hd.symm
  subst hm
  obtain ⟨u, ac, hexec, hl, hs, hirq, hmem⟩ := sealOp_appends h hsec hwait hroom hbad hupsets
  rw [State.sealRecord, hmd, ← hbody] at hl
  rw [hmd] at hexec
  exact ⟨_, hexec, hl, hs, hirq, ⟨_, putMop_mop, rfl, hd ▸ hop, rfl⟩, hmem⟩

/-- Settles O12: a DOZE that is not refused runs step 1 of the entry of its array's domain. -/
theorem dozeBeginsEntry : Obligations.DozeBeginsEntry := by
  intro s a ctx mode h hmode
  obtain ⟨-, -, hop, -⟩ := id h
  refine ⟨fun hzero hreq => doze_of_ready_none h (hmode.symm.trans hzero) hreq, fun hne hallow => ⟨_, doze_of_ready h hmode hne hallow, ?_⟩⟩
  have hdom (x : Nat) := dozed_dom (s := s) (x := arrDomain a) (mode := mode) (y := x)
  refine ⟨(congrArg Dom.st (hdom _)).trans (by rw [if_pos rfl]), (congrArg Dom.req (hdom _)).trans (by rw [if_pos rfl]),
    ⟨_, putMop_mop, hop, rfl, Nat.le_add_right ..⟩, fun x hx => (hdom x).trans (if_neg hx), rfl, rfl⟩

end Sys2Proof.Machine
end

section
/-! The completion of an operation (R78, R89, R95, R149, R219). -/

namespace Sys2Proof.Machine

set_option Elab.async false

section
variable {s t u : State} {a b c i ctx : Nat} {x : Mop} {marks : Bool × Bool} {q : Option Nat}

/-! ### The stages of a completion -/

/-- The record is stored and CMPL_WR moves on. -/
def State.mopRecord (s : State) (a : Nat) (x : Mop) (marks : Bool × Bool) : State :=
  (s.store (t0Base a + 32 * s.rd (.ma a) x.ctx Reg.Ma.CMPL_BASE + 32 * s.rd (.ma a) x.ctx Reg.Ma.CMPL_WR) (cmplRecord x marks.1 marks.2)).wr
    (.ma a) x.ctx Reg.Ma.CMPL_WR ((s.rd (.ma a) x.ctx Reg.Ma.CMPL_WR + 1) % s.rd (.ma a) x.ctx Reg.Ma.CMPL_LEN)

/-- The tensor's counts, the interrupt and the cycles are noted, and nothing is in flight any more. -/
def State.mopNoted (s : State) (a : Nat) (x : Mop) : State :=
  let s3 := if x.nOut = 0 then s else s.noteTensor a x.ctx x.satCnt x.flushCnt x.nOut x.part
  let s4 := if x.irqDone then s3.irq (.ma a) x.part 10 else s3
  (s4.chargeAc a x.part x.ac).modArr a fun y => { y with mop := none, turn := none, last := some x.ctx }

/-- The page faults. -/
def State.mopFaults (s : State) (a : Nat) (x : Mop) : State :=
  ((s.irq (.ma a) x.part 11).wr (.ma a) x.ctx Reg.Hdr.STOP_REQ 0).setSt (.ma a) x.ctx 3

/-- The tallies that the operation and its descriptor name are signalled. -/
def State.mopSignals (s : State) (x : Mop) : State :=
  let sa := match x.opSig with
    | some (i, inc) => s.signalTally i inc
    | none => s
  match x.sig with
  | some i => sa.signalTally i 1
  | none => sa

/-- The schedule goes on, ends or stops. -/
def State.mopAdvances (s : State) (a : Nat) (x : Mop) : State :=
  let r := s.advancePc a x.ctx
  let sd := if r.2 then r.1.irq (.ma a) x.part 12 else r.1
  let dozed := x.dozeStop && !sd.domOn (arrDomain a)
  let se := if dozed && !r.2 && sd.st (.ma a) x.ctx == 1 then
      sd.setDom (arrDomain a) { sd.dom (arrDomain a) with dozed := some x.ctx } else sd
  if r.2 || dozed || sd.st (.ma a) x.ctx == 2 then se.enterStopped (.ma a) x.ctx else se

theorem macroOpComplete_eq (hmop : (s.arr a).mop = some x) (hmay : s.mayComplete a x = true)
    (hmarks : marks = if x.fault = 0 then scaleMiss (s.rd (.ma a) x.ctx Reg.Ma.MISS_FRAC) x.satCnt x.flushCnt x.nOut else (false, false)) :
    exec (.macroOpComplete a) s = .next (State.applyOpp (if x.fault ≠ 0 then ((s.mopRecord a x marks).mopNoted a x).mopFaults a x
      else (((s.mopRecord a x marks).mopNoted a x).mopSignals x).mopAdvances a x) a) := by
  have hexec : exec (.macroOpComplete a) s = execMacroOpComplete a s := rfl
  rw [hexec, execMacroOpComplete, hmop]
  dsimp only
  rw [hmay, if_neg (by decide), ← hmarks]
  rfl

/-! ### What the stages leave alone -/

/-- The index of the completion ring, the program counter and the schedule's length. -/
def ringKeys (k : Nat) : Prop := 0x10 ≤ keyPage k ∧ keyPage k < 0x19 ∧ (keyOff k = 0x1C8 ∨ keyOff k = 0x1EC ∨ keyOff k = 0x1E4)

theorem ringKeys_ma {f : Fld} (ha : a ≤ 8) (hf : (f.off = 0x1C8 ∨ f.off = 0x1EC ∨ f.off = 0x1E4) ∧ f.lsb < 32) : ringKeys (regKey (.ma a) b f) := by
  simp only [ringKeys, keyPage, keyOff, regKey, Page.base]
  omega

theorem not_ringKeys_of_off {p : Page} {f : Fld} (hp : p.base % 0x1000 = 0 ∧ p.base < 2 ^ 24)
    (hf : f.off < 0x1000 ∧ f.off ≠ 0x1C8 ∧ f.off ≠ 0x1EC ∧ f.off ≠ 0x1E4 ∧ f.lsb < 32) : ¬ ringKeys (regKey p b f) := by
  simp only [ringKeys, keyPage, keyOff, regKey]
  omega

theorem base_ma (ha : a ≤ 8) : (Page.ma a).base % 0x1000 = 0 ∧ (Page.ma a).base < 2 ^ 24 := by
  simp only [Page.base]
  omega

/-- The ring's index, the program counter and the schedule's length stay. -/
def KeepsRing (s t : State) : Prop := RegsIn (fun k => ¬ ringKeys k) s t

theorem KeepsRing.rd_eq (h : KeepsRing s t) {f : Fld} (ha : a ≤ 8) (hf : (f.off = 0x1C8 ∨ f.off = 0x1EC ∨ f.off = 0x1E4) ∧ f.lsb < 32) :
    t.rd (.ma a) c f = s.rd (.ma a) c f := RegsIn.rd_eq h (not_not_intro (ringKeys_ma ha hf))

theorem KeepsRing.wr_ma {f : Fld} {v : Nat} (ha : a ≤ 8)
    (hf : f.off < 0x1000 ∧ f.off ≠ 0x1C8 ∧ f.off ≠ 0x1EC ∧ f.off ≠ 0x1E4 ∧ f.lsb < 32) : KeepsRing s (s.wr (.ma a) c f v) :=
  RegsIn.wr (not_ringKeys_of_off (base_ma ha) hf)

theorem KeepsRing.irq_ma {k : Nat} (ha : a ≤ 8) : KeepsRing s (s.irq (.ma a) q k) :=
  RegsIn.irq fun _ => not_ringKeys_of_off (base_ma ha) (by decide)

theorem KeepsRing.noteTensor {n m k : Nat} (ha : a ≤ 8) : KeepsRing s (s.noteTensor a c n m k q) := by
  unfold State.noteTensor
  extract_lets p
  dsimp only
  have hfour {u : State} {v w y z : Nat} : KeepsRing u ((((u.wr p c Reg.Ma.SAT_CNT v).wr p c Reg.Ma.FLUSH_CNT w).wr p c Reg.Ma.BY_SAT y).wr p c
      Reg.Ma.BY_FLUSH z) :=
    (((wr_ma ha (by decide)).trans (wr_ma ha (by decide))).trans (wr_ma ha (by decide))).trans (wr_ma ha (by decide))
  exact RegsIn.ite (hfour.trans ((wr_ma ha (by decide)).trans (irq_ma ha))) hfour

theorem KeepsRing.chargeAc {n : Nat} : KeepsRing s (s.chargeAc a q n) := by
  unfold State.chargeAc
  split
  · exact RegsIn.refl
  · exact RegsIn.of_regs rfl

theorem KeepsRing.mopNoted (ha : a ≤ 8) : KeepsRing s (s.mopNoted a x) := by
  unfold State.mopNoted
  extract_lets s3 s4
  have h3 : KeepsRing s s3 := RegsIn.ite RegsIn.refl (noteTensor ha)
  have h4 : KeepsRing s s4 := h3.trans (RegsIn.ite (irq_ma ha) RegsIn.refl)
  exact (h4.trans chargeAc).trans (RegsIn.of_regs rfl)

theorem KeepsRing.signalTally {n : Nat} : KeepsRing s (s.signalTally i n) := by
  refine RegsIn.mono RegsIn.signalTally fun k hk hring => ?_
  simp only [tallyKeys, waitKeys] at hk
  simp only [ringKeys] at hring
  omega

theorem KeepsRing.mopSignals : KeepsRing s (s.mopSignals x) := by
  unfold State.mopSignals
  extract_lets sa
  have ha : KeepsRing s sa := by
    unfold sa
    split
    · exact signalTally
    · exact RegsIn.refl
  split
  · exact ha.trans signalTally
  · exact ha

theorem KeepsRing.enterStopped (ha : a ≤ 8) : KeepsRing s (s.enterStopped (.ma a) c) := by
  have hstop : RegsIn stopKeys ((s.setSt (.ma a) c 0).wr (.ma a) c Reg.Hdr.STOP_REQ 0) (s.enterStopped (.ma a) c) :=
    enterStopped_regs (.inl ⟨a, ha, rfl⟩)
  refine ((wr_ma ha (by simp [stateFld]) : KeepsRing s (s.setSt (.ma a) c 0)).trans (wr_ma ha (by decide))).trans (hstop.mono fun k hk hring => ?_)
  simp only [stopKeys, waitKeys] at hk
  simp only [ringKeys] at hring
  omega

theorem KeepsRing.applyOpp (ha : a ≤ 8) : KeepsRing s (s.applyOpp a) := by
  unfold State.applyOpp
  extract_lets x
  split
  · exact RegsIn.refl
  · exact RegsIn.ite RegsIn.refl (RegsIn.ite (wr_ma ha (by decide))
      (((wr_ma ha (by decide)).trans (wr_ma ha (by decide))).trans (RegsIn.of_regs rfl)))

/-- After the program counter has moved, the rest of the way keeps it. -/
theorem KeepsRing.mopAdvances (ha : a ≤ 8) : KeepsRing (s.advancePc a x.ctx).1 (s.mopAdvances a x) := by
  unfold State.mopAdvances
  extract_lets r sd dozed dom se
  have hd : KeepsRing r.1 sd := RegsIn.ite (irq_ma ha) RegsIn.refl
  have he : KeepsRing r.1 se := hd.trans (RegsIn.ite (RegsIn.of_regs rfl) RegsIn.refl)
  exact RegsIn.ite (he.trans (enterStopped ha)) he

theorem KeepsRing.mopFaults (ha : a ≤ 8) : KeepsRing s (s.mopFaults a x) :=
  ((irq_ma ha).trans (wr_ma ha (by decide))).trans (wr_ma ha (by simp [stateFld]))

/-! ### The program counter -/

theorem advancePc_ring (ha : a ≤ 8) : (s.advancePc a ctx).1.rd (.ma a) ctx Reg.Ma.CMPL_WR = s.rd (.ma a) ctx Reg.Ma.CMPL_WR := by
  have hpc {u : State} {v : Nat} : (u.wr (.ma a) ctx Reg.Ma.PC v).rd (.ma a) ctx Reg.Ma.CMPL_WR = u.rd (.ma a) ctx Reg.Ma.CMPL_WR :=
    State.rd_wr_other _ _ (regKey_ne_of_off (by decide) (by decide) (by decide))
  have hpasses {v : Nat} : (s.countSat32 (.ma a) ctx Reg.Ma.PASSES v).rd (.ma a) ctx Reg.Ma.CMPL_WR = s.rd (.ma a) ctx Reg.Ma.CMPL_WR :=
    KeepsRing.rd_eq (KeepsRing.wr_ma ha (by decide)) ha (by decide)
  unfold State.advancePc
  extract_lets p pc n s1 start rep
  split
  · exact hpc
  · split
    · exact hpc.trans hpasses
    · exact hpasses

theorem advancePc_next (h : s.rd (.ma a) ctx Reg.Ma.PC + 1 < s.rd (.ma a) ctx Reg.Ma.SCHED_LEN) :
    (s.advancePc a ctx).1.rd (.ma a) ctx Reg.Ma.PC = (s.rd (.ma a) ctx Reg.Ma.PC + 1) % 2 ^ 16 := by
  rw [State.advancePc]
  dsimp only
  rw [if_pos h]
  exact State.rd_wr_self ..

/-! ### What is in flight -/

/-- The operation in flight on an array and the context that ran last stay. -/
def KeepsFlight (s t : State) (a : Nat) : Prop := (t.arr a).mop = (s.arr a).mop ∧ (t.arr a).last = (s.arr a).last

theorem KeepsFlight.trans (h : KeepsFlight s t a) (g : KeepsFlight t u a) : KeepsFlight s u a := ⟨g.1.trans h.1, g.2.trans h.2⟩

theorem KeepsFlight.of_arrays (h : t.arrays = s.arrays) : KeepsFlight s t a :=
  ⟨congrArg ArrayS.mop (State.arr_of_arrays h a), congrArg ArrayS.last (State.arr_of_arrays h a)⟩

theorem KeepsFlight.refl : KeepsFlight s s a := ⟨rfl, rfl⟩

theorem KeepsFlight.modArr {f : ArrayS → ArrayS} (hmop : ∀ y, (f y).mop = y.mop) (hlast : ∀ y, (f y).last = y.last) :
    KeepsFlight s (s.modArr b f) a := by
  rw [KeepsFlight, State.arr_modArr]
  split
  next h => exact ⟨h ▸ hmop _, h ▸ hlast _⟩
  next => exact ⟨rfl, rfl⟩

theorem KeepsFlight.releaseWaiter {w : Waiter} : KeepsFlight s (s.releaseWaiter w) a := by
  have hend : KeepsFlight s (s.endWait w) a := of_arrays (Frame.endWait.same .arrays (by decide))
  unfold State.releaseWaiter
  dsimp only
  split
  · exact hend.trans (of_arrays rfl)
  · exact hend.trans (modArr (fun _ => rfl) fun _ => rfl)

theorem KeepsFlight.signalTally {n : Nat} : KeepsFlight s (s.signalTally i n) a := by
  have hrelease (u : State) : KeepsFlight u (u.evalRelease i) a := by
    rw [State.evalRelease_eq]
    refine List.foldlRecOn _ _ (motive := fun v => KeepsFlight u v a) ?_ fun v hv w _ => hv.trans releaseWaiter
    split
    · exact refl
    · exact of_arrays rfl
  unfold State.signalTally
  split
  · exact refl
  · extract_lets t sum s2 s1
    have h1 : Frame (.tallies :: eventParts) s s1 := by
      unfold s1
      split
      · exact (((Frame.refl.step (.setTally fun _ => le_rfl)).step .tallyErr).step .irq).trans (.ite ((Frame.refl.step .tallyErr).step .orRaw) .refl)
      · next hle => exact (Frame.setTally fun _ => not_lt.mp hle).mono
    exact (of_arrays (h1.same .arrays (by decide))).trans (hrelease s1)

theorem KeepsFlight.enterStopped : KeepsFlight s (s.enterStopped (.ma b) c) a := by
  have hwaits : KeepsFlight s (((s.setSt (.ma b) c 0).wr (.ma b) c Reg.Hdr.STOP_REQ 0).dropWaits b false c) a :=
    of_arrays ((Frame.refl.step Frame.wr |>.step Frame.wr |>.step Frame.dropWaits : Frame [.regs, .waiters] _ _).same .arrays (by decide))
  refine hwaits.trans ?_
  unfold State.enterStopped
  extract_lets s1
  dsimp only
  unfold State.clearCtx
  extract_lets s2 s3
  have h3 : KeepsFlight s2 s3 a := modArr (fun _ => rfl) fun _ => rfl
  split
  · exact h3.trans (of_arrays ((Frame.refl.step Frame.unstallSeal |>.step Frame.grantSeals : Frame [.regs, .sealRest] _ _).same .arrays (by decide)))
  · exact h3

theorem KeepsFlight.setArr {y : ArrayS} (hmop : y.mop = (s.arr a).mop) (hlast : y.last = (s.arr a).last) : KeepsFlight s (s.setArr a y) a := by
  rw [KeepsFlight, State.arr_setArr_self]
  exact ⟨hmop, hlast⟩

theorem KeepsFlight.applyOpp : KeepsFlight s (s.applyOpp a) a := by
  unfold State.applyOpp
  extract_lets x
  split
  · exact refl
  · split
    · exact refl
    · extract_lets
      split
      · exact of_arrays rfl
      · exact (of_arrays rfl).trans (setArr rfl rfl)

theorem KeepsFlight.mopSignals : KeepsFlight s (s.mopSignals x) a := by
  unfold State.mopSignals
  extract_lets sa
  have ha : KeepsFlight s sa a := by
    unfold sa
    split
    · exact signalTally
    · exact refl
  split
  · exact ha.trans signalTally
  · exact ha

theorem KeepsFlight.mopAdvances : KeepsFlight s (s.mopAdvances a x) a := by
  unfold State.mopAdvances
  extract_lets r sd dozed dom se
  have hd : KeepsFlight s sd a := of_arrays ((Frame.advancePc.mono.trans (.ite .irq .refl) : Frame eventParts s sd).same .arrays (by decide))
  have he : KeepsFlight s se a := hd.trans (of_arrays (by unfold se; split <;> rfl))
  split
  · exact he.trans enterStopped
  · exact he

theorem KeepsFlight.mopFaults : KeepsFlight s (s.mopFaults a x) a :=
  of_arrays ((Frame.refl.step Frame.irq |>.step Frame.wr |>.step Frame.setSt : Frame eventParts _ _).same .arrays (by decide))

theorem mopNoted_arr : ((s.mopNoted a x).arr a).mop = none ∧ ((s.mopNoted a x).arr a).last = some x.ctx :=
  ⟨congrArg ArrayS.mop (State.arr_modArr_self ..), congrArg ArrayS.last (State.arr_modArr_self ..)⟩

/-! ### Memory -/

theorem mopNoted_mem : (s.mopNoted a x).mem = s.mem := by
  unfold State.mopNoted
  extract_lets s3 s4
  have h4 : Frame (.arrays :: eventParts) s s4 := (Frame.ite .refl Frame.noteTensor.mono).trans (.ite Frame.irq.mono .refl)
  exact ((h4.step .chargeAc).step .modArr : Frame (.arrays :: eventParts) s _).same .mem (by decide)

theorem mopSignals_mem : (s.mopSignals x).mem = s.mem := by
  unfold State.mopSignals
  extract_lets sa
  have ha : sa.mem = s.mem := by
    unfold sa
    split
    · exact Frame.signalTally.same .mem (by decide)
    · rfl
  split
  · exact (Frame.signalTally.same .mem (by decide) : _ = _).trans ha
  · exact ha

theorem mopAdvances_mem : (s.mopAdvances a x).mem = s.mem := by
  unfold State.mopAdvances
  extract_lets r sd dozed dom se
  have hd : Frame (.doms :: stopParts) s sd := (Frame.advancePc.mono).trans (.ite Frame.irq.mono .refl)
  have he : Frame (.doms :: stopParts) s se := hd.trans (.ite Frame.setDom.mono .refl)
  exact (Frame.ite (he.step .enterStopped) he : Frame (.doms :: stopParts) s _).same .mem (by decide)

theorem mopFaults_mem : (s.mopFaults a x).mem = s.mem :=
  ((Frame.refl.step Frame.irq |>.step Frame.wr |>.step Frame.setSt : Frame eventParts _ _).same .mem (by decide))

/-! ### A page that faults -/

theorem RegsIn.applyOpp_opp : RegsIn (fun k => keyOff k = 0x104) s (s.applyOpp a) := by
  have hwr {u : State} {f : Fld} {v : Nat} (hf : f.off = 0x104 ∧ f.lsb < 32) : RegsIn (fun k => keyOff k = 0x104) u (u.wr (.ma a) 0 f v) := by
    refine wr ?_
    simp only [keyOff, regKey, Page.base]
    omega
  unfold State.applyOpp
  extract_lets x
  split
  · exact refl
  · exact ite refl (ite (hwr (by decide)) (((hwr (by decide)).trans (hwr (by decide))).trans (of_regs rfl)))

theorem mopFaults_faults : ((s.mopFaults a x).applyOpp a).st (.ma a) x.ctx = 3 ∧ IrqSet ((s.mopFaults a x).applyOpp a) (.ma a) 0 11 := by
  have hopp {b : Nat} {f : Fld} (hf : (f.off = 0x00C ∨ f.off = 0x010) ∧ f.lsb < 32) :
      ((s.mopFaults a x).applyOpp a).rd (.ma a) b f = (s.mopFaults a x).rd (.ma a) b f := by
    refine RegsIn.applyOpp_opp.rd_eq ?_
    simp only [keyOff, regKey, Page.base]
    omega
  have hne {f : Fld} (hf : (f.off = 0x008 ∨ f.off = 0x00C) ∧ f.lsb < 32) : regKey (.ma a) 0 Reg.Hdr.IRQ_RAW ≠ regKey (.ma a) x.ctx f := by
    simp only [regKey]
    omega
  have hraw : (s.mopFaults a x).rd (.ma a) 0 Reg.Hdr.IRQ_RAW = (s.irq (.ma a) x.part 11).rd (.ma a) 0 Reg.Hdr.IRQ_RAW := by
    rw [State.mopFaults, State.setSt, State.rd_wr_other _ _ (hne (by simp [stateFld])), State.rd_wr_other _ _ (hne (by decide))]
  refine ⟨(hopp (by simp [stateFld])).trans (State.rd_wr_self ..), ?_⟩
  rw [IrqSet, hopp (by decide), hraw]
  exact irqSet_irq_page x.part (by decide)

end

/-- Settles O13: each stage of a completion keeps what the ones before it left. -/
theorem completionWritesItsRecord : Obligations.CompletionWritesItsRecord := by
  intro s a x marks ha hmop hmay hmarks
  have hring : (s.mopRecord a x marks).rd (.ma a) x.ctx Reg.Ma.CMPL_WR =
      (s.rd (.ma a) x.ctx Reg.Ma.CMPL_WR + 1) % s.rd (.ma a) x.ctx Reg.Ma.CMPL_LEN % 2 ^ 12 := State.rd_wr_self ..
  have hrecord {f : Fld} (hf : f.off ≠ 0x1C8 ∧ f.off < 0x1000 ∧ f.lsb < 32) :
      (s.mopRecord a x marks).rd (.ma a) x.ctx f = s.rd (.ma a) x.ctx f :=
    State.rd_wr_other _ _ (regKey_ne_of_off hf.1 hf.2.2 (by decide))
  have hmem : (s.mopRecord a x marks).mem = (s.store (t0Base a + 32 * s.rd (.ma a) x.ctx Reg.Ma.CMPL_BASE + 32 * s.rd (.ma a) x.ctx Reg.Ma.CMPL_WR)
      (cmplRecord x marks.1 marks.2)).mem := rfl
  have hnoted : KeepsRing (s.mopRecord a x marks) ((s.mopRecord a x marks).mopNoted a x) := KeepsRing.mopNoted ha
  have hmemNoted : ((s.mopRecord a x marks).mopNoted a x).mem = (s.mopRecord a x marks).mem := mopNoted_mem
  obtain ⟨hnone, hlast⟩ := mopNoted_arr (s := s.mopRecord a x marks) (a := a) (x := x)
  refine ⟨_, macroOpComplete_eq hmop hmay hmarks, ?_⟩
  generalize s.mopRecord a x marks = r at *
  generalize r.mopNoted a x = n at *
  have hopp (u : State) : KeepsRing u (u.applyOpp a) ∧ KeepsFlight u (u.applyOpp a) a ∧ (u.applyOpp a).mem = u.mem :=
    ⟨KeepsRing.applyOpp ha, KeepsFlight.applyOpp, Frame.applyOpp.same .mem (by decide)⟩
  obtain ⟨hoppRing, hoppFlight, hoppMem⟩ := hopp (if x.fault ≠ 0 then n.mopFaults a x else (n.mopSignals x).mopAdvances a x)
  by_cases hfault : x.fault = 0
  · rw [if_neg (not_not_intro hfault)] at hoppRing hoppFlight hoppMem ⊢
    have hsig : KeepsRing n (n.mopSignals x) := KeepsRing.mopSignals
    have hadv : KeepsRing ((n.mopSignals x).advancePc a x.ctx).1 ((n.mopSignals x).mopAdvances a x) := KeepsRing.mopAdvances ha
    have hflight : KeepsFlight n (((n.mopSignals x).mopAdvances a x).applyOpp a) a :=
      (KeepsFlight.mopSignals.trans KeepsFlight.mopAdvances).trans hoppFlight
    have hkept {f : Fld} (hf : (f.off = 0x1C8 ∨ f.off = 0x1EC ∨ f.off = 0x1E4) ∧ f.lsb < 32) :
        (n.mopSignals x).rd (.ma a) x.ctx f = r.rd (.ma a) x.ctx f := (hsig.rd_eq ha hf).trans (hnoted.rd_eq ha hf)
    refine ⟨?_, ?_, hflight.1.trans hnone, hflight.2.trans hlast, fun h => absurd hfault h, fun _ hpc => ?_⟩
    · exact ((hoppMem.trans mopAdvances_mem).trans mopSignals_mem).trans (hmemNoted.trans hmem)
    · exact ((hoppRing.rd_eq ha (by decide)).trans (hadv.rd_eq ha (by decide))).trans
        ((advancePc_ring ha).trans ((hkept (by decide)).trans hring))
    · have hpc' : (n.mopSignals x).rd (.ma a) x.ctx Reg.Ma.PC = s.rd (.ma a) x.ctx Reg.Ma.PC := (hkept (by decide)).trans (hrecord (by decide))
      have hlen : (n.mopSignals x).rd (.ma a) x.ctx Reg.Ma.SCHED_LEN = s.rd (.ma a) x.ctx Reg.Ma.SCHED_LEN :=
        (hkept (by decide)).trans (hrecord (by decide))
      rw [hoppRing.rd_eq ha (by decide), hadv.rd_eq ha (by decide), advancePc_next (by rw [hpc', hlen]; exact hpc), hpc']
  · rw [if_pos hfault] at hoppRing hoppFlight hoppMem ⊢
    have hkept {f : Fld} (hf : (f.off = 0x1C8 ∨ f.off = 0x1EC ∨ f.off = 0x1E4) ∧ f.lsb < 32) :
        ((n.mopFaults a x).applyOpp a).rd (.ma a) x.ctx f = r.rd (.ma a) x.ctx f :=
      ((hoppRing.rd_eq ha hf).trans ((KeepsRing.mopFaults ha).rd_eq ha hf)).trans (hnoted.rd_eq ha hf)
    have hflight : KeepsFlight n ((n.mopFaults a x).applyOpp a) a := KeepsFlight.mopFaults.trans hoppFlight
    obtain ⟨hst, hirq⟩ := mopFaults_faults (s := n) (a := a) (x := x)
    exact ⟨(hoppMem.trans mopFaults_mem).trans (hmemNoted.trans hmem), (hkept (by decide)).trans hring, hflight.1.trans hnone,
      hflight.2.trans hlast, fun _ => ⟨hst, hirq, (hkept (by decide)).trans (hrecord (by decide))⟩, fun h => absurd h hfault⟩

end Sys2Proof.Machine
end

section
/-! The barrier of a gang (R113, R114). -/

namespace Sys2Proof.Machine

set_option Elab.async false

section
variable {s t u : State} {leader b ctx i c o : Nat} {chain l : List Nat} {m : MEnv}

/-! ### Passing the barrier -/

/-- A member of a gang passes the barrier. -/
def State.passBarrier (s : State) (ctx b : Nat) : State :=
  (if (s.descAt b ctx).waitEn then s.markPassed b ctx else s).modArr b fun x => { x with gangGo := insAsc ctx x.gangGo }

/-- What a member's pass leaves: its own mark, and every array's operation in flight. -/
theorem passBarrier_arr (b' : Nat) : ((s.passBarrier ctx b).arr b').mop = (s.arr b').mop ∧
    (s.arr b').gangGo ⊆ ((s.passBarrier ctx b).arr b').gangGo := by
  have hmark : ((if (s.descAt b ctx).waitEn then s.markPassed b ctx else s).arr b').mop = (s.arr b').mop ∧
      ((if (s.descAt b ctx).waitEn then s.markPassed b ctx else s).arr b').gangGo = (s.arr b').gangGo := by
    split
    · rw [State.markPassed, State.arr_modArr]
      split
      next h => exact ⟨h ▸ rfl, h ▸ rfl⟩
      next => exact ⟨rfl, rfl⟩
    · exact ⟨rfl, rfl⟩
  obtain ⟨hmop, hgo⟩ := hmark
  rw [State.passBarrier, State.arr_modArr]
  split
  next h =>
    subst h
    exact ⟨hmop, fun k hk => mem_insAsc.mpr (.inr (hgo ▸ hk))⟩
  next => exact ⟨hmop, hgo ▸ List.Subset.refl _⟩

theorem passBarrier_self : ctx ∈ ((s.passBarrier ctx b).arr b).gangGo := by
  rw [State.passBarrier, State.arr_modArr_self]
  exact mem_insAsc.mpr (.inl rfl)

theorem passBarrier_frame : Frame [.arrays] s (s.passBarrier ctx b) :=
  (Frame.ite Frame.modArr .refl).step .modArr

theorem passAll_frame : Frame [.arrays] s (l.foldl (State.passBarrier · ctx) s) := .foldl fun _ _ => passBarrier_frame

theorem passAll_arr : (∀ b', ((l.foldl (State.passBarrier · ctx) s).arr b').mop = (s.arr b').mop) ∧
    (∀ b', (s.arr b').gangGo ⊆ ((l.foldl (State.passBarrier · ctx) s).arr b').gangGo) ∧
    ∀ b ∈ l, ctx ∈ ((l.foldl (State.passBarrier · ctx) s).arr b).gangGo := by
  induction l generalizing s with
  | nil => exact ⟨fun _ => rfl, fun _ => List.Subset.refl _, by simp⟩
  | cons b l ih =>
    obtain ⟨hmop, hgo, hmem⟩ := ih (s := s.passBarrier ctx b)
    refine ⟨fun b' => (hmop b').trans (passBarrier_arr b').1, fun b' => List.Subset.trans (passBarrier_arr b').2 (hgo b'), fun b' hb' => ?_⟩
    obtain rfl | hb' := List.mem_cons.mp hb'
    · exact hgo b' passBarrier_self
    · exact hmem b' hb'

/-! ### A fault of the gang -/

theorem faultMop_faults : ∀ b ∈ l, ∃ x, ((s.faultMop m l c o).arr b).mop = some x ∧ x.fault = c ∧ x.ctx = m.ctx := by
  have hput (u : State) (b b' : Nat) (h : ∃ x, (u.arr b).mop = some x ∧ x.fault = c ∧ x.ctx = m.ctx) :
      ∃ x, ((u.putMop b' m.ctx { u.mopOf b' m.ctx (u.descAt b' m.ctx) with fault := c, operand := o }).arr b).mop = some x ∧ x.fault = c ∧
        x.ctx = m.ctx := by
    rw [State.putMop, State.arr_modArr]
    split
    · exact ⟨_, rfl, rfl, rfl⟩
    · exact h
  unfold State.faultMop
  induction l generalizing s with
  | nil => simp
  | cons b' l ih =>
    intro b hb
    rw [List.foldl_cons]
    obtain rfl | hb := List.mem_cons.mp hb
    · refine List.foldlRecOn l _ (motive := fun u : State => ∃ x, (u.arr b).mop = some x ∧ x.fault = c ∧ x.ctx = m.ctx) ?_ fun u hu d _ => hput u b d hu
      exact ⟨_, putMop_mop, rfl, rfl⟩
    · exact ih b hb

/-! ### The barrier -/

/-- Every member stands at the gang operation. -/
structure AtBarrier (s : State) (leader ctx : Nat) (chain : List Nat) : Prop where
  start : s.atStart leader = some ctx
  gang : chain = s.gangOf leader ctx
  many : 1 < chain.length
  head : chain.head? = some leader
  reached : ∀ b ∈ chain, s.reached leader b ctx = true
  named : ∃ b ∈ chain, (s.descAt b ctx).gang ≠ 0

/-- Whether all members have the leader's descriptor. -/
def State.sameDesc (s : State) (leader ctx : Nat) (chain : List Nat) : Bool := chain.all fun b => (s.descAt b ctx).raw == (s.descAt leader ctx).raw

theorem gangBarrierStart_eq (h : AtBarrier s leader ctx chain) : exec (.gangBarrierStart leader) s =
    .next (if !s.sameDesc leader ctx chain || chain.length != (s.descAt leader ctx).gangSize ||
        chain.any fun b => s.rd (.ma b) 0 Reg.Ma.OPP_ACT != s.rd (.ma leader) 0 Reg.Ma.OPP_ACT then
      match s.checkDesc { s.macroAt leader ctx with chain := chain } with
      | some (c, o) => if s.sameDesc leader ctx chain ∧ c < 9 then s.faultMop { s.macroAt leader ctx with chain := chain } chain c o
        else s.faultMop { s.macroAt leader ctx with chain := chain } chain 0x09 opNone
      | none => s.faultMop { s.macroAt leader ctx with chain := chain } chain 0x09 opNone
    else chain.foldl (State.passBarrier · ctx) s) := by
  obtain ⟨hstart, hgang, hmany, hhead, hreached, b, hb, hnamed⟩ := h
  have hgo : ¬ (chain.length ≤ 1 ∨ chain.head? ≠ some leader ∨ !(chain.all fun b => s.reached leader b ctx)) := by
    have hall : chain.all (fun b => s.reached leader b ctx) = true := List.all_eq_true.mpr hreached
    simp [hhead, hall]
    omega
  have hsome : (chain.all fun b => (s.descAt b ctx).gang == 0) = false := by
    refine Bool.eq_false_iff.mpr fun hall => hnamed ?_
    simpa using List.all_eq_true.mp hall b hb
  have hexec : exec (.gangBarrierStart leader) s = execGangBarrierStart leader s := rfl
  rw [hexec, execGangBarrierStart, hstart]
  dsimp only
  rw [← hgang, if_neg hgo, hsome, if_neg (by decide)]
  rfl

end

/-- Settles O14: equal members pass together, and different descriptors fault every member. -/
theorem gangBarrier : Obligations.GangBarrier := by
  intro s leader ctx chain hstart hgang hmany hhead hreached hnamed
  have heq := gangBarrierStart_eq ⟨hstart, hgang, hmany, hhead, hreached, hnamed⟩
  refine ⟨fun hequal hsize => ?_, fun hdiffer => ?_⟩
  · have hsame : s.sameDesc leader ctx chain = true := List.all_eq_true.mpr fun b hb => by simpa using (hequal b hb).1
    have hclocks : (chain.any fun b => s.rd (.ma b) 0 Reg.Ma.OPP_ACT != s.rd (.ma leader) 0 Reg.Ma.OPP_ACT) = false :=
      List.any_eq_false.mpr fun b hb => by simpa using (hequal b hb).2
    rw [hsame, hclocks, hsize, if_neg (by simp)] at heq
    obtain ⟨hmop, -, hgo⟩ := passAll_arr (s := s) (ctx := ctx) (l := chain)
    exact ⟨_, heq, fun b hb => List.contains_iff_mem.mpr (hgo b hb), hmop, passAll_frame.same .regs (by decide), passAll_frame.same .mem (by decide)⟩
  · have hdiff : s.sameDesc leader ctx chain = false := by
      obtain ⟨b, hb, hne⟩ := hdiffer
      exact Bool.eq_false_iff.mpr fun hall => hne (by simpa using List.all_eq_true.mp hall b hb)
    have hfault : exec (.gangBarrierStart leader) s = .next (s.faultMop { s.macroAt leader ctx with chain := chain } chain 0x09 opNone) := by
      rw [heq, hdiff]
      split
      · split
        · rfl
        · rfl
      next h => exact absurd rfl h
    have hctx : (s.macroAt leader ctx).ctx = ctx := menv_ctx
    refine ⟨_, hfault, fun b hb => ?_, Frame.faultMop.same .regs (by decide), Frame.faultMop.same .mem (by decide)⟩
    obtain ⟨x, hx, hcode, hxctx⟩ := faultMop_faults (s := s) (m := { s.macroAt leader ctx with chain := chain }) (c := 0x09) (o := opNone) b hb
    exact ⟨x, hx, hcode, hxctx.trans hctx⟩

end Sys2Proof.Machine
end

section
/-! WEIGHT_REFETCH: the lines that the weirs let pass, the repair, and the loss (R205, R221, R252). -/

namespace Sys2Proof.Machine

set_option Elab.async false

section
variable {s t u : State} {a b i j k n p : Nat} {x : Mop} {f : Mop → Mop} {ks l : List Nat}

/-! ### The arrays whose operation waits -/

/-- What an array knows of the refetch of a page is replaced. -/
def State.refetchAt (s : State) (i : Nat) (f : Mop → Mop) (b : Nat) : State :=
  match (s.arr b).mop with
  | some y => if y.crcPage = some i then s.setArr b { s.arr b with mop := some (f y) } else s
  | none => s

theorem refetchAt_other (h : a ≠ b) : (s.refetchAt i f b).arr a = s.arr a := by
  unfold State.refetchAt
  split
  · split
    · rw [State.arr_setArr, if_neg h]
    · rfl
  · rfl

theorem refetchAt_self (hmop : (s.arr a).mop = some x) (hcrc : x.crcPage = some i) : ((s.refetchAt i f a).arr a).mop = some (f x) := by
  rw [State.refetchAt, hmop]
  dsimp only
  rw [if_pos hcrc, State.arr_setArr_self]

theorem refetchAll_mop (hl : l.Nodup) (hmop : (s.arr a).mop = some x) (hcrc : x.crcPage = some i) (ha : a ∈ l) :
    ((l.foldl (fun s b => s.refetchAt i f b) s).arr a).mop = some (f x) := by
  induction l generalizing s with
  | nil => exact absurd ha (by simp)
  | cons b l ih =>
    obtain ⟨hb, hl⟩ := List.nodup_cons.mp hl
    rw [List.foldl_cons]
    by_cases hab : a = b
    · subst hab
      refine List.foldlRecOn l _ (motive := fun u : State => (u.arr a).mop = some (f x)) (refetchAt_self hmop hcrc) fun u hu c hc => ?_
      have hne : a ≠ c := fun h => hb (h ▸ hc)
      rw [refetchAt_other hne]
      exact hu
    · exact ih hl (by rw [refetchAt_other hab]; exact hmop) ((List.mem_cons.mp ha).resolve_left hab)

theorem modRefetch_mop (ha : a ≤ 8) (hmop : (s.arr a).mop = some x) (hcrc : x.crcPage = some i) :
    ((s.modRefetch i f).arr a).mop = some (f x) :=
  refetchAll_mop List.nodup_range hmop hcrc (List.mem_range.mpr (by omega))

/-! ### The lines -/

/-- Weirs with enough tokens let all lines pass. -/
theorem issueLines_all (h : ∀ w ∈ ks, SMap.get false s.parts.weirEn (p * 3 + w) = true → (n : Int) ≤ s.tokens p w) : (s.issueLines p ks n).2 = n := by
  refine List.foldlRecOn ks _ (motive := fun m => m = n) rfl fun m hm w hw => ?_
  split
  next hen =>
    have htok := h w hw hen
    omega
  next => exact hm

/-- A weir without tokens lets no line pass. -/
theorem issueLines_none (h : s.weirHolds p k = true) (hk : k ∈ ks) : (s.issueLines p ks n).2 = 0 := by
  obtain ⟨hen, htok⟩ := Bool.and_eq_true_iff.mp h
  have htok := of_decide_eq_true htok
  have hzero (l : List Nat) (m : Nat) (h0 : k ∈ l ∨ m = 0) :
      l.foldl (fun m w => if SMap.get false s.parts.weirEn (p * 3 + w) then min m (s.tokens p w).toNat else m) m = 0 := by
    induction l generalizing m with
    | nil => exact h0.resolve_left (by simp)
    | cons w l ih =>
      refine ih _ ?_
      by_cases hw : w = k
      · subst hw
        dsimp only
        rw [if_pos hen]
        exact .inr (by omega)
      · obtain h0 | h0 := h0
        · exact .inl ((List.mem_cons.mp h0).resolve_left fun h => hw h.symm)
        · subst h0
          dsimp only
          exact .inr (by split <;> omega)
  exact hzero ks n (.inl hk)

theorem meetFrame_clean (h : s.wellErrs = []) {g : Nat} : s.meetFrame g = (s, false) := by
  rw [State.meetFrame, h]
  rfl

/-! ### The command -/

/-- The weirs that count the lines of a refetch. -/
def State.refetchWeirs (s : State) (i j : Nat) : List Nat := if ottPlace (s.ott i) = 1 ∨ ottRes (s.ott j) then [0, 1] else [0]

/-- The lines of a refetch that pass now. -/
def State.refetchIssue (s : State) (i j : Nat) (x : Mop) : State × Nat :=
  s.issueLines (ottPart (s.ott j)) (s.refetchWeirs i j) (1024 - x.refetchLine)

theorem weightRefetch_eq (hmop : (s.arr a).mop = some x) (hcrc : x.crcPage = some i) (hsrc : s.wellSource i = some j) (hon : s.domOn 21 = true)
    (ok : Bool) : exec (.weightRefetch a ok) s = .next
      (if x.refetchLine + (s.refetchIssue i j x).2 < 1024 then
        (s.refetchIssue i j x).1.modRefetch i fun y => { y with refetchLine := x.refetchLine + (s.refetchIssue i j x).2 }
      else
        let m := (s.refetchIssue i j x).1.meetFrame (ottHome ((s.refetchIssue i j x).1.ott j))
        (if ok && !m.2 then m.1.refetch i j else if m.2 then m.1.setBad j else (m.1.setBad j).errCount .lpddr 0 1 1).modRefetch i fun y =>
          { y with crcPage := none, refetchLine := 0 }) := by
  have hexec : exec (.weightRefetch a ok) s = execWeightRefetch a ok s := rfl
  rw [hexec, execWeightRefetch, hmop]
  dsimp only
  rw [hcrc]
  dsimp only
  rw [hsrc]
  dsimp only
  rw [State.wakeAll_of_allOn (by simpa using hon)]
  rfl

theorem refetchWeirs_lt {w : Nat} (hw : w ∈ s.refetchWeirs i j) : w < 2 := by
  unfold State.refetchWeirs at hw
  split at hw <;> simp at hw <;> omega

theorem refetchWeirs_lpddr : 0 ∈ s.refetchWeirs i j := by
  unfold State.refetchWeirs
  split <;> simp

theorem refetchIssue_frame : Frame [.weirs] s (s.refetchIssue i j x).1 := Frame.issueLines

theorem tier_of_frame {F : List Part} (h : Frame F s t) (ho : Part.ott ∉ F) (hr : Part.tierRest ∉ F) : t.tier = s.tier := by
  have hott : t.tier.ott = s.tier.ott := h.same .ott ho
  have hrest : { t.tier with ott := [] } = { s.tier with ott := [] } := h.same .tierRest hr
  cases ht : t.tier
  cases hs : s.tier
  rw [ht, hs] at hott hrest
  simp_all

/-! ### A repair -/

/-- The well frame from which a page's data comes. -/
def State.wellHome (s : State) (j : Nat) : Nat := frameAddr (frameWell (ottHome (s.ott j)))

/-- The copies of a repair. -/
def State.rewriteFrames (s : State) (i j : Nat) : State :=
  let s1 := if ottPlace (s.ott i) = 0 ∨ ottPlace (s.ott i) = 1 then s.copyPage (s.wellHome j) (ottAddr (s.ott i)) else s
  if ottPlace (s.ott j) = 2 ∧ ottRes (s.ott j) then s1.copyPage (s.wellHome j) (ottAddr (s.ott j)) else s1

theorem rewriteFrames_frame : Frame [.mem] s (s.rewriteFrames i j) := by
  unfold State.rewriteFrames
  extract_lets s1
  have h1 : Frame [.mem] s s1 := .ite .copyPage .refl
  exact .ite (h1.step .copyPage) h1

theorem rewriteFrames_tier : (s.rewriteFrames i j).tier = s.tier := by
  unfold State.rewriteFrames
  extract_lets s1
  have h1 : s1.tier = s.tier := by
    unfold s1
    split
    · exact copyPage_tier
    · rfl
  split
  · exact copyPage_tier.trans h1
  · exact h1

theorem rewriteFrames_mem_congr (hmem : t.mem = s.mem) (hott : t.tier.ott = s.tier.ott) : (t.rewriteFrames i j).mem = (s.rewriteFrames i j).mem := by
  unfold State.rewriteFrames State.wellHome
  rw [ott_congr hott]
  extract_lets t1 s1
  have h1 : t1.mem = s1.mem := by
    unfold t1 s1
    split
    · exact copyPage_mem_congr hmem
    · exact hmem
  split
  · exact copyPage_mem_congr h1
  · exact h1

/-- What a repair leaves. -/
structure Repaired (s t : State) (i j : Nat) : Prop where
  refetched : t.tier.refetched = insAsc j s.tier.refetched
  ott : t.tier.ott = s.tier.ott
  count : t.rd .ott 0 Reg.Ott.REFETCHES = (count31 (s.rd .ott 0 Reg.Ott.REFETCHES) 1).1
  irq : IrqSet t .ott 0 1
  mem : t.mem = (s.rewriteFrames i j).mem

/-- The source page is noted as refetched. -/
def State.noteRefetched (s : State) (j : Nat) : State := { s with tier := { s.tier with refetched := insAsc j s.tier.refetched } }

theorem refetch_eq : s.refetch i j = (((s.rewriteFrames i j).noteRefetched j).count .ott 0 Reg.Ott.REFETCHES Reg.Ott.REFETCHES_SAT 1).irq .ott
    (some (ottPart (s.ott i))) 1 := rfl

theorem refetch_repairs : Repaired s (s.refetch i j) i j := by
  have hframe : Frame [.mem] s (s.rewriteFrames i j) := rewriteFrames_frame
  have htier : (s.rewriteFrames i j).tier = s.tier := rewriteFrames_tier
  rw [refetch_eq]
  generalize hu : s.rewriteFrames i j = u at hframe htier ⊢
  have hregs : (u.noteRefetched j).regs = s.regs := hframe.same .regs (by decide)
  refine ⟨?_, ?_, ?_, irqSet_irq_page _ (by decide), ?_⟩
  · rw [State.irq_tier, State.count_tier, State.noteRefetched, htier]
  · rw [State.irq_tier, State.count_tier, State.noteRefetched, htier]
  · rw [rd_irq_page (by decide) (by decide), State.rd_count_self (by decide) rfl,
      State.rd_of_regs hregs]
  · rw [State.irq_mem, State.count_mem, hu]
    rfl

/-! ### A loss -/

/-- What a loss leaves. -/
structure Lost (s t : State) (j : Nat) : Prop where
  bad : ottBad (t.ott j) = true
  others : ∀ k, k ≠ j → t.ott k = s.ott k
  mem : t.mem = s.mem
  refetched : t.tier.refetched = s.tier.refetched
  count : t.rd .lpddr 0 (Reg.Hdr.ERR_CNT 1) = (count31 (s.rd .lpddr 0 (Reg.Hdr.ERR_CNT 1)) 1).1

theorem setBad_loses : Lost s ((s.setBad j).errCount .lpddr 0 1 1) j := by
  have hott (k : Nat) : ((s.setBad j).errCount .lpddr 0 1 1).ott k = if k = j then setField (s.ott j) 10 1 1 % 2 ^ 64 else s.ott k := by
    rw [State.ott, State.errCount_tier, ← State.ott, State.setBad, State.ott_setOtt]
  have hframe : Frame (.ott :: eventParts) s ((s.setBad j).errCount .lpddr 0 1 1) := (Frame.refl.step .setBad).step .errCount
  have hrest : { ((s.setBad j).errCount .lpddr 0 1 1).tier with ott := [] } = { s.tier with ott := [] } := hframe.same .tierRest (by decide)
  have hregs : (s.setBad j).regs = s.regs := Frame.setBad.same .regs (by decide)
  refine ⟨?_, fun k hk => (hott k).trans (if_neg hk), hframe.same .mem (by decide), (congrArg TierS.refetched hrest :), ?_⟩
  swap
  · rw [State.rd_errCount_self, State.rd_of_regs hregs]
  rw [hott, if_pos rfl, ottBad, bitAt_mod (by decide)]
  exact bitAt_setField_one ..

/-! ### The whole -/

theorem Repaired.of_frame (h : Repaired u t i j) (hf : Frame [.weirs] s u) : Repaired s t i j := by
  obtain ⟨hre, hott, hcount, hirq, hmem⟩ := h
  have htier : u.tier = s.tier := tier_of_frame hf (by decide) (by decide)
  have hregs : u.regs = s.regs := hf.same .regs (by decide)
  exact ⟨hre.trans (by rw [htier]), hott.trans (by rw [htier]), hcount.trans (by rw [State.rd_of_regs hregs]), hirq,
    hmem.trans (rewriteFrames_mem_congr (hf.same .mem (by decide)) (by rw [htier]))⟩

theorem Repaired.step (h : Repaired s u i j) (hf : Frame [.arrays] u t) : Repaired s t i j := by
  obtain ⟨hre, hott, hcount, hirq, hmem⟩ := h
  have htier : t.tier = u.tier := tier_of_frame hf (by decide) (by decide)
  have hregs : t.regs = u.regs := hf.same .regs (by decide)
  refine ⟨by rwa [htier], by rwa [htier], by rwa [State.rd_of_regs hregs], ?_, (hf.same .mem (by decide)).trans hmem⟩
  rwa [IrqSet, State.rd_of_regs hregs]

theorem Lost.step (h : Lost s u j) (hf : Frame [.arrays] u t) : Lost s t j := by
  obtain ⟨hbad, hothers, hmem, hre, hcount⟩ := h
  have htier : t.tier = u.tier := tier_of_frame hf (by decide) (by decide)
  have hregs : t.regs = u.regs := hf.same .regs (by decide)
  have hott : t.ott = u.ott := ott_congr (by rw [htier])
  exact ⟨by rwa [hott], fun k hk => (congrFun hott k).trans (hothers k hk), (hf.same .mem (by decide)).trans hmem, by rwa [htier],
    by rwa [State.rd_of_regs hregs]⟩

theorem Lost.of_frame (h : Lost u t j) (hf : Frame [.weirs] s u) : Lost s t j := by
  obtain ⟨hbad, hothers, hmem, hre, hcount⟩ := h
  have htier : u.tier = s.tier := tier_of_frame hf (by decide) (by decide)
  have hregs : u.regs = s.regs := hf.same .regs (by decide)
  exact ⟨hbad, fun k hk => (hothers k hk).trans (congrFun (ott_congr (by rw [htier])) k), hmem.trans (hf.same .mem (by decide)),
    hre.trans (by rw [htier]), hcount.trans (by rw [State.rd_of_regs hregs])⟩

theorem rewriteFrames_mem : (s.rewriteFrames i j).mem = (if ottPlace (s.ott j) = 2 ∧ ottRes (s.ott j) = true then
    ((if ottPlace (s.ott i) < 2 then s.copyPage (s.wellHome j) (ottAddr (s.ott i)) else s).copyPage (s.wellHome j) (ottAddr (s.ott j))).mem
    else (if ottPlace (s.ott i) < 2 then s.copyPage (s.wellHome j) (ottAddr (s.ott i)) else s).mem) := by
  have hplace : (ottPlace (s.ott i) = 0 ∨ ottPlace (s.ott i) = 1) = (ottPlace (s.ott i) < 2) := propext (by omega)
  unfold State.rewriteFrames
  simp only [hplace]
  split <;> rfl

end

/-- Settles O15: the lines that pass end in a repair or a loss, and held lines in neither. -/
theorem refetchRepairsOrMarksBad : Obligations.RefetchRepairsOrMarksBad := by
  intro s a i j x ha hmop hcrc hsrc hon
  have hexec := weightRefetch_eq hmop hcrc hsrc hon
  have hissue : Frame [.weirs] s (s.refetchIssue i j x).1 := refetchIssue_frame
  have harr : ((s.refetchIssue i j x).1.arr a).mop = some x :=
    (congrArg ArrayS.mop (State.arr_of_arrays (hissue.same .arrays (by decide)) a)).trans hmop
  refine ⟨fun htokens hwell => ?_, fun hholds hline ok => ?_⟩
  · have hall : (s.refetchIssue i j x).2 = 1024 - x.refetchLine := issueLines_all fun w hw hen => by
      have htok := htokens w (refetchWeirs_lt hw) hen
      omega
    have hlost : (s.refetchIssue i j x).1.meetFrame (ottHome ((s.refetchIssue i j x).1.ott j)) = ((s.refetchIssue i j x).1, false) :=
      meetFrame_clean ((hissue.same .wellErrs (by decide) : _ = _).trans hwell)
    have hdone : ¬ x.refetchLine + (s.refetchIssue i j x).2 < 1024 := by omega
    simp only [hdone, hlost, if_false] at hexec
    generalize (s.refetchIssue i j x).1 = u at hissue harr hexec
    have hrepair := hexec true
    have hloss := hexec false
    simp only [Bool.not_false, Bool.and_true, if_true, Bool.false_eq_true, if_false] at hrepair hloss
    refine ⟨fun home v hhome hv => ⟨_, hrepair, ?_⟩, _, hloss, ?_⟩
    · have harrays : (u.refetch i j).arrays = u.arrays := Frame.refetch.same .arrays (by decide)
      obtain ⟨hre, hott, hcount, hirq, hmem⟩ := (refetch_repairs.of_frame hissue).step
        (Frame.modRefetch : Frame [.arrays] _ ((u.refetch i j).modRefetch i fun y => { y with crcPage := none, refetchLine := 0 }))
      refine ⟨modRefetch_mop ha ((congrArg ArrayS.mop (State.arr_of_arrays harrays a)).trans harr) hcrc, hre, hott, hcount, hirq, hmem.trans ?_⟩
      rw [rewriteFrames_mem, State.wellHome, ← hhome, ← hv]
    · have harrays : ((u.setBad j).errCount .lpddr 0 1 1).arrays = u.arrays :=
        ((Frame.refl.step .setBad).step .errCount : Frame (.ott :: eventParts) _ _).same .arrays (by decide)
      have hlostBad : Lost s ((u.setBad j).errCount .lpddr 0 1 1) j := setBad_loses.of_frame hissue
      generalize (u.setBad j).errCount .lpddr 0 1 1 = w at harrays hlostBad ⊢
      obtain ⟨hbad, hothers, hmem, hre, hcount⟩ :=
        hlostBad.step (Frame.modRefetch : Frame [.arrays] _ (w.modRefetch i fun y => { y with crcPage := none, refetchLine := 0 }))
      exact ⟨modRefetch_mop ha ((congrArg ArrayS.mop (State.arr_of_arrays harrays a)).trans harr) hcrc, hbad, hothers, hmem, hre, hcount⟩
  · have hnone : (s.refetchIssue i j x).2 = 0 := issueLines_none hholds refetchWeirs_lpddr
    have hmore : x.refetchLine + (s.refetchIssue i j x).2 < 1024 := by omega
    have hheld := hexec ok
    rw [if_pos hmore, hnone] at hheld
    have hmod {f : Mop → Mop} : Frame [.arrays] (s.refetchIssue i j x).1 ((s.refetchIssue i j x).1.modRefetch i f) := Frame.modRefetch
    refine ⟨_, hheld, (modRefetch_mop ha harr hcrc).trans rfl, ?_, (hmod.same .mem (by decide)).trans (hissue.same .mem (by decide)),
      (hmod.same .regs (by decide)).trans (hissue.same .regs (by decide))⟩
    exact (tier_of_frame hmod (by decide) (by decide)).trans (tier_of_frame hissue (by decide) (by decide))

end Sys2Proof.Machine
end

section
/-! The DMA engines: how a descriptor begins, and how many lines it may issue (R190 to R192, R220). -/

namespace Sys2Proof.Machine

set_option Elab.async false

section
variable {s t u v : State} {a ctx mode left : Nat} {r q : DmaRun} {d : DmaDesc} {ks : List Nat} {part : Option Nat}

/-! ### What a descriptor's begin leaves alone -/

theorem dma_setDma_self {x : DmaS} : (s.setDma a x).dma a = x := by
  simp only [State.dma, State.setDma, SMap.get_set_self]

/-- The register that shows a context's transactions in flight. -/
def inflightKey (a ctx k : Nat) : Prop := k = regKey (.dma a) ctx Reg.Dma.INFLIGHT

/-- In v the context's run is r, beside the runs that stood in s; nothing else has changed but its INFLIGHT. -/
structure DmaRuns (s v : State) (a ctx : Nat) (r : DmaRun) : Prop where
  frame : Frame [.regs, .dmas] s v
  regs : RegsIn (inflightKey a ctx) s v
  runs : (v.dma a).runs = (s.dma a).runs ++ [r]

theorem filter_of_find_none {l : List DmaRun} (h : (l.find? fun x => x.ctx == ctx) = none) : (l.filter fun x => x.ctx != ctx) = l := by
  refine List.filter_eq_self.mpr fun x hx => ?_
  have hne := List.find?_eq_none.mp h x hx
  simpa using hne

theorem dma_putRun : (s.putRun a r).dma a = { s.dma a with runs := ((s.dma a).runs.filter fun x => x.ctx != r.ctx) ++ [r] } := dma_setDma_self

theorem runs_putRun : ((s.putRun a r).dma a).runs = ((s.dma a).runs.filter fun x => x.ctx != r.ctx) ++ [r] := by rw [dma_putRun]

theorem putRun_last : ((s.putRun a r).dma a).last = (s.dma a).last := by rw [dma_putRun]

theorem putRun_regs : RegsIn (inflightKey a r.ctx) s (s.putRun a r) := (RegsIn.of_regs rfl : RegsIn _ s (s.setDma a _)).trans (.wr rfl)

theorem DmaRuns.first {l : List Nat} (hnone : ((s.dma a).runs.find? fun x => x.ctx == ctx) = none) (hr : r.ctx = ctx) :
    DmaRuns s ((s.setDma a { s.dma a with released := l }).putRun a r) a ctx r := by
  refine ⟨(Frame.refl.step .setDma).step .putRun, ?_, ?_⟩
  · exact (RegsIn.of_regs rfl : RegsIn _ s (s.setDma a _)).trans (hr ▸ putRun_regs)
  · rw [runs_putRun, dma_setDma_self, hr, filter_of_find_none hnone]

theorem DmaRuns.putRun (h : DmaRuns s v a ctx r) (hnone : ((s.dma a).runs.find? fun x => x.ctx == ctx) = none) (hr : r.ctx = ctx) (hq : q.ctx = ctx) :
    DmaRuns s (v.putRun a q) a ctx q := by
  obtain ⟨hframe, hregs, hruns⟩ := h
  refine ⟨hframe.step .putRun, hregs.trans (hq ▸ putRun_regs), ?_⟩
  rw [runs_putRun, hruns, hq, List.filter_append, filter_of_find_none hnone]
  simp [hr]

theorem DmaRuns.find (h : DmaRuns s v a ctx r) (hnone : ((s.dma a).runs.find? fun x => x.ctx == ctx) = none) (hr : r.ctx = ctx) :
    ((v.dma a).runs.find? fun x => x.ctx == ctx) = some r := by
  rw [h.runs, List.find?_append, hnone]
  simp [hr]

/-- What it issued last does not count among the runs. -/
theorem DmaRuns.issuedBy (h : DmaRuns s v a ctx r) : DmaRuns s (v.issuedBy a ctx) a ctx r := by
  obtain ⟨hframe, hregs, hruns⟩ := h
  exact ⟨hframe.step .issuedBy, hregs.trans (.of_regs rfl), (congrArg DmaS.runs dma_setDma_self).trans hruns⟩

theorem not_inflightKey {p : Page} {b : Nat} {f : Fld} (hf : f.off < 0x1000 ∧ f.off ≠ 0x110 ∧ f.lsb < 32) (hp : p.base % 0x1000 = 0) :
    ¬ inflightKey a ctx (regKey p b f) := by
  simp only [inflightKey, regKey, Page.base] at hp ⊢
  omega

/-! ### What the engines read -/

theorem transAddr_congr (h : t.tier.ott = s.tier.ott) : t.transAddr = s.transAddr := by
  funext x
  rw [State.transAddr, State.transAddr, ott_congr h]

theorem lineWeirs_congr (h : t.tier.ott = s.tier.ott) : t.lineWeirs = s.lineWeirs := by
  funext x
  rw [State.lineWeirs, State.lineWeirs, ott_congr h]

theorem dmaEnd_congr (h : t.tier.ott = s.tier.ott) {base addr : Nat} {wr : Bool} : t.dmaEnd ctx base addr wr = s.dmaEnd ctx base addr wr := by
  unfold State.dmaEnd
  rw [ott_congr h]

theorem ownT0_congr (h : t.tier.ott = s.tier.ott) {x : Nat} : t.ownT0 a x = s.ownT0 a x := by
  rw [State.ownT0, State.ownT0, ott_congr h]

theorem weirHolds_of_frame {F : List Part} (h : Frame F s t) (hw : Part.weirs ∉ F) (hc : Part.weirCfg ∉ F) {p k : Nat} :
    t.weirHolds p k = s.weirHolds p k := by
  have hweirs : (t.parts.tokens, t.parts.held) = (s.parts.tokens, s.parts.held) := h.same .weirs hw
  have hcfg : (t.parts.budget, t.parts.weirEn) = (s.parts.budget, s.parts.weirEn) := h.same .weirCfg hc
  have htokens : t.parts.tokens = s.parts.tokens := congrArg Prod.fst hweirs
  have hen : t.parts.weirEn = s.parts.weirEn := congrArg Prod.snd hcfg
  rw [State.weirHolds, State.weirHolds, State.tokens, State.tokens, htokens, hen]

theorem ctxPart_of_frame {F : List Part} (h : Frame F s t) (ha : Part.assign ∉ F) {b : Nat} : t.ctxPart a b = s.ctxPart a b := by
  rw [State.ctxPart, State.ctxPart, assignOf_of_assign (congrArg Prod.fst (h.same .assign ha))]

theorem DmaRuns.dmaDesc_eq (h : DmaRuns s v a ctx r) (b : Nat) : v.dmaDesc a b = s.dmaDesc a b := by
  have hmem : v.mem = s.mem := h.frame.same .mem (by decide)
  rw [State.dmaDesc, State.dmaDesc, h.regs.rd_eq (not_inflightKey (by decide) (by simp only [Page.base]; omega)),
    h.regs.rd_eq (not_inflightKey (by decide) (by simp only [Page.base]; omega)), State.bytes, State.bytes, hmem]

theorem DmaRuns.runReady_eq (h : DmaRuns s v a ctx r) : v.runReady a = s.runReady a := by
  obtain ⟨hframe, -, -⟩ := id h
  have hott : v.tier.ott = s.tier.ott := hframe.same .ott (by decide)
  have hdom : v.domOn = s.domOn := funext (domOn_of_power (power_eq_of_frame hframe (by decide) (by decide) (by decide) (by decide)))
  have hweir : v.weirHolds = s.weirHolds := funext fun _ => funext fun _ => weirHolds_of_frame hframe (by decide) (by decide)
  funext x
  simp only [State.runReady, h.dmaDesc_eq, lineWeirs_congr hott, transAddr_congr hott, hdom, hweir, ctxPart_of_frame hframe (by decide)]

theorem sumNat_append_zero {l : List Nat} : sumNat (l ++ [0]) = sumNat l := by
  rw [sumNat, List.foldl_append]
  rfl

/-- A descriptor that has no line in flight leaves the engine's room as it was. -/
theorem DmaRuns.dmaBudget_eq (h : DmaRuns s v a ctx r) (hr : r.ctx = ctx) (hflight : r.flight = 0) (hlast : (v.dma a).last = (s.dma a).last) :
    v.dmaBudget a ctx = s.dmaBudget a ctx := by
  have hfly : v.inFlight a = s.inFlight a := by
    rw [State.inFlight, h.runs, List.map_append, List.map_singleton, hflight, sumNat_append_zero]
    rfl
  have hany : ((v.dma a).runs.any fun x => x.ctx != ctx && v.runReady a x) = (s.dma a).runs.any fun x => x.ctx != ctx && s.runReady a x := by
    rw [h.runs, h.runReady_eq, List.any_append]
    simp [hr]
  rw [State.dmaBudget, State.dmaBudget, hfly, hany, hlast]

/-! ### The begin -/

/-- A descriptor stands to be begun by an engine: the context runs, nothing of it is in flight, and the descriptor at DPC waits on nothing. -/
structure DmaReady (s : State) (a ctx mode : Nat) (d : DmaDesc) : Prop where
  mine : (s.ctxs a).contains ctx = true
  running : s.st (.dma a) ctx = 1
  on : s.domOn (2 + a) = true
  none : ((s.dma a).runs.find? fun r => r.ctx == ctx) = none
  desc : s.dmaDesc a ctx = some d
  good : d.bad = false
  mode : d.mode = mode
  free : d.waitEn = false

/-- The run with which a descriptor begins. -/
def openedRun (ctx : Nat) (fill : Bool) : DmaRun := { ctx := ctx, fill := fill }

/-- The state in which a descriptor begins. -/
def State.dmaBegin (s : State) (a ctx : Nat) (fill : Bool) : State :=
  (s.setDma a { s.dma a with released := (s.dma a).released.filter fun c => c != ctx }).putRun a (openedRun ctx fill)

theorem dmaStart_of_ready {transfer : State → DmaDesc → DmaRun → State} (h : DmaReady s a ctx mode d) :
    s.dmaStart a ctx mode transfer = transfer (s.dmaBegin a ctx (mode == 1)) d (openedRun ctx (mode == 1)) := by
  obtain ⟨hmine, hrun, hon, hnone, hdesc, hgood, hmode, hfree⟩ := h
  have hgate : s.dmaGate a ctx d = (s, true) := by
    unfold State.dmaGate
    rw [hfree]
    rfl
  unfold State.dmaStart
  extract_lets p
  rw [hmine, show s.st p ctx = 1 from hrun, hon, if_neg (by decide), hnone]
  dsimp only
  rw [if_neg (by decide), hdesc]
  dsimp only
  rw [hgood, if_neg (by decide), if_neg (not_not_intro hmode), hgate]
  rfl

theorem dmaBegin_runs (h : DmaReady s a ctx mode d) {fill : Bool} : DmaRuns s (s.dmaBegin a ctx fill) a ctx (openedRun ctx fill) := .first h.none rfl

theorem dmaBegin_last {fill : Bool} : ((s.dmaBegin a ctx fill).dma a).last = (s.dma a).last := by
  rw [State.dmaBegin, putRun_last, dma_setDma_self]

/-! ### The lines of one command -/

/-- Where the limit holds the rest of a context's lines, its wait begins. -/
def State.limitRun (s : State) (a ctx : Nat) : State :=
  if 16384 ≤ s.inFlight a then (match (s.dma a).runs.find? fun x => x.ctx == ctx with
    | some x => if x.done then s else s.putRun a { x with since := some s.now }
    | none => s) else s

theorem limitRun_of_done (h : ((s.dma a).runs.find? fun x => x.ctx == ctx) = none ∨
    ∃ x, ((s.dma a).runs.find? fun x => x.ctx == ctx) = some x ∧ x.done = true) : s.limitRun a ctx = s := by
  unfold State.limitRun
  split
  · obtain hnone | ⟨x, hx, hdone⟩ := h
    · rw [hnone]
    · rw [hx]
      exact if_pos hdone
  · rfl

/-- The state in which a descriptor's lines are issued. -/
def State.dmaIssue (s : State) (a ctx : Nat) (fill : Bool) : State := ((s.dmaBegin a ctx fill).putRun a (openedRun ctx fill)).issuedBy a ctx

theorem dmaIssue_runs (h : DmaReady s a ctx mode d) {fill : Bool} : DmaRuns s (s.dmaIssue a ctx fill) a ctx (openedRun ctx fill) :=
  ((dmaBegin_runs h).putRun h.none rfl rfl).issuedBy

theorem issueRun_of_ready {fill : Bool} {go : State → DmaRun → Nat → State} (h : DmaReady s a ctx mode d) (hbudget : 0 < min left (s.dmaBudget a ctx)) :
    (s.dmaBegin a ctx fill).issueRun a (openedRun ctx fill) left go =
      (go (s.dmaIssue a ctx fill) (openedRun ctx fill) (min left (s.dmaBudget a ctx))).limitRun a ctx := by
  have hbegin : DmaRuns s (s.dmaBegin a ctx fill) a ctx (openedRun ctx fill) := dmaBegin_runs h
  have hput : DmaRuns s ((s.dmaBegin a ctx fill).putRun a (openedRun ctx fill)) a ctx (openedRun ctx fill) := hbegin.putRun h.none rfl rfl
  have hsettle : (s.dmaBegin a ctx fill).settleDma a ctx = s.dmaBegin a ctx fill := by
    rw [State.settleDma, hbegin.find h.none rfl]
    rfl
  have hroom : ((s.dmaBegin a ctx fill).putRun a (openedRun ctx fill)).dmaBudget a ctx = s.dmaBudget a ctx :=
    hput.dmaBudget_eq rfl rfl (putRun_last.trans dmaBegin_last)
  unfold State.issueRun
  extract_lets s1 r1 s2 k s3
  have hs1 : s1 = s.dmaBegin a ctx fill := hsettle
  have hr1 : r1 = openedRun ctx fill := rfl
  have hs2 : s2 = (s.dmaBegin a ctx fill).putRun a (openedRun ctx fill) := congrArg (fun u : State => u.putRun a (openedRun ctx fill)) hs1
  have hk : k = min left (s.dmaBudget a ctx) := congrArg (min left) ((congrArg (fun u : State => u.dmaBudget a ctx) hs2).trans hroom)
  rw [if_neg (by omega)]
  have hs3 : s3 = go (s.dmaIssue a ctx fill) (openedRun ctx fill) (min left (s.dmaBudget a ctx)) := by
    unfold s3
    rw [hs2, hk]
    rfl
  rw [hs3]
  rfl

end

end Sys2Proof.Machine
end

section
/-! A DMA copy of one line, and a source that an entry refuses (R177, R191, R194). -/

namespace Sys2Proof.Machine

set_option Elab.async false

section
variable {s u w : State} {a ctx c x y : Nat} {r : DmaRun} {d : DmaDesc} {ks : List Nat} {part : Option Nat}

/-! ### A line -/

/-- A line that no weir holds is issued. -/
theorem issueLine_free (h : ∀ p, part = some p → ∀ k, s.weirHolds p k = false) : ∃ u, s.issueLine part ks = (u, true) ∧ Frame [.weirs] s u := by
  unfold State.issueLine
  cases part with
  | none => exact ⟨s, rfl, .refl⟩
  | some p =>
    have hfree : (ks.filter fun k => s.weirHolds p k) = [] := List.filter_eq_nil_iff.mpr fun k _ => by simp [h p rfl k]
    dsimp only
    rw [hfree]
    exact ⟨_, rfl, .foldl fun _ _ => .chargeWeir⟩

theorem line_of_single (h : d.rowBytes = 64) : d.line 0 = (d.src, d.dst) := by
  rw [DmaDesc.line, h]
  simp

/-- A line that ends in its page holds what was read. -/
theorem putLine_byte (hy : y % pageBytes + 64 ≤ pageBytes) (z : Nat) :
    (s.putLine ctx y (w.bytes x 64)).byte z =
      if s.transAddr y ≤ z ∧ z < s.transAddr y + 64 then w.byte (z - s.transAddr y + x) else s.byte z := by
  have hlen : (w.bytes x 64).length = 64 := Memory.length_bytes ..
  have hmark : (s.putLine ctx y (w.bytes x 64)).mem = (s.store (s.transAddr y) (w.bytes x 64)).mem := by
    have htake : (w.bytes x 64).take (pageBytes - y % pageBytes) = w.bytes x 64 := List.take_of_length_le (by omega)
    unfold State.putLine
    extract_lets i cut s1
    rw [if_neg (by omega)]
    unfold s1
    rw [htake]
    exact Frame.copyMark.same .mem (by decide)
  rw [State.byte_of_mem hmark, State.byte_store]
  by_cases hz : s.transAddr y ≤ z ∧ z < s.transAddr y + 64
  · rw [dif_pos (by omega), if_pos hz]
    simp only [State.bytes, Memory.getElem_bytes, State.byte]
    congr 1
    omega
  · rw [dif_neg (by omega), if_neg hz]

/-! ### A fault -/

/-- What a fault of a DMA list leaves. -/
structure DmaFaulted (s t : State) (a ctx c : Nat) : Prop where
  st : t.st (.dma a) ctx = 3
  code : t.rd (.dma a) ctx Reg.Dma.DMA_FAULT = c % 2 ^ 8
  index : t.rd (.dma a) ctx Reg.Dma.FAULT_IDX = s.rd (.dma a) ctx Reg.Dma.DPC % 2 ^ 16
  irq : IrqSet t (.dma a) 0 1
  runs : ∀ r ∈ (t.dma a).runs, r.ctx ≠ ctx
  mem : t.mem = s.mem

theorem dmaFault_faults : DmaFaulted s (s.dmaFault a ctx c) a ctx c := by
  have hframe : Frame (.dmas :: eventParts) s (s.dmaFault a ctx c) := .dmaFault
  have hmem : (s.dmaFault a ctx c).mem = s.mem := hframe.same .mem (by decide)
  unfold State.dmaFault at hmem ⊢
  extract_lets p src s1 s2 at hmem ⊢
  have hdma : s1.dma a = { s.dma a with runs := (s.dma a).runs.filter fun r => r.ctx != ctx,
                                        released := (s.dma a).released.filter fun c => c != ctx } := dma_setDma_self
  have hlast {f : Fld} (hf : f.off ≠ 0x010 ∧ f.off < 0x1000) (hl : f.lsb < 32) (hs : f.off ≠ 0x008) (hi : f.off ≠ 0x110) :
      (((s2.wr p ctx Reg.Hdr.STOP_REQ 0).wr p ctx Reg.Dma.INFLIGHT 0).irq p (s2.ctxPart a ctx) 1).rd p ctx f = s2.rd p ctx f := by
    rw [rd_irq_page hf hl, State.rd_wr_other _ _ (regKey_ne_of_off hi hl (by decide)), State.rd_wr_other _ _ (regKey_ne_of_off hs hl (by decide))]
  have hstate {f : Fld} (hf : f.off = 0x118 ∧ f.lsb < 32) : regKey p ctx f ≠ regKey p ctx (stateFld p) := by
    simp only [regKey, stateFld]
    omega
  have hword : regKey p ctx Reg.Dma.DMA_FAULT ≠ regKey p ctx Reg.Dma.FAULT_IDX := by
    simp only [regKey]
    omega
  have hst : s2.rd p ctx (stateFld p) = 3 := State.rd_wr_self ..
  have hcode : s2.rd p ctx Reg.Dma.DMA_FAULT = c % 2 ^ 8 := by
    unfold s2
    rw [State.setSt, State.rd_wr_other _ _ (hstate (by decide)), State.rd_wr_other _ _ hword, State.rd_wr_self]
  have hidx : s2.rd p ctx Reg.Dma.FAULT_IDX = s.rd (.dma a) ctx Reg.Dma.DPC % 2 ^ 16 := by
    unfold s2
    rw [State.setSt, State.rd_wr_other _ _ (hstate (by decide)), State.rd_wr_self]
    rfl
  have hruns : s2.dma a = s1.dma a := rfl
  clear_value s2
  refine ⟨?_, (hlast (by decide) (by decide) (by decide) (by decide)).trans hcode, (hlast (by decide) (by decide) (by decide) (by decide)).trans hidx,
    irqSet_irq_page _ (by decide), fun r hr => ?_, hmem⟩
  · exact (hlast (by simp [stateFld]) (by simp [stateFld]) (by simp [stateFld]) (by simp [stateFld])).trans hst
  · have hdmas : (((s2.wr p ctx Reg.Hdr.STOP_REQ 0).wr p ctx Reg.Dma.INFLIGHT 0).irq p (s2.ctxPart a ctx) 1).dma a = s2.dma a := by
      rw [State.dma, State.dma, State.irq_dmas]
      rfl
    rw [hdmas, hruns, hdma] at hr
    obtain ⟨-, hne⟩ := List.mem_filter.mp hr
    simpa using hne

/-! ### The copy -/

/-- What a one-line COPY leaves. -/
structure LineCopied (s t : State) (a ctx : Nat) (d : DmaDesc) : Prop where
  byte : ∀ x, t.byte x = if s.transAddr d.dst ≤ x ∧ x < s.transAddr d.dst + 64 then s.byte (x - s.transAddr d.dst + s.transAddr d.src) else s.byte x
  run : ∃ r ∈ (t.dma a).runs, r.ctx = ctx ∧ r.fill = false ∧ r.line = 1 ∧ r.done = true
  ott : t.tier.ott = s.tier.ott
  dpc : t.rd (.dma a) ctx Reg.Dma.DPC = s.rd (.dma a) ctx Reg.Dma.DPC

/-- The conditions under which a line moves. -/
structure LineClear (s : State) (a ctx : Nat) (d : DmaDesc) : Prop where
  src : s.dmaEnd ctx d.src d.src false = none
  dst : s.dmaEnd ctx d.dst d.dst true = none
  upsets : s.upsets = []
  wellErrs : s.wellErrs = []
  own : s.ownT0 a d.src = true ∨ s.ownT0 a d.dst = true
  on : AllOn s [memDomain (s.transAddr d.src), memDomain (s.transAddr d.dst)]
  weirs : ∀ p, s.ctxPart a ctx = some p → ∀ k, s.weirHolds p k = false
  srcFits : d.src % pageBytes + 64 ≤ pageBytes
  dstFits : d.dst % pageBytes + 64 ≤ pageBytes

/-- A page's entry that refuses nothing is that of a translated address. -/
theorem transBase_le_of_dmaEnd {base addr : Nat} {wr : Bool} (h : s.dmaEnd ctx base addr wr = none) : transBase ≤ addr := by
  unfold State.dmaEnd at h
  split at h
  · exact absurd h (by simp)
  · extract_lets i0 lim one at h
    by_contra hlt
    have hone : one addr = some 2 := if_pos (.inl (by omega))
    rw [hone] at h
    exact absurd h (by simp)

/-- The run after one line of a COPY. -/
def copiedRun (ctx : Nat) : DmaRun := { ctx := ctx, line := 1, done := true, flight := 1 }

theorem copyLines_one (h : LineClear w a ctx d) (hrows : d.rows = 1) (hbytes : d.rowBytes = 64) :
    ∃ u, w.copyLines a (openedRun ctx false) d [] 0 1 = (u.putLine ctx d.dst (w.bytes (w.transAddr d.src) 64)).putRun a (copiedRun ctx) ∧
      Frame [.weirs, .tierRest] w u := by
  obtain ⟨hsrc, hdst, hup, hwell, hown, hon, hweirs, hfits, -⟩ := h
  obtain ⟨honSrc, honDst⟩ : w.domOn (memDomain (w.transAddr d.src)) = true ∧ w.domOn (memDomain (w.transAddr d.dst)) = true := by simpa using hon
  have hsrcOn : w.wakeAll [memDomain (w.transAddr d.src)] = (w, true) := State.wakeAll_of_allOn (by simpa using honSrc)
  obtain ⟨u, hissue, hu⟩ := issueLine_free (s := w) (part := w.ctxPart a ctx) (ks := (w.lineWeirs d.src ++ w.lineWeirs d.dst).eraseDups) hweirs
  obtain ⟨l, hread⟩ := readLine_within (s := u) ((hu.same .upsets (by decide) : _ = _).trans hup) ((hu.same .wellErrs (by decide) : _ = _).trans hwell) hfits
  have hv : Frame [.weirs, .tierRest] w (u.stampAll l) := (hu.mono (by decide)).step .stampAll
  have hott : (u.stampAll l).tier.ott = w.tier.ott := hv.same .ott (by decide)
  have howns : (!(u.stampAll l).ownT0 a d.src && !(u.stampAll l).ownT0 a d.dst) = false := by
    rw [ownT0_congr hott, ownT0_congr hott]
    obtain h | h := hown <;> simp [h]
  have hdstOn : (u.stampAll l).wakeAll [memDomain ((u.stampAll l).transAddr d.dst)] = (u.stampAll l, true) := by
    refine State.wakeAll_of_allOn ?_
    rw [transAddr_congr hott]
    simpa [domOn_of_power (power_eq_of_frame hv (by decide) (by decide) (by decide) (by decide))] using honDst
  have hdata : u.bytes (u.addrOf d.src) 64 = w.bytes (w.transAddr d.src) 64 := by
    have huott : u.tier.ott = w.tier.ott := hu.same .ott (by decide)
    have hmem : u.mem = w.mem := hu.same .mem (by decide)
    rw [State.addrOf, if_neg (Nat.not_lt.mpr (transBase_le_of_dmaEnd hsrc)), transAddr_congr huott, State.bytes, State.bytes, hmem]
  refine ⟨u.stampAll l, ?_, hv⟩
  unfold State.copyLines
  extract_lets c stop
  have hc : c = ctx := rfl
  clear_value c
  subst hc
  rw [line_of_single hbytes]
  dsimp only
  rw [hsrc]
  dsimp only
  rw [hsrcOn]
  dsimp only
  rw [if_neg (by decide), hdst, if_neg (by decide : ¬ (none : Option Nat).isSome = true), hissue]
  dsimp only
  rw [if_neg (by decide)]
  rw [show (([] : List (Nat × LineEvent)).find? fun q => q.1 == 0).map (fun q => q.2) = none from rfl, hread]
  dsimp only
  rw [howns, if_neg (by decide), hdstOn]
  dsimp only
  rw [if_neg (by decide), hdata]
  unfold State.copyLines
  rw [hrows, hbytes]
  rfl

/-! ### The command -/

theorem find_putRun : (((s.putRun a r).dma a).runs.find? fun x => x.ctx == r.ctx) = some r := by
  rw [runs_putRun, List.find?_append, List.find?_eq_none.mpr fun x hx => by simpa using (List.mem_filter.mp hx).2]
  simp

theorem limitRun_putRun (hr : r.ctx = ctx) (h : r.done = true) : (s.putRun a r).limitRun a ctx = s.putRun a r :=
  limitRun_of_done (.inr ⟨r, hr ▸ find_putRun, h⟩)

/-- A COPY of one line takes that line at once. -/
theorem dmaCopy_line (h : DmaReady s a ctx 0 d) (hrows : d.rows = 1) (hbytes : d.rowBytes = 64) (hbudget : 0 < s.dmaBudget a ctx) :
    exec (.dmaCopy a ctx []) s = .next (((s.dmaIssue a ctx false).copyLines a (openedRun ctx false) d [] 0 1).limitRun a ctx) := by
  have hleft : d.rows * (d.rowBytes / 64) - (openedRun ctx false).line = 1 := by rw [hrows, hbytes]; rfl
  have hone : min 1 (s.dmaBudget a ctx) = 1 := by omega
  have hrun := issueRun_of_ready (left := 1) (fill := false)
    (go := fun s r k => s.copyLines a r d [] r.line k) h (by omega)
  refine congrArg Host.Outcome.next ((dmaStart_of_ready h).trans ?_)
  rw [show ((0 : Nat) == 1) = false from rfl, hleft, hrun, hone]
  rfl

theorem LineClear.of_runs (h : LineClear s a ctx d) (hw : DmaRuns s w a ctx r) : LineClear w a ctx d := by
  obtain ⟨hframe, -, -⟩ := hw
  have hott : w.tier.ott = s.tier.ott := hframe.same .ott (by decide)
  have hpower := power_eq_of_frame hframe (by decide) (by decide) (by decide) (by decide)
  obtain ⟨hsrc, hdst, hup, hwell, hown, hon, hweirs, hfits, hfits'⟩ := h
  refine ⟨(dmaEnd_congr hott).trans hsrc, (dmaEnd_congr hott).trans hdst, (hframe.same .upsets (by decide) : _ = _).trans hup,
    (hframe.same .wellErrs (by decide) : _ = _).trans hwell, ?_, ?_, ?_, hfits, hfits'⟩
  · rwa [ownT0_congr hott, ownT0_congr hott]
  · rw [transAddr_congr hott]
    exact allOn_of_power hpower hon
  · intro p hp k
    rw [weirHolds_of_frame hframe (by decide) (by decide)]
    exact hweirs p (by rw [← ctxPart_of_frame hframe (by decide)]; exact hp) k

theorem copyLines_copies (h : LineClear s a ctx d) (hw : DmaRuns s w a ctx r) (hrows : d.rows = 1) (hbytes : d.rowBytes = 64) :
    LineCopied s ((w.copyLines a (openedRun ctx false) d [] 0 1).limitRun a ctx) a ctx d := by
  obtain ⟨u, hcopy, hu⟩ := copyLines_one (h.of_runs hw) hrows hbytes
  obtain ⟨hframe, hregs, -⟩ := hw
  have hott : u.tier.ott = s.tier.ott := (hu.same .ott (by decide) : _ = _).trans (hframe.same .ott (by decide))
  have hmem : u.mem = s.mem := (hu.same .mem (by decide) : _ = _).trans (hframe.same .mem (by decide))
  have hwmem : w.mem = s.mem := hframe.same .mem (by decide)
  have hwott : w.tier.ott = s.tier.ott := hframe.same .ott (by decide)
  generalize hv : u.putLine ctx d.dst (w.bytes (w.transAddr d.src) 64) = v at hcopy
  have hput : Frame [.mem, .arrays] u v := hv ▸ Frame.putLine
  rw [hcopy, limitRun_putRun (ctx := ctx) (r := copiedRun ctx) rfl rfl]
  refine ⟨fun x => ?_, ⟨copiedRun ctx, ?_, rfl, rfl, rfl, rfl⟩, ?_, ?_⟩
  · rw [State.byte_of_mem (Frame.putRun.same .mem (by decide)), ← hv, putLine_byte h.dstFits, transAddr_congr hott, transAddr_congr hwott,
      State.byte_of_mem hmem, State.byte_of_mem hwmem]
  · rw [runs_putRun]
    exact List.mem_append_right _ (List.mem_singleton_self _)
  · exact (Frame.putRun.same .ott (by decide) : _ = v.tier.ott).trans ((hput.same .ott (by decide)).trans hott)
  · have hdpc : ¬ inflightKey a ctx (regKey (.dma a) ctx Reg.Dma.DPC) := not_inflightKey (by decide) (by simp only [Page.base]; omega)
    have huv : v.regs = w.regs := (hput.same .regs (by decide) : _ = _).trans (hu.same .regs (by decide))
    calc (v.putRun a (copiedRun ctx)).rd (.dma a) ctx Reg.Dma.DPC
      _ = v.rd (.dma a) ctx Reg.Dma.DPC := putRun_regs.rd_eq hdpc
      _ = w.rd (.dma a) ctx Reg.Dma.DPC := State.rd_of_regs huv ..
      _ = s.rd (.dma a) ctx Reg.Dma.DPC := hregs.rd_eq hdpc

theorem copyLines_refused (hbytes : d.rowBytes = 64) (h : w.dmaEnd ctx d.src d.src false = some c) :
    (w.copyLines a (openedRun ctx false) d [] 0 1).limitRun a ctx = w.dmaFault a ctx c := by
  have hfault : w.copyLines a (openedRun ctx false) d [] 0 1 = w.dmaFault a ctx c := by
    unfold State.copyLines
    extract_lets k stop
    rw [line_of_single hbytes]
    dsimp only
    rw [show k = ctx from rfl, h]
  rw [hfault]
  exact limitRun_of_done (.inl (List.find?_eq_none.mpr fun r hr => by simpa using dmaFault_faults.runs r hr))

end

/-- Settles O24: the run that the command opens changes nothing that the line's checks read, so they hold when it is issued. -/
theorem dmaCopyMovesItsLine : Obligations.DmaCopyMovesItsLine := by
  intro s a ctx d _ hmine hrun hon hnone hdesc hgood hmode hfree hrows hbytes hbudget
  have hready : DmaReady s a ctx 0 d := ⟨hmine, hrun, hon, hnone, hdesc, hgood, hmode, hfree⟩
  have hissue : DmaRuns s (s.dmaIssue a ctx false) a ctx (openedRun ctx false) := dmaIssue_runs hready
  refine ⟨fun hsrc hdst hup hwell hown hAll hweirs hfits hfits' => ?_, fun c hsrc => ?_⟩
  · obtain ⟨hbyte, ⟨r, hr, hctx, hfill, hline, hdone⟩, hott, hdpc⟩ :=
      copyLines_copies ⟨hsrc, hdst, hup, hwell, hown, hAll, hweirs, hfits, hfits'⟩ hissue hrows hbytes
    exact ⟨_, dmaCopy_line hready hrows hbytes hbudget, hbyte, ⟨r, hr, hctx, hfill, hline, hdone⟩, hott, hdpc⟩
  · have hframe : Frame [.regs, .dmas] s (s.dmaIssue a ctx false) := hissue.frame
    have hdpc : (s.dmaIssue a ctx false).rd (.dma a) ctx Reg.Dma.DPC = s.rd (.dma a) ctx Reg.Dma.DPC :=
      hissue.regs.rd_eq (not_inflightKey (by decide) (by simp only [Page.base]; omega))
    obtain ⟨hst, hcode, hidx, hirq, hruns, hmem⟩ := dmaFault_faults (s := s.dmaIssue a ctx false) (a := a) (ctx := ctx) (c := c)
    have hnext := dmaCopy_line hready hrows hbytes hbudget
    rw [copyLines_refused hbytes ((dmaEnd_congr (hframe.same .ott (by decide))).trans hsrc)] at hnext
    exact ⟨_, hnext, hst, hcode, hdpc ▸ hidx, hirq, hruns, hmem.trans (hframe.same .mem (by decide))⟩

end Sys2Proof.Machine
end

section
/-! A DMA fill of one page, and the end of a descriptor (R189, R191, R196). -/

namespace Sys2Proof.Machine

set_option Elab.async false

section
variable {s t w : State} {a b ctx f i j k n p base : Nat} {r : DmaRun} {d : DmaDesc}

/-! ### Room in the cistern -/

/-- A use within the bound evicts nothing. -/
theorem evictTo_of_le (h : s.useT1 p ≤ n) : s.evictTo p n k = (s, true) := by
  cases k with
  | zero => exact congrArg (Prod.mk s) (decide_eq_true h)
  | succ k => exact if_pos h

/-- A quota that covers the use, the fills in progress and one page more has room as it stands. -/
theorem roomT1_of_fits (hover : s.overQuota p = false) (hfits : s.useT1 p + s.filling p + 1 ≤ s.quota p) : s.roomT1 p 1 = some s := by
  have hquota : (s.overQuota p || decide (s.quota p < 1 + s.filling p)) = false := by
    rw [hover, decide_eq_false (by omega)]
    rfl
  unfold State.roomT1
  extract_lets need
  rw [hquota, if_neg (by decide), evictTo_of_le (by omega)]
  rfl

/-- A page that can begin to fill, and the frame that it takes. -/
structure CanFill (s : State) (i p f : Nat) : Prop where
  valid : ottValid (s.ott i) = true
  place : ottPlace (s.ott i) = 2
  part : ottPart (s.ott i) = p
  res : ottRes (s.ott i) = false
  mig : ottMig (s.ott i) = false
  inQuota : s.overQuota p = false
  fits : s.useT1 p + s.filling p + 1 ≤ s.quota p
  free : s.freeT1 = some f
  clean : s.tier.dirty.contains (frameT1 f) = false

theorem fillPage_begins (h : CanFill s i p f) : s.fillPage i = s.startFill i f 1024 := by
  obtain ⟨hvalid, hplace, hpart, hres, hmig, hover, hfits, hfree, hclean⟩ := h
  unfold State.fillPage
  extract_lets e
  rw [show (!ottValid e || ottPlace e != 2) = false by simp [e, hvalid, hplace], if_neg (by decide), show ottRes e = false from hres,
    if_neg (by decide), show ottMig e = false from hmig, if_neg (by decide), show ottPart e = p from hpart, roomT1_of_fits hover hfits]
  dsimp only
  rw [hfree]
  dsimp only
  rw [State.beginFill, State.claim, hclean, if_neg (by decide)]

theorem fillPage_stamps (hvalid : ottValid (s.ott i) = true) (hplace : ottPlace (s.ott i) = 2) (hres : ottRes (s.ott i) = true) :
    s.fillPage i = s.stampPage i := by
  unfold State.fillPage
  extract_lets e
  rw [show (!ottValid e || ottPlace e != 2) = false by simp [e, hvalid, hplace], if_neg (by decide), show ottRes e = true from hres, if_pos rfl]

theorem stampPage_stamps : SMap.get 0 (s.stampPage i).tier.stamp i = SMap.get 0 s.tier.stampCtr (ottPart (s.ott i)) + 1 := by
  simp only [State.stampPage, SMap.get_set_self]

theorem startFill_starts : (s.startFill i f n).tier.moves = s.tier.moves ++ [PageMove.mk i f true n] ∧ ottMig ((s.startFill i f n).ott i) = true := by
  have hadd : s.startFill i f n = (s.setOtt i (setField (s.ott i) 9 1 1)).addMove (PageMove.mk i f true n) := rfl
  rw [hadd]
  exact ⟨by rw [addMove_moves, setOtt_moves], by rw [addMove_ott, State.ott_setOtt_self, ottMig, bitAt_mod (by decide), bitAt_setField_one]⟩

/-! ### The lines of a page -/

theorem stampAll_moves {l : List Nat} : (s.stampAll l).tier.moves = s.tier.moves := by
  unfold State.stampAll
  exact List.foldlRecOn (motive := fun u : State => u.tier.moves = s.tier.moves) _ _ rfl fun _ h _ _ => h

theorem weirHolds_of_off (h : SMap.get false s.parts.weirEn (p * 3 + k) = false) : s.weirHolds p k = false := by
  rw [State.weirHolds, h]
  rfl

/-- Nothing meets the lines of a page: no weir is enabled, and no line is damaged. -/
structure LinesFree (s : State) : Prop where
  weirs : ∀ k, SMap.get false s.parts.weirEn k = false
  upsets : s.upsets = []
  wellErrs : s.wellErrs = []

theorem LinesFree.of_frame {F : List Part} (h : LinesFree s) (hF : Frame F s t) (hw : Part.weirCfg ∉ F) (hu : Part.upsets ∉ F) (he : Part.wellErrs ∉ F) :
    LinesFree t := by
  have hen : t.parts.weirEn = s.parts.weirEn := congrArg Prod.snd (hF.same .weirCfg hw)
  exact ⟨fun k => hen ▸ h.weirs k, (hF.same .upsets hu : _ = _).trans h.upsets, (hF.same .wellErrs he : _ = _).trans h.wellErrs⟩

theorem fillLines_all (h : LinesFree s) : ∃ u, s.fillLines a ctx i [] base j n = (u, j + n, none) ∧ Frame [.weirs, .tierRest] s u ∧ u.tier.moves = s.tier.moves := by
  induction n generalizing s j with
  | zero => exact ⟨s, rfl, .refl, rfl⟩
  | succ n ih =>
    obtain ⟨u, hissue, hu⟩ := issueLine_free (s := s) (part := s.ctxPart a ctx) (ks := [0, 1]) fun p _ k => weirHolds_of_off (h.weirs _)
    have hu' : LinesFree u := h.of_frame hu (by decide) (by decide) (by decide)
    obtain ⟨l, hread⟩ := readLine_clean (s := u) (x := transBase + i * pageBytes + j * 64) hu'.upsets hu'.wellErrs (by simp only [transBase, pageBytes]; omega)
    have hv : Frame [.weirs, .tierRest] s (u.stampAll l) := (hu.mono (by decide)).step .stampAll
    obtain ⟨v, hrest, hvu, hmoves⟩ := ih (s := u.stampAll l) (j := j + 1) (h.of_frame hv (by decide) (by decide) (by decide))
    refine ⟨v, ?_, hv.step hvu, hmoves.trans (stampAll_moves.trans (congrArg TierS.moves (tier_of_frame hu (by decide) (by decide))))⟩
    rw [State.fillLines, hissue]
    dsimp only
    rw [if_neg (by decide), List.find?_nil, Option.map_none, hread]
    dsimp only
    rw [hrest, show j + 1 + n = j + (n + 1) by omega]

/-! ### The command -/

/-- The run of a FILL that ends, with so many lines issued. -/
def filledRun (ctx flight : Nat) : DmaRun := { ctx := ctx, fill := true, line := 1024, done := true, flight := flight }

/-- A FILL of one page does what its run does. -/
theorem dmaFill_page (h : DmaReady s a ctx 1 d) (hsrc : transBase ≤ d.src) (hpages : touched d.src d.rows d.srcPitch d.rowBytes = [i])
    (hbudget : 0 < s.dmaBudget a ctx) : exec (.dmaFill a ctx []) s = .next
      (((s.dmaIssue a ctx true).fillRun a { openedRun ctx true with flight := min 1024 (s.dmaBudget a ctx) } d [] 0 0 (min 1024 (s.dmaBudget a ctx)) [i]).limitRun
        a ctx) := by
  have hrun := issueRun_of_ready (left := 1024) (fill := true)
    (go := fun s r k => s.fillRun a { r with flight := k } d [] (r.line / 1024) (r.line % 1024) k ([i].drop (r.line / 1024))) h (by omega)
  refine congrArg Host.Outcome.next ((dmaStart_of_ready h).trans ?_)
  rw [show ((1 : Nat) == 1) = true from rfl, hpages]
  dsimp only
  rw [if_neg (by omega), show 1024 * [i].length - (openedRun ctx true).line = 1024 from rfl, hrun,
    show (openedRun ctx true).line = 0 from rfl, Nat.zero_div, Nat.zero_mod, List.drop_zero]

/-- A page that holds its RES copy is stamped. -/
theorem fillRun_stamps (hend : w.dmaEnd ctx d.src (max d.src (transBase + i * pageBytes)) false = none) (hvalid : ottValid (w.ott i) = true)
    (hplace : ottPlace (w.ott i) = 2) (hres : ottRes (w.ott i) = true) :
    w.fillRun a { openedRun ctx true with flight := k } d [] 0 0 b [i] = (w.stampPage i).putRun a (filledRun ctx (k - b)) := by
  have hneeds : fillNeeds (w.ott i) = false := by simp [fillNeeds, hres]
  unfold State.fillRun
  extract_lets run c stop x begun needs
  rw [show begun = false from rfl, if_neg (by decide), show w.dmaEnd c d.src x false = none from hend]
  dsimp only
  rw [show needs = false from hneeds, if_neg (by decide : ¬ (false || false) = true)]
  dsimp only
  rw [if_neg (by decide), if_neg Bool.false_ne_true, fillPage_stamps hvalid hplace hres, Bool.false_and, Bool.or_false, if_pos (by decide)]
  unfold State.fillRun
  rfl

/-- A page that finds a frame begins to fill, all its lines with it. -/
theorem fillRun_begins (hend : w.dmaEnd ctx d.src (max d.src (transBase + i * pageBytes)) false = none) (h : CanFill w i p f) (hlines : LinesFree w)
    (hon : w.domOn 21 = true) : ∃ u, w.fillRun a { openedRun ctx true with flight := 1024 } d [] 0 0 1024 [i] = u.putRun a (filledRun ctx 1024) ∧
      Frame [.weirs, .ott, .tierRest] w u ∧ u.tier.moves = w.tier.moves ++ [PageMove.mk i f true 1024] ∧ ottMig (u.ott i) = true := by
  have hneeds : fillNeeds (w.ott i) = true := by simp [fillNeeds, h.valid, h.place, h.res, h.mig]
  have hwake : w.wakeAll [21] = (w, true) := State.wakeAll_of_allOn (by simpa using hon)
  have hstart : Frame [.ott, .tierRest] w (w.startFill i f 1024) := .startFill
  obtain ⟨hmoves, hmig⟩ := startFill_starts (s := w) (i := i) (f := f) (n := 1024)
  obtain ⟨u, hlines, hu, hsame⟩ := fillLines_all (a := a) (ctx := ctx) (i := i) (base := 1024 * 0) (j := 0) (n := 1024)
    (hlines.of_frame hstart (by decide) (by decide) (by decide))
  have hott : u.ott i = (w.startFill i f 1024).ott i := by rw [ott_congr (hu.same .ott (by decide))]
  refine ⟨u, ?_, (hstart.mono (by decide)).step hu, hsame.trans hmoves, by rw [hott]; exact hmig⟩
  unfold State.fillRun
  extract_lets run c stop x begun needs
  rw [show begun = false from rfl, if_neg (by decide), show w.dmaEnd c d.src x false = none from hend]
  dsimp only
  rw [show needs = true from hneeds, if_pos (by decide : (false || true) = true), hwake]
  dsimp only
  rw [if_neg (by decide), if_neg Bool.false_ne_true, fillPage_begins h, hmig, if_neg (by decide), show min 1024 (1024 - 0) = 1024 from rfl,
    show c = ctx from rfl, hlines]
  dsimp only
  rw [if_neg (by decide)]
  unfold State.fillRun
  rfl

theorem useT1_congr (htier : t.tier = s.tier) : t.useT1 p = s.useT1 p := by
  rw [State.useT1, State.useT1, State.pinnedT1, State.pinnedT1, State.resPages, State.resPages, htier]

theorem filling_congr (htier : t.tier = s.tier) : t.filling p = s.filling p := by
  rw [State.filling, State.filling, ott_congr (congrArg TierS.ott htier), htier]

theorem CanFill.of_runs (h : CanFill s i p f) (hw : DmaRuns s w a ctx r) : CanFill w i p f := by
  obtain ⟨hframe, hregs, -⟩ := hw
  have htier : w.tier = s.tier := tier_of_frame hframe (by decide) (by decide)
  have hott : w.ott = s.ott := ott_congr (congrArg TierS.ott htier)
  have hrd {q : Page} {k : Nat} {g : Fld} (hg : g.off < 0x1000 ∧ g.off ≠ 0x110 ∧ g.lsb < 32) (hq : q.base % 0x1000 = 0) : w.rd q k g = s.rd q k g :=
    hregs.rd_eq (not_inflightKey hg hq)
  have hquota : w.quota p = s.quota p := hrd (by decide) (by decide)
  have hover : w.overQuota p = s.overQuota p := by rw [State.overQuota, State.overQuota, hquota, useT1_congr htier]
  have hcis : w.rd .floor 0 Reg.Floor.CIS_PRESENT = s.rd .floor 0 Reg.Floor.CIS_PRESENT := hrd (by decide) (by decide)
  obtain ⟨hframes, hisp⟩ := frames_congr hcis (fun n _ => hrd (by decide) (by simp only [Page.base]; omega)) htier
  have hfree : w.freeT1 = s.freeT1 := by
    have hnamed : w.frameNamed = s.frameNamed := by
      funext k
      rw [State.frameNamed, State.frameNamed, htier]
    rw [State.freeT1, State.freeT1, hframes, hisp, hnamed]
  obtain ⟨hvalid, hplace, hpart, hres, hmig, hquot, hfits, hfree', hclean⟩ := h
  exact ⟨hott ▸ hvalid, hott ▸ hplace, hott ▸ hpart, hott ▸ hres, hott ▸ hmig, hover.trans hquot,
    by rwa [useT1_congr htier, filling_congr htier, hquota], hfree.trans hfree', htier ▸ hclean⟩

/-! ### The end of a descriptor -/

/-- What the end of a descriptor leaves, with more of the list to come. -/
structure DescriptorEnded (s t : State) (a ctx : Nat) : Prop where
  dpc : t.rd (.dma a) ctx Reg.Dma.DPC = (s.rd (.dma a) ctx Reg.Dma.DPC + 1) % 2 ^ 16
  running : t.st (.dma a) ctx = 1
  runs : ∀ q ∈ (t.dma a).runs, q.ctx ≠ ctx
  mem : t.mem = s.mem
  tallies : t.tallies = s.tallies

theorem dmaComplete_ends (hfind : ((s.dma a).runs.find? fun r => r.ctx == ctx) = some r) (hdesc : s.dmaDesc a ctx = some d) (hdone : r.done = true)
    (hfill : r.fill = true → s.fillSettled d = true) (hsig : d.sigEn = false) (hrun : s.st (.dma a) ctx = 1)
    (hmore : s.rd (.dma a) ctx Reg.Dma.DPC + 1 < s.rd (.dma a) ctx Reg.Dma.LIST_LEN) :
    ∃ t, exec (.dmaComplete a ctx) s = .next t ∧ DescriptorEnded s t a ctx := by
  have hwait : (!r.done || (r.fill && !s.fillSettled d)) = false := by
    rw [hdone]
    cases hf : r.fill with
    | false => rfl
    | true => rw [hfill hf]; rfl
  generalize hs1 : (s.setDma a { s.dma a with runs := (s.dma a).runs.filter fun x => x.ctx != ctx }).wr (.dma a) ctx Reg.Dma.INFLIGHT 0 = s1
  have h1 : Frame [.regs, .dmas] s s1 := hs1 ▸ (Frame.refl.step .setDma).step .wr
  generalize hs2 : (if r.fill then s1 else s1.noteCopy ctx d) = s2
  have h2 : Frame [.arrays] s1 s2 := hs2 ▸ .ite .refl .noteCopy
  have hrd {g : Fld} (hg : g.off < 0x1000 ∧ g.off ≠ 0x110 ∧ g.lsb < 32) : s2.rd (.dma a) ctx g = s.rd (.dma a) ctx g := by
    have hne : regKey (.dma a) ctx g ≠ regKey (.dma a) ctx Reg.Dma.INFLIGHT := regKey_ne_of_off hg.2.1 hg.2.2 (by decide)
    rw [State.rd_of_regs (h2.same .regs (by decide)), ← hs1, State.rd_wr_other _ _ hne]
    rfl
  have hruns : (s2.dma a).runs = (s.dma a).runs.filter fun x => x.ctx != ctx := by
    have hdmas : s2.dmas = s1.dmas := h2.same .dmas (by decide)
    have hdma : s2.dma a = s1.dma a := by rw [State.dma, State.dma, hdmas]
    rw [hdma, ← hs1]
    exact congrArg DmaS.runs (dma_setDma_self (s := s) (a := a))
  have hadvance : s2.advanceDpc a ctx = (s2.wr (.dma a) ctx Reg.Dma.DPC (s.rd (.dma a) ctx Reg.Dma.DPC + 1), false) := by
    unfold State.advanceDpc
    extract_lets p pc n
    have hpc : pc = s.rd (.dma a) ctx Reg.Dma.DPC := hrd (by decide)
    have hlen : n = s.rd (.dma a) ctx Reg.Dma.LIST_LEN := hrd (by decide)
    rw [if_pos (by omega), hpc]
  have hst : (s2.wr (.dma a) ctx Reg.Dma.DPC (s.rd (.dma a) ctx Reg.Dma.DPC + 1)).st (.dma a) ctx = 1 :=
    (State.rd_wr_other _ _ (regKey_ne_of_off (by simp [stateFld]) (by simp [stateFld]) (by decide))).trans ((hrd (by simp [stateFld])).trans hrun)
  refine ⟨s2.wr (.dma a) ctx Reg.Dma.DPC (s.rd (.dma a) ctx Reg.Dma.DPC + 1), congrArg Host.Outcome.next ?_, State.rd_wr_self .., hst, fun q hq => ?_,
    (h2.same .mem (by decide) : s2.mem = s1.mem).trans (h1.same .mem (by decide)),
    (h2.same .tallies (by decide) : s2.tallies = s1.tallies).trans (h1.same .tallies (by decide))⟩
  · rw [hfind, hdesc]
    dsimp only
    rw [hwait, if_neg (by decide), hs1, hs2, hsig, if_neg Bool.false_ne_true, hadvance]
    dsimp only
    rw [if_neg Bool.false_ne_true, hst]
    rfl
  · have hq' : q ∈ (s2.dma a).runs := hq
    rw [hruns] at hq'
    simpa using (List.mem_filter.mp hq').2

end

/-- Settles O25: a page of one FILL descriptor is stamped or begun, and a descriptor whose lines or pages are settled moves DPC on. -/
theorem dmaFillAndComplete : Obligations.DmaFillAndComplete := by
  refine ⟨fun s a ctx i p d _ hmine hrun hon hnone hdesc hgood hmode hfree hsrc hpages hend hvalid hplace hp => ?_,
    fun s a ctx r d hfind hdesc hdone hfill hsig hrun hmore => ?_⟩
  · have hready : DmaReady s a ctx 1 d := ⟨hmine, hrun, hon, hnone, hdesc, hgood, hmode, hfree⟩
    have hissue : DmaRuns s (s.dmaIssue a ctx true) a ctx (openedRun ctx true) := dmaIssue_runs hready
    obtain ⟨hframe, -, -⟩ := id hissue
    have htier : (s.dmaIssue a ctx true).tier = s.tier := tier_of_frame hframe (by decide) (by decide)
    have hott : (s.dmaIssue a ctx true).ott = s.ott := ott_congr (congrArg TierS.ott htier)
    have hend' := (dmaEnd_congr (congrArg TierS.ott htier)).trans hend
    have hmem : (s.dmaIssue a ctx true).mem = s.mem := hframe.same .mem (by decide)
    have hran {u : State} {n : Nat} : ∃ r ∈ ((u.putRun a (filledRun ctx n)).dma a).runs, r.ctx = ctx ∧ r.fill = true ∧ r.done = true :=
      ⟨filledRun ctx n, by rw [runs_putRun]; exact List.mem_append_right _ (List.mem_singleton_self _), rfl, rfl, rfl⟩
    have hput {u : State} {n : Nat} : (u.putRun a (filledRun ctx n)).limitRun a ctx = u.putRun a (filledRun ctx n) :=
      limitRun_putRun (ctx := ctx) (r := filledRun ctx n) rfl rfl
    refine ⟨fun hres hbudget => ?_, fun f hres hmig hover hfits hbudget hup hwell hfreeT1 hclean hsysOn hweirs => ?_⟩
    · have hnext := dmaFill_page hready hsrc hpages hbudget
      rw [fillRun_stamps hend' (hott ▸ hvalid) (hott ▸ hplace) (hott ▸ hres), hput] at hnext
      refine ⟨_, hnext, ?_, hran, ?_, hmem⟩
      · have hstamp := stampPage_stamps (s := s.dmaIssue a ctx true) (i := i)
        rw [hott, htier, ← hp] at hstamp
        exact hstamp
      · exact (Frame.stampPage.same .ott (by decide) : _ = (s.dmaIssue a ctx true).tier.ott).trans (congrArg TierS.ott htier)
    · have hnext := dmaFill_page hready hsrc hpages (by omega)
      have hcan : CanFill s i p f := ⟨hvalid, hplace, hp.symm, hres, hmig, hover, hfits, hfreeT1, hclean⟩
      have hlines : LinesFree (s.dmaIssue a ctx true) := (LinesFree.mk hweirs hup hwell).of_frame hframe (by decide) (by decide) (by decide)
      have hon21 := (domOn_of_power (power_eq_of_frame hframe (by decide) (by decide) (by decide) (by decide)) 21).trans hsysOn
      obtain ⟨u, hfill, hu, hmoves, hmigs⟩ := fillRun_begins (a := a) hend' (hcan.of_runs hissue) hlines hon21
      rw [show min 1024 (s.dmaBudget a ctx) = 1024 by omega, hfill, hput] at hnext
      exact ⟨_, hnext, hmoves.trans (congrArg (fun x : TierS => x.moves ++ _) htier), hmigs, hran, (hu.same .mem (by decide) : _ = _).trans hmem⟩
  · obtain ⟨t, hnext, hdpc, hst, hruns, hmem, htallies⟩ := dmaComplete_ends hfind hdesc hdone hfill hsig hrun hmore
    exact ⟨t, hnext, hdpc, hst, hruns, hmem, htallies⟩

end Sys2Proof.Machine
end

section
/-! LOAD and IMAGE_UNLOAD: what each check answers, and which images stand after a commit (R168 to R172, R189). -/

namespace Sys2Proof.Machine

set_option Elab.async false

section
variable {s t u : State} {part id n c : Nat} {image owner : List Byte} {key : Option Nat} {q : Req} {bind : List Nat} {i : Image}

/-! ### The images after a commit -/

/-- What a commit may touch beside the images. -/
abbrev placeParts : List Part := .tallies :: .mem :: .ott :: .tierRest :: .sec :: .arrays :: eventParts

/-- The image that a commit adds. -/
structure ImageAdded (s t : State) (part id n : Nat) (bind : List Nat) (i : Image) : Prop where
  images : t.images = s.images ++ [i]
  part : i.part = part
  id : i.imageId = id
  variant : i.variant = n
  bind : i.bind = bind

theorem ImageAdded.of_frame {F : List Part} (h : ImageAdded s t part id n bind i) (hF : Frame F t u) (hi : Part.images ∉ F) : ImageAdded s u part id n bind i := by
  obtain ⟨himages, hpart, hid, hvariant, hbind⟩ := h
  exact ⟨(hF.same .images hi : _ = _).trans himages, hpart, hid, hvariant, hbind⟩

theorem commit_adds (h : s.commit part image q bind key owner = .inr t) : ∃ i, ImageAdded s t part (imgId image) q.variant bind i := by
  unfold State.commit at h
  split at h
  · contradiction
  extract_lets raw objs withC digs tds tal scheds pf post enc waits ctab pages talBad noData arrOf pins ottBase tb first lists arrs at h
  clear_value talBad waits ctab
  have h := ite_inl_eq_inr (ite_inl_eq_inr (ite_inl_eq_inr (ite_inl_eq_inr (ite_inl_eq_inr (ite_inl_eq_inr h)))))
  split at h
  · contradiction
  next s0 h0 =>
  have h0 : Frame placeParts s s0 := by
    split at h0
    · exact Option.some.inj h0 ▸ .refl
    · exact (Frame.roomT1 h0).mono
  extract_lets s1 at h
  have h1 : Frame placeParts s s1 := h0.step .ottAlloc
  clear_value s1
  split at h
  · contradiction
  next s2 h2 =>
  have h2 : Frame placeParts s s2 := h1.step (.placeObjs h2)
  extract_lets s3 s4 at h
  have h4 : Frame placeParts s s4 := by
    have hcount (k : Nat) : leAt tal (8 * k) 2 ≤ 0xFFFF := Nat.le_of_lt_succ (leAt_lt tal (8 * k) 2)
    exact (h2.step .allocTallies).trans (.foldl fun _ _ => (Frame.setTally fun _ => hcount _).mono)
  clear_value s4
  split at h
  · contradiction
  next s5 used at_ h5 =>
  have h5 : Frame placeParts s s5 := h4.step (.commitArrays h5)
  extract_lets x s6 s7 s8 m s9 at h
  have h6 : ImageAdded s s6 part (imgId image) q.variant bind x :=
    ⟨congrArg (fun l : List Image => l ++ [x]) (h5.same .images (by decide)), rfl, rfl, rfl, rfl⟩
  have h7 : Frame [.arrays] s6 s7 := by
    unfold s7
    split
    · exact .foldl fun _ _ => .modArr
    · exact .refl
  clear_value x s6 s7
  have h9 : Frame [.arrays, .mem] s7 s9 := (Frame.foldl fun _ _ => Frame.modArr.mono).trans (.foldl fun _ _ => Frame.writeCsum.mono)
  clear_value s9
  injection h with h
  have ht : Frame (.arrays :: eventParts) s9 t := h ▸ .foldl fun _ _ => .ite ((Frame.refl.step .modArr).step .applyOpp) .refl
  exact ⟨x, ((h6.of_frame h7 (by decide)).of_frame h9 (by decide)).of_frame ht (by decide)⟩

/-! ### LOAD -/

/-- The image that a LOAD would bring, where the partition holds it already. -/
def State.loaded (s : State) (part : Nat) (image : List Byte) : Option Image :=
  s.images.find? fun i => i.part == part && i.hdrDigest == sha256 (image.take (64 + 64 * imgSections image))

theorem load_off (h : s.partOn part = false) : exec (.load part image) s = .next s := by
  refine congrArg Host.Outcome.next ?_
  rw [h]
  rfl

theorem load_held (hon : s.partOn part = true) (h : s.loaded part image = some i) :
    exec (.load part image) s = .next (s.emit (.loadResult part 0 i.variant [])) := by
  refine congrArg Host.Outcome.next ?_
  rw [hon, if_neg (by decide)]
  extract_lets answer dig
  rw [show (s.images.find? fun i => i.part == part && i.hdrDigest == dig) = some i from h]

/-- An image that an enabled partition does not hold, and whose sections the checks pass. -/
structure Loadable (s : State) (part : Nat) (image : List Byte) : Prop where
  on : s.partOn part = true
  new : s.loaded part image = none
  checked : loadCheck image = none

theorem load_malformed (hon : s.partOn part = true) (hnew : s.loaded part image = none) (h : loadCheck image = some c) :
    exec (.load part image) s = .next (s.emit (.loadResult part c 0 [])) := by
  refine congrArg Host.Outcome.next ?_
  rw [hon, if_neg (by decide)]
  extract_lets answer dig
  rw [show (s.images.find? fun i => i.part == part && i.hdrDigest == dig) = none from hnew, h]

theorem load_keysRefused (h : Loadable s part image) (hkeys : s.keysCheck image = .inl c) :
    exec (.load part image) s = .next (s.emit (.loadResult part c 0 [])) := by
  refine congrArg Host.Outcome.next ?_
  rw [h.on, if_neg (by decide)]
  extract_lets answer dig
  rw [show (s.images.find? fun i => i.part == part && i.hdrDigest == dig) = none from h.new, h.checked, hkeys]

theorem load_short (h : Loadable s part image) (hkeys : s.keysCheck image = .inr (key, owner)) (hfit : s.chooseVariant part image = none) :
    exec (.load part image) s = .next (s.emit (.loadResult part 0x44 0 (s.shortRecord part image))) := by
  refine congrArg Host.Outcome.next ?_
  rw [h.on, if_neg (by decide)]
  extract_lets answer dig
  rw [show (s.images.find? fun i => i.part == part && i.hdrDigest == dig) = none from h.new, h.checked, hkeys]
  dsimp only
  rw [hfit]

/-- A variant to commit, once its keys are known. -/
structure VariantChosen (s : State) (part : Nat) (image : List Byte) (key : Option Nat) (owner : List Byte) (q : Req) (bind : List Nat) : Prop
    extends Loadable s part image where
  keys : s.keysCheck image = .inr (key, owner)
  fits : s.chooseVariant part image = some (q, bind)

/-- The commit of a variant, and the answer to it. -/
def State.loadVariant (s : State) (part : Nat) (image : List Byte) (key : Option Nat) (owner : List Byte) (q : Req) (bind : List Nat) : State :=
  match s.commit part image q bind key owner with
  | .inl c => (if c = 0x44 && s.pinsRefused part image q.variant key then s.allocRefused part else s).emit
      (.loadResult part c 0 (if c = 0x44 then s.shortRecord part image else []))
  | .inr u => u.emit (.loadResult part 0 q.variant [])

theorem loadVariant_refused (h : s.commit part image q bind key owner = .inl c) : s.loadVariant part image key owner q bind =
    (if c = 0x44 ∧ s.pinsRefused part image q.variant key = true then s.allocRefused part else s).emit
      (.loadResult part c 0 (if c = 0x44 then s.shortRecord part image else [])) := by
  rw [State.loadVariant, h]
  simp only [Bool.and_eq_true, decide_eq_true_eq]

theorem loadVariant_commits (h : s.commit part image q bind key owner = .inr u) :
    s.loadVariant part image key owner q bind = u.emit (.loadResult part 0 q.variant []) := by
  rw [State.loadVariant, h]

/-- What LOAD does with the variant that it has chosen. -/
theorem load_chosen (h : VariantChosen s part image key owner q bind) : exec (.load part image) s = .next
    (if q.well ≠ 0 ∧ 2 ^ 47 ≤ s.sec.wellCtr then s.emit (.loadResult part 0x59 0 [])
     else if !(s.wakeAll (loadDomains q bind)).2 then (s.wakeAll (loadDomains q bind)).1
     else (s.wakeAll (loadDomains q bind)).1.loadVariant part image key owner q bind) := by
  refine congrArg Host.Outcome.next ?_
  rw [h.on, if_neg (by decide)]
  extract_lets answer dig
  rw [show (s.images.find? fun i => i.part == part && i.hdrDigest == dig) = none from h.new, h.checked, h.keys]
  dsimp only
  rw [h.fits]
  rfl

theorem load_worn (h : VariantChosen s part image key owner q bind) (hwell : q.well ≠ 0) (hctr : 2 ^ 47 ≤ s.sec.wellCtr) :
    exec (.load part image) s = .next (s.emit (.loadResult part 0x59 0 [])) := by
  rw [load_chosen h, if_pos ⟨hwell, hctr⟩]

/-- A variant whose commit may begin: the well takes its writes, and every domain that it needs is ON. -/
structure Committable (s : State) (part : Nat) (image : List Byte) (key : Option Nat) (owner : List Byte) (q : Req) (bind : List Nat) : Prop
    extends VariantChosen s part image key owner q bind where
  well : q.well = 0 ∨ s.sec.wellCtr < 2 ^ 47
  allOn : AllOn s (loadDomains q bind)

theorem load_committable (h : Committable s part image key owner q bind) :
    exec (.load part image) s = .next (s.loadVariant part image key owner q bind) := by
  have hnot : ¬ (q.well ≠ 0 ∧ 2 ^ 47 ≤ s.sec.wellCtr) := by
    rintro ⟨hwell, hctr⟩
    obtain h0 | hlt := h.well
    · exact hwell h0
    · exact absurd hctr (Nat.not_le.mpr hlt)
  rw [load_chosen h.toVariantChosen, if_neg hnot, State.wakeAll_of_allOn h.allOn]
  exact congrArg Host.Outcome.next (if_neg Bool.false_ne_true)

/-! ### IMAGE_UNLOAD -/

/-- What the unload of an image leaves. -/
structure Unloaded (s t : State) (i : Image) : Prop where
  images : t.images = s.images.filter fun x => !(x == i)
  ott : ∀ k, i.ottBase ≤ k → k < i.ottBase + i.ottLen → t.ott k = 0
  tallies : ∀ k, i.tallyBase ≤ k → k < i.tallyBase + i.tallyLen → t.tally k = {}
  mem : t.mem = s.mem

theorem unload_unloads : Unloaded s (s.unload i) i := by
  have himages : (s.unload i).images = s.images.filter fun x => !(x == i) := unload_images
  have hmem : (s.unload i).mem = s.mem := Frame.unload.same .mem (by decide)
  generalize hs1 : (s.ottFree i.ottBase i.ottLen).freeTallies i.tallyBase i.tallyLen = s1
  have hfree : Frame [.tallies] (s.ottFree i.ottBase i.ottLen) s1 := hs1 ▸ .freeTallies
  have hheld : Frame [.tierRest] s1 (i.held.foldl (fun s x => s.dirtyFrame (frameT0 x.1 x.2)) s1) := .foldl fun _ _ => .dirtyFrame
  have hlast : Frame [.images] (i.held.foldl (fun s x => s.dirtyFrame (frameT0 x.1 x.2)) s1) (s.unload i) := by
    rw [State.unload, hs1]
    exact .images
  have hott : (s.unload i).tier.ott = (s.ottFree i.ottBase i.ottLen).tier.ott :=
    (hlast.same .ott (by decide) : _ = _).trans ((hheld.same .ott (by decide) : _ = _).trans (hfree.same .ott (by decide)))
  have htallies : (s.unload i).tallies = s1.tallies := (hlast.same .tallies (by decide) : _ = _).trans (hheld.same .tallies (by decide))
  refine ⟨himages, fun k hlo hhi => ?_, fun k hlo hhi => ?_, hmem⟩
  · rw [ott_congr hott, ottFree_leaves.1 k, if_pos ⟨hlo, hhi⟩]
  · rw [State.tally, htallies, ← hs1]
    exact (tally_freeTallies k).trans (if_pos ⟨hlo, hhi⟩)

theorem imageUnload_quiet (hfind : (s.images.find? fun i => i.part == part && i.imageId == id) = some i) (h : s.imageQuiet i = true) :
    exec (.imageUnload part id) s = .next (s.unload i) := by
  refine congrArg Host.Outcome.next ?_
  rw [hfind]
  exact if_pos h

end

/-- Settles O21: each check of LOAD in its order, a commit, and an unload. -/
theorem loadAndUnload : Obligations.LoadAndUnload := by
  refine ⟨fun s part image hoff => load_off hoff, fun s part image found hon hfound => ?_, fun s part id i hfind hquiet => ?_⟩
  · refine ⟨fun i h => load_held hon (hfound.symm.trans h), fun h c hcheck => load_malformed hon (hfound.symm.trans h) hcheck, fun h hcheck => ?_,
      fun h hcheck key owner q bind u hkeys hfits hwell hAll hcommit => ?_⟩
    · have hload : Loadable s part image := ⟨hon, hfound.symm.trans h, hcheck⟩
      refine ⟨fun c hkeys => load_keysRefused hload hkeys, fun key owner hkeys => ⟨fun hfit => load_short hload hkeys hfit, fun q bind hfits => ?_⟩⟩
      have hchosen : VariantChosen s part image key owner q bind := ⟨hload, hkeys, hfits⟩
      refine ⟨fun hwell hctr => load_worn hchosen hwell hctr, fun c hwell hAll hcommit => ?_⟩
      rw [load_committable ⟨hchosen, hwell, hAll⟩, loadVariant_refused hcommit]
    · obtain ⟨i, himages, hpart, hid, hvariant, hbind⟩ := commit_adds hcommit
      have hready : Committable s part image key owner q bind := ⟨⟨⟨hon, hfound.symm.trans h, hcheck⟩, hkeys, hfits⟩, hwell, hAll⟩
      exact ⟨by rw [load_committable hready, loadVariant_commits hcommit], i, himages, hpart, hid, hvariant, hbind⟩
  · obtain ⟨himages, hott, htallies, hmem⟩ := unload_unloads (s := s) (i := i)
    exact ⟨s.unload i, imageUnload_quiet hfind hquiet, himages, hott, htallies, hmem⟩

end Sys2Proof.Machine
end
